-- ==== Sys2Proof/Word.lean ====
section
/-! DEFINITION. The machine's plain data types: words, payloads and the numbers of its units (R1-R3, R7, R10). -/

namespace Sys2Proof

/-- A sequencer register (R79). -/
abbrev Word := BitVec 64
abbrev Byte := BitVec 8
/-- A virtual address: 55 bits (R233). -/
abbrev VA := BitVec 55
/-- The 256 bytes of a cell, byte j in bits 8j+7:8j (R2, R9). -/
abbrev Payload := BitVec 2048
/-- The key of a cell (R166). -/
abbrev Key := BitVec 16
/-- A format code of R29. -/
abbrev Fmt := BitVec 4

/-- Module-wide core number, CLUSTER * 16 + CORE (R7). -/
abbrev CoreId := Fin 64
abbrev ClusterId := Fin 4
abbrev Tid := Fin 16
/-- A Weir port number (R10). -/
abbrev PortId := Fin 128
abbrev ElemId := Fin 32
abbrev BankId := Fin 48
/-- A stream slot (R204). -/
abbrev StrmId := Fin 32
/-- An Oxbow stage (R303). -/
abbrev StageId := Fin 8
abbrev LoopId := Fin 16
abbrev GateId := Fin 16
/-- A tenant slot (R82). -/
abbrev Tenant := BitVec 6
abbrev TaskId := BitVec 32
/-- An IPv6 address (R230, R366). -/
abbrev Ipv6 := BitVec 128

/-- The cluster of a core (R7). -/
def CoreId.cluster (c : CoreId) : ClusterId := ⟨c.val / 16, by omega⟩
/-- The number of a core within its cluster, what CORE reads (R7). -/
def CoreId.inCluster (c : CoreId) : Fin 16 := ⟨c.val % 16, by omega⟩

end Sys2Proof
end

