-- ==== Sys2Proof/Machine/Num.lean ====
section
/-! DEFINITION. Number formats and arithmetic (R29-R53): exact values, Encode, the integer, FX128, LNS6 and T3P5 rules, summation, and
quantisation. Everything is computed exactly over Nat and Int and narrowed once at the end. -/

namespace Sys2Proof.Machine

/-! ## Lanes -/

/-- Lane i of width w bits (R2). -/
def lane (w i : Nat) (p : Nat) : Nat := p / 2 ^ (w * i) % 2 ^ w

/-- The payload whose lane i of width w is f i, for i below n; the rest zero. -/
def ofLanes (w n : Nat) (f : Nat → Nat) : Payload :=
  BitVec.ofNat 2048 ((List.range n).foldl (fun acc i => acc + f i % 2 ^ w * 2 ^ (w * i)) 0)

/-- The value of a w-bit two's complement code. -/
def sext (w x : Nat) : Int := if x < 2 ^ (w - 1) then (x : Int) else (x : Int) - 2 ^ w

/-- The w-bit code of an integer, wrapping. -/
def wrap (w : Nat) (x : Int) : Nat := (x % 2 ^ w).toNat

/-- Lane width in bits of a format whose lanes are whole bytes; RAW and T3P5 count bytes, BITS bits (R29). -/
def laneBits (f : Fmt) : Nat :=
  match f.toNat with
  | 1 => 32 | 2 => 16 | 3 => 16 | 8 => 32 | 11 => 128 | 14 => 1 | _ => 8

/-- Lanes a cell in units of laneBits. -/
def laneCount (f : Fmt) : Nat := 2048 / laneBits f

/-! ## Sticky flags (R49), in the bit order of ESR (R117) and of MXSTAT -/

abbrev Flags := BitVec 7
def fINV : Flags := 1
def fOVF : Flags := 2
def fUNF : Flags := 4
def fFXSAT : Flags := 8
def fILL3 : Flags := 16
def fQSAT : Flags := 32
def fQNAN : Flags := 64

/-! ## Exact values -/

/-- An exact value: NaN, an infinity, or (-1)^s * m * 2^e. -/
inductive FVal where
  | nan
  | inf (s : Bool)
  | fin (s : Bool) (m : Nat) (e : Int)
deriving DecidableEq, Repr

/-- The parameters of a binary floating-point format (R31). ieee: the top exponent holds infinities and NaNs. -/
structure FFmt where
  eb   : Nat
  mb   : Nat
  ieee : Bool
  nan  : Nat
deriving DecidableEq, Repr

def FFmt.width (f : FFmt) : Nat := f.eb + f.mb + 1
def FFmt.bias (f : FFmt) : Nat := 2 ^ (f.eb - 1) - 1
def FFmt.emin (f : FFmt) : Int := 1 - f.bias

def fp32 : FFmt := { eb := 8, mb := 23, ieee := true, nan := 0x7FC00000 }
def bf16 : FFmt := { eb := 8, mb := 7, ieee := true, nan := 0x7FC0 }
def fp16 : FFmt := { eb := 5, mb := 10, ieee := true, nan := 0x7E00 }
def e4m3 : FFmt := { eb := 4, mb := 3, ieee := false, nan := 0x7F }
def e5m2 : FFmt := { eb := 5, mb := 2, ieee := true, nan := 0x7E }

/-- The floating format of a code; E4M3S and E5M2S give their element format (R39). -/
def ffmt? (f : Fmt) : Option FFmt :=
  match f.toNat with
  | 1 => some fp32 | 2 => some bf16 | 3 => some fp16 | 4 => some e4m3 | 5 => some e5m2
  | 12 => some e4m3 | 13 => some e5m2 | _ => none

/-- Decode a code of a binary floating-point format (R31). -/
def decodeF (f : FFmt) (x : Nat) : FVal :=
  let s := x / 2 ^ (f.eb + f.mb) % 2 == 1
  let ex := x / 2 ^ f.mb % 2 ^ f.eb
  let fr := x % 2 ^ f.mb
  if f.ieee && ex == 2 ^ f.eb - 1 then (if fr == 0 then .inf s else .nan)
  else if !f.ieee && ex == 2 ^ f.eb - 1 && fr == 2 ^ f.mb - 1 then .nan
  else if ex == 0 then .fin s fr (f.emin - f.mb)
  else .fin s (2 ^ f.mb + fr) ((ex : Int) - f.bias - f.mb)

/-- Round the magnitude m * 2^k to an integer by a rounding mode of R35 (0 RNE, 1 RTZ, 2 RDN, 3 RUP); s is the sign. -/
def roundMag (rm : Nat) (s : Bool) (m : Nat) (k : Int) : Nat :=
  if 0 ≤ k then m * 2 ^ k.toNat
  else
    let n := (-k).toNat
    let q := m / 2 ^ n
    let r := m % 2 ^ n
    if r == 0 then q
    else match rm with
      | 0 => if 2 * r > 2 ^ n || (2 * r == 2 ^ n && q % 2 == 1) then q + 1 else q
      | 1 => q
      | 2 => if s then q + 1 else q
      | _ => if s then q else q + 1

/-- floor(log2 (m * 2^e)) for m above 0. -/
def floorLog2 (m : Nat) (e : Int) : Int := (m.log2 : Int) + e

def signBit (f : FFmt) (s : Bool) : Nat := if s then 2 ^ (f.eb + f.mb) else 0

/-- The code of the largest finite value of sign s. -/
def maxCode (f : FFmt) (s : Bool) : Nat :=
  signBit f s + (if f.ieee then (2 ^ f.eb - 1) * 2 ^ f.mb - 1 else 2 ^ (f.eb + f.mb) - 2)

/-- The code of an infinity of sign s. -/
def infCode (f : FFmt) (s : Bool) : Nat := signBit f s + (2 ^ f.eb - 1) * 2 ^ f.mb

/-- Overflow of R37: the result of sign s and the flag OVF. -/
def overflowF (f : FFmt) (s : Bool) (rm : Nat) (sat : Bool) : Nat × Flags :=
  if f.width == 8 then
    if sat then (maxCode f s, fOVF)
    else if f.ieee then (infCode f s, fOVF) else (f.nan, fOVF)
  else
    let toMax := match rm with
      | 0 => false
      | 1 => true
      | 2 => !s
      | _ => s
    if toMax then (maxCode f s, fOVF) else (infCode f s, fOVF)

/-- Encode of R36 into a binary floating-point format. -/
def encodeF (f : FFmt) (v : FVal) (rm : Nat) (sat : Bool) : Nat × Flags :=
  match v with
  | .nan => (f.nan, 0)
  | .inf s =>
    if f.width == 8 && sat then (maxCode f s, 0)
    else if !f.ieee then (f.nan, fOVF)
    else (infCode f s, 0)
  | .fin s m e =>
    if m == 0 then (signBit f s, 0)
    else
      let l := floorLog2 m e
      let ex := max l f.emin
      let q0 := ex - f.mb
      let q := roundMag rm s m (e - q0)
      let exact := if 0 ≤ e - q0 then true else m % 2 ^ (q0 - e).toNat == 0
      let unf : Flags := if !exact && decide (l < f.emin) then fUNF else 0
      if q == 0 then (signBit f s, unf)
      else if q < 2 ^ f.mb then (signBit f s + q, unf)
      else
        let ex' := if q == 2 ^ (f.mb + 1) then ex + 1 else ex
        let fr := if q == 2 ^ (f.mb + 1) then 0 else q - 2 ^ f.mb
        let fe := (ex' + f.bias).toNat
        if (f.ieee && fe ≥ 2 ^ f.eb - 1) || (!f.ieee && (fe ≥ 2 ^ f.eb || (fe == 2 ^ f.eb - 1 && fr == 2 ^ f.mb - 1))) then
          overflowF f s rm sat
        else (signBit f s + fe * 2 ^ f.mb + fr, unf)

/-! ## Exact arithmetic (R34) -/

/-- The signed integer of a finite value at exponent e0, which is at most its own. -/
def atExp (s : Bool) (m : Nat) (e e0 : Int) : Int :=
  let x : Int := (m * 2 ^ (e - e0).toNat : Nat)
  if s then -x else x

/-- The exact sum of two values; the flag INV when it is invalid; rm decides the sign of an exact zero. -/
def FVal.add (rm : Nat) (a b : FVal) : FVal × Flags :=
  match a, b with
  | .nan, _ => (.nan, 0)
  | _, .nan => (.nan, 0)
  | .inf s, .inf t => if s == t then (.inf s, 0) else (.nan, fINV)
  | .inf s, _ => (.inf s, 0)
  | _, .inf t => (.inf t, 0)
  | .fin s m e, .fin t n f =>
    if m == 0 && n == 0 then (if s == t then .fin s 0 0 else .fin (rm == 2) 0 0, 0)
    else
      let e0 := min e f
      let x := atExp s m e e0 + atExp t n f e0
      if x == 0 then (.fin (rm == 2) 0 0, 0)
      else (.fin (decide (x < 0)) x.natAbs e0, 0)

def FVal.neg : FVal → FVal
  | .nan => .nan
  | .inf s => .inf (!s)
  | .fin s m e => .fin (!s) m e

def FVal.abs : FVal → FVal
  | .nan => .nan
  | .inf _ => .inf false
  | .fin _ m e => .fin false m e

/-- The exact product. -/
def FVal.mul (a b : FVal) : FVal × Flags :=
  match a, b with
  | .nan, _ => (.nan, 0)
  | _, .nan => (.nan, 0)
  | .inf s, .inf t => (.inf (s != t), 0)
  | .inf s, .fin t n _ => if n == 0 then (.nan, fINV) else (.inf (s != t), 0)
  | .fin s m _, .inf t => if m == 0 then (.nan, fINV) else (.inf (s != t), 0)
  | .fin s m e, .fin t n f => (.fin (s != t) (m * n) (e + f), 0)

/-- a * 2^k. -/
def FVal.scale (a : FVal) (k : Int) : FVal :=
  match a with
  | .fin s m e => .fin s m (e + k)
  | v => v

/-- Strictly below, for values that are not NaN; zeros are equal. -/
def FVal.lt (a b : FVal) : Bool :=
  match a, b with
  | .nan, _ => false
  | _, .nan => false
  | .inf s, .inf t => s && !t
  | .inf s, _ => s
  | _, .inf t => !t
  | .fin s m e, .fin t n f =>
    let e0 := min e f
    decide (atExp s m e e0 < atExp t n f e0)

/-- Equal, with -0 = +0; false for a NaN. -/
def FVal.eq (a b : FVal) : Bool :=
  match a, b with
  | .nan, _ => false
  | _, .nan => false
  | .inf s, .inf t => s == t
  | .inf _, _ => false
  | _, .inf _ => false
  | .fin s m e, .fin t n f =>
    let e0 := min e f
    decide (atExp s m e e0 = atExp t n f e0)

def FVal.neg? : FVal → Bool
  | .nan => false
  | .inf s => s
  | .fin s _ _ => s

/-- Minimum of R34: -0 below +0; the other operand when one is NaN. -/
def FVal.min (a b : FVal) : FVal :=
  match a, b with
  | .nan, b => b
  | a, .nan => a
  | a, b => if a.lt b then a else if b.lt a then b else if a.neg? then a else b

def FVal.max (a b : FVal) : FVal :=
  match a, b with
  | .nan, b => b
  | a, .nan => a
  | a, b => if a.lt b then b else if b.lt a then a else if a.neg? then b else a

/-- The exact sum of a list of terms under R34 over the whole sum (R51): any NaN term, or infinities of both signs, give NaN and INV. -/
def sumExact (rm : Nat) (ts : List FVal) : FVal × Flags :=
  if ts.any (fun t => t == .nan) then (.nan, fINV)
  else
    let pi := ts.any (fun t => t == .inf false)
    let ni := ts.any (fun t => t == .inf true)
    if pi && ni then (.nan, fINV)
    else if pi then (.inf false, 0)
    else if ni then (.inf true, 0)
    else
      let e0 := ts.foldl (fun acc t => match t with | .fin _ m e => if m == 0 then acc else min acc e | _ => acc) 100000
      let x := ts.foldl (fun acc t => match t with
        | .fin s m e => if m == 0 then acc else acc + atExp s m e e0
        | _ => acc) (0 : Int)
      if x == 0 then
        let allNegZero := ts.all (fun t => match t with | .fin s m _ => s && m == 0 | _ => false)
        let allPosZero := ts.all (fun t => match t with | .fin s m _ => !s && m == 0 | _ => false)
        (.fin (if allNegZero then true else if allPosZero then false else rm == 2) 0 0, 0)
      else (.fin (decide (x < 0)) x.natAbs e0, 0)

/-- An integer as an exact value. -/
def FVal.ofInt (x : Int) : FVal := .fin (decide (x < 0)) x.natAbs 0

/-- A value rounded to an integer by rm, for finite values. -/
def roundInt (rm : Nat) (s : Bool) (m : Nat) (e : Int) : Int :=
  let q : Int := (roundMag rm s m e : Nat)
  if s then -q else q

/-- Encode into an integer range (R38): NaN gives 0 and INV; outside the range the nearer end and OVF. -/
def encodeInt (lo hi : Int) (v : FVal) (rm : Nat) : Int × Flags :=
  match v with
  | .nan => (0, fINV)
  | .inf s => (if s then lo else hi, fOVF)
  | .fin s m e =>
    let x := roundInt rm s m e
    if x < lo then (lo, fOVF) else if x > hi then (hi, fOVF) else (x, 0)

/-! ## FX128 (R41, R42) -/

def fxMax : Int := 2 ^ 127 - 1
def fxMin : Int := -2 ^ 127

/-- The saturating FX128 sum of two 128-bit codes, and whether it saturated. -/
def fxAdd (a b : Nat) : Nat × Bool :=
  let x := sext 128 a + sext 128 b
  if x > fxMax then (wrap 128 fxMax, true) else if x < fxMin then (wrap 128 fxMin, true) else (wrap 128 x, false)

/-- A value into FX128: rounds by rm; saturation sets FXSAT, NaN sets INV. -/
def encodeFx (v : FVal) (rm : Nat) : Nat × Flags :=
  match v with
  | .nan => (0, fINV)
  | .inf s => (wrap 128 (if s then fxMin else fxMax), fFXSAT)
  | .fin s m e =>
    let x := roundInt rm s m (e + 64)
    if x > fxMax then (wrap 128 fxMax, fFXSAT) else if x < fxMin then (wrap 128 fxMin, fFXSAT) else (wrap 128 x, 0)

/-- The exact value of an FX128 code. -/
def decodeFx (x : Nat) : FVal :=
  let n := sext 128 x
  .fin (decide (n < 0)) n.natAbs (-64)

/-! ## LNS6 (R44-R46) -/

/-- The logarithm field times 4 of an LNS6 byte, and its sign. -/
def lnsLog (x : Nat) : Int := sext 5 (x % 32)
def lnsSign (x : Nat) : Bool := x / 32 % 2 == 1
def lnsZero (x : Nat) : Bool := x % 32 == 16

/-- Linear value of sign s and logarithm l (times 4) through the code table of FP32 entries (R45). -/
def lnsLin (tab : Vector (BitVec 32) 4) (s : Bool) (l : Int) : FVal :=
  let q := l / 4
  let fr := (l % 4).toNat
  match (decodeF fp32 (tab.toList.getD fr 0).toNat).scale q with
  | .nan => .nan
  | .inf t => .inf (s != t)
  | .fin t m e => .fin (s != t) m e

/-- A single LNS6 operand (R45). -/
def decodeLns (tab : Vector (BitVec 32) 4) (x : Nat) : FVal :=
  if lnsZero x then .fin (lnsSign x) 0 0 else lnsLin tab (lnsSign x) (lnsLog x)

/-- The linear product of two LNS6 operands (R45). -/
def lnsProduct (tab : Vector (BitVec 32) 4) (x y : Nat) : FVal :=
  let s := lnsSign x != lnsSign y
  if lnsZero x || lnsZero y then .fin s 0 0 else lnsLin tab s (lnsLog x + lnsLog y)

/-- An LNS6 byte of sign s and logarithm l. -/
def lnsByte (s : Bool) (l : Int) : Nat := (if s then 32 else 0) + wrap 5 l

/-- Encode into LNS6 (R46): 4 * log2 |v| to the nearest integer, decided by the eighth power of v. -/
def encodeLns (v : FVal) : Nat × Flags :=
  match v with
  | .nan => (0x10, fINV)
  | .inf s => (lnsByte s 15, fOVF)
  | .fin s m e =>
    if m == 0 then (lnsByte s (-16), 0)
    else
      let l := (floorLog2 (m ^ 8) (8 * e) + 1) / 2
      if l > 15 then (lnsByte s 15, fOVF)
      else if l < -15 then (lnsByte s (-16), fUNF)
      else (lnsByte s l, 0)

/-! ## T3P5 (R47, R48) -/

/-- The value of a trit code: 0, 1 or -1. -/
def tritVal (d : Nat) : Int := if d == 1 then 1 else if d == 2 then -1 else 0
def tritCode (x : Int) : Nat := if x > 0 then 1 else if x < 0 then 2 else 0

/-- Digit i of a T3P5 byte by multiply and shift; 0 for an illegal byte. -/
def tritDigit (b i : Nat) : Nat :=
  if b > 242 then 0
  else
    let q : Nat → Nat := fun k =>
      match k with
      | 0 => b * 65536 / 65536
      | 1 => b * 21846 / 65536
      | 2 => b * 7282 / 65536
      | 3 => b * 2428 / 65536
      | 4 => b * 810 / 65536
      | _ => 0
    q i - 3 * q (i + 1)

/-- Trit j of a T3P5 payload (R47). -/
def tritAt (p : Nat) (j : Nat) : Int := tritVal (tritDigit (lane 8 (j / 5) p) (j % 5))

/-- The payload whose trit j is f j. -/
def ofTrits (f : Nat → Int) : Payload :=
  ofLanes 8 256 (fun k => tritCode (f (5 * k)) + 3 * tritCode (f (5 * k + 1)) + 9 * tritCode (f (5 * k + 2)) +
    27 * tritCode (f (5 * k + 3)) + 81 * tritCode (f (5 * k + 4)))

/-! ## Conversions between lanes (R36-R38, R46) -/

/-- Decode lane code x of a numeric format; none for RAW, T3P5, BITS and the cell-scaled formats. -/
def decodeLane (tab : Vector (BitVec 32) 4) (f : Fmt) (x : Nat) : Option FVal :=
  match f.toNat with
  | 1 => some (decodeF fp32 x) | 2 => some (decodeF bf16 x) | 3 => some (decodeF fp16 x)
  | 4 => some (decodeF e4m3 x) | 5 => some (decodeF e5m2 x)
  | 6 => some (.ofInt (sext 8 x)) | 7 => some (.ofInt x) | 8 => some (.ofInt (sext 32 x))
  | 9 => some (decodeLns tab x) | 11 => some (decodeFx x)
  | _ => none

/-- Encode of R36-R38, R42, R46 into a format code; the lane's code and its flags; 0 for formats that hold no single numbers. -/
def encodeLane (f : Fmt) (v : FVal) (rm : Nat) (sat : Bool) : Nat × Flags :=
  match f.toNat with
  | 1 => encodeF fp32 v rm sat | 2 => encodeF bf16 v rm sat | 3 => encodeF fp16 v rm sat
  | 4 => encodeF e4m3 v rm sat | 5 => encodeF e5m2 v rm sat
  | 12 => encodeF e4m3 v rm sat | 13 => encodeF e5m2 v rm sat
  | 6 => let r := encodeInt (-128) 127 v rm; (wrap 8 r.1, r.2)
  | 7 => let r := encodeInt 0 255 v rm; (wrap 8 r.1, r.2)
  | 8 => let r := encodeInt (-2147483648) 2147483647 v rm; (wrap 32 r.1, r.2)
  | 9 => encodeLns v
  | 11 => encodeFx v rm
  | _ => (0, 0)

/-- Lane by lane with flags: n lanes of width w, lane i and its flags by f. -/
def lanesF (w n : Nat) (f : Nat → Nat × Flags) : Payload × Flags :=
  let r := (List.range n).foldl (fun acc i => let x := f i; (acc.1 + x.1 % 2 ^ w * 2 ^ (w * i), acc.2 ||| x.2)) (0, (0 : Flags))
  (BitVec.ofNat 2048 r.1, r.2)

/-! ## Quantisation (R53) -/

/-- The smallest e with m * 2^ea at most 7 * 2^(s + e), for m above 0: ceil(log2(a / Max)) with Max = 7 * 2^s. -/
def quantExp (m : Nat) (ea : Int) (s : Int) : Int :=
  let l := m.log2
  let j := if 8 * m ≤ 7 * 2 ^ (l + 1) then l + 1 else l + 2
  (j : Int) - 3 + ea - s

/-- Quantise of R53: the E8M0 scale, the 256 bytes and the flags; e5 selects E5M2S. -/
def quantise (v : List FVal) (e5 : Bool) (rm : Nat) : Nat × Payload × Flags :=
  let g := if e5 then e5m2 else e4m3
  let s : Int := if e5 then 13 else 6
  if v.any (fun x => match x with | .fin _ _ _ => false | _ => true) then
    (0xFF, ofLanes 8 256 (fun _ => g.nan), fQNAN)
  else
    let a := v.foldl (fun acc x => FVal.max acc x.abs) (.fin false 0 0)
    match a with
    | .fin _ m ea =>
      if m == 0 then
        (0, ofLanes 8 256 (fun i => match v.getD i (.fin false 0 0) with | .fin sg _ _ => signBit g sg | _ => 0), 0)
      else
        let e := quantExp m ea s
        let sat : Flags := if e > 127 then fQSAT else 0
        let e := if e > 127 then 127 else if e < -127 then -127 else e
        let r := lanesF 8 256 (fun i => encodeF g ((v.getD i (.fin false 0 0)).scale (-e)) rm true)
        ((e + 127).toNat, r.1, r.2 ||| sat)
    | _ => (0, 0, 0)

end Sys2Proof.Machine
end

