-- ==== Sys2Proof/Syntax.lean ====
section
/-! DEFINITION. The instruction syntax: one constructor of Instr for each row of spec/opcode_table.json. Sequencer words carry the
fields of their form (R56, R57), element operations the five selects of their action word (R72), events the unit they concern
and what reaches it from outside the module. -/

namespace Sys2Proof

/-- The selects and the tag field of an element action word (R72, R73). -/
structure ElemAct where
  sa : BitVec 5
  sb : BitVec 5
  da : BitVec 5
  db : BitVec 5
  ta : BitVec 4
deriving DecidableEq, Repr

/-- Who a page walk serves: a thread, or a stream's address generator (R215, R253). -/
inductive Walker where
  | thread (t : Tid)
  | stream (k : StrmId)
deriving DecidableEq, Repr

/-- What a patrol read visits (R258). -/
inductive PatrolTarget where
  | bank (c : CoreId) (b : BankId)
  | hbm (stack : Fin 16)
deriving DecidableEq, Repr

/-- A peer link: 24 peer ports, six a die (R364). -/
abbrev LinkId := Fin 24
/-- An Ethernet port: 0-1 the host ports, 2-25 the peer ports (R364). -/
abbrev EthPort := Fin 26

/-- What the module can see of a received Ethernet frame (R364). -/
inductive Frame where
  | ipv6 | ptp (ppm : Int) | priorityFlow | pause | other (etherType : BitVec 16)
deriving DecidableEq, Repr

/-- A Sluice datagram: the header of R365 and its payload bytes. -/
structure Datagram where
  ver  : BitVec 8
  type : BitVec 8
  ten  : BitVec 8
  que  : BitVec 8
  edge : BitVec 32
  seq  : BitVec 64
  pos  : BitVec 64
  len  : BitVec 32
  resv : BitVec 32
  payload : List Byte
deriving DecidableEq, Repr

/-- A resource of the repair map (R376). -/
inductive Resource where
  | core (c : CoreId)
  | bank (c : CoreId) (b : BankId)
  | elem (c : CoreId) (e : ElemId)
  | pseudoChannel (stack : Fin 16) (ch : Nat)
  | lane (link : LinkId) (lane : Fin 4)
deriving DecidableEq, Repr

/-- A setting the firmware writes (R373, R367, R370, R348). -/
inductive Policy where
  | weight (queue : Tenant) (w : BitVec 8)
  | tres (clocks : Nat)
  | alert (temp : Nat)
  | grantControl (t : Tenant) (on : Bool)
  | bindHost (t : Tenant) (h : Option Ipv6)
  | bindLink (t : Tenant) (link : LinkId) (queue : Option (Fin 8))
  | agelim (c : CoreId) (v : BitVec 16)
  | spill (c : CoreId) (p : PortId) (rate : BitVec 11) (depth : BitVec 16)
  | stepTime (ns : BitVec 64)
deriving DecidableEq, Repr

/-- The instructions and events of the module, a constructor for each row of the opcode table. -/
inductive Instr where
  /-- Sequencer no-operation that changes nothing but PC (R108). -/
  | nop
  /-- Raises TRAPI with a 10-bit immediate in EVAL (R106). -/
  | trap (i : BitVec 10)
  /-- Sets PC from EPC and clears STATUS.EXL in one step (R107). -/
  | eret
  /-- Clears STATUS.EV and continues, or parks the thread until EV is set (R109). -/
  | wfe
  /-- Thread-scope fence that completes in its issue clock (R250). -/
  | fenceT
  /-- Parks the thread until its earlier pool accesses, SCELLs and stores are visible to every thread of the core (R250). -/
  | fenceC
  /-- As FENCE.C, and also waits until earlier stores to the HBM of the thread's own die are performed (R250). -/
  | fenceL
  /-- As FENCE.C, and also waits until every earlier store is performed (R250). -/
  | fenceD
  /-- As FENCE.S, and also waits until whole peer rounds on this core are committed or voided (R250). -/
  | fenceP
  /-- As FENCE.D, then invalidates every line of the core's data cache (R250). -/
  | fenceS
  /-- Reads a special register into Gd, subject to the mode checks (R111). -/
  | mfs (d : BitVec 5) (s : BitVec 5)
  /-- Writes a special register that has no row of its own (STATUS, ROLE, EPC, ECAUSE, EVAL, PTBASE) from Ga, under the mode checks (R111). -/
  | mts (a : BitVec 5) (s : BitVec 5)
  /-- Controller-mode step of the module-wide TIME, taking effect in one slot on every core (R370). -/
  | mtsTime (a : BitVec 5)
  /-- Writes the core's AGELIM, clamped to 16–65,535, for the next clock's arbitration (R90). -/
  | mtsAgelim (a : BitVec 5)
  /-- Writes RATE and DEPTH of the Spillway bucket of a named port, clamped to its ceilings (R85). -/
  | mtsSpill (a : BitVec 5)
  /-- Sets the task's remaining watchdog count to the smaller of Ga and the cycle limit (R86). -/
  | mtsWdog (a : BitVec 5)
  /-- Invalidates a tenant's translations over a VA range in every TLB and generator, and parks the thread until they are dropped and paused (R112). -/
  | tlbinv (d : BitVec 5) (a : BitVec 5) (b : BitVec 5)
  /-- Unfreezes a named frozen unit, which continues from its recorded position (R113). -/
  | resume (a : BitVec 5)
  /-- Ends a task on all of its cores in the slot after issue (R114). -/
  | kill (a : BitVec 5)
  /-- Gd gets Ga plus Gb modulo 2^64 (R93). -/
  | add (d : BitVec 5) (a : BitVec 5) (b : BitVec 5)
  /-- Gd gets Ga minus Gb modulo 2^64 (R93). -/
  | sub (d : BitVec 5) (a : BitVec 5) (b : BitVec 5)
  /-- Gd gets the low 64 bits of the product; the thread stays BUSY for 2 clocks (R93). -/
  | mul (d : BitVec 5) (a : BitVec 5) (b : BitVec 5)
  /-- Gd gets the high 64 bits of the signed product (R93). -/
  | mulh (d : BitVec 5) (a : BitVec 5) (b : BitVec 5)
  /-- Gd gets the high 64 bits of the unsigned product (R93). -/
  | mulhu (d : BitVec 5) (a : BitVec 5) (b : BitVec 5)
  /-- Signed quotient rounded toward zero, with fixed results for division by zero and overflow (R94). -/
  | div (d : BitVec 5) (a : BitVec 5) (b : BitVec 5)
  /-- Unsigned quotient, with a fixed result for division by zero (R94). -/
  | divu (d : BitVec 5) (a : BitVec 5) (b : BitVec 5)
  /-- Signed remainder taking the sign of the dividend (R94). -/
  | rem (d : BitVec 5) (a : BitVec 5) (b : BitVec 5)
  /-- Unsigned remainder (R94). -/
  | remu (d : BitVec 5) (a : BitVec 5) (b : BitVec 5)
  /-- Bitwise AND of Ga and Gb (R93). -/
  | and_ (d : BitVec 5) (a : BitVec 5) (b : BitVec 5)
  /-- Bitwise OR of Ga and Gb (R93). -/
  | or_ (d : BitVec 5) (a : BitVec 5) (b : BitVec 5)
  /-- Bitwise XOR of Ga and Gb (R93). -/
  | xor_ (d : BitVec 5) (a : BitVec 5) (b : BitVec 5)
  /-- Ga AND NOT Gb (R93). -/
  | andn (d : BitVec 5) (a : BitVec 5) (b : BitVec 5)
  /-- Shift Ga left by Gb[5:0] (R93). -/
  | shl (d : BitVec 5) (a : BitVec 5) (b : BitVec 5)
  /-- Logical right shift of Ga by Gb[5:0] (R93). -/
  | shr (d : BitVec 5) (a : BitVec 5) (b : BitVec 5)
  /-- Arithmetic right shift of Ga by Gb[5:0] (R93). -/
  | sar (d : BitVec 5) (a : BitVec 5) (b : BitVec 5)
  /-- Shift Ga left by an immediate amount of 0–63 (R93). -/
  | shli (d : BitVec 5) (a : BitVec 5) (n : BitVec 5) (h : BitVec 1)
  /-- Logical right shift by an immediate amount (R93). -/
  | shri (d : BitVec 5) (a : BitVec 5) (n : BitVec 5) (h : BitVec 1)
  /-- Arithmetic right shift by an immediate amount (R93). -/
  | sari (d : BitVec 5) (a : BitVec 5) (n : BitVec 5) (h : BitVec 1)
  /-- Signed minimum (R93). -/
  | min (d : BitVec 5) (a : BitVec 5) (b : BitVec 5)
  /-- Signed maximum (R93). -/
  | max (d : BitVec 5) (a : BitVec 5) (b : BitVec 5)
  /-- Unsigned minimum (R93). -/
  | minu (d : BitVec 5) (a : BitVec 5) (b : BitVec 5)
  /-- Unsigned maximum (R93). -/
  | maxu (d : BitVec 5) (a : BitVec 5) (b : BitVec 5)
  /-- Counts leading zero bits (R93). -/
  | clz (d : BitVec 5) (a : BitVec 5)
  /-- Counts trailing zero bits (R93). -/
  | ctz (d : BitVec 5) (a : BitVec 5)
  /-- Counts one bits (R93). -/
  | popc (d : BitVec 5) (a : BitVec 5)
  /-- Sign-extends byte 0 to 64 bits (R93). -/
  | sextb (d : BitVec 5) (a : BitVec 5)
  /-- Sign-extends the low half-word (R93). -/
  | sexth (d : BitVec 5) (a : BitVec 5)
  /-- Sign-extends the low word (R93). -/
  | sextw (d : BitVec 5) (a : BitVec 5)
  /-- Zero-extends the low word (R93). -/
  | zextw (d : BitVec 5) (a : BitVec 5)
  /-- Pd gets Ga = Gb (R95). -/
  | ceq (d : BitVec 3) (a : BitVec 5) (b : BitVec 5)
  /-- Pd gets Ga ≠ Gb (R95). -/
  | cne (d : BitVec 3) (a : BitVec 5) (b : BitVec 5)
  /-- Pd gets signed Ga < Gb (R95). -/
  | clt (d : BitVec 3) (a : BitVec 5) (b : BitVec 5)
  /-- Pd gets unsigned Ga < Gb (R95). -/
  | cltu (d : BitVec 3) (a : BitVec 5) (b : BitVec 5)
  /-- Pd gets signed Ga ≤ Gb (R95). -/
  | cle (d : BitVec 3) (a : BitVec 5) (b : BitVec 5)
  /-- Pd gets unsigned Ga ≤ Gb (R95). -/
  | cleu (d : BitVec 3) (a : BitVec 5) (b : BitVec 5)
  /-- Pd gets Pa AND Pb (R97). -/
  | pand (d : BitVec 3) (a : BitVec 3) (b : BitVec 3)
  /-- Pd gets Pa OR Pb (R97). -/
  | por (d : BitVec 3) (a : BitVec 3) (b : BitVec 3)
  /-- Pd gets Pa XOR Pb (R97). -/
  | pxor (d : BitVec 3) (a : BitVec 3) (b : BitVec 3)
  /-- Pd gets Pa AND NOT Pb (R97). -/
  | pandn (d : BitVec 3) (a : BitVec 3) (b : BitVec 3)
  /-- Pd gets NOT Pa (R97). -/
  | pnot (d : BitVec 3) (a : BitVec 3)
  /-- Pd gets a constant bit (R97). -/
  | pset (d : BitVec 3) (v : BitVec 1)
  /-- Gd gets Ga if Pp is true, else Gb (R97). -/
  | sel (d : BitVec 5) (a : BitVec 5) (b : BitVec 5) (p : BitVec 3)
  /-- Pd gets 1 when Ga is non-zero (R97). -/
  | pmovg (d : BitVec 3) (a : BitVec 5)
  /-- Gd gets 1 when Pa is true (R97). -/
  | gmovp (d : BitVec 5) (a : BitVec 3)
  /-- Adds a sign-extended immediate (R98). -/
  | addi (d : BitVec 5) (a : BitVec 5) (i : BitVec 16)
  /-- ANDs a zero-extended immediate (R98). -/
  | andi (d : BitVec 5) (a : BitVec 5) (i : BitVec 16)
  /-- ORs a zero-extended immediate (R98). -/
  | ori (d : BitVec 5) (a : BitVec 5) (i : BitVec 16)
  /-- XORs a zero-extended immediate (R98). -/
  | xori (d : BitVec 5) (a : BitVec 5) (i : BitVec 16)
  /-- Loads a sign-extended immediate (R98). -/
  | li (d : BitVec 5) (i : BitVec 16)
  /-- Shifts Gd left by 16 and inserts an immediate (R98). -/
  | lih (d : BitVec 5) (i : BitVec 16)
  /-- Pd gets Ga equal to the immediate (R96). -/
  | cmpiEq (p : BitVec 3) (a : BitVec 5) (i : BitVec 16)
  /-- Pd gets Ga not equal to the immediate (R96). -/
  | cmpiNe (p : BitVec 3) (a : BitVec 5) (i : BitVec 16)
  /-- Pd gets signed Ga less than the immediate (R96). -/
  | cmpiLt (p : BitVec 3) (a : BitVec 5) (i : BitVec 16)
  /-- Pd gets unsigned Ga less than the sign-extended immediate (R96). -/
  | cmpiLtu (p : BitVec 3) (a : BitVec 5) (i : BitVec 16)
  /-- Branches by a word offset when P[p] equals s (R99). -/
  | br (p : BitVec 3) (s : BitVec 1) (o : BitVec 22)
  /-- Jumps by a word offset (R99). -/
  | jmp (o : BitVec 26)
  /-- Links in G31 and jumps by a word offset (R99). -/
  | call (o : BitVec 26)
  /-- Jumps to the address in Ga (R100). -/
  | jr (a : BitVec 5)
  /-- Links in G31 and jumps to the address in Ga (R100). -/
  | callr (a : BitVec 5)
  /-- Jumps to the address in G31 (R100). -/
  | ret
  /-- Loads a sign-extended byte from VA space (R244). -/
  | ldb (d : BitVec 5) (a : BitVec 5) (i : BitVec 16)
  /-- Loads a sign-extended half-word (R244). -/
  | ldh (d : BitVec 5) (a : BitVec 5) (i : BitVec 16)
  /-- Loads a sign-extended word (R244). -/
  | ldw (d : BitVec 5) (a : BitVec 5) (i : BitVec 16)
  /-- Loads a doubleword (R244). -/
  | ldd (d : BitVec 5) (a : BitVec 5) (i : BitVec 16)
  /-- Loads a zero-extended byte (R244). -/
  | ldbu (d : BitVec 5) (a : BitVec 5) (i : BitVec 16)
  /-- Loads a zero-extended half-word (R244). -/
  | ldhu (d : BitVec 5) (a : BitVec 5) (i : BitVec 16)
  /-- Loads a zero-extended word (R244). -/
  | ldwu (d : BitVec 5) (a : BitVec 5) (i : BitVec 16)
  /-- Stores a byte into the write buffer (R244). -/
  | stb (d : BitVec 5) (a : BitVec 5) (i : BitVec 16)
  /-- Stores a half-word (R244). -/
  | sth (d : BitVec 5) (a : BitVec 5) (i : BitVec 16)
  /-- Stores a word (R244). -/
  | stw (d : BitVec 5) (a : BitVec 5) (i : BitVec 16)
  /-- Stores a doubleword (R244). -/
  | std (d : BitVec 5) (a : BitVec 5) (i : BitVec 16)
  /-- Loads 64 bits from the core's own pool slice, the mailbox window or the status window (R246). -/
  | ldp (d : BitVec 5) (a : BitVec 5) (i : BitVec 16)
  /-- Stores 64 bits to the core's own pool slice, the mailbox window or the status window (R246). -/
  | stp (d : BitVec 5) (a : BitVec 5) (i : BitVec 16)
  /-- Atomic add in VA or pool space, returning the old value (R247). -/
  | aadd (d : BitVec 5) (a : BitVec 5) (b : BitVec 5) (s : BitVec 1) (w : BitVec 1)
  /-- Atomic AND (R247). -/
  | aand (d : BitVec 5) (a : BitVec 5) (b : BitVec 5) (s : BitVec 1) (w : BitVec 1)
  /-- Atomic OR (R247). -/
  | aor (d : BitVec 5) (a : BitVec 5) (b : BitVec 5) (s : BitVec 1) (w : BitVec 1)
  /-- Atomic XOR (R247). -/
  | axor (d : BitVec 5) (a : BitVec 5) (b : BitVec 5) (s : BitVec 1) (w : BitVec 1)
  /-- Atomic signed minimum (R247). -/
  | amin (d : BitVec 5) (a : BitVec 5) (b : BitVec 5) (s : BitVec 1) (w : BitVec 1)
  /-- Atomic signed maximum (R247). -/
  | amax (d : BitVec 5) (a : BitVec 5) (b : BitVec 5) (s : BitVec 1) (w : BitVec 1)
  /-- Atomic unsigned minimum (R247). -/
  | aminu (d : BitVec 5) (a : BitVec 5) (b : BitVec 5) (s : BitVec 1) (w : BitVec 1)
  /-- Atomic unsigned maximum (R247). -/
  | amaxu (d : BitVec 5) (a : BitVec 5) (b : BitVec 5) (s : BitVec 1) (w : BitVec 1)
  /-- Atomic exchange (R247). -/
  | axchg (d : BitVec 5) (a : BitVec 5) (b : BitVec 5) (s : BitVec 1) (w : BitVec 1)
  /-- Atomic compare-and-swap (R247). -/
  | acas (d : BitVec 5) (a : BitVec 5) (b : BitVec 5) (s : BitVec 1) (w : BitVec 1)
  /-- Atomic exact FX128 add of a Q32.32 operand, saturating and setting STATUS.FXSAT (R248). -/
  | fxaddAmo (d : BitVec 5) (a : BitVec 5) (b : BitVec 5) (s : BitVec 1)
  /-- May fill the TLB and the cache line of a VA; never traps (R249). -/
  | prefR (a : BitVec 5) (i : BitVec 16)
  /-- May fill the TLB only; never traps (R249). -/
  | prefW (a : BitVec 5) (i : BitVec 16)
  /-- Adds the thread to a group and returns the GSIZE word (R331). -/
  | join (d : BitVec 5) (a : BitVec 5)
  /-- Removes the thread from a group and may complete its phase (R331). -/
  | leave (a : BitVec 5)
  /-- Marks a member arrived in the open phase and arms the thread (R331). -/
  | arrive (a : BitVec 5)
  /-- Arrives if needed and parks until the awaited phase completes (R331). -/
  | gwait (a : BitVec 5)
  /-- Returns a group's membership count, arrival count and phase (R331). -/
  | gsize (d : BitVec 5) (a : BitVec 5)
  /-- Keeps the thread from being chosen in the next clock when another thread is READY (R333). -/
  | yield
  /-- Leaves every group and makes the thread IDLE (R332). -/
  | exit
  /-- Sets the thread's ROLE for the next clock's arbitration (R333). -/
  | setrole (n : BitVec 2)
  /-- Returns the module-wide thread number and the thread's rank in the task (R333). -/
  | tidOf (d : BitVec 5)
  /-- Reads a launch record and offers it to its launch queue, parking until it is queued or refused (R333). -/
  | launch (d : BitVec 5) (a : BitVec 5)
  /-- Parks until any masked tag bit is set, then returns the set bits (R328). -/
  | twaitany (d : BitVec 5) (a : BitVec 5)
  /-- Parks until all masked tag bits are set (R328). -/
  | twaitall (a : BitVec 5)
  /-- Finds, clears and returns the lowest set masked tag bit (R328). -/
  | tffr (d : BitVec 5) (a : BitVec 5)
  /-- Clears the masked tag bits (R328). -/
  | tclr (a : BitVec 5)
  /-- Pd gets 1 when any masked tag bit is set (R328). -/
  | ttest (d : BitVec 3) (a : BitVec 5)
  /-- Sets the BASE of a pattern register (R211). -/
  | apbase (d : BitVec 4) (a : BitVec 5)
  /-- Sets the count and stride of one dimension (R211). -/
  | apdim (d : BitVec 4) (a : BitVec 5) (b : BitVec 5) (n : BitVec 2)
  /-- Sets ESZ, MODE and AUX (R211). -/
  | apmode (d : BitVec 4) (a : BitVec 5)
  /-- Sets indirect MODE and AUX (R211). -/
  | apidx (d : BitVec 4) (a : BitVec 5)
  /-- Reads one 64-bit quarter of a pattern register (R211). -/
  | apget (d : BitVec 5) (a : BitVec 4) (n : BitVec 2)
  /-- Reads a selected count of a named unit (R335). -/
  | node (d : BitVec 5) (a : BitVec 5)
  /-- When tracing is enabled, builds a trace cell and parks until it is admitted at DBG; otherwise a NOP (R339). -/
  | trc (a : BitVec 5)
  /-- Follows blocked-by links from a unit, one per slot, into the walker registers (R341). -/
  | walk (d : BitVec 5) (a : BitVec 5)
  /-- Halts, single-steps or releases an element or the Weir (R342). -/
  | step (a : BitVec 5)
  /-- Raises TRAPI with bit 10 of EVAL set when STATUS.BE is 1; otherwise a NOP (R106). -/
  | brk (i : BitVec 10)
  /-- Binds an affine or keyed HBM read stream to a port on the lowest idle loader (R212). -/
  | sload (p : BitVec 7) (a : BitVec 4) (t : BitVec 6) (v : BitVec 5)
  /-- Binds a pool read stream on the bank's read generator (R212). -/
  | sread (p : BitVec 7) (a : BitVec 4) (t : BitVec 6) (v : BitVec 5)
  /-- Binds a sink stream from a storer channel to VA space (R212). -/
  | sstore (p : BitVec 7) (a : BitVec 4) (t : BitVec 6) (v : BitVec 5)
  /-- Binds an indirect HBM read stream (R212). -/
  | sgather (p : BitVec 7) (a : BitVec 4) (t : BitVec 6) (v : BitVec 5)
  /-- Binds an indirect sink stream (R212). -/
  | sscatter (p : BitVec 7) (a : BitVec 4) (t : BitVec 6) (v : BitVec 5)
  /-- Builds one cell from pool bytes and a header register and parks until it is admitted at SEQ (R199). -/
  | scell (p : BitVec 7) (n : BitVec 4) (c : BitVec 3) (v : BitVec 5)
  /-- Sets the thread's pending stream barrier mask (R220). -/
  | sbar (n : BitVec 4)
  /-- Injects a DRN into each triple of a configuration slot's drain list behind bound streams (R221). -/
  | sdrain (c : BitVec 1)
  /-- Reads an edge descriptor and binds a peer edge end (R230). -/
  | sedge (n : BitVec 4) (t : BitVec 6)
  /-- Returns the state and position of the stream with a given tag (R229). -/
  | sqry (n : BitVec 4) (t : BitVec 6)
  /-- Loads a configuration image into an inactive slot in a check read and a write read (R222). -/
  | scfg (n : BitVec 4) (t : BitVec 6) (c : BitVec 1)
  /-- Makes a loaded slot the pending swap for a pass boundary or a token count (R223). -/
  | sswap (n : BitVec 4) (c : BitVec 1)
  /-- Sets an element's pending K, taken at its next pass boundary (R224). -/
  | sarg (p : BitVec 7) (n : BitVec 4)
  /-- Moves a running source stream's page to a new frame by forking and copying (R226). -/
  | ssplice (n : BitVec 4) (t : BitVec 6)
  /-- Stops a stream at a cell boundary, sets its tag and returns its position (R228). -/
  | scancel (n : BitVec 4) (t : BitVec 6)
  /-- Sets the ME's MODE format (R157). -/
  | mxmode (f : BitVec 4)
  /-- Sets the keep register to a panel buffer (R158). -/
  | mxpanel (n : BitVec 1)
  /-- Queues a run of rows on a tile, binding a panel buffer (R159). -/
  | mxrun (a : BitVec 5) (t : BitVec 1) (m : BitVec 1) (c : BitVec 2)
  /-- Queues a drain of a tile's rows in a target format (R160). -/
  | mxdrain (a : BitVec 5) (d : BitVec 1) (f : BitVec 4) (t : BitVec 1)
  /-- Queues a job that clears a tile row by row (R162). -/
  | mxzero (t : BitVec 1)
  /-- Reads an adapter descriptor into the directory and assigns a slot (R161). -/
  | mxadp (a : BitVec 5) (b : BitVec 5) (s : BitVec 4)
  /-- Writes one entry of the shadow code table (R163). -/
  | mxcode (a : BitVec 5) (i : BitVec 2)
  /-- Reads a status word of the ME, clearing the sticky flags under selector 2 (R164). -/
  | mxstat (a : BitVec 5) (s : BitVec 4)
  /-- Queues a load of load cells into a Reedbed context (R297). -/
  | rbload (a : BitVec 5) (c : BitVec 3)
  /-- Queues a switch of the active Reedbed context (R298). -/
  | rbctx (c : BitVec 3)
  /-- Queues one run of the active context (R299). -/
  | rbrun (a : BitVec 5)
  /-- Queues a transposer mode change for one port (R300). -/
  | rbxmode (n : BitVec 3) (k : BitVec 2) (p : BitVec 3)
  /-- Reads a Reedbed status word (R301). -/
  | rbstat (a : BitVec 5) (s : BitVec 4)
  /-- Reads and checks a stage declaration and makes the stage WHOLE (R306). -/
  | oxdecl (a : BitVec 5) (s : BitVec 3)
  /-- Starts a clone of a WHOLE stage or approves an ASKED one (R321). -/
  | oxsplit (s : BitVec 3)
  /-- Starts a merge of a split stage or sets merge-pending (R321). -/
  | oxmerge (s : BitVec 3)
  /-- Sets or clears a stage's pin bit (R322). -/
  | oxpin (p : BitVec 1) (s : BitVec 3)
  /-- Returns a stage's state, pivot, depth and counts (R323). -/
  | oxqry (a : BitVec 5) (s : BitVec 3)
  /-- Reads a 32-byte route entry image and writes it whole, resetting the RID counter (R200). -/
  | rtset (a : BitVec 5) (e : BitVec 8)
  /-- Writes the mask of a Weir multicast group (R201). -/
  | mcset (a : BitVec 5) (b : BitVec 5) (g : BitVec 6)
  /-- Writes half of a cluster crossbar multicast group and takes ownership (R181). -/
  | mcsetX (a : BitVec 5) (b : BitVec 5) (h : BitVec 1) (g : BitVec 6)
  /-- Writes a race unit's configuration word (R202). -/
  | racecfg (a : BitVec 5) (u : BitVec 1)
  /-- Arms or disarms a deadline gate (R338). -/
  | gateset (a : BitVec 5) (g : BitVec 4)
  /-- Writes a loop budget (R203). -/
  | loopset (a : BitVec 5) (l : BitVec 4)
  /-- Element NOP; only ST changes to NS (R132). -/
  | elemNop (x : ElemAct)
  /-- Copies SA's payload, format and key (R132). -/
  | mov (x : ElemAct)
  /-- Copies SA to DA and SB to DB (R132). -/
  | pass (x : ElemAct)
  /-- Writes SA's key into every INT32 lane (R132). -/
  | keyx (x : ElemAct)
  /-- Copies SA with its key replaced by the scalar of SB (R132). -/
  | keys (x : ElemAct)
  /-- Counts lanes down to zero (R132). -/
  | cntdn (x : ElemAct)
  /-- Publishes a pivot for the current split routine (R312). -/
  | oxpiv (x : ElemAct)
  /-- Ends the element's split or merge routine and pops its SPL (R313). -/
  | oxend (x : ElemAct)
  /-- Floating add per lane (R133). -/
  | fadd (x : ElemAct)
  /-- Floating subtract per lane (R133). -/
  | fsub (x : ElemAct)
  /-- Floating multiply per lane (R133). -/
  | fmul (x : ElemAct)
  /-- Fused a × b + d per lane (R133). -/
  | fma (x : ElemAct)
  /-- Fused a × b − d per lane (R133). -/
  | fms (x : ElemAct)
  /-- Floating minimum per lane (R133). -/
  | fmin (x : ElemAct)
  /-- Floating maximum per lane (R133). -/
  | fmax (x : ElemAct)
  /-- Clears the sign bit of each lane (R133). -/
  | fabs (x : ElemAct)
  /-- Inverts the sign bit of each lane (R133). -/
  | fneg (x : ElemAct)
  /-- Scales each lane by a power of two (R133). -/
  | fscl (x : ElemAct)
  /-- Pairwise-tree sum of all lanes into every lane (R50). -/
  | fred (x : ElemAct)
  /-- Pairwise-tree maximum into every lane (R133). -/
  | frmax (x : ElemAct)
  /-- Floating equality mask per lane (R133). -/
  | fcmpeq (x : ElemAct)
  /-- Floating less-than mask per lane (R133). -/
  | fcmplt (x : ElemAct)
  /-- Floating less-or-equal mask per lane (R133). -/
  | fcmple (x : ElemAct)
  /-- Selects a or b per lane by the old DA (R133). -/
  | fsel (x : ElemAct)
  /-- Integer add per lane (R134). -/
  | iadd (x : ElemAct)
  /-- Integer subtract per lane (R134). -/
  | isub (x : ElemAct)
  /-- Integer multiply, low bits (R134). -/
  | imul (x : ElemAct)
  /-- Four-way 8-bit multiply-accumulate into INT32 (R134). -/
  | imac4 (x : ElemAct)
  /-- Whole-cell ternary dot product accumulated into INT32 (R134). -/
  | asub3 (x : ElemAct)
  /-- Integer minimum per lane (R134). -/
  | imin (x : ElemAct)
  /-- Integer maximum per lane (R134). -/
  | imax (x : ElemAct)
  /-- Integer left shift per lane (R134). -/
  | ishl (x : ElemAct)
  /-- Integer logical right shift per lane (R134). -/
  | ishr (x : ElemAct)
  /-- Integer arithmetic right shift per lane (R134). -/
  | isar (x : ElemAct)
  /-- Bytewise AND (R134). -/
  | iand (x : ElemAct)
  /-- Bytewise OR (R134). -/
  | ior (x : ElemAct)
  /-- Bytewise XOR (R134). -/
  | ixor (x : ElemAct)
  /-- Bytewise NOT (R134). -/
  | inot (x : ElemAct)
  /-- Integer equality mask per lane (R134). -/
  | icmpeq (x : ElemAct)
  /-- Integer less-than mask per lane (R134). -/
  | icmplt (x : ElemAct)
  /-- Converts lanes between numeric formats under the part rule (R135). -/
  | cvt (x : ElemAct)
  /-- Quantises two cells into one E4M3S or E5M2S cell (R136). -/
  | qnt8 (x : ElemAct)
  /-- Dequantises a cell-scaled cell into a wider format (R135). -/
  | dqnt (x : ElemAct)
  /-- Unpacks a window of T3P5 trits into INT8 lanes (R137). -/
  | unp3 (x : ElemAct)
  /-- Packs INT8 signs into a window of T3P5 trits (R137). -/
  | pk3 (x : ElemAct)
  /-- Multiplies LNS6 operands in the log domain (R138). -/
  | lmul (x : ElemAct)
  /-- Accumulates linearised LNS6 products into FP32 (R138). -/
  | lacc (x : ElemAct)
  /-- Converts to or from FX128 (R135). -/
  | fxcvt (x : ElemAct)
  /-- Element exact FX128 add, saturating with FXSAT (R139). -/
  | fxadd (x : ElemAct)
  /-- Byte permutation of SA by SB (R139). -/
  | perm (x : ElemAct)
  /-- Broadcasts one lane of SA to all lanes (R139). -/
  | bcast (x : ElemAct)
  /-- Clamps lanes to ±|b| (R139). -/
  | clamp (x : ElemAct)
  /-- Compares the keys of two sources (R140). -/
  | kcmp (x : ElemAct)
  /-- Selects the head with the smaller key (R140). -/
  | ksel (x : ElemAct)
  /-- A thread decodes a word with a reserved major, an unlisted function code or a non-zero field that must be zero, and takes a precise ILL trap (R59). -/
  | illDecode (w : BitVec 32)
  /-- The ordering that a parked FENCE awaits comes to hold, and the thread becomes READY (R110). -/
  | fenceComplete (c : CoreId) (t : Tid)
  /-- Every affected TLB and generator has dropped the translation; the thread resumes and paused generators walk afresh (R225). -/
  | tlbinvComplete (c : CoreId) (t : Tid)
  /-- The BUSY count of a multiply or divide runs out, and the thread is READY with its result (R92). -/
  | multiclockDone (c : CoreId) (t : Tid)
  /-- A data-cache line fill returns, and the parked thread becomes READY (R91). -/
  | dcacheLineFill (c : CoreId) (t : Tid)
  /-- An instruction-cache line fill returns, and the parked thread can issue (R91). -/
  | icacheLineFill (c : CoreId) (t : Tid)
  /-- The write buffer's oldest store is accepted by its HBM controller and leaves the buffer (R245). -/
  | storePerformed (c : CoreId)
  /-- A bank performs a thread's direct pool access and returns the value to a parked LDP (R238). -/
  | poolAccessDone (c : CoreId) (t : Tid)
  /-- A cell delivered at SEQq enters a thread's mailbox, sets EV and wakes a parked reader (R242). -/
  | mailboxDelivery (c : CoreId) (q : Fin 4)
  /-- The AMO's indivisible read-modify-write completes at the HBM controller or bank, Gd is written and the thread resumes (R247). -/
  | amoPerformed (c : CoreId) (t : Tid)
  /-- A three-level walk reads entries, sets A and D by CAS and returns a leaf or a fault (R253). -/
  | pageWalk (c : CoreId) (who : Walker)
  /-- A group operation takes effect at the cluster's group table and the parked thread resumes (R329). -/
  | groupOpApplied (c : CoreId) (t : Tid)
  /-- A parked tag wait finds its condition met at the start of a slot, and the thread becomes READY (R328). -/
  | tagWaitSatisfied (c : CoreId) (t : Tid)
  /-- A count read on another core returns, and the parked NODE completes (R335). -/
  | nodeRemoteReturn (c : CoreId) (t : Tid)
  /-- The walker reads one blocked-by link in its slot and writes the next walker register (R341). -/
  | walkLink (c : CoreId) (t : Tid)
  /-- A parked binding form finds a free slot and unit, takes them and consumes the pending barrier mask (R213). -/
  | bindSlotTaken (c : CoreId) (t : Tid)
  /-- A DRN held behind the last cell of a stream is offered on its ingress once that cell has been offered (R221). -/
  | drainTokenInject (c : CoreId) (p : PortId)
  /-- The first read of an image completes its checks, or freezes the load with CFG (R222). -/
  | scfgCheckDone (c : CoreId) (k : StrmId)
  /-- The second read has written the whole image and its pool blocks; the slot is LOADED and the tag sets (R282). -/
  | scfgLoadDone (c : CoreId) (k : StrmId)
  /-- The splice's copy completes, the extent is repatched and its tag sets (R226). -/
  | spliceDone (c : CoreId) (k : StrmId)
  /-- A WAIT stream's barrier or bank token is satisfied and the stream starts running (R220). -/
  | streamRelease (c : CoreId) (k : StrmId)
  /-- A source generator with positive credit issues the reads of its next cell (R216). -/
  | loaderReadIssue (c : CoreId) (k : StrmId)
  /-- The data of a cell returns from HBM into the loader's return queue (R216). -/
  | loaderReadReturn (c : CoreId) (k : StrmId)
  /-- A sink generator consumes a cell from its storer channel and issues its writes (R210). -/
  | sinkCellConsume (c : CoreId) (k : StrmId)
  /-- A storer's write is performed in HBM (R218). -/
  | sinkWritePerformed (c : CoreId) (k : StrmId)
  /-- In the slot after its last delivery or write, a stream sets its tag and becomes DONE (R218). -/
  | streamComplete (c : CoreId) (k : StrmId)
  /-- A job completes while a thread is parked on a full ME job queue, and its job is queued (R145). -/
  | meJobQueueFree (c : CoreId) (t : Tid)
  /-- The A-channel head row fires into an accumulator row, with the adapter lane's t update (R147). -/
  | meFire (c : CoreId)
  /-- One accumulator row, with its adapter term, is converted and emitted as eight cells (R150). -/
  | meDrainRow (c : CoreId)
  /-- An MXZERO job clears one row of its tile (R162). -/
  | meZeroRow (c : CoreId)
  /-- A B cell is written into the filling panel buffer, which becomes FULL at 512 cells (R144). -/
  | mePanelCell (c : CoreId) (q : Fin 4)
  /-- A DATA cell on MXC writes 64 accumulator words (R148). -/
  | mePreload (c : CoreId) (x : Fin 2)
  /-- A STEER cell on MXC sets a tile's steering token (R152). -/
  | meSteerToken (c : CoreId) (x : Fin 2)
  /-- A DRN at the A head copies the shadow code table and emits DRNs on the drain ports (R149). -/
  | mePassBoundary (c : CoreId)
  /-- A DRN on an MXB or MXC port is consumed on arrival and discarded (R142). -/
  | meDrnDiscard (c : CoreId) (p : PortId)
  /-- The adapter fetcher or prefetcher chooses a slot and issues the reads of a U or V slice (R156). -/
  | adapterFetch (c : CoreId)
  /-- A CTRL factor cell on MXC0 or MXC1 lands in its slot slice, or freezes the ME when no fetch is outstanding (R155). -/
  | adapterFactorCell (c : CoreId) (x : Fin 2)
  /-- A load consumes RBTL heads in a clock and writes the header or record blocks (R297). -/
  | rbLoadCell (c : CoreId)
  /-- The C-th load cell is written; the context becomes LOADED and the tag sets (R297). -/
  | rbLoadDone (c : CoreId)
  /-- A run in INPUT consumes RBIN data heads and writes them into wires through the transposers (R295). -/
  | rbInput (c : CoreId)
  /-- One EVAL clock evaluates every LUT record over one lane group (R289). -/
  | rbEvalGroup (c : CoreId)
  /-- Each output port with a list emits one packed cell into its buffer (R293). -/
  | rbOutput (c : CoreId)
  /-- A run finishes at its layer boundary and its tag sets in the next clock (R295). -/
  | rbRunDone (c : CoreId)
  /-- A current RBCTX takes effect in the first clock in which its context is LOADED (R383). -/
  | rbContextSwitch (c : CoreId)
  /-- A queued mode change takes effect when the earlier run-path jobs have finished (R300). -/
  | rbModeApply (c : CoreId)
  /-- DRNs on every bound RBIN channel are popped and DRNs are emitted on bound RBOUT ports (R296). -/
  | rbPassBoundary (c : CoreId)
  /-- A DRN at an RBTL or an unlisted RBIN head is consumed and discarded (R296). -/
  | rbDrnDiscard (c : CoreId) (p : PortId)
  /-- A stage's depth holds at OVD for OVW slots; OVL is posted and the stage becomes ASKED (R309). -/
  | overloadDetect (c : CoreId) (s : StageId)
  /-- A split stage's depth holds at or below UND for UNW slots and the merge starts (R309). -/
  | underloadDetect (c : CoreId) (s : StageId)
  /-- A firmware approval arrives and moves an ASKED stage to CLONING (R309). -/
  | oxbowApproval (c : CoreId) (s : StageId)
  /-- A firmware refusal arrives and returns an ASKED stage to WHOLE (R309). -/
  | oxbowRefusal (c : CoreId) (s : StageId)
  /-- The twin's tables are copied and rewritten, the pivot is set and SPL cells are offered to the source elements (R310). -/
  | cloneDone (c : CoreId) (s : StageId)
  /-- An Oxbow-offered SPL becomes the head of C0, and the element sets ST to the split or merge entry state (R311). -/
  | splHead (c : CoreId) (e : ElemId)
  /-- In the slot after the last OXEND, the key-range table is cut at the pivot and pending counts are loaded (R314). -/
  | oxbowSwitch (c : CoreId) (s : StageId)
  /-- A moved-key head at the source is forwarded on RVC once the routine in-flight count is zero (R315). -/
  | oxbowForward (c : CoreId) (e : ElemId)
  /-- A source port with zero pending and in-flight counts injects its RDE; when all have, the stage is SPLIT (R315). -/
  | rdeInject (c : CoreId) (e : ElemId)
  /-- The twin port consumes the RDE, and its hold queue starts to release (R316). -/
  | rdeConsumed (c : CoreId) (e : ElemId)
  /-- A hold queue releases one cell into its channel per slot (R316). -/
  | holdRelease (c : CoreId) (e : ElemId)
  /-- The table switches back to the source and the stage becomes RETURNING (R317). -/
  | mergeStart (c : CoreId) (s : StageId)
  /-- The twin holds no unconsumed stage cell, and SPL cells with the merge marker are offered to the twin elements (R317). -/
  | twinQuiescent (c : CoreId) (s : StageId)
  /-- The merge routine ends; source holds release, the twin is cleared and MERGEDONE is posted (R317). -/
  | mergeDone (c : CoreId) (s : StageId)
  /-- SPLITDONE, MERGEDONE or OXFAIL sets the stage's tag bit in the next clock (R319). -/
  | oxbowTagSet (c : CoreId)
  /-- The memory read of an RTSET, MXADP, OXDECL or SEDGE completes and the instruction applies its effect (R200). -/
  | descriptorReadDone (c : CoreId) (t : Tid)
  /-- An element with DRN heads on all bound channels pops them, emits DRNs and applies a pending SARG (R126). -/
  | elementDrain (c : CoreId) (e : ElemId)
  /-- An ingress port admits an offered cell once the bucket, loop budget and buffer allow (R173). -/
  | cellAdmit (c : CoreId) (p : PortId)
  /-- The Weir runs its three-pass request-grant-accept matching for a slot (R175). -/
  | weirMatch (c : CoreId)
  /-- A matched cell lands in its egress channel or rendezvous buffer (R174). -/
  | cellDelivery (c : CoreId) (p : PortId)
  /-- The oldest complete rendezvous set is released into its channels (R182). -/
  | rdvSetRelease (c : CoreId) (e : ElemId)
  /-- No set released for 4 × AGELIM slots with all 32 open freezes the port with RDV (R184). -/
  | rdvStallFault (c : CoreId) (e : ElemId)
  /-- A loop budget's stall count reaches 4 × AGELIM, and its waiting ports freeze with LOOP (R187). -/
  | loopFault (c : CoreId) (l : LoopId)
  /-- A cell carried by the crossbar or ring arrives at a far core's NET port and is admitted afresh (R194). -/
  | crossbarArrival (c : CoreId) (n : Fin 12)
  /-- A multicast cell from a NET egress is copied by the cluster group, or faults when the group is not owned (R181). -/
  | crossbarFanout (c : CoreId) (n : Fin 12)
  /-- A race unit consumes a score cell of the current race (R195). -/
  | raceScore (c : CoreId) (u : Fin 2)
  /-- 24 slots after a race ends, its STEER cell stands in the race unit's output (R197). -/
  | raceEnd (c : CoreId) (u : Fin 2)
  /-- An armed gate reaches its deadline, disarms and sets its tag, EOR cell and GATE event (R338). -/
  | gateFire (c : CoreId) (g : GateId)
  /-- Bank COP WRITE of 256 bytes (R239). -/
  | bankWrite (c : CoreId) (b : BankId)
  /-- Bank COP READ with a reply cell (R239). -/
  | bankRead (c : CoreId) (b : BankId)
  /-- Bank lane-by-lane add in the VC's format (R239). -/
  | bankAdd (c : CoreId) (b : BankId)
  /-- Bank FX128 add of 16 lanes (R239). -/
  | bankFxadd (c : CoreId) (b : BankId)
  /-- Bank lane-by-lane minimum (R239). -/
  | bankMin (c : CoreId) (b : BankId)
  /-- Bank lane-by-lane maximum (R239). -/
  | bankMax (c : CoreId) (b : BankId)
  /-- Bank test-and-set of bits, replying with a mask of the bits already set (R239). -/
  | bankTasb (c : CoreId) (b : BankId)
  /-- Bank 64-bit compare-and-swap with a reply (R239). -/
  | bankCas (c : CoreId) (b : BankId)
  /-- Bank exchange of 256 bytes with a reply (R239). -/
  | bankXchg (c : CoreId) (b : BankId)
  /-- Bank gather of 64 words into a reply (R239). -/
  | bankGather (c : CoreId) (b : BankId)
  /-- Bank scatter of 32 words (R239). -/
  | bankScatter (c : CoreId) (b : BankId)
  /-- Bank zeroing of 256 bytes (R239). -/
  | bankZero (c : CoreId) (b : BankId)
  /-- Bank token hand-over to a configuration slot (R243). -/
  | bankOwn (c : CoreId) (b : BankId)
  /-- A bank consumes a DRN from its request channel after the requests ahead of it (R262). -/
  | bankDrn (c : CoreId) (b : BankId)
  /-- The bank's SREAD generator performs one 256-byte read into the output buffer (R238). -/
  | bankSreadRead (c : CoreId) (b : BankId)
  /-- A patrol read of banks or HBM corrects single-bit errors in place (R258). -/
  | patrolRead (w : PatrolTarget) (corrected : Bool)
  /-- In the slot after a fault or event, its 32-byte record goes to the fault ring or to the firmware (R362). -/
  | faultRecordPost (c : CoreId)
  /-- The task's watchdog count reaches zero and the task is killed with WDOG (R86). -/
  | wdogExpire (id : TaskId)
  /-- In the slot after a KILL or WDOG, every unit of the task is stopped, streams are cancelled and rounds voided (R356). -/
  | taskStop (id : TaskId)
  /-- A head that has waited T_res clocks takes the module's reservation (R350). -/
  | launchReservation
  /-- The deficit round robin starts a queue head whose placement and footprint edges allow it (R348). -/
  | gangStart
  /-- After the scrub and the first image load, the gang's threads become READY in one slot (R353). -/
  | firstIssue (id : TaskId)
  /-- A task with all threads idle and all streams, jobs and stages finished ends; its cores are freed once its writes are performed (R355). -/
  | taskEnd (id : TaskId)
  /-- A host READ is answered with the bytes of a tenant's VA (R366). -/
  | sluiceRead (h : Ipv6) (m : Datagram)
  /-- A host READ of the attestation window returns a signed report (R372). -/
  | attestationRead (h : Ipv6) (nonce : BitVec 256)
  /-- A host WRITE writes bytes at a tenant's VA and is answered with ACK (R366). -/
  | sluiceWrite (h : Ipv6) (m : Datagram)
  /-- A host submits a launch record, which is checked and queued or refused (R347). -/
  | submitLaunch (h : Ipv6) (m : Datagram)
  /-- A host submits a task graph replay, which is copied, checked and queued whole or refused (R352). -/
  | submitGraph (h : Ipv6) (m : Datagram)
  /-- A PTP message reaches the management path for the boundary clock (R370). -/
  | timeMessage (h : Ipv6) (m : Datagram) (slewPpm : Int)
  /-- The receiver lands round cells, or discards out-of-sequence and stale datagrams (R232). -/
  | roundData (link : LinkId) (m : Datagram)
  /-- A whole round is written by its destination pattern, CLOG is updated and COMMIT is sent (R232). -/
  | roundCommit (c : CoreId) (k : StrmId)
  /-- A loss or fault voids a round, discards its half and posts ROUNDVOID (R232). -/
  | roundVoid (c : CoreId) (k : StrmId)
  /-- The sender puts a cell admitted on a PEER entry into its replay area and sends it over Sluice (R231). -/
  | peerCellSend (c : CoreId) (k : StrmId)
  /-- A COMMIT reaches the sender and releases its replay half (R368). -/
  | commitMsg (link : LinkId) (m : Datagram)
  /-- A VOID reaches the sender, which rewinds and resends the round (R232). -/
  | voidMsg (link : LinkId) (m : Datagram)
  /-- No COMMIT or VOID within 2^20 slots makes the sender resend the round (R368). -/
  | roundTimeout (c : CoreId) (k : StrmId)
  /-- An ACK message arrives for an earlier message (R366). -/
  | ackMsg (link : LinkId) (m : Datagram)
  /-- A host DEBUG message of LEN 0 asks for or withdraws a tenant's debug output (R366). -/
  | debugRequest (h : Ipv6) (m : Datagram)
  /-- A host DEBUG command is checked by the firmware and passed to a core's DBG port as a CTRL cell (R369). -/
  | debugHostCommand (h : Ipv6) (m : Datagram)
  /-- A non-CTRL cell or trace record at DBG is sent to the owning host or discarded and counted (R369). -/
  | debugOutput (c : CoreId)
  /-- Debug command TGT 0 writes a frozen or halted element's ST (R379). -/
  | dbgWriteSt (c : CoreId)
  /-- Debug command TGT 1–4 writes a D register's payload (R379). -/
  | dbgWriteD (c : CoreId)
  /-- Debug command TGT 5 writes the scale file (R379). -/
  | dbgWriteSf (c : CoreId)
  /-- Debug command TGT 6 writes P0 and P1 (R379). -/
  | dbgWriteP (c : CoreId)
  /-- Debug command TGT 7 writes the ESR (R379). -/
  | dbgWriteEsr (c : CoreId)
  /-- Debug command TGT 8–11 writes the payload of a channel head (R379). -/
  | dbgWriteHead (c : CoreId)
  /-- Debug command TGT 12 replaces whole entries of an element's active table (R380). -/
  | dbgWriteTable (c : CoreId)
  /-- Debug command TGT 13 sets the core's trace enable (R379). -/
  | dbgTraceEnable (c : CoreId)
  /-- Debug command TGT 14 sets a thread's STATUS.BE (R379). -/
  | dbgSetBe (c : CoreId)
  /-- A received frame of another EtherType, or a PFC or PAUSE frame, is discarded and counted (R364). -/
  | frameDiscard (port : EthPort) (f : Frame)
  /-- A serdes lane swap retrains a link; datagrams in flight are lost and their rounds void (R376). -/
  | linkLoss (link : LinkId)
  /-- Every 2^20 slots the firmware reads junction temperatures and raises or lowers the throttle level (R375). -/
  | thermalReading (t0 t1 t2 t3 : Nat)
  /-- A junction at 105 °C stops every bucket until it falls below 100 °C (R373). -/
  | thermalTrip (temp : Nat)
  /-- The junction falls below 100 °C and bucket rates are restored (R373). -/
  | thermalTripClear (temp : Nat)
  /-- At power-on the die 0 Springhouse verifies and starts the firmware, or falls to recovery (R371). -/
  | powerOnBoot
  /-- A further firmware module is verified before it runs, or is not loaded (R371). -/
  | firmwareModuleLoad (image : List Byte)
  /-- Module reset gives the firmware-set policies their reset values (R393). -/
  | moduleReset
  /-- The firmware remaps a logical resource to its spare when an error count passes threshold (R376). -/
  | spareBringIn (r : Resource)
  /-- A write to a register that has no row of its own stores the value, ignoring reserved bits (R4). -/
  | regWrite (c : CoreId) (t : Tid) (sr : BitVec 5) (v : Word)
  /-- An element whose selected entry, written through the debug port, holds a reserved encoding raises TABLE and consumes nothing (R77). -/
  | tableFault
  /-- The record that a LAUNCH read is checked and queued or refused, and the parked thread receives the TASKID or the refusal reason (R333). -/
  | launchRecordQueued (c : CoreId) (t : Tid)
  /-- The firmware sets launch-queue weights, T_res, the alert temperature, controller-right grants, tenant-to-host bindings and tenant-to-link-queue bindings (R373). -/
  | firmwarePolicySet (p : Policy)
  /-- A received Sluice datagram with a wrong VER, an unknown TYPE or non-zero reserved bytes is discarded (R365). -/
  | datagramDiscard (m : Datagram)
deriving DecidableEq, Repr

/-- The event rows of the opcode table as the schedule names them: the same constructors as Instr's event rows. (The code generator
cannot build constructors of Instr beyond the 245th, so the schedule holds these.) -/
inductive Event where
  | illDecode (w : BitVec 32)
  | fenceComplete (c : CoreId) (t : Tid)
  | tlbinvComplete (c : CoreId) (t : Tid)
  | multiclockDone (c : CoreId) (t : Tid)
  | dcacheLineFill (c : CoreId) (t : Tid)
  | icacheLineFill (c : CoreId) (t : Tid)
  | storePerformed (c : CoreId)
  | poolAccessDone (c : CoreId) (t : Tid)
  | mailboxDelivery (c : CoreId) (q : Fin 4)
  | amoPerformed (c : CoreId) (t : Tid)
  | pageWalk (c : CoreId) (who : Walker)
  | groupOpApplied (c : CoreId) (t : Tid)
  | tagWaitSatisfied (c : CoreId) (t : Tid)
  | nodeRemoteReturn (c : CoreId) (t : Tid)
  | walkLink (c : CoreId) (t : Tid)
  | bindSlotTaken (c : CoreId) (t : Tid)
  | drainTokenInject (c : CoreId) (p : PortId)
  | scfgCheckDone (c : CoreId) (k : StrmId)
  | scfgLoadDone (c : CoreId) (k : StrmId)
  | spliceDone (c : CoreId) (k : StrmId)
  | streamRelease (c : CoreId) (k : StrmId)
  | loaderReadIssue (c : CoreId) (k : StrmId)
  | loaderReadReturn (c : CoreId) (k : StrmId)
  | sinkCellConsume (c : CoreId) (k : StrmId)
  | sinkWritePerformed (c : CoreId) (k : StrmId)
  | streamComplete (c : CoreId) (k : StrmId)
  | meJobQueueFree (c : CoreId) (t : Tid)
  | meFire (c : CoreId)
  | meDrainRow (c : CoreId)
  | meZeroRow (c : CoreId)
  | mePanelCell (c : CoreId) (q : Fin 4)
  | mePreload (c : CoreId) (x : Fin 2)
  | meSteerToken (c : CoreId) (x : Fin 2)
  | mePassBoundary (c : CoreId)
  | meDrnDiscard (c : CoreId) (p : PortId)
  | adapterFetch (c : CoreId)
  | adapterFactorCell (c : CoreId) (x : Fin 2)
  | rbLoadCell (c : CoreId)
  | rbLoadDone (c : CoreId)
  | rbInput (c : CoreId)
  | rbEvalGroup (c : CoreId)
  | rbOutput (c : CoreId)
  | rbRunDone (c : CoreId)
  | rbContextSwitch (c : CoreId)
  | rbModeApply (c : CoreId)
  | rbPassBoundary (c : CoreId)
  | rbDrnDiscard (c : CoreId) (p : PortId)
  | overloadDetect (c : CoreId) (s : StageId)
  | underloadDetect (c : CoreId) (s : StageId)
  | oxbowApproval (c : CoreId) (s : StageId)
  | oxbowRefusal (c : CoreId) (s : StageId)
  | cloneDone (c : CoreId) (s : StageId)
  | splHead (c : CoreId) (e : ElemId)
  | oxbowSwitch (c : CoreId) (s : StageId)
  | oxbowForward (c : CoreId) (e : ElemId)
  | rdeInject (c : CoreId) (e : ElemId)
  | rdeConsumed (c : CoreId) (e : ElemId)
  | holdRelease (c : CoreId) (e : ElemId)
  | mergeStart (c : CoreId) (s : StageId)
  | twinQuiescent (c : CoreId) (s : StageId)
  | mergeDone (c : CoreId) (s : StageId)
  | oxbowTagSet (c : CoreId)
  | descriptorReadDone (c : CoreId) (t : Tid)
  | elementDrain (c : CoreId) (e : ElemId)
  | cellAdmit (c : CoreId) (p : PortId)
  | weirMatch (c : CoreId)
  | cellDelivery (c : CoreId) (p : PortId)
  | rdvSetRelease (c : CoreId) (e : ElemId)
  | rdvStallFault (c : CoreId) (e : ElemId)
  | loopFault (c : CoreId) (l : LoopId)
  | crossbarArrival (c : CoreId) (n : Fin 12)
  | crossbarFanout (c : CoreId) (n : Fin 12)
  | raceScore (c : CoreId) (u : Fin 2)
  | raceEnd (c : CoreId) (u : Fin 2)
  | gateFire (c : CoreId) (g : GateId)
  | bankWrite (c : CoreId) (b : BankId)
  | bankRead (c : CoreId) (b : BankId)
  | bankAdd (c : CoreId) (b : BankId)
  | bankFxadd (c : CoreId) (b : BankId)
  | bankMin (c : CoreId) (b : BankId)
  | bankMax (c : CoreId) (b : BankId)
  | bankTasb (c : CoreId) (b : BankId)
  | bankCas (c : CoreId) (b : BankId)
  | bankXchg (c : CoreId) (b : BankId)
  | bankGather (c : CoreId) (b : BankId)
  | bankScatter (c : CoreId) (b : BankId)
  | bankZero (c : CoreId) (b : BankId)
  | bankOwn (c : CoreId) (b : BankId)
  | bankDrn (c : CoreId) (b : BankId)
  | bankSreadRead (c : CoreId) (b : BankId)
  | patrolRead (w : PatrolTarget) (corrected : Bool)
  | faultRecordPost (c : CoreId)
  | wdogExpire (id : TaskId)
  | taskStop (id : TaskId)
  | launchReservation
  | gangStart
  | firstIssue (id : TaskId)
  | taskEnd (id : TaskId)
  | sluiceRead (h : Ipv6) (m : Datagram)
  | attestationRead (h : Ipv6) (nonce : BitVec 256)
  | sluiceWrite (h : Ipv6) (m : Datagram)
  | submitLaunch (h : Ipv6) (m : Datagram)
  | submitGraph (h : Ipv6) (m : Datagram)
  | timeMessage (h : Ipv6) (m : Datagram) (slewPpm : Int)
  | roundData (link : LinkId) (m : Datagram)
  | roundCommit (c : CoreId) (k : StrmId)
  | roundVoid (c : CoreId) (k : StrmId)
  | peerCellSend (c : CoreId) (k : StrmId)
  | commitMsg (link : LinkId) (m : Datagram)
  | voidMsg (link : LinkId) (m : Datagram)
  | roundTimeout (c : CoreId) (k : StrmId)
  | ackMsg (link : LinkId) (m : Datagram)
  | debugRequest (h : Ipv6) (m : Datagram)
  | debugHostCommand (h : Ipv6) (m : Datagram)
  | debugOutput (c : CoreId)
  | dbgWriteSt (c : CoreId)
  | dbgWriteD (c : CoreId)
  | dbgWriteSf (c : CoreId)
  | dbgWriteP (c : CoreId)
  | dbgWriteEsr (c : CoreId)
  | dbgWriteHead (c : CoreId)
  | dbgWriteTable (c : CoreId)
  | dbgTraceEnable (c : CoreId)
  | dbgSetBe (c : CoreId)
  | frameDiscard (port : EthPort) (f : Frame)
  | linkLoss (link : LinkId)
  | thermalReading (t0 t1 t2 t3 : Nat)
  | thermalTrip (temp : Nat)
  | thermalTripClear (temp : Nat)
  | powerOnBoot
  | firmwareModuleLoad (image : List Byte)
  | moduleReset
  | spareBringIn (r : Resource)
  | regWrite (c : CoreId) (t : Tid) (sr : BitVec 5) (v : Word)
  | tableFault
  | launchRecordQueued (c : CoreId) (t : Tid)
  | firmwarePolicySet (p : Policy)
  | datagramDiscard (m : Datagram)
deriving DecidableEq, Repr

/-- The event an instruction names; none for a sequencer word or an element operation. -/
def Instr.event? (i : Instr) : Option Event :=
  match i with
  | .nop => none
  | .trap _ => none
  | .eret => none
  | .wfe => none
  | .fenceT => none
  | .fenceC => none
  | .fenceL => none
  | .fenceD => none
  | .fenceP => none
  | .fenceS => none
  | .mfs _ _ => none
  | .mts _ _ => none
  | .mtsTime _ => none
  | .mtsAgelim _ => none
  | .mtsSpill _ => none
  | .mtsWdog _ => none
  | .tlbinv _ _ _ => none
  | .resume _ => none
  | .kill _ => none
  | .add _ _ _ => none
  | .sub _ _ _ => none
  | .mul _ _ _ => none
  | .mulh _ _ _ => none
  | .mulhu _ _ _ => none
  | .div _ _ _ => none
  | .divu _ _ _ => none
  | .rem _ _ _ => none
  | .remu _ _ _ => none
  | .and_ _ _ _ => none
  | .or_ _ _ _ => none
  | .xor_ _ _ _ => none
  | .andn _ _ _ => none
  | .shl _ _ _ => none
  | .shr _ _ _ => none
  | .sar _ _ _ => none
  | .shli _ _ _ _ => none
  | .shri _ _ _ _ => none
  | .sari _ _ _ _ => none
  | .min _ _ _ => none
  | .max _ _ _ => none
  | .minu _ _ _ => none
  | .maxu _ _ _ => none
  | .clz _ _ => none
  | .ctz _ _ => none
  | .popc _ _ => none
  | .sextb _ _ => none
  | .sexth _ _ => none
  | .sextw _ _ => none
  | .zextw _ _ => none
  | .ceq _ _ _ => none
  | .cne _ _ _ => none
  | .clt _ _ _ => none
  | .cltu _ _ _ => none
  | .cle _ _ _ => none
  | .cleu _ _ _ => none
  | .pand _ _ _ => none
  | .por _ _ _ => none
  | .pxor _ _ _ => none
  | .pandn _ _ _ => none
  | .pnot _ _ => none
  | .pset _ _ => none
  | .sel _ _ _ _ => none
  | .pmovg _ _ => none
  | .gmovp _ _ => none
  | .addi _ _ _ => none
  | .andi _ _ _ => none
  | .ori _ _ _ => none
  | .xori _ _ _ => none
  | .li _ _ => none
  | .lih _ _ => none
  | .cmpiEq _ _ _ => none
  | .cmpiNe _ _ _ => none
  | .cmpiLt _ _ _ => none
  | .cmpiLtu _ _ _ => none
  | .br _ _ _ => none
  | .jmp _ => none
  | .call _ => none
  | .jr _ => none
  | .callr _ => none
  | .ret => none
  | .ldb _ _ _ => none
  | .ldh _ _ _ => none
  | .ldw _ _ _ => none
  | .ldd _ _ _ => none
  | .ldbu _ _ _ => none
  | .ldhu _ _ _ => none
  | .ldwu _ _ _ => none
  | .stb _ _ _ => none
  | .sth _ _ _ => none
  | .stw _ _ _ => none
  | .std _ _ _ => none
  | .ldp _ _ _ => none
  | .stp _ _ _ => none
  | .aadd _ _ _ _ _ => none
  | .aand _ _ _ _ _ => none
  | .aor _ _ _ _ _ => none
  | .axor _ _ _ _ _ => none
  | .amin _ _ _ _ _ => none
  | .amax _ _ _ _ _ => none
  | .aminu _ _ _ _ _ => none
  | .amaxu _ _ _ _ _ => none
  | .axchg _ _ _ _ _ => none
  | .acas _ _ _ _ _ => none
  | .fxaddAmo _ _ _ _ => none
  | .prefR _ _ => none
  | .prefW _ _ => none
  | .join _ _ => none
  | .leave _ => none
  | .arrive _ => none
  | .gwait _ => none
  | .gsize _ _ => none
  | .yield => none
  | .exit => none
  | .setrole _ => none
  | .tidOf _ => none
  | .launch _ _ => none
  | .twaitany _ _ => none
  | .twaitall _ => none
  | .tffr _ _ => none
  | .tclr _ => none
  | .ttest _ _ => none
  | .apbase _ _ => none
  | .apdim _ _ _ _ => none
  | .apmode _ _ => none
  | .apidx _ _ => none
  | .apget _ _ _ => none
  | .node _ _ => none
  | .trc _ => none
  | .walk _ _ => none
  | .step _ => none
  | .brk _ => none
  | .sload _ _ _ _ => none
  | .sread _ _ _ _ => none
  | .sstore _ _ _ _ => none
  | .sgather _ _ _ _ => none
  | .sscatter _ _ _ _ => none
  | .scell _ _ _ _ => none
  | .sbar _ => none
  | .sdrain _ => none
  | .sedge _ _ => none
  | .sqry _ _ => none
  | .scfg _ _ _ => none
  | .sswap _ _ => none
  | .sarg _ _ => none
  | .ssplice _ _ => none
  | .scancel _ _ => none
  | .mxmode _ => none
  | .mxpanel _ => none
  | .mxrun _ _ _ _ => none
  | .mxdrain _ _ _ _ => none
  | .mxzero _ => none
  | .mxadp _ _ _ => none
  | .mxcode _ _ => none
  | .mxstat _ _ => none
  | .rbload _ _ => none
  | .rbctx _ => none
  | .rbrun _ => none
  | .rbxmode _ _ _ => none
  | .rbstat _ _ => none
  | .oxdecl _ _ => none
  | .oxsplit _ => none
  | .oxmerge _ => none
  | .oxpin _ _ => none
  | .oxqry _ _ => none
  | .rtset _ _ => none
  | .mcset _ _ _ => none
  | .mcsetX _ _ _ _ => none
  | .racecfg _ _ => none
  | .gateset _ _ => none
  | .loopset _ _ => none
  | .elemNop _ => none
  | .mov _ => none
  | .pass _ => none
  | .keyx _ => none
  | .keys _ => none
  | .cntdn _ => none
  | .oxpiv _ => none
  | .oxend _ => none
  | .fadd _ => none
  | .fsub _ => none
  | .fmul _ => none
  | .fma _ => none
  | .fms _ => none
  | .fmin _ => none
  | .fmax _ => none
  | .fabs _ => none
  | .fneg _ => none
  | .fscl _ => none
  | .fred _ => none
  | .frmax _ => none
  | .fcmpeq _ => none
  | .fcmplt _ => none
  | .fcmple _ => none
  | .fsel _ => none
  | .iadd _ => none
  | .isub _ => none
  | .imul _ => none
  | .imac4 _ => none
  | .asub3 _ => none
  | .imin _ => none
  | .imax _ => none
  | .ishl _ => none
  | .ishr _ => none
  | .isar _ => none
  | .iand _ => none
  | .ior _ => none
  | .ixor _ => none
  | .inot _ => none
  | .icmpeq _ => none
  | .icmplt _ => none
  | .cvt _ => none
  | .qnt8 _ => none
  | .dqnt _ => none
  | .unp3 _ => none
  | .pk3 _ => none
  | .lmul _ => none
  | .lacc _ => none
  | .fxcvt _ => none
  | .fxadd _ => none
  | .perm _ => none
  | .bcast _ => none
  | .clamp _ => none
  | .kcmp _ => none
  | .ksel _ => none
  | .illDecode x0 => some (.illDecode x0)
  | .fenceComplete x0 x1 => some (.fenceComplete x0 x1)
  | .tlbinvComplete x0 x1 => some (.tlbinvComplete x0 x1)
  | .multiclockDone x0 x1 => some (.multiclockDone x0 x1)
  | .dcacheLineFill x0 x1 => some (.dcacheLineFill x0 x1)
  | .icacheLineFill x0 x1 => some (.icacheLineFill x0 x1)
  | .storePerformed x0 => some (.storePerformed x0)
  | .poolAccessDone x0 x1 => some (.poolAccessDone x0 x1)
  | .mailboxDelivery x0 x1 => some (.mailboxDelivery x0 x1)
  | .amoPerformed x0 x1 => some (.amoPerformed x0 x1)
  | .pageWalk x0 x1 => some (.pageWalk x0 x1)
  | .groupOpApplied x0 x1 => some (.groupOpApplied x0 x1)
  | .tagWaitSatisfied x0 x1 => some (.tagWaitSatisfied x0 x1)
  | .nodeRemoteReturn x0 x1 => some (.nodeRemoteReturn x0 x1)
  | .walkLink x0 x1 => some (.walkLink x0 x1)
  | .bindSlotTaken x0 x1 => some (.bindSlotTaken x0 x1)
  | .drainTokenInject x0 x1 => some (.drainTokenInject x0 x1)
  | .scfgCheckDone x0 x1 => some (.scfgCheckDone x0 x1)
  | .scfgLoadDone x0 x1 => some (.scfgLoadDone x0 x1)
  | .spliceDone x0 x1 => some (.spliceDone x0 x1)
  | .streamRelease x0 x1 => some (.streamRelease x0 x1)
  | .loaderReadIssue x0 x1 => some (.loaderReadIssue x0 x1)
  | .loaderReadReturn x0 x1 => some (.loaderReadReturn x0 x1)
  | .sinkCellConsume x0 x1 => some (.sinkCellConsume x0 x1)
  | .sinkWritePerformed x0 x1 => some (.sinkWritePerformed x0 x1)
  | .streamComplete x0 x1 => some (.streamComplete x0 x1)
  | .meJobQueueFree x0 x1 => some (.meJobQueueFree x0 x1)
  | .meFire x0 => some (.meFire x0)
  | .meDrainRow x0 => some (.meDrainRow x0)
  | .meZeroRow x0 => some (.meZeroRow x0)
  | .mePanelCell x0 x1 => some (.mePanelCell x0 x1)
  | .mePreload x0 x1 => some (.mePreload x0 x1)
  | .meSteerToken x0 x1 => some (.meSteerToken x0 x1)
  | .mePassBoundary x0 => some (.mePassBoundary x0)
  | .meDrnDiscard x0 x1 => some (.meDrnDiscard x0 x1)
  | .adapterFetch x0 => some (.adapterFetch x0)
  | .adapterFactorCell x0 x1 => some (.adapterFactorCell x0 x1)
  | .rbLoadCell x0 => some (.rbLoadCell x0)
  | .rbLoadDone x0 => some (.rbLoadDone x0)
  | .rbInput x0 => some (.rbInput x0)
  | .rbEvalGroup x0 => some (.rbEvalGroup x0)
  | .rbOutput x0 => some (.rbOutput x0)
  | .rbRunDone x0 => some (.rbRunDone x0)
  | .rbContextSwitch x0 => some (.rbContextSwitch x0)
  | .rbModeApply x0 => some (.rbModeApply x0)
  | .rbPassBoundary x0 => some (.rbPassBoundary x0)
  | .rbDrnDiscard x0 x1 => some (.rbDrnDiscard x0 x1)
  | .overloadDetect x0 x1 => some (.overloadDetect x0 x1)
  | .underloadDetect x0 x1 => some (.underloadDetect x0 x1)
  | .oxbowApproval x0 x1 => some (.oxbowApproval x0 x1)
  | .oxbowRefusal x0 x1 => some (.oxbowRefusal x0 x1)
  | .cloneDone x0 x1 => some (.cloneDone x0 x1)
  | .splHead x0 x1 => some (.splHead x0 x1)
  | .oxbowSwitch x0 x1 => some (.oxbowSwitch x0 x1)
  | .oxbowForward x0 x1 => some (.oxbowForward x0 x1)
  | .rdeInject x0 x1 => some (.rdeInject x0 x1)
  | .rdeConsumed x0 x1 => some (.rdeConsumed x0 x1)
  | .holdRelease x0 x1 => some (.holdRelease x0 x1)
  | .mergeStart x0 x1 => some (.mergeStart x0 x1)
  | .twinQuiescent x0 x1 => some (.twinQuiescent x0 x1)
  | .mergeDone x0 x1 => some (.mergeDone x0 x1)
  | .oxbowTagSet x0 => some (.oxbowTagSet x0)
  | .descriptorReadDone x0 x1 => some (.descriptorReadDone x0 x1)
  | .elementDrain x0 x1 => some (.elementDrain x0 x1)
  | .cellAdmit x0 x1 => some (.cellAdmit x0 x1)
  | .weirMatch x0 => some (.weirMatch x0)
  | .cellDelivery x0 x1 => some (.cellDelivery x0 x1)
  | .rdvSetRelease x0 x1 => some (.rdvSetRelease x0 x1)
  | .rdvStallFault x0 x1 => some (.rdvStallFault x0 x1)
  | .loopFault x0 x1 => some (.loopFault x0 x1)
  | .crossbarArrival x0 x1 => some (.crossbarArrival x0 x1)
  | .crossbarFanout x0 x1 => some (.crossbarFanout x0 x1)
  | .raceScore x0 x1 => some (.raceScore x0 x1)
  | .raceEnd x0 x1 => some (.raceEnd x0 x1)
  | .gateFire x0 x1 => some (.gateFire x0 x1)
  | .bankWrite x0 x1 => some (.bankWrite x0 x1)
  | .bankRead x0 x1 => some (.bankRead x0 x1)
  | .bankAdd x0 x1 => some (.bankAdd x0 x1)
  | .bankFxadd x0 x1 => some (.bankFxadd x0 x1)
  | .bankMin x0 x1 => some (.bankMin x0 x1)
  | .bankMax x0 x1 => some (.bankMax x0 x1)
  | .bankTasb x0 x1 => some (.bankTasb x0 x1)
  | .bankCas x0 x1 => some (.bankCas x0 x1)
  | .bankXchg x0 x1 => some (.bankXchg x0 x1)
  | .bankGather x0 x1 => some (.bankGather x0 x1)
  | .bankScatter x0 x1 => some (.bankScatter x0 x1)
  | .bankZero x0 x1 => some (.bankZero x0 x1)
  | .bankOwn x0 x1 => some (.bankOwn x0 x1)
  | .bankDrn x0 x1 => some (.bankDrn x0 x1)
  | .bankSreadRead x0 x1 => some (.bankSreadRead x0 x1)
  | .patrolRead x0 x1 => some (.patrolRead x0 x1)
  | .faultRecordPost x0 => some (.faultRecordPost x0)
  | .wdogExpire x0 => some (.wdogExpire x0)
  | .taskStop x0 => some (.taskStop x0)
  | .launchReservation => some .launchReservation
  | .gangStart => some .gangStart
  | .firstIssue x0 => some (.firstIssue x0)
  | .taskEnd x0 => some (.taskEnd x0)
  | .sluiceRead x0 x1 => some (.sluiceRead x0 x1)
  | .attestationRead x0 x1 => some (.attestationRead x0 x1)
  | .sluiceWrite x0 x1 => some (.sluiceWrite x0 x1)
  | .submitLaunch x0 x1 => some (.submitLaunch x0 x1)
  | .submitGraph x0 x1 => some (.submitGraph x0 x1)
  | .timeMessage x0 x1 x2 => some (.timeMessage x0 x1 x2)
  | .roundData x0 x1 => some (.roundData x0 x1)
  | .roundCommit x0 x1 => some (.roundCommit x0 x1)
  | .roundVoid x0 x1 => some (.roundVoid x0 x1)
  | .peerCellSend x0 x1 => some (.peerCellSend x0 x1)
  | .commitMsg x0 x1 => some (.commitMsg x0 x1)
  | .voidMsg x0 x1 => some (.voidMsg x0 x1)
  | .roundTimeout x0 x1 => some (.roundTimeout x0 x1)
  | .ackMsg x0 x1 => some (.ackMsg x0 x1)
  | .debugRequest x0 x1 => some (.debugRequest x0 x1)
  | .debugHostCommand x0 x1 => some (.debugHostCommand x0 x1)
  | .debugOutput x0 => some (.debugOutput x0)
  | .dbgWriteSt x0 => some (.dbgWriteSt x0)
  | .dbgWriteD x0 => some (.dbgWriteD x0)
  | .dbgWriteSf x0 => some (.dbgWriteSf x0)
  | .dbgWriteP x0 => some (.dbgWriteP x0)
  | .dbgWriteEsr x0 => some (.dbgWriteEsr x0)
  | .dbgWriteHead x0 => some (.dbgWriteHead x0)
  | .dbgWriteTable x0 => some (.dbgWriteTable x0)
  | .dbgTraceEnable x0 => some (.dbgTraceEnable x0)
  | .dbgSetBe x0 => some (.dbgSetBe x0)
  | .frameDiscard x0 x1 => some (.frameDiscard x0 x1)
  | .linkLoss x0 => some (.linkLoss x0)
  | .thermalReading x0 x1 x2 x3 => some (.thermalReading x0 x1 x2 x3)
  | .thermalTrip x0 => some (.thermalTrip x0)
  | .thermalTripClear x0 => some (.thermalTripClear x0)
  | .powerOnBoot => some .powerOnBoot
  | .firmwareModuleLoad x0 => some (.firmwareModuleLoad x0)
  | .moduleReset => some .moduleReset
  | .spareBringIn x0 => some (.spareBringIn x0)
  | .regWrite x0 x1 x2 x3 => some (.regWrite x0 x1 x2 x3)
  | .tableFault => some .tableFault
  | .launchRecordQueued x0 x1 => some (.launchRecordQueued x0 x1)
  | .firmwarePolicySet x0 => some (.firmwarePolicySet x0)
  | .datagramDiscard x0 => some (.datagramDiscard x0)

end Sys2Proof
end

