-- ==== Sys2Proof/Config.lean ====
section
/-! DEFINITION. What the spec leaves open, as constants without a body: nothing in Lean can evaluate them, so a claim holds whatever
they are. Choices that need a fresh value each time are applied to State.fresh, see log entries 2, 70 and 99. -/

namespace Sys2Proof.Config

/-- The way, among eight, that a line fill replaces in a full set (R236 gives the ways and no policy). [log entry 2, DESIGN CHOICE] -/
opaque victimWay : Nat → Nat

/-- The TLB entry that a walk replaces when all are in use (R255 gives no policy). [log entry 2, DESIGN CHOICE] -/
opaque victimTlb : Nat → Nat

/-- Whether a prefetch that may fill does fill (R249). [log entry 2, DESIGN CHOICE] -/
opaque prefetchFills : Nat → Bool

/-- The POS of an event record whose chapter gives none (R361). [log entry 2, DESIGN CHOICE] -/
opaque eventPos : Nat → BitVec 64

/-- What NODE reads of an in-flight entry where R343 gives neither a state code nor a position. [log entry 2, DESIGN CHOICE] -/
opaque inflightCode : Nat → BitVec 8
opaque inflightPos : Nat → BitVec 64

/-- The reason in a walker register for a link that R341's list of reasons does not name. [log entry 2, DESIGN CHOICE] -/
opaque linkReason : Nat → BitVec 4

/-- The frame of a tenant's level-1 table, which the launch hardware puts into PTBASE (R82, R353). It lies in HBM, so bits 43:40 of its
physical address are zero (R234). [log entry 70, PRESUMED] -/
opaque tenantTable : BitVec 6 → BitVec 24

/-- The SM3 digest of an image (R371, GB/T 32905), named by the spec and not defined in it. [log entry 99, DESIGN CHOICE] -/
opaque sm3 : List Byte → BitVec 256

/-- Whether the SM2 signature of an image holds (R371, GB/T 32918). [log entry 99, DESIGN CHOICE] -/
opaque sm2Verify : List Byte → Bool

/-- The SM2 signature of a report under the module's private key (R372). [log entry 99, DESIGN CHOICE] -/
opaque sm2Sign : List Byte → BitVec 512

/-- The firmware image slots of the on-package flash (R371). [log entry 99, DESIGN CHOICE] -/
opaque flashImage : Fin 2 → List Byte

/-- The digest of a repair map (R372), whose layout the spec does not give. [log entry 99, DESIGN CHOICE] -/
opaque repairDigest : List (Resource × Nat) → BitVec 256

/-- What a status READ answers while the module is in recovery (R371). [log entry 99, DESIGN CHOICE] -/
opaque recoveryStatus : List Byte

/-- Which of the two host ports a host's address is reached by, that of die 0 or of die 1: the spec gives no rule (R14). [log entry 139, DESIGN CHOICE] -/
opaque hostDie : Ipv6 → Fin 2

/-- The fuse version (R372). [log entry 99, DESIGN CHOICE] -/
opaque fuseVersion : BitVec 32

/-- The format of a channel head whose VC has no valid entry in the map of the firing clock, by VC: the map was swapped after the cell
was delivered, and R125 and R275 give it no format. RAW to format 14, since no register holds code 15 (R30). [log entry 111, DESIGN
CHOICE] -/
opaque strayFmt : BitVec 5 → Fin 15

/-- Indices 8 to 14 of a steering register whose k' exceeds the eight that it holds (R170, R193): no rule gives them. [log entry 112,
DESIGN CHOICE] -/
opaque steerIndex : Nat → BitVec 8

end Sys2Proof.Config
end

