-- ==== Sys2Proof/Machine/State.lean ====
section
/-! DEFINITION. The state of the module as plain data: every piece of state that spec/ names (INVENTORY.md lists them with their
rules), and State.reset, the module right after reset with no task placed. Fields marked "the model's own" carry the schedule, the
free-value counter and the bookkeeping that the rules imply; notes/assumptions says which. -/

namespace Sys2Proof.Machine

/-- Bytes by address, addresses strictly rising, no entry 0x00, which is what an unlisted address reads as (log entry 3). -/
abbrev Memory := List Host.Cell

/-- A finite map by number: keys strictly rising; what an unlisted key holds is said at each use. -/
abbrev Sparse (α : Type) := List (Nat × α)

/-- What stops the machine. -/
inductive Fault where
  /-- A physical address with bits 43:40 not zero was reached: it addresses nothing (R234). Raised by the accessors of HBM when a
  controller thread has put such a frame into PTBASE. Safe: no claim about a next state can use the missing bytes. -/
  | absentPhysical
deriving DecidableEq, Repr

/-- What has no meaning in the model. -/
inductive Refusal where
  /-- The instruction's arm has no meaning yet. Safe: nothing is claimed of it. -/
  | notModelled (mnemonic : String)
deriving DecidableEq, Repr

/-! ## Cells -/

/-- The cell header (R166). -/
structure Header where
  ep  : BitVec 7 := 0
  vc  : BitVec 5 := 0
  cop : BitVec 4 := 0
  tag : BitVec 3 := 0
  key : Key := 0
  rid : BitVec 8 := 0
  opx : BitVec 2 := 0
  opn : BitVec 2 := 0
  ip  : BitVec 7 := 0
  mc  : BitVec 6 := 0
  seq : BitVec 4 := 0
deriving DecidableEq, Repr

/-- Where a cell goes beyond the crossbar (R194). -/
structure Far where
  core : CoreId
  port : BitVec 7
  vc   : BitVec 5
  mc   : BitVec 6
deriving DecidableEq, Repr

/-- What the counters remember of a cell: the loop budget it was counted against (R186, R283), its multicast copy set, the source
stream and cell number (R218), the Oxbow counts it belongs to (R311, R317), whether the Oxbow offered it as SPL (R311) or forwarded it on
RVC (R315), whether it came in at MGMT (R369), whether the switch counted it (R315), and the slot from which its holder can act on it (R174). -/
structure Meta where
  loop  : Option LoopId := none
  copy  : Option Nat := none
  strm  : Option (StrmId × Nat) := none
  rtn   : Option (CoreId × StageId) := none
  twin  : Option (CoreId × StageId) := none
  spl   : Bool := false
  fwd   : Bool := false
  mgmt  : Bool := false
  pend  : Bool := false
  since : Nat := 0
deriving DecidableEq, Repr

/-- A cell: header, 256 bytes of payload, the far end when it leaves the core, and the bookkeeping. -/
structure Cell where
  h    : Header := {}
  data : Payload := 0
  far  : Option Far := none
  m    : Meta := {}
deriving DecidableEq, Repr

/-- How an offered cell gets its destination: from its own header, from a route entry read at admission (R192), or injected by the
Oxbow into channel C0 of an element (R311). -/
inductive Via where
  | direct
  | entry (e : BitVec 8)
deriving DecidableEq, Repr

/-- A cell that a unit offers to its ingress port (R173). elem names the element whose steering registers a STEER entry reads (R193);
keyed marks a source stream's cell whose KEY follows its destination (R209); who names the waiting thread of SCELL, SDRAIN or TRC;
uni marks a gate's EOR, whose entry must be UNI (R338); since is the first slot in which the offer stands; row is the job, tile and row of
a cell that the matrix engine's drain path emits (R165). -/
structure Offer where
  via   : Via := .direct
  cell  : Cell := {}
  elem  : Option ElemId := none
  who   : Option Tid := none
  keyed : Bool := false
  uni   : Bool := false
  since : Nat := 0
  row   : Option (Nat × Bool × Nat) := none
  /-- the job of row has left the queue: its place is the one that it had last -/
  rowLeft : Bool := false
deriving DecidableEq, Repr

/-- The pool of the ingress buffer that a queued cell's place came from (R173). -/
inductive Place where
  | reserved | express | shared
deriving DecidableEq, Repr

structure Queued where
  cell  : Cell
  place : Place
deriving DecidableEq, Repr

/-- Counts of one virtual output queue, keyed by 32 * egress + VC: admissions (SEQ, R167), head age (R178), FULL and MOVING (R337);
EMPTY is what remains of the slots since launch. -/
structure QStat where
  admitted : Nat := 0
  age      : Nat := 0
  full     : BitVec 32 := 0
  moving   : BitVec 32 := 0
  moved    : Bool := false
deriving DecidableEq, Repr

/-- A multicast cell and its residue (R179). -/
structure McEntry where
  cell    : Cell
  residue : BitVec 128
deriving DecidableEq, Repr

/-- A frozen unit: the fault kind (R359), the fault record's header or argument, and whether the record was posted. -/
structure Frozen where
  kind : BitVec 8
  arg  : BitVec 64 := 0
  /-- the cell that RESUME discards (R165, R184, R302) -/
  drop : Bool := false
deriving DecidableEq, Repr

/-- A Spillway bucket (R85, R188): base RATE, DEPTH, the level in units of 1/1,024 cell, and a written RATE and DEPTH, which take effect
from the next slot. -/
structure Bucket where
  rate  : Nat
  depth : Nat
  level : Nat
  late  : Option (Nat × Nat) := none
deriving DecidableEq, Repr

/-- What an ingress port waits for when a loop budget holds its cell (R187): the budget, the first slot of the wait, and the header. -/
structure LoopWait where
  loop  : LoopId
  since : Nat
  h     : BitVec 64
deriving DecidableEq, Repr

/-- The ingress side of a Weir port (R170): its unit's output buffer, cells offered ahead of it (R315, R338), the queues, the multicast
queue, the accept pointers, the bucket, and the count of admissions (R336). -/
structure Ingress where
  obuf     : List Offer := []
  ahead    : List Offer := []
  buf      : List Queued := []
  mcq      : List McEntry := []
  mcAge    : Nat := 0
  mcMoved  : Bool := false
  qstat    : Sparse QStat := []
  accept   : Vector (BitVec 7) 4 := Vector.replicate 4 0
  frozen   : Option Frozen := none
  bucket   : Bucket := { rate := 0, depth := 0, level := 0 }
  admitted : Nat := 0
  took     : Bool := false
  /-- a cell has come from the crossbar in this slot: a NET port takes one (R14) -/
  came     : Bool := false
  waiting  : Option LoopWait := none
  passes   : BitVec 32 := 0
deriving DecidableEq, Repr

/-- A channel (R172): its cells, the places freed in this slot (R174), the ingress port that last delivered into it (R340), its counts
(R337) and whether its unit consumed a cell in this slot; put counts the cells that a released set has brought in this slot (R174, R182). -/
structure Chan where
  cells : List Cell := []
  freed : Nat := 0
  fed   : Option PortId := none
  full  : BitVec 32 := 0
  moving : BitVec 32 := 0
  moved : Bool := false
  put   : Nat := 0
deriving DecidableEq, Repr

/-- An open rendezvous set (R182, R183): its RID, the operands needed and those that have arrived. -/
structure RdvSet where
  rid  : BitVec 8
  opn  : BitVec 2
  ops  : List Cell
deriving DecidableEq, Repr

/-- The egress side of a Weir port: channels C0-C3 (only elements have more than one), the rendezvous buffer with its count of released
sets and of slots without release (R184), the cells matched and not yet delivered with the slot of their match (R174), the Oxbow hold
queue (R303) and whether it is releasing (R316), whether IVC cells are held (R316), the pending count of a stage port (R315) and whether
its RDE was sent, the grant pointers, and the count of pass boundaries the unit has crossed. -/
structure Egress where
  chans    : Vector Chan 4 := Vector.replicate 4 {}
  rdv      : List RdvSet := []
  rdvRel   : Nat := 0
  rdvStall : Nat := 0
  /-- the RIDs of the sets released in this slot: the report counts them as open until the next one (R174, R183) -/
  rdvGone  : List (BitVec 8) := []
  flight   : List (Nat × Cell) := []
  hold     : List Cell := []
  /-- the VC whose cells are held (R316), the slot after whose admissions they are held (R317), and an RDE of the Oxbow that has arrived -/
  holding  : Option (BitVec 5) := none
  holdFrom : Nat := 0
  rdeIn    : Option Cell := none
  holdOpen : Bool := false
  /-- the hold of an earlier merge is still releasing: cells admitted up to holdFrom wait behind it and are released (R270, R317) -/
  holdOld  : Bool := false
  /-- the first slot in which the hold queue can release its next cell (R316), and an SPL of the Oxbow waiting behind the cells that were
  there before it (R311) -/
  holdAt   : Nat := 0
  splIn    : Option Cell := none
  pending  : BitVec 16 := 0
  rdeSent  : Bool := false
  frozen   : Option Frozen := none
  badCell  : Option Cell := none
  grant    : Vector (BitVec 7) 4 := Vector.replicate 4 0
  passes   : BitVec 32 := 0
  /-- a NET port: the cells that it has handed to the crossbar -/
  handed   : Nat := 0
deriving DecidableEq, Repr

/-- A loop budget (R186, R187, R337). -/
structure LoopB where
  budget   : BitVec 16 := 65535
  inflight : Nat := 0
  /-- cells consumed in this slot: admission sees the lower count from the next slot (R186, R203) -/
  freed    : Nat := 0
  admitted : Nat := 0
  stall    : Nat := 0
  quiet    : BitVec 32 := 0
  active   : Bool := false
  consumed : Bool := false
  frozen   : Bool := false
deriving DecidableEq, Repr

/-! ## Sequencer -/

/-- Thread states (R80). -/
inductive TState where
  | idle | ready | busy | parked | frozen
deriving DecidableEq, Repr

/-- The kind of an access (R105). -/
inductive Kind where
  | read | write | execute
deriving DecidableEq, Repr

/-- The ordering a FENCE waits for (R250). -/
inductive Scope where
  | c | l | d | p | s
deriving DecidableEq, Repr

/-- An atomic operation (R247). -/
inductive AmoOp where
  | add | and | or | xor | min | max | minu | maxu | xchg | cas | fxadd
deriving DecidableEq, Repr

/-- The operation of a group form (R331). -/
inductive GroupOp where
  | join | leave | arrive | gwait | gsize | exit
deriving DecidableEq, Repr

/-- What a descriptor read serves (R161, R200, R230, R306). -/
inductive Desc where
  | rtset (e : BitVec 8)
  | mxadp (slot : BitVec 4) (id : Word)
  | oxdecl (s : BitVec 3)
  | sedge (g : Word) (tag : BitVec 6)
deriving DecidableEq, Repr

/-- A stream-binding form's fields (R212). -/
structure BindReq where
  fn   : BitVec 4
  port : BitVec 7
  pat  : BitVec 256
  aux  : BitVec 256
  tag  : BitVec 6
  vc   : BitVec 5
deriving DecidableEq, Repr

/-- A job of the matrix engine (R145). -/
inductive MeKind where
  | run | drain | zero
deriving DecidableEq, Repr

/-- A queued ME job: for a run R159, for a drain R160, for a clear R162. rows is the row count n, the captured count c, or 256; done the
rows fired, drained or cleared; since the slot from which it can act. -/
structure MeJob where
  kind   : MeKind
  tile   : Bool
  rows   : Nat
  done   : Nat := 0
  mode   : BitVec 4 := 4
  chain  : BitVec 2 := 0
  pass   : Bool := false
  buf    : Bool := false
  keep   : Bool := false
  kpanel : BitVec 8 := 0
  npanel : BitVec 8 := 0
  fmt    : BitVec 4 := 0
  token  : Bool := false
  route  : Option (BitVec 8) := none
  tag    : Option (BitVec 6) := none
  since  : Nat := 0
deriving DecidableEq, Repr

/-- A Reedbed job (R294); seq is its place in issue order. -/
inductive RbKind where
  | load (ctx : Fin 8) (cells : Nat)
  | ctx (ctx : Fin 8)
  | run (batch : Nat)
  | mode (word : BitVec 8)
deriving DecidableEq, Repr

structure RbJob where
  kind  : RbKind
  tag   : Option (BitVec 6) := none
  seq   : Nat := 0
  since : Nat := 0
deriving DecidableEq, Repr

/-- What a BUSY or PARKED thread waits for (R80, R91, R92). -/
inductive Pend where
  | none
  /-- BUSY (R92): destination, result and the last BUSY slot -/
  | result (d : BitVec 5) (v : Word) (last : Nat)
  /-- a page walk for this VA (R253); the instruction issues again when the translation is in the TLB -/
  | walk (va : VA) (k : Kind)
  /-- an instruction-cache line fill (R91) -/
  | ifetch (line : Nat)
  /-- a data-cache line fill for a load: PA, width, sign extension, destination; keep says whether the line is installed (R250) -/
  | load (pa : Nat) (w : Nat) (sx : Bool) (d : BitVec 5) (keep : Bool)
  /-- a store waiting for a place in the write buffer (R245) -/
  | store (va : Nat) (pa : Nat) (w : Nat) (v : Word)
  /-- LDP waiting for its bank (R246) -/
  | ldp (d : BitVec 5)
  /-- an empty mailbox: destination and window offset (R242) -/
  | mailbox (d : BitVec 5) (off : Nat)
  /-- an AMO: operation, width in bytes, pool space, address, operand, destination, its compare value; posted says that the bank has it; the
  VA that was translated (R256) -/
  | amo (op : AmoOp) (w : Nat) (pool : Bool) (a : Nat) (b : Word) (d : BitVec 5) (cmp : Word) (posted : Bool) (va : Nat)
  | wfe
  /-- a FENCE: its scope, and for P the rounds that stood whole at its issue: stream slot, round, voids until then (R250) -/
  | fence (sc : Scope) (rounds : List (Nat × Nat × Nat))
  | tlbinv (ten : Tenant) (lo hi : Nat)
  | group (op : GroupOp) (g : Nat) (d : BitVec 5)
  /-- GWAIT after its operation took effect: parked while phase(g) = q (R331) -/
  | gwait (g : Nat) (q : BitVec 16)
  | tagAny (d : BitVec 5) (mask : Word)
  | tagAll (mask : Word)
  | node (d : BitVec 5) (sel : Word)
  | trc
  /-- WALK: destination, units so far in reverse order (R341) -/
  | sounding (d : BitVec 5) (chain : List (BitVec 32))
  | bind (r : BindReq) (own : Option Bool)
  /-- SCELL: the cell to offer; offered says that it stands at the SEQ port -/
  | scell (addr : Nat) (h : Header) (offered : Bool)
  | sdrain
  /-- SCFG waiting for a stream slot and a loader -/
  | scfg (va : VA) (slot : Bool) (tag : BitVec 6)
  | scancel (d : BitVec 5) (k : StrmId)
  /-- SSPLICE waiting for a storer, with its word for a late ILL (R60) -/
  | splice (k : StrmId) (page : Nat) (frame : Nat) (tag : BitVec 6) (word : Nat)
  /-- the read of a record at a physical address -/
  | desc (what : Desc) (pa : Nat) (word : Nat)
  /-- SEDGE waiting for its stream slot, with its word for a late ILL (R60) -/
  | edge (d : BitVec 512) (entry : BitVec 8) (tag : BitVec 6) (word : Nat)
  | meJob (j : MeJob)
  | rbJob (j : RbJob)
  | launch (d : BitVec 5) (pa : Nat)
deriving DecidableEq, Repr

/-- A sequencer thread (R79-R82, R204, R242, R325). g holds G0-G31 with G0 kept zero; p holds P0-P7 with P0 kept true. -/
structure Thread where
  st      : TState := .idle
  g       : Vector Word 32 := Vector.replicate 32 0
  p       : BitVec 8 := 1
  ap      : Vector (BitVec 256) 16 := Vector.replicate 16 0
  pc      : VA := 0
  epc     : VA := 0
  ecause  : BitVec 8 := 0
  eval    : Word := 0
  fxsat   : Bool := false
  be      : Bool := false
  ev      : Bool := false
  exl     : Bool := false
  cm      : Bool := false
  role    : BitVec 2 := 0
  pend    : Pend := .none
  /-- the slot in which the thread last became READY; its age is the slots since (R89) -/
  readyAt : Nat := 0
  /-- the slot after a YIELD (R333) -/
  yielded : Option Nat := none
  barMask : BitVec 32 := 0
  arm     : Option (Nat × BitVec 16) := none
  mailbox : List Cell := []
  issued  : BitVec 64 := 0
  parkedClocks : BitVec 64 := 0
deriving DecidableEq, Repr

/-- A store in the write buffer (R245). -/
structure BufStore where
  t  : Tid
  va : Nat
  pa : Nat
  w  : Nat
  v  : Word
deriving DecidableEq, Repr

/-- A data or instruction cache line: its number PA / 64 and its 64 bytes (R236). -/
structure Line where
  no   : Nat
  data : BitVec 512
  used : Nat := 0
deriving DecidableEq, Repr

/-- A TLB entry or generator extent (R215, R254, R255): the VA page number (VA / 2^16) or block number (VA / 2^29), the frame, and the
permissions and D it was filled with. -/
structure Xlat where
  block : Bool
  no    : Nat
  frame : BitVec 28
  w     : Bool
  x     : Bool
  dirty : Bool
  ten   : Tenant
deriving DecidableEq, Repr

/-- What a direct pool access of a thread asks of its bank (R238). -/
inductive DirectOp where
  | load
  | store (v : Word)
  | amo
deriving DecidableEq, Repr

structure Direct where
  t    : Tid
  addr : Nat
  op   : DirectOp
deriving DecidableEq, Repr

/-! ## Elements and configuration slots -/

/-- A D register with its format tag and SF entry (R116). -/
structure DReg where
  data : Payload := 0
  fmt  : Fmt := 0
  key  : Key := 0
deriving DecidableEq, Repr

/-- A steering register (R170, R193): k' and eight indices. -/
structure Steer where
  k   : BitVec 4 := 0
  idx : Vector (BitVec 8) 8 := Vector.replicate 8 0
deriving DecidableEq, Repr

/-- An element (R115); p holds P0 in bit 0 and P1 in bit 1. ended: it has fired OXEND and waits for the switch (R314); splSeen: the
Oxbow's SPL at C0's head has set ST (R311). -/
structure Elem where
  st      : BitVec 6 := 0
  d       : Vector DReg 4 := Vector.replicate 4 {}
  p       : BitVec 2 := 0
  esr     : BitVec 32 := 0
  k       : Word := 0
  kpend   : Option Word := none
  sg      : Vector Steer 4 := Vector.replicate 4 {}
  frozen  : Option Frozen := none
  halted  : Bool := false
  credit  : Bool := false
  firings : BitVec 64 := 0
  passes  : BitVec 32 := 0
  ended   : Bool := false
  splSeen : Bool := false
  /-- the slot in which it has acted: it fires, drains or takes an SPL at most once a clock (R19, R126, R311) -/
  acted   : Option Nat := none
deriving DecidableEq, Repr

/-- The ELEMENT contents of a configuration slot (R279). -/
structure ElemCfg where
  table  : Vector (BitVec 64) 32 := Vector.replicate 32 0
  lits   : Vector Payload 8 := Vector.replicate 8 0
  litFmt : Vector Fmt 8 := Vector.replicate 8 0
  initSt : BitVec 6 := 0
  clr    : Bool := false
  esrc   : BitVec 16 := 0
  k      : Word := 0
  out    : Vector (BitVec 16) 4 := Vector.replicate 4 0
  vcmap  : Vector (BitVec 16) 32 := Vector.replicate 32 0
deriving DecidableEq, Repr

/-- Slot states (R273). -/
inductive SlotState where
  | empty | loading | loaded | active | faulted
deriving DecidableEq, Repr

/-- A triple of the drain list (R278). -/
structure Drain where
  inp : BitVec 7
  out : BitVec 7
  vc  : BitVec 5
deriving DecidableEq, Repr

/-- A configuration slot (R273). -/
structure Slot where
  st       : SlotState := .empty
  elems    : Vector ElemCfg 32 := Vector.replicate 32 {}
  vct      : Vector (BitVec 16) 32 := Vector.replicate 32 0
  reply    : Vector (Vector (BitVec 16) 32) 48 := Vector.replicate 48 (Vector.replicate 32 0)
  portbind : Vector (BitVec 16) 12 := Vector.replicate 12 0
  drain    : List Drain := []
  node     : Vector (BitVec 64) 160 := Vector.replicate 160 0
  routes   : Sparse (BitVec 256) := []
  mcast    : Sparse (BitVec 128) := []
  race     : Sparse (BitVec 64) := []
deriving DecidableEq, Repr

/-- A pending SSWAP (R223): the slot, the boundary count k (0: the next one), the boundaries counted so far. -/
structure Swap where
  slot  : Bool
  count : Nat
  seen  : Nat := 0
deriving DecidableEq, Repr

/-! ## Banks, engines, streams -/

/-- A write on a bank's system path (R238): pool address and bytes, the lowest first; load names the SCFG stream it belongs to (R281); ring
marks a fault record (R362). -/
structure SysWrite where
  addr  : Nat
  bytes : List Byte
  load  : Option StrmId := none
  ring  : Bool := false
deriving DecidableEq, Repr

/-- A bank unit (R236, R238, R241). -/
structure Bank where
  fxsat  : Bool := false
  owner  : Bool := false
  cecnt  : BitVec 32 := 0
  rot    : Fin 4 := 0
  sys    : List SysWrite := []
  frozen : Option Frozen := none
  ops    : BitVec 64 := 0
  passes : BitVec 32 := 0
  reqAt  : Nat := 0
  served : Bool := false
deriving DecidableEq, Repr

/-- An accumulator row with its adapter vector, id, last-panel bit, N-panel index, and the slot from which a job can use it (R141, R145). -/
structure AccRow where
  acc   : BitVec 16384 := 0
  tv    : BitVec 2048 := 0
  aid   : BitVec 6 := 63
  lp    : Bool := false
  npi   : BitVec 8 := 0
  ready : Nat := 0
deriving DecidableEq, Repr

structure Tile where
  isInt : Bool := false
  rows  : Sparse AccRow := []
  rc    : Nat := 0
  stk   : Option (BitVec 8) := none
  /-- the first slot in which a job can read the token (R152) -/
  stkAt : Nat := 0
deriving DecidableEq, Repr

/-- A panel buffer (R144): cells by number, and how many each MXB port has delivered. -/
structure Panel where
  cells : Sparse Payload := []
  cnt   : Vector Nat 4 := Vector.replicate 4 0
  full  : Bool := false
  /-- the first slot at whose start it is full (R146) -/
  since : Nat := 0
deriving DecidableEq, Repr

/-- An adapter slot (R156), with the first slots at whose start its slices are there (R146). -/
structure AdSlot where
  id   : BitVec 6 := 63
  u    : Option (BitVec 8) := none
  v    : Option (BitVec 8) := none
  uAt  : Nat := 0
  /-- the U slice was fetched as its first 32 cells, for a BF16 or FP16 run (R155) -/
  uHalf : Bool := false
  vAt  : Nat := 0
  ucells : Sparse Payload := []
  vcells : Sparse Payload := []
  used : Nat := 0
deriving DecidableEq, Repr

/-- An outstanding fetch of factor cells (R155): its loader, the VA of its first cell, the cells read, arrived and to come in all. -/
structure Fetch where
  slot  : Fin 16
  id    : BitVec 6
  index : BitVec 8
  loader : Fin 8
  vc    : BitVec 5
  va    : Nat
  asked : Nat := 0
  next  : Nat := 0
  total : Nat
deriving DecidableEq, Repr

/-- What the engine writes at the end of a slot: a preload cell's 64 words, in the slot given (R148); a descriptor and the slots it
changes (R161). -/
inductive MeLate where
  | preload (due : Nat) (tile : Bool) (row chunk : Nat) (data : Payload)
  | adapter (slot : BitVec 4) (id : BitVec 6) (d : BitVec 256)
deriving DecidableEq, Repr

/-- The matrix engine (R141); drainAt is the first slot in which the drain path can emit its next row (R145). -/
structure Me where
  pb      : Vector Panel 2 := Vector.replicate 2 {}
  fptr    : Bool := false
  cptr    : Bool := false
  keep    : Option Bool := none
  mode    : BitVec 4 := 4
  tiles   : Vector Tile 2 := Vector.replicate 2 {}
  dir     : Sparse (BitVec 256) := []
  slots   : Vector AdSlot 16 := Vector.replicate 16 {}
  cta     : Vector (BitVec 32) 4
  cts     : Vector (BitVec 32) 4
  flags   : BitVec 7 := 0
  /-- the flags set in this slot: MXSTAT selector 2, which reads at the slot's start, keeps them (R49, R164) -/
  fresh   : BitVec 7 := 0
  jobs    : List MeJob := []
  fired   : BitVec 64 := 0
  drained : BitVec 64 := 0
  passes  : BitVec 32 := 0
  fetchU  : List Fetch := []
  fetchV  : List Fetch := []
  late    : List MeLate := []
  drainAt : Nat := 0
  frozen  : Option Frozen := none
  /-- the first slot in which it acts again after a RESUME (R113, R146) -/
  goAt    : Nat := 0
deriving DecidableEq, Repr

/-- A Reedbed context (R287, R288): the header cell and the record blocks by number. -/
structure RbCtx where
  hdr    : Payload := 0
  blocks : Sparse Payload := []
deriving DecidableEq, Repr

inductive CtxState where
  | empty | loading | loaded
deriving DecidableEq, Repr

/-- The phase of the current run-path job (R295): INPUT with cells left, EVAL with the next lane group, OUTPUT with each port's cells
emitted so far. -/
inductive RbPhase where
  | idle
  | input (left : Nat)
  | eval (g : Nat)
  | output (sent : Vector Nat 4)
deriving DecidableEq, Repr

/-- The Reedbed (R285). -/
structure Rb where
  wires   : Sparse Payload := []
  ctxs    : Vector RbCtx 8 := Vector.replicate 8 {}
  states  : Vector CtxState 8 := Vector.replicate 8 .empty
  active  : Option (Fin 8) := none
  modes   : Vector (BitVec 8) 8 := Vector.replicate 8 0
  jobs    : List RbJob := []
  nextSeq : Nat := 0
  phase   : RbPhase := .idle
  /-- the record with which the current lane group goes on (R302) -/
  evalAt  : Nat := 0
  /-- the wires that its earlier records have written, held until the lane group ends (R302) -/
  staged  : List (Nat × Payload) := []
  runCtx  : Fin 8 := 0
  batch   : Nat := 2048
  load    : Option (Fin 8 × Nat) := none
  since   : Nat := 0
  /-- the first slot in which the last run is not in its OUTPUT phase (R296) -/
  runEnd  : Nat := 0
  took    : Bool := false
  runs    : BitVec 64 := 0
  inCells : BitVec 64 := 0
  outCells : BitVec 64 := 0
  passes  : BitVec 32 := 0
  frozen  : Option Frozen := none
  /-- the first slot in which it acts again after a RESUME (R113) -/
  goAt    : Nat := 0
deriving DecidableEq, Repr

/-- A race in progress (R195): its configuration, the key of its first score cell, the raw scores in order. -/
structure Race where
  cfg    : BitVec 64
  key    : Key
  scores : List Nat
deriving DecidableEq, Repr

/-- A race unit (R202): its configuration, the race in progress, and the cells waiting for their slot (R195). -/
structure RaceUnit where
  cfg    : BitVec 64 := 0x10
  cur    : Option Race := none
  out    : List (Nat × Offer) := []
  frozen : Option Frozen := none
  /-- the first slot in which it acts again after a RESUME (R113) -/
  goAt   : Nat := 0
  ops    : BitVec 64 := 0
  passes : BitVec 32 := 0
deriving DecidableEq, Repr

/-- What a stream slot does (R212, R222, R230). -/
inductive StrmKind where
  | sload | sread | sstore | sgather | sscatter | scfg | edgeSend | edgeRecv
deriving DecidableEq, Repr

/-- Stream slot states (R204, R229). -/
inductive StrmState where
  | free | wait | running | paused | frozen | done
deriving DecidableEq, Repr

/-- A running SSPLICE (R226): its stream slot, page, new frame, tag, storer, the lines already forked or copied; gone: the stream slot has been bound again, and extents are those of the stream it held. -/
structure Splice where
  strm   : StrmId
  gone   : Bool := false
  page   : Nat
  frame  : Nat
  tag    : BitVec 6
  storer : Fin 8
  lines  : List Nat := []
  extents : List Xlat := []
deriving DecidableEq, Repr

/-- A write of a sink stream that is issued and not yet performed: PA or pool address, and bytes (R218). -/
structure SinkWrite where
  addr  : Nat
  bytes : List Byte
deriving DecidableEq, Repr

/-- A stream slot (R204). elems and cells are the position counters; asked the cells read; asm the cell being assembled; inflight
the cells read and not yet returned; outLeft the copies of each admitted cell not yet delivered (R218); writes the writes issued and not yet
performed. -/
structure Strm where
  kind   : StrmKind := .sload
  st     : StrmState := .free
  pat    : BitVec 256 := 0
  aux    : BitVec 256 := 0
  port   : BitVec 7 := 0
  vc     : BitVec 5 := 0
  tag    : BitVec 6 := 0
  mask   : BitVec 32 := 0
  own    : Option Bool := none
  total  : Nat := 0
  ncells : Nat := 0
  elems  : Nat := 0
  cells  : Nat := 0
  asked  : Nat := 0
  asm    : Payload := 0
  inflight : List Cell := []
  admitted : Nat := 0
  outLeft : Sparse Nat := []
  writes : List SinkWrite := []
  loader : Option (Fin 8) := none
  storer : Option (Fin 8) := none
  extents : List Xlat := []
  walk   : Option (VA × Kind) := none
  fault  : Option (BitVec 8 × Nat) := none
  doneAt : Option Nat := none
  cfgVa  : Nat := 0
  cfgSlot : Bool := false
  cfgLen : Nat := 0
  cfgPhase : Nat := 0
  /-- cells of the image that this phase has read (R394) -/
  cfgAsked : Nat := 0
  /-- those cells, by number (R225) -/
  img    : Sparse Payload := []
  cancel : Bool := false
deriving DecidableEq, Repr

/-- A cell of a ROUND DATA that has not landed: its round, the link it came by, its header and payload. -/
structure RxCell where
  round : Nat
  link  : LinkId
  head  : BitVec 64
  data  : Payload
deriving DecidableEq, Repr

/-- A peer edge end (R230-R232), by stream slot. -/
structure Edge where
  peer   : Ipv6
  edge   : BitVec 32
  rlog   : Nat
  send   : Bool
  qs     : BitVec 2
  total  : Nat
  rarea  : Nat
  clog   : Nat
  dap    : BitVec 256
  sbase  : Nat
  entry  : BitVec 8
  /-- sender: the cells offered and waiting to be sent; receiver: unused -/
  outq   : List Cell := []
  /-- sender: cells admitted in all, cells sent; rounds committed -/
  admitted : Nat := 0
  sent   : Nat := 0
  committed : Nat := 0
  /-- sender: the slot in which a round's last cell left, by round (R368); cells to be sent again, by number -/
  sentAt : Sparse Nat := []
  again  : List Nat := []
  /-- cells by number, header and payload: at the receiver those of the open rounds that have landed, at the sender those sent and not
  yet committed -/
  landed : Sparse (BitVec 64 × Payload) := []
  cellsDone : Nat := 0
  row    : Nat := 0
  /-- how often each round has been voided, by round (R231, R250) -/
  voids : Sparse Nat := []
  /-- receiver: the cells in its receive buffer, with their round and link (R14, R367); the rounds voided here that the sender has not begun
  to send again (R232) -/
  rxq   : List RxCell := []
  await : List Nat := []
deriving DecidableEq, Repr

/-! ## Oxbow -/

/-- Stage states (R308). -/
inductive OxState where
  | none | whole | asked | cloning | splitting | draining | split | returning | merging
deriving DecidableEq, Repr

/-- An Oxbow stage (R303). -/
structure Stage where
  decl    : BitVec 1024 := 0
  st      : OxState := .none
  ranges  : Vector (BitVec 64) 8 := Vector.replicate 8 0
  pivot   : BitVec 16 := 0
  twin    : Option CoreId := none
  pin     : Bool := false
  mergeP  : Bool := false
  rtn     : Nat := 0
  twinCells : Nat := 0
  ovTimer : Nat := 0
  unTimer : Nat := 0
  /-- RETURNING: the slot at whose end the twin was first quiescent (R317) -/
  quietAt : Option Nat := none
  splits  : BitVec 8 := 0
  merges  : BitVec 8 := 0
  reason  : BitVec 4 := 0
  since   : Nat := 0
deriving DecidableEq, Repr

/-- A deadline gate (R338). -/
structure Gate where
  arm   : BitVec 64 := 0
  fired : BitVec 32 := 0
deriving DecidableEq, Repr

/-- A write that lands at the end of its slot: a route entry (R200), a multicast group (R201), a loop budget (R203), a stage's key-range
table (R306, R314), half of a crossbar group (R181), a shadow code table entry (R163), a STEP (R342), a gate (R338), what the debug port writes late (R77, R369). -/
inductive Late where
  | route (e : BitVec 8) (image : BitVec 256)
  | group (g : BitVec 6) (mask : BitVec 128)
  | budget (l : LoopId) (b : BitVec 16)
  | ranges (g : StageId) (t : Vector (BitVec 64) 8)
  /-- half h of crossbar group g of the core's cluster, by its task (R181) -/
  | xgroup (g : BitVec 6) (h : Bool) (v : BitVec 128) (owner : TaskId)
  /-- an entry of the shadow code table (R163) -/
  | code (i : BitVec 2) (v : BitVec 32)
  /-- STEP of an element or of the Weir; run says to run on (R342) -/
  | step (e : Option ElemId) (run : Bool)
  /-- a gate's arm word (R338) -/
  | gate (g : GateId) (w : BitVec 64)
  /-- entries of an element's table in a slot, from entry i on (R77) -/
  | table (b : Bool) (e : ElemId) (i : Nat) (l : List (BitVec 64))
  /-- the trace enable, or a thread's STATUS.BE (R369) -/
  | trace (v : Bool)
  | be (t : Tid) (v : Bool)
  /-- bytes of an element's register or channel head by the debug port: target, offset and bytes (R122, R379) -/
  | elem (e : ElemId) (tgt off : Nat) (bytes : List Byte)
deriving DecidableEq, Repr

/-! ## Fault records -/

/-- A record of R360 awaiting its posting (R362). -/
structure FaultRec where
  kind   : BitVec 8
  detail : BitVec 16
  unit   : BitVec 32
  pos    : BitVec 64
  arg    : BitVec 64
  time   : BitVec 32
  ten    : Tenant
  at_    : Nat
  /-- OVL goes to the firmware as well (R309); a first image's CFG or XLAT to the firmware only (R353) -/
  toFw   : Bool := false
deriving DecidableEq, Repr

/-! ## Cores -/

/-- A core (R9, R10). -/
structure Core where
  threads  : Vector Thread 16
  tb       : BitVec 64
  tbNext   : BitVec 64
  /-- bits that set in the next slot and stand in TB at the start of the one after it (R153, R295, R319, R338) -/
  tbSoon   : BitVec 64
  /-- bits that TCLR and TFFR clear at the end of the slot (R327) -/
  tbClr    : BitVec 64
  late     : List Late
  agelim   : BitVec 16
  /-- a written AGELIM, for the next slot's arbitration (R90) -/
  agelimNext : Option (BitVec 16)
  ptbase   : BitVec 28
  spillSel : BitVec 7
  task     : Option TaskId
  prevTenant : Option Tenant
  /-- the banks that hold the copies of twins that went with their task: the next launch scrub zeroes them (R320) -/
  twinBanks : BitVec 48
  rrLast   : Vector (Fin 16) 4
  /-- the first slot in which the sequencer can issue again: one word a slot (R89) -/
  issueAt  : Nat
  dcache   : List Line
  icache   : List Line
  wbuf     : List BufStore
  tlb      : List Xlat
  direct   : List Direct
  /-- threads parked on a full write buffer or job queue, in issue order (R145, R245, R294) -/
  waitq    : List Tid
  ringNext : Fin 8
  faults   : List FaultRec
  elems    : Vector Elem 32
  slots    : Vector Slot 2
  swap     : Option Swap
  crossed  : List (BitVec 22)
  passes   : BitVec 32
  ing      : Vector Ingress 128
  eg       : Vector Egress 128
  routes   : Vector (BitVec 256) 256
  rids     : Vector (BitVec 8) 256
  mgroups  : Vector (BitVec 128) 64
  loops    : Vector LoopB 16
  mcLive   : Sparse (Nat × Option LoopId)
  nextCopy : Nat
  weirHalted : Bool
  weirCredit : Bool
  banks    : Vector Bank 48
  me       : Me
  rb       : Rb
  races    : Vector RaceUnit 2
  strms    : Vector Strm 32
  splices  : List Splice
  /-- the first slot in which each loader can issue its next cell's reads (R394) -/
  loaderAt : Vector Nat 8
  /-- the first slot in which each storer can issue its next cell's writes (R394) -/
  storerAt : Vector Nat 8
  edges    : Sparse Edge
  pendDrn  : List (Tid × Drain × List StrmId)
  stages   : Vector Stage 8
  oxTags   : List (Nat × BitVec 6)
  gates    : Vector Gate 16
  wr       : Vector Word 32
  trace    : Bool
  dbgRefused : Nat
  launchSlot : Nat
  /-- CLOCK and WDOG of the task that has left the core, until the next scrub (R356) -/
  lastTask : Option (Nat × Nat)
deriving DecidableEq, Repr

/-! ## Module -/

/-- A group of a task (R329-R331): module-wide thread numbers. -/
structure Group where
  members : List Nat := []
  arrived : List Nat := []
  phase   : BitVec 16 := 0
deriving DecidableEq, Repr

/-- A footprint (R346). -/
structure Footprint where
  base : Nat
  len  : Nat
  kind : Nat
deriving DecidableEq, Repr

/-- A checked launch record (R345). -/
structure LaunchRec where
  cores   : Nat
  place   : Option Nat
  tenant  : Tenant
  nthr    : Nat
  scrub   : Bool
  ctlmask : BitVec 16
  roles   : BitVec 32
  fring   : Option (BitVec 22)
  limit   : Nat
  entry   : VA
  trapva  : VA
  image   : VA
  oxres   : BitVec 64
  args    : Vector Word 8
  prints  : List Footprint
  id      : TaskId
  host    : Option Ipv6
  /-- slots spent at the head of the queue (R350) -/
  waited  : Nat := 0
  /-- the L_max of a waiting head (R26, R351) -/
  lmax    : Nat := 0
  headed  : Bool := false
deriving DecidableEq, Repr

/-- How far a task has come (R353, R355, R356). -/
inductive TaskPhase where
  | starting | running | ending
  /-- to be stopped after the slot given (R86, R114) -/
  | stopping (kind : BitVec 8) (at_ : Nat)
  | ended
deriving DecidableEq, Repr

/-- A task that holds cores, or whose writes are still being performed. -/
structure Task where
  lrec   : LaunchRec
  cores  : List CoreId
  phase  : TaskPhase
  startAt : Nat
  first  : Option Nat
  wdog   : Nat
  /-- a written WDOG, from the next slot (R86) -/
  wdogNext : Option Nat := none
  groups : Sparse Group
  clockEnd : Nat := 0
deriving DecidableEq, Repr

/-- A launch queue (R348). -/
structure LaunchQ where
  recs  : List LaunchRec := []
  def_  : Nat := 0
  fresh : Bool := true
deriving DecidableEq, Repr

/-- The module's reservation (R350). -/
structure Reservation where
  queue : Tenant
  cores : List CoreId
deriving DecidableEq, Repr

/-- A cell in a cluster's crossbar (R14, R15, R181, R194): the core and NET port it left by and its task, the cluster it is in, the
crossbar ports by which it entered and leaves there, the first slot in which it can leave, and the far core of a unicast cell. -/
structure XCell where
  src   : CoreId
  net   : Fin 12
  task  : Option TaskId := none
  here  : ClusterId
  inp   : Nat
  outp  : Nat
  since : Nat := 0
  dst   : Option CoreId := none
  cell  : Cell
deriving DecidableEq, Repr

/-- A crossbar multicast group (R181). -/
structure XGroup where
  mask  : BitVec 224 := 0
  owner : Option TaskId := none
deriving DecidableEq, Repr

/-- Where an outgoing message goes. -/
inductive Dest where
  | host (a : Ipv6)
  | peer (a : Ipv6)
  | firmware
deriving DecidableEq, Repr

/-- A message the module has sent (R366). -/
structure OutMsg where
  dest : Dest
  d    : Datagram
deriving DecidableEq, Repr

/-- A tenant's queue on a peer link (R367). -/
structure LinkQ where
  tenant : Tenant
  link   : LinkId
  queue  : Fin 8
deriving DecidableEq, Repr

/-- Boot states (R371). -/
inductive Boot where
  | off | recovery | running
deriving DecidableEq, Repr

/-- The correctable-error counts of R376 other than CECNT: per stack, ME, Reedbed and lane, and that of an element's reads by its core, which R127
counts and R376 does not list (log entry 96). The read that corrects an error counts it (R258); a lane's is counted as it arises. -/
structure ErrCounts where
  stack : Vector Nat 16 := Vector.replicate 16 0
  me    : Vector Nat 64 := Vector.replicate 64 0
  rb    : Vector Nat 64 := Vector.replicate 64 0
  elem  : Vector Nat 64 := Vector.replicate 64 0
  lane  : Sparse Nat := []
deriving DecidableEq, Repr

/-- Counters of what was discarded (R364, R365, R369). -/
structure Discards where
  frames : Nat := 0
  datagrams : Nat := 0
  debugCells : Nat := 0
deriving DecidableEq, Repr

/-- What a fault notice or module load needs of attestation (R372): digests of loaded modules, fuse version. -/
structure Attest where
  modules : List (BitVec 256) := []
  fuse    : BitVec 32 := 0
deriving DecidableEq, Repr

/-- A place outside HBM and the pool that carries ECC or parity (R127, R165, R258, R302). -/
inductive Spot where
  /-- 64-bit word i of D register n, or K, of an element -/
  | dreg (c : CoreId) (e : ElemId) (n : Fin 4) (i : Fin 32)
  | kreg (c : CoreId) (e : ElemId)
  /-- 64-bit word i of the cell at the head of a channel of an element -/
  | head (c : CoreId) (e : ElemId) (ch : Fin 4) (i : Fin 32)
  /-- entry i, or literal n, of an element in the active slot -/
  | entry (c : CoreId) (e : ElemId) (i : Fin 32)
  | literal (c : CoreId) (e : ElemId) (n : Fin 8)
  /-- of a matrix engine: a panel, chunk k (words 64k to 64k + 63) of a row of a tile, a row's adapter vector, the U slice
  or (v) the V slice of an adapter slot -/
  | panel (c : CoreId) (b : Bool)
  | accRow (c : CoreId) (t : Bool) (m : Fin 256) (k : Fin 8)
  | vecRow (c : CoreId) (t : Bool) (m : Fin 256)
  | adSlot (c : CoreId) (i : Fin 16) (v : Bool)
  /-- of a Reedbed: 64-bit word i of wire w, numbered 32 w + i; record n of a context, its header being 1,024 -/
  | wire (c : CoreId) (n : Nat)
  /-- route entry e, entry v of the active slot's VC table, entry i of the code table CTA, of its shadow CTS -/
  | route (c : CoreId) (e : BitVec 8)
  | vct (c : CoreId) (v : BitVec 5)
  | code (c : CoreId) (i : Fin 4)
  | shadow (c : CoreId) (i : Fin 4)
  | context (c : CoreId) (k : Fin 8) (n : Nat)
deriving DecidableEq, Repr

/-- Soft errors that nothing has read yet (R258): 8-byte words of HBM and of the pool that hold an uncorrectable error, and those that
hold a correctable one; places with an uncorrectable or parity error, and those with a correctable one. -/
structure EccMarks where
  hbm  : List Nat := []
  pool : List Nat := []
  hbmSoft  : List Nat := []
  poolSoft : List Nat := []
  spots : List Spot := []
  soft  : List Spot := []
deriving DecidableEq, Repr

/-! ## The schedule -/

/-- A soft error as it arises (R258): in an 8-byte word of HBM or of the pool, or in another place; fatal when it cannot be corrected; in a
line of a data or instruction cache; a correctable error on a serdes lane (R376). -/
inductive Upset where
  | hbm (w : Nat) (fatal : Bool)
  | pool (w : Nat) (fatal : Bool)
  | spot (p : Spot) (fatal : Bool)
  | dline (c : CoreId) (no : Nat)
  | iline (c : CoreId) (no : Nat)
  | lane (n : Nat)
deriving DecidableEq, Repr

/-- One act of a slot: a core's sequencer issues, an element evaluates its table, an event takes place, or a soft error arises. -/
inductive Act where
  | issue (c : CoreId)
  | fire (c : CoreId) (e : ElemId)
  | ev (e : Event)
  | upset (u : Upset)
deriving DecidableEq, Repr

/-- The unit whose firing is being executed: core, element and the selected entry. -/
structure Firing where
  core  : CoreId
  elem  : ElemId
  entry : Fin 32
deriving DecidableEq, Repr

/-- The module. -/
structure State where
  slot    : Nat
  agenda  : List Act
  /-- the cores and the tasks as they stood at the start of the slot, which NODE, the walker and the status forms read (R326) -/
  seenCores : Vector Core 64
  seenTasks : List Task
  script  : List (List Act)
  cur     : CoreId × Tid
  fire    : Firing
  fresh   : Nat
  hbm     : Memory
  pool    : Memory
  time    : BitVec 64
  timeFrac : Nat
  /-- the slew of the servo in parts per million (R370) -/
  slew    : Int
  /-- a step of TIME, from the next slot (R370) -/
  timeStep : Option (BitVec 64)
  cores   : Vector Core 64
  xgroups : Vector (Vector XGroup 64) 4
  xbar    : List XCell
  tasks   : List Task
  lq      : Vector LaunchQ 64
  lqPtr   : Fin 64
  resv    : Option Reservation
  nextTask : TaskId
  weights : Vector (BitVec 8) 64
  tres    : Nat
  alert   : Nat
  ctlRights : List Tenant
  owners  : Sparse Ipv6
  linkQs  : List LinkQ
  /-- SEQ of the next datagram of queue q of peer link l, at 8 l + q: the one that its receiver expects, and the one that its sender gives (R365, R367) -/
  rxSeq   : Vector Nat 192
  txSeq   : Vector Nat 192
  /-- the first slot in which each peer port's crossbar port carries its next cell outwards, and inwards; the same of each stack's stream path,
  for cells read and cells written (R14) -/
  linkOut : Vector Nat 24
  linkIn  : Vector Nat 24
  pathOut : Vector Nat 16
  pathIn  : Vector Nat 16
  /-- the first slot of the next cell through the host port of die 0 and of die 1, crossbar port 218, in each direction (R14) -/
  hostOut : Vector Nat 2
  hostIn  : Vector Nat 2
  throttle : Fin 9
  /-- a throttle level that takes effect from the next slot (R374) -/
  throttleNext : Option (Fin 9)
  /-- the first slot of the next reading of the junction temperatures (R375) -/
  thermAt : Nat
  tripped : Bool
  boot    : Boot
  attest  : Attest
  repair  : List (Resource × Nat)
  errs    : ErrCounts
  ecc     : EccMarks
  outbox  : List OutMsg
  /-- the hosts that have asked for a tenant's debug output and have not withdrawn that (R369) -/
  debugReq : List (Tenant × Ipv6)
  discards : Discards
deriving DecidableEq, Repr

/-- The ceilings of R189: RATE and DEPTH of an injecting port, or none. -/
def bucketCeiling (p : Nat) : Option (Nat × Nat) :=
  if 96 ≤ p ∧ p ≤ 107 then some (1024, 4096)
  else if 108 ≤ p ∧ p ≤ 115 then some (1024, 4096)
  else if 116 ≤ p ∧ p ≤ 117 then some (1024, 64)
  else if 118 ≤ p ∧ p ≤ 121 then some (256, 64)
  else none

/-- A bucket at its reset setting: the ceilings of R189, level full (R393). -/
def Bucket.reset (p : Nat) : Bucket :=
  match bucketCeiling p with
  | some (r, d) => { rate := r, depth := d, level := d * 1024 }
  | none => { rate := 0, depth := 0, level := 0 }

/-- The ingress ports at reset: queues empty, buckets as R393 sets them. -/
def Ingress.resetAll : Vector Ingress 128 := Vector.ofFn (fun p => { bucket := Bucket.reset p.val })

/-- The launch table of R45 in CTA and CTS (R141). -/
def codeTableReset : Vector (BitVec 32) 4 := #v[0x3F800000, 0x3F9837F0, 0x3FB504F3, 0x3FD744FD]

/-- A core at reset, no task on it. -/
def Core.reset : Core where
  threads  := Vector.replicate 16 {}
  tb       := 0
  tbNext   := 0
  tbSoon   := 0
  tbClr    := 0
  late     := []
  agelim   := 256
  agelimNext := none
  ptbase   := 0
  spillSel := 108
  task     := none
  prevTenant := none
  twinBanks := 0
  rrLast   := Vector.replicate 4 15
  issueAt  := 0
  dcache   := []
  icache   := []
  wbuf     := []
  tlb      := []
  direct   := []
  waitq    := []
  ringNext := 0
  faults   := []
  elems    := Vector.replicate 32 {}
  slots    := Vector.replicate 2 {}
  swap     := none
  crossed  := []
  passes   := 0
  ing      := Ingress.resetAll
  eg       := Vector.replicate 128 {}
  routes   := Vector.replicate 256 0
  rids     := Vector.replicate 256 0
  mgroups  := Vector.replicate 64 0
  loops    := Vector.replicate 16 {}
  mcLive   := []
  nextCopy := 0
  weirHalted := false
  weirCredit := false
  banks    := Vector.replicate 48 {}
  me       := { cta := codeTableReset, cts := codeTableReset }
  rb       := {}
  races    := Vector.replicate 2 {}
  strms    := Vector.replicate 32 {}
  splices  := []
  loaderAt := Vector.replicate 8 0
  storerAt := Vector.replicate 8 0
  edges    := []
  pendDrn  := []
  stages   := Vector.replicate 8 {}
  oxTags   := []
  gates    := Vector.replicate 16 {}
  wr       := Vector.replicate 32 0
  trace    := false
  dbgRefused := 0
  launchSlot := 0
  lastTask := none

/-- The flash image that the boot starts (R371). -/
def bootImage? : Option (List Byte) := [Config.flashImage 0, Config.flashImage 1].find? (fun i => Config.sm2Verify i)

/-- What attestation knows after a boot: the digest of the image that runs, and the fuse version (R371, R372). -/
def bootAttest : Attest := { modules := (bootImage?.map Config.sm3).toList, fuse := Config.fuseVersion }

/-- The module right after reset: the power is on, and the boot of R371 is the first act (R393 and the launch and reset values of the state tables; the values the spec does not give are in
log entries 1 to 10, 12, 13 and 100: DESIGN CHOICE, but 7, which is DEDUCED). -/
def State.reset : State where
  slot    := 0
  agenda  := [.ev .powerOnBoot]
  seenCores := Vector.replicate 64 Core.reset
  seenTasks := []
  script  := []
  cur     := (0, 0)
  fire    := { core := 0, elem := 0, entry := 0 }
  fresh   := 0
  hbm     := []
  pool    := []
  time    := 0
  timeFrac := 0
  slew    := 0
  timeStep := none
  cores   := Vector.replicate 64 Core.reset
  xgroups := Vector.replicate 4 (Vector.replicate 64 {})
  xbar    := []
  tasks   := []
  lq      := Vector.replicate 64 {}
  lqPtr   := 0
  resv    := none
  nextTask := 1
  weights := Vector.replicate 64 1
  tres    := 4294967296
  alert   := 95
  ctlRights := []
  owners  := []
  linkQs  := []
  rxSeq   := Vector.replicate 192 0
  txSeq   := Vector.replicate 192 0
  linkOut := Vector.replicate 24 0
  linkIn  := Vector.replicate 24 0
  pathOut := Vector.replicate 16 0
  pathIn  := Vector.replicate 16 0
  hostOut := Vector.replicate 2 0
  hostIn  := Vector.replicate 2 0
  throttle := 0
  throttleNext := none
  thermAt := 0
  tripped := false
  boot    := .off
  attest  := { fuse := Config.fuseVersion }
  repair  := []
  errs    := {}
  ecc     := {}
  outbox  := []
  debugReq := []
  discards := {}

end Sys2Proof.Machine
end

