-- ==== Sys2Proof/Machine/Ops.lean ====
section
/-! DEFINITION. The named operations over memory, registers and the units of the state, and taking an exception and returning from
one (R102-R107), each written once and called by the meanings. -/

namespace Sys2Proof.Machine

abbrev Out := Host.Outcome State Fault Refusal

/-! ## Memory (R2, R233-R237) -/

/-- The byte at an address; an unlisted one reads 0x00. [log entry 3, DESIGN CHOICE] -/
def Memory.get (m : Memory) (a : Nat) : Byte :=
  match m with
  | [] => 0
  | (x, b) :: r => if x = a then b else Memory.get r a

/-- Write one byte, keeping the canonical form. -/
def Memory.set (m : Memory) (a : Nat) (v : Byte) : Memory :=
  match m with
  | [] => if v = 0 then [] else [(a, v)]
  | (x, b) :: r =>
    if a < x then (if v = 0 then (x, b) :: r else (a, v) :: (x, b) :: r)
    else if a = x then (if v = 0 then r else (a, v) :: r)
    else (x, b) :: Memory.set r a v

/-- The n bytes from a as a little-endian number (R2). -/
def Memory.readN (m : Memory) (a n : Nat) : Nat :=
  match n with
  | 0 => 0
  | n + 1 => (Memory.get m a).toNat + 256 * Memory.readN m (a + 1) n

/-- Write the low n bytes of v from a, little-endian. -/
def Memory.writeN (m : Memory) (a n v : Nat) : Memory :=
  match n with
  | 0 => m
  | n + 1 => Memory.writeN (Memory.set m a (BitVec.ofNat 8 v)) (a + 1) n (v / 256)

/-- Write a byte string from a. -/
def Memory.writeBytes (m : Memory) (a : Nat) (bs : List Byte) : Memory :=
  match bs with
  | [] => m
  | b :: r => Memory.writeBytes (Memory.set m a b) (a + 1) r

def Memory.readBytes (m : Memory) (a n : Nat) : List Byte :=
  (List.range n).map (fun i => Memory.get m (a + i))

/-- Zero the n bytes from a. -/
def Memory.clear (m : Memory) (a n : Nat) : Memory := m.filter (fun y => !decide (a ≤ y.1 ∧ y.1 < a + n))

/-- The canonical form: addresses strictly rising, no entry 0x00. [log entry 3, DESIGN CHOICE] -/
def Memory.wf (m : Memory) : Bool :=
  match m with
  | [] => true
  | [(_, b)] => b != 0
  | (x, b) :: (y, c) :: r => b != 0 && decide (x < y) && Memory.wf ((y, c) :: r)

/-! ## Sparse maps -/

def Sparse.get? {α : Type} (m : Sparse α) (k : Nat) : Option α :=
  match m with
  | [] => none
  | (x, v) :: r => if x = k then some v else Sparse.get? r k

def Sparse.getD {α : Type} (m : Sparse α) (k : Nat) (d : α) : α := (Sparse.get? m k).getD d

def Sparse.set {α : Type} (m : Sparse α) (k : Nat) (v : α) : Sparse α :=
  match m with
  | [] => [(k, v)]
  | (x, w) :: r => if k < x then (k, v) :: (x, w) :: r else if k = x then (k, v) :: r else (x, w) :: Sparse.set r k v

def Sparse.erase {α : Type} (m : Sparse α) (k : Nat) : Sparse α :=
  match m with
  | [] => []
  | (x, w) :: r => if k = x then r else (x, w) :: Sparse.erase r k

/-! ## Vectors by number -/

/-- Entry i of a vector, or d beyond its end. -/
def vget {α : Type} {n : Nat} (v : Vector α n) (i : Nat) (d : α) : α := if h : i < n then v[i] else d

/-- Set entry i; nothing beyond the end. -/
def vset {α : Type} {n : Nat} (v : Vector α n) (i : Nat) (x : α) : Vector α n := if h : i < n then v.set i x h else v

/-- Change entry i. -/
def vmod {α : Type} {n : Nat} (v : Vector α n) (i : Nat) (f : α → α) : Vector α n :=
  if h : i < n then v.set i (f v[i]) h else v

/-! ## Units of the state -/

def State.core (s : State) (c : CoreId) : Core := s.cores[c]

/-- The cores and tasks of this moment are those of the slot's start (R326). -/
def State.mark (s : State) : State := { s with seenCores := s.cores, seenTasks := s.tasks }

/-- The module as it stood at the start of the slot (R326). -/
def State.atStart (s : State) : State := { s with cores := s.seenCores, tasks := s.seenTasks }
def State.setCore (s : State) (c : CoreId) (x : Core) : State := { s with cores := s.cores.set c.val x c.isLt }
def State.modCore (s : State) (c : CoreId) (f : Core → Core) : State := s.setCore c (f (s.core c))

def Core.thr (x : Core) (t : Tid) : Thread := x.threads[t]
def Core.setThr (x : Core) (t : Tid) (y : Thread) : Core := { x with threads := x.threads.set t.val y t.isLt }

def State.thr (s : State) (c : CoreId) (t : Tid) : Thread := (s.core c).thr t
def State.setThr (s : State) (c : CoreId) (t : Tid) (y : Thread) : State := s.modCore c (fun x => x.setThr t y)
def State.modThr (s : State) (c : CoreId) (t : Tid) (f : Thread → Thread) : State := s.setThr c t (f (s.thr c t))

/-- The thread whose word is being executed. -/
def State.me (s : State) : Thread := s.thr s.cur.1 s.cur.2
def State.modMe (s : State) (f : Thread → Thread) : State := s.modThr s.cur.1 s.cur.2 f
def State.myCore (s : State) : Core := s.core s.cur.1

/-- The sequencers of one core see the other cores' threads through this: change every thread of a core. -/
def Core.mapThr (x : Core) (f : Tid → Thread → Thread) : Core := { x with threads := Vector.ofFn (fun t => f t x.threads[t]) }

/-- Change a core's thread. -/
def Core.modThr (x : Core) (t : Tid) (f : Thread → Thread) : Core := x.setThr t (f (x.thr t))

def Core.modElem (x : Core) (e : ElemId) (f : Elem → Elem) : Core := { x with elems := x.elems.set e.val (f x.elems[e]) e.isLt }
def Core.modIng (x : Core) (p : Nat) (f : Ingress → Ingress) : Core := { x with ing := vmod x.ing p f }
def Core.modEg (x : Core) (p : Nat) (f : Egress → Egress) : Core := { x with eg := vmod x.eg p f }
def Core.ingAt (x : Core) (p : Nat) : Ingress := vget x.ing p {}
def Core.egAt (x : Core) (p : Nat) : Egress := vget x.eg p {}
def Core.modBank (x : Core) (b : Nat) (f : Bank → Bank) : Core := { x with banks := vmod x.banks b f }
def Core.bankAt (x : Core) (b : Nat) : Bank := vget x.banks b {}
def Core.modStrm (x : Core) (k : StrmId) (f : Strm → Strm) : Core := { x with strms := x.strms.set k.val (f x.strms[k]) k.isLt }
def Core.modLoop (x : Core) (l : Nat) (f : LoopB → LoopB) : Core := { x with loops := vmod x.loops l f }
def Core.modStage (x : Core) (g : StageId) (f : Stage → Stage) : Core := { x with stages := x.stages.set g.val (f x.stages[g]) g.isLt }
def Core.modMe (x : Core) (f : Me → Me) : Core := { x with me := f x.me }
def Core.modRb (x : Core) (f : Rb → Rb) : Core := { x with rb := f x.rb }
def Core.modRace (x : Core) (u : Fin 2) (f : RaceUnit → RaceUnit) : Core := { x with races := x.races.set u.val (f x.races[u]) u.isLt }

/-! ## Sequencer registers (R57, R79) -/

/-- Register r; G0 reads zero (R57). -/
def Thread.rd (t : Thread) (r : BitVec 5) : Word := if r = 0 then 0 else t.g[r.toNat]

/-- Write register r; a write to G0 is discarded (R57). -/
def Thread.wr (t : Thread) (r : BitVec 5) (v : Word) : Thread :=
  if r = 0 then t else { t with g := t.g.set r.toNat v }

/-- Predicate p; P0 reads true (R57). -/
def Thread.rdP (t : Thread) (p : BitVec 3) : Bool := if p = 0 then true else t.p.getLsbD p.toNat

/-- Write predicate p; a write to P0 is discarded (R57). -/
def Thread.wrP (t : Thread) (p : BitVec 3) (v : Bool) : Thread :=
  if p = 0 then t
  else { t with p := if v then t.p ||| (1#8 <<< p.toNat) else t.p &&& ~~~(1#8 <<< p.toNat) }

/-- AP register n (R205). -/
def Thread.rdAP (t : Thread) (n : BitVec 4) : BitVec 256 := t.ap[n.toNat]
def Thread.wrAP (t : Thread) (n : BitVec 4) (v : BitVec 256) : Thread := { t with ap := t.ap.set n.toNat v }

/-- Write v into bits lo + w - 1 : lo of an AP register image. -/
def setBits {n : Nat} (x : BitVec n) (lo w : Nat) (v : Nat) : BitVec n :=
  (x &&& ~~~(BitVec.ofNat n ((2 ^ w - 1) * 2 ^ lo))) ||| BitVec.ofNat n (v % 2 ^ w * 2 ^ lo)

/-- Bits lo + w - 1 : lo. -/
def getBits {n : Nat} (x : BitVec n) (lo w : Nat) : Nat := x.toNat / 2 ^ lo % 2 ^ w

/-- PC to the next word. -/
def Thread.next (t : Thread) : Thread := { t with pc := t.pc + 4 }

/-- The 55-bit VA a register holds. -/
def vaOf (w : Word) : VA := w.setWidth 55

/-- The thread parks on p (R80). -/
def Thread.park (t : Thread) (p : Pend) : Thread := { t with st := .parked, pend := p }

/-- The thread is READY again from the next slot (R25, R80). -/
def Thread.wake (t : Thread) (slot : Nat) : Thread := { t with st := .ready, pend := .none, readyAt := slot + 1 }

/-! ## Soft errors (R258) -/

/-- The marked words that n bytes from a meet. -/
def markHits (l : List Nat) (a n : Nat) : List Nat := l.filter (fun w => decide (8 * w < a + n ∧ a < 8 * w + 8))

/-- A write gives every word it covers whole a new code. [log entry 96, DEDUCED] -/
def clearMarks (l : List Nat) (a n : Nat) : List Nat := l.filter (fun w => !decide (a ≤ 8 * w ∧ 8 * w + 8 ≤ a + n))

/-- An access of n bytes of HBM from a corrects the correctable errors it meets, in place, and counts them for their stack (R234, R258,
R376). -/
def State.softHbm (s : State) (a n : Nat) : State :=
  let l := markHits s.ecc.hbmSoft a n
  { s with
    ecc := { s.ecc with hbmSoft := s.ecc.hbmSoft.filter (fun w => !l.contains w) }
    errs := { s.errs with stack := l.foldl (fun v w => vmod v (w / 2 ^ 33) (· + 1)) s.errs.stack } }

/-- A write of n bytes of HBM from a: words it covers whole get a new code, those it covers in part are read and corrected. -/
def State.hbmMarks (s : State) (a n : Nat) : State :=
  ({ s with ecc := { s.ecc with hbm := clearMarks s.ecc.hbm a n, hbmSoft := clearMarks s.ecc.hbmSoft a n } }).softHbm a n

/-- Write the low n bytes of v into HBM. -/
def State.hbmStore (s : State) (a n v : Nat) : State := { (s.hbmMarks a n) with hbm := Memory.writeN s.hbm a n v }

/-- Write bytes into HBM. -/
def State.hbmPut (s : State) (a : Nat) (b : List Byte) : State :=
  { (s.hbmMarks a b.length) with hbm := Memory.writeBytes s.hbm a b }

/-- Whether a byte range of HBM meets a word with an uncorrectable error. [log entry 96, DEDUCED] -/
def State.hbmBad (s : State) (a n : Nat) : Bool := !(markHits s.ecc.hbm a n).isEmpty

/-- Whether a byte range of the pool does. [log entry 96, DEDUCED] -/
def State.poolBad (s : State) (a n : Nat) : Bool := !(markHits s.ecc.pool a n).isEmpty

def ceCount (n : BitVec 32) : BitVec 32 := if n = BitVec.allOnes 32 then n else n + 1

/-- An access of n bytes of the pool from a corrects the correctable errors it meets, in place, and counts them in CECNT of their bank
(R237, R241, R258). -/
def State.softPool (s : State) (a n : Nat) : State :=
  let l := markHits s.ecc.poolSoft a n
  let s := { s with ecc := { s.ecc with poolSoft := s.ecc.poolSoft.filter (fun w => !l.contains w) } }
  l.foldl (fun s w => s.modCore (Fin.ofNat 64 (8 * w / 4194304)) (fun x =>
    x.modBank (8 * w / 65536 % 64) (fun b => { b with cecnt := ceCount b.cecnt }))) s

/-- A write of n bytes of the pool from a, as hbmMarks. -/
def State.poolMarks (s : State) (a n : Nat) : State :=
  ({ s with ecc := { s.ecc with pool := clearMarks s.ecc.pool a n, poolSoft := clearMarks s.ecc.poolSoft a n } }).softPool a n

/-- Whether one of these places holds an uncorrectable or parity error. -/
def State.fatalAt (s : State) (l : List Spot) : Bool := l.any (fun y => s.ecc.spots.contains y)

/-- A read of these places corrects their correctable errors, and count is how the unit's counter counts each (R258, R376). -/
def State.softAt (s : State) (l : List Spot) (count : ErrCounts → ErrCounts) : State :=
  { s with
    ecc := { s.ecc with soft := s.ecc.soft.filter (fun y => !l.contains y) }
    errs := (s.ecc.soft.filter (fun y => l.contains y)).foldl (fun e _ => count e) s.errs }

/-- The core of a place. -/
def Spot.core (p : Spot) : CoreId :=
  match p with
  | .dreg c _ _ _ | .kreg c _ | .head c _ _ _ | .entry c _ _ | .literal c _ _ | .panel c _ | .accRow c _ _ _ | .vecRow c _ _ | .adSlot c _ _
  | .wire c _ | .context c _ _ | .route c _ | .vct c _ | .code c _ | .shadow c _ => c

/-- New contents of a place have a new code. -/
def State.clearSpots (s : State) (l : List Spot) : State :=
  { s with ecc := { s.ecc with spots := s.ecc.spots.filter (fun y => !l.contains y), soft := s.ecc.soft.filter (fun y => !l.contains y) } }

/-- The words of a D register, and of the head of an element's channel. -/
def dregSpots (c : CoreId) (e : ElemId) (n : Fin 4) : List Spot := (List.finRange 32).map (fun i => .dreg c e n i)
def headSpots (c : CoreId) (e : ElemId) (ch : Fin 4) : List Spot := (List.finRange 32).map (fun i => .head c e ch i)

/-- The entries of the active code table CTA, which carry parity (R163, R258). -/
def codeSpots (c : CoreId) : List Spot := (List.finRange 4).map (fun i => .code c i)
def shadowSpots (c : CoreId) : List Spot := (List.finRange 4).map (fun i => .shadow c i)

/-- A row of a tile, chunk by chunk. -/
def accSpots (c : CoreId) (t : Bool) (m : Fin 256) : List Spot := (List.finRange 8).map (fun k => .accRow c t m k)

/-- The head of a channel leaves: its marks with it. -/
def State.clearHead (s : State) (c : CoreId) (p ch : Nat) : State :=
  if 48 ≤ p ∧ p ≤ 79 then s.clearSpots (headSpots c (Fin.ofNat 32 (p - 48)) (Fin.ofNat 4 ch)) else s

def ErrCounts.countMe (c : CoreId) (e : ErrCounts) : ErrCounts := { e with me := vmod e.me c.val (· + 1) }
/-- R127 counts what an element corrects; R376 names no counter for it: the model keeps one by core. [log entry 96, DEDUCED] -/
def ErrCounts.countElem (c : CoreId) (e : ErrCounts) : ErrCounts := { e with elem := vmod e.elem c.val (· + 1) }
def ErrCounts.countRb (c : CoreId) (e : ErrCounts) : ErrCounts := { e with rb := vmod e.rb c.val (· + 1) }

/-! ## Loaders (R394) -/

/-- Whether a loader has issued no cell's reads in this slot. -/
def Core.loaderFree (x : Core) (l : Option (Fin 8)) (slot : Nat) : Bool :=
  match l with | some l => decide (x.loaderAt[l] ≤ slot) | none => true

/-- A loader issues a cell's reads. -/
def Core.loaderUsed (x : Core) (l : Option (Fin 8)) (slot : Nat) : Core :=
  match l with | some l => { x with loaderAt := x.loaderAt.set l.val (slot + 1) l.isLt } | none => x

/-- Whether a storer has issued no cell's writes in this slot. -/
def Core.storerReady (x : Core) (q : Option (Fin 8)) (slot : Nat) : Bool :=
  match q with | some q => decide (x.storerAt[q] ≤ slot) | none => true

/-- A storer issues a cell's writes. -/
def Core.storerUsed (x : Core) (q : Option (Fin 8)) (slot : Nat) : Core :=
  match q with | some q => { x with storerAt := x.storerAt.set q.val (slot + 1) q.isLt } | none => x

/-! ## The crossbar ports of peer links and of HBM (R14, R234) -/

/-- The stack of a physical address (R234): its stream path is crossbar port 214 + stack mod 4 of its die (R14). -/
def stackOf (pa : Nat) : Nat := pa / 2 ^ 36

/-- Whether the stream paths of these addresses' stacks carry no other cell in this slot, inwards or outwards. A cell with bytes in several
stacks takes the path of each. [log entry 128, DEDUCED] -/
def State.pathsFree (s : State) (write : Bool) (l : List Nat) : Bool :=
  l.all (fun pa => decide (vget (if write then s.pathIn else s.pathOut) (stackOf pa) 0 ≤ s.slot))

/-- A cell takes the stream paths of its addresses' stacks for this slot. [log entry 128, DEDUCED] -/
def State.pathsUsed (s : State) (write : Bool) (l : List Nat) : State :=
  if write then { s with pathIn := l.foldl (fun v pa => vset v (stackOf pa) (s.slot + 1)) s.pathIn }
  else { s with pathOut := l.foldl (fun v pa => vset v (stackOf pa) (s.slot + 1)) s.pathOut }

/-- Whether a peer link's crossbar port has carried no cell in this slot, and that it carries one (R14). -/
def State.linkOutFree (s : State) (l : LinkId) : Bool := decide (s.linkOut[l] ≤ s.slot)
def State.linkInFree (s : State) (l : LinkId) : Bool := decide (s.linkIn[l] ≤ s.slot)
def State.linkOutUsed (s : State) (l : LinkId) : State := { s with linkOut := s.linkOut.set l.val (s.slot + 1) l.isLt }
def State.linkInUsed (s : State) (l : LinkId) : State := { s with linkIn := s.linkIn.set l.val (s.slot + 1) l.isLt }

/-! ## Tasks and modes -/

/-- The task on a core. -/
def State.taskOf (s : State) (c : CoreId) : Option Task :=
  match (s.core c).task with
  | some id => s.tasks.find? (fun t => decide (t.lrec.id = id))
  | none => none

def State.taskById (s : State) (id : TaskId) : Option Task := s.tasks.find? (fun t => decide (t.lrec.id = id))

def State.modTask (s : State) (id : TaskId) (f : Task → Task) : State :=
  { s with tasks := s.tasks.map (fun t => if t.lrec.id = id then f t else t) }

/-- TENANT of a core (R82); 0 with no task. -/
def State.tenantOf (s : State) (c : CoreId) : Tenant := match s.taskOf c with | some t => t.lrec.tenant | none => 0

/-- CLOCK of a task: slots since its first issue (R82). -/
def Task.clock (t : Task) (slot : Nat) : Nat :=
  let now := match t.phase with | .starting | .running => slot | _ => min slot t.clockEnd
  match t.first with | some f => now - f | none => 0

/-- The trap entry of the core's controller threads (R103). -/
def State.trapEntry (s : State) (c : CoreId) : VA := match s.taskOf c with | some t => t.lrec.trapva | none => 0

/-! ## Unit identifiers and fault records (R334, R360, R361) -/

def unitId (c : CoreId) (kind index : Nat) : BitVec 32 :=
  BitVec.ofNat 32 (c.val * 67108864 + kind * 4194304 + index % 4194304)

def kILL : BitVec 8 := 0x01
def kALIGN : BitVec 8 := 0x02
def kXLAT : BitVec 8 := 0x03
def kPROT : BitVec 8 := 0x04
def kECC : BitVec 8 := 0x05
def kTABLE : BitVec 8 := 0x06
def kFMT : BitVec 8 := 0x07
def kPORT : BitVec 8 := 0x08
def kRDV : BitVec 8 := 0x09
def kLOOP : BitVec 8 := 0x0A
def kWDOG : BitVec 8 := 0x0B
def kPEER : BitVec 8 := 0x0C
def kOXFAIL : BitVec 8 := 0x0D
def kCFG : BitVec 8 := 0x0E
def kTRAPI : BitVec 8 := 0x0F
def kOVL : BitVec 8 := 0x21
def kSPLITDONE : BitVec 8 := 0x22
def kMERGEDONE : BitVec 8 := 0x23
def kROUNDVOID : BitVec 8 := 0x24
def kGATE : BitVec 8 := 0x25
def kTHERM : BitVec 8 := 0x26

/-- Queue a fault or event record of a core for posting in the next slot (R362). -/
def State.record (s : State) (c : CoreId) (kind : BitVec 8) (unit : BitVec 32) (detail : Nat) (pos arg : BitVec 64)
    (toFw : Bool := false) : State :=
  s.modCore c (fun x => { x with faults := x.faults ++ [
    { kind := kind, detail := BitVec.ofNat 16 detail, unit := unit, pos := pos, arg := arg,
      time := s.time.setWidth 32, ten := s.tenantOf c, at_ := s.slot, toFw := toFw }] })

/-- Two 32-bit positions (R360). -/
def pos2 (a b : Nat) : BitVec 64 := BitVec.ofNat 64 (a % 4294967296 + 4294967296 * (b % 4294967296))

/-! ## Exceptions (R102-R107) -/

/-- EVAL of an access trap: the VA and the kind of R105. -/
def accessEval (va : Nat) (k : Kind) : Word :=
  BitVec.ofNat 64 (va % 2 ^ 56 + 2 ^ 56 * (match k with | .read => 0 | .write => 1 | .execute => 2))

/-- EVAL of an ILL trap: the word and the cause of R60. -/
def illEval (word : Nat) (cause : Nat) : Word := BitVec.ofNat 64 (word % 4294967296 + 4294967296 * (cause % 4))

/-- Trap entry (R103): a thread's exception registers, then FROZEN with a record, or the handler. -/
def State.trapAt (s : State) (c : CoreId) (t : Tid) (code : BitVec 8) (eval : Word) (epc : VA) : State :=
  let th := s.thr c t
  if !th.cm || th.exl || code == kECC then
    let s := s.setThr c t { th with epc := epc, ecause := code, eval := eval, st := .frozen, pend := .none }
    s.record c code (unitId c 3 t.val) code.toNat (pos2 epc.toNat (epc.toNat / 4294967296)) eval
  else
    s.setThr c t { th with
      epc := epc, ecause := code, eval := eval, exl := true, pc := s.trapEntry c, st := .ready, pend := .none
      readyAt := s.slot + 1 }

/-- The trap of the executing thread at its own word. -/
def State.trap (s : State) (code : BitVec 8) (eval : Word) : State := s.trapAt s.cur.1 s.cur.2 code eval s.me.pc

/-- ERET (R107): PC from EPC and EXL cleared in one step. -/
def Thread.eret (t : Thread) : Thread := { t with pc := t.epc, exl := false }

/-! ## EV and tags (R109, R327) -/

/-- STATUS.EV is set: a thread parked in WFE clears it and goes on (R109). -/
def Thread.setEv (t : Thread) (slot : Nat) : Thread :=
  match t.st, t.pend with
  | .parked, .wfe => { (t.wake slot).next with ev := false }
  | _, _ => { t with ev := true }

/-- A tag bit that sets in the next slot. -/
def Core.tagNext (x : Core) (tag : BitVec 6) : Core := { x with tbNext := x.tbNext ||| (1#64 <<< tag.toNat) }

/-- A tag bit that sets in the slot after this one, so that the slot after that is the first to find it (R153, R295, R319, R338). -/
def Core.tagSoon (x : Core) (tag : BitVec 6) : Core := { x with tbSoon := x.tbSoon ||| (1#64 <<< tag.toNat) }

def State.tagSoon (s : State) (c : CoreId) (tag : BitVec 6) : State := s.modCore c (fun x => x.tagSoon tag)

def State.tagNext (s : State) (c : CoreId) (tag : BitVec 6) : State := s.modCore c (fun x => x.tagNext tag)

/-- The lowest-TID controller thread of the task on a core (R362); one that is IDLE counts no more. [log entry 153, DESIGN CHOICE] -/
def Core.controller? (x : Core) : Option Tid :=
  (List.finRange 16).find? (fun t => let th := x.thr t; th.cm && th.st != .idle)

/-! ## Configuration slots (R273) -/

def Core.slotAt (x : Core) (b : Bool) : Slot := if b then x.slots[1] else x.slots[0]
def Core.modSlot (x : Core) (b : Bool) (f : Slot → Slot) : Core := { x with slots := vmod x.slots (if b then 1 else 0) f }

/-- The active slot's number. -/
def Core.activeSlot? (x : Core) : Option Bool :=
  if x.slots[0].st = .active then some false else if x.slots[1].st = .active then some true else none

/-- The active slot's tables, or the launch values when no slot is active. -/
def Core.cfg (x : Core) : Slot := match x.activeSlot? with | some b => x.slotAt b | none => {}

def Core.elemCfg (x : Core) (e : ElemId) : ElemCfg := x.cfg.elems[e]

/-- Entry v of the Weir VC table (R171): class, role, loop. -/
def Core.vcEntry (x : Core) (v : BitVec 5) : BitVec 16 := vget x.cfg.vct v.toNat 0
def vcClass (e : BitVec 16) : Nat := getBits e 4 2
def vcRole (e : BitVec 16) : Nat := getBits e 6 2
def vcLoop? (e : BitVec 16) : Option LoopId := if e.getLsbD 12 then some (Fin.ofNat 16 (getBits e 8 4)) else none
def vcFmt (e : BitVec 16) : Fmt := BitVec.ofNat 4 (getBits e 0 4)

/-- Dependence class and role of a cell (R171, R369). -/
def Core.classOf (x : Core) (c : Cell) : Nat := if c.m.mgmt then 3 else vcClass (x.vcEntry c.h.vc)
def Core.roleOf (x : Core) (c : Cell) : Nat := if c.m.mgmt then 3 else vcRole (x.vcEntry c.h.vc)

/-! ## Headers (R166) -/

def Header.word (h : Header) : BitVec 64 :=
  BitVec.ofNat 64 (h.ep.toNat * 2 ^ 57 + h.vc.toNat * 2 ^ 52 + h.cop.toNat * 2 ^ 48 + h.tag.toNat * 2 ^ 45 + h.key.toNat * 2 ^ 29 +
    h.rid.toNat * 2 ^ 21 + h.opx.toNat * 2 ^ 19 + h.opn.toNat * 2 ^ 17 + h.ip.toNat * 2 ^ 10 + h.mc.toNat * 2 ^ 4 + h.seq.toNat)

def Header.ofWord (w : BitVec 64) : Header :=
  { ep := BitVec.ofNat 7 (getBits w 57 7), vc := BitVec.ofNat 5 (getBits w 52 5), cop := BitVec.ofNat 4 (getBits w 48 4),
    tag := BitVec.ofNat 3 (getBits w 45 3), key := BitVec.ofNat 16 (getBits w 29 16), rid := BitVec.ofNat 8 (getBits w 21 8),
    opx := BitVec.ofNat 2 (getBits w 19 2), opn := BitVec.ofNat 2 (getBits w 17 2), ip := BitVec.ofNat 7 (getBits w 10 7),
    mc := BitVec.ofNat 6 (getBits w 4 6), seq := BitVec.ofNat 4 (getBits w 0 4) }

def tDATA : BitVec 3 := 0
def tEOR : BitVec 3 := 1
def tLVL : BitVec 3 := 2
def tDRN : BitVec 3 := 3
def tSPL : BitVec 3 := 4
def tRDE : BitVec 3 := 5
def tSTEER : BitVec 3 := 6
def tCTRL : BitVec 3 := 7

/-! ## Ports (R10, R11, R172) -/

/-- The egress ports that R10 marks reserved. -/
def egReserved (p : Nat) : Bool := 124 ≤ p
/-- The ingress ports that R10 marks reserved. -/
def inReserved (p : Nat) : Bool := (92 ≤ p && p ≤ 95) || 124 ≤ p

def isElemPort (p : Nat) : Bool := 48 ≤ p && p ≤ 79
def isBankPort (p : Nat) : Bool := p ≤ 47
def isNetPort (p : Nat) : Bool := 96 ≤ p && p ≤ 107
def isStorePort (p : Nat) : Bool := 108 ≤ p && p ≤ 115

/-- Places of each channel of an egress port (R172). -/
def chanCap (p : Nat) : Nat :=
  if p ≤ 79 then 8 else if p ≤ 81 then 256 else if p ≤ 95 then 8 else if p ≤ 115 then 16 else if p ≤ 117 then 8 else 16

/-- The port whose channel an egress port delivers into: MXA0 and MXA1 share one (R172). -/
def chanPort (p : Nat) : Nat := if p = 81 then 80 else p

def Egress.chan (g : Egress) (i : Nat) : Chan := vget g.chans i {}
def Egress.modChan (g : Egress) (i : Nat) (f : Chan → Chan) : Egress := { g with chans := vmod g.chans i f }

/-- The channel an element's map gives a VC (R275): channel and format, none when V = 0. -/
def ElemCfg.vcMap (e : ElemCfg) (v : BitVec 5) : Option (Nat × Fmt) :=
  let x := vget e.vcmap v.toNat 0
  if x.getLsbD 15 then some (getBits x 4 2, BitVec.ofNat 4 (getBits x 0 4)) else none

/-- Whether a cell for an element port is an operand that its rendezvous buffer takes: one that the Oxbow has forwarded enters its channel directly (R182,
R316). -/
def Cell.inSet (y : Cell) : Bool := y.h.rid != 0 && !y.m.fwd

/-- The channel index a cell for egress port p goes to: by the element's map for RID 0, by OPX in a set, 0 elsewhere (R172, R182). -/
def Core.chanOf? (x : Core) (p : Nat) (h : Header) : Option Nat :=
  if isElemPort p then
    match (x.cfg.elems.toList.getD (p - 48) {}).vcMap h.vc with
    | some (ch, _) => some (if h.rid = 0 then ch else h.opx.toNat)
    | none => none
  else some 0

/-- The head of a channel that its unit can act on in this slot (R174). -/
def Core.head? (x : Core) (slot p ch : Nat) : Option Cell :=
  match ((x.egAt p).chan ch).cells with
  | [] => none
  | c :: _ => if c.m.since ≤ slot then some c else none

/-! ## Consumption (R186, R311, R317) -/

/-- A loop's count falls by one. -/
def Core.loopDown (x : Core) (l : LoopId) : Core :=
  x.modLoop l.val (fun b => { b with inflight := b.inflight - 1, freed := b.freed + 1, consumed := true, active := true })

/-- Account for one consumed cell on the core that counted it: its loop budget, at once or with the last copy of a multicast (R186). -/
def Core.consumed (x : Core) (c : Cell) : Core :=
  match c.m.copy with
  | some k =>
    match Sparse.get? x.mcLive k with
    | some (n, l) =>
      if n ≤ 1 then
        let x := { x with mcLive := Sparse.erase x.mcLive k }
        match l with | some l => x.loopDown l | none => x
      else { x with mcLive := Sparse.set x.mcLive k (n - 1, l) }
    | none => x
  | none => match c.m.loop with | some l => x.loopDown l | none => x

/-- Whether the consumption of this copy is the cell's (R186): a multicast cell is consumed with the last of its copies. -/
def Core.lastCopy (x : Core) (c : Cell) : Bool :=
  match c.m.copy with
  | some k => (match Sparse.get? x.mcLive k with | some (n, _) => decide (n ≤ 1) | none => false)
  | none => true

/-- The Oxbow's counts of a consumed cell: routine cells at their source stage, stage cells of a twin (R311, R317). -/
def State.oxConsumed (s : State) (c : Cell) : State :=
  let s := match c.m.rtn with
    | some (k, g) => s.modCore k (fun x => x.modStage g (fun y => { y with rtn := y.rtn - 1 }))
    | none => s
  match c.m.twin with
  | some (k, g) => s.modCore k (fun x => x.modStage g (fun y => { y with twinCells := y.twinCells - 1 }))
  | none => s

/-- A cell's consumption on core c. -/
def State.consume (s : State) (c : CoreId) (x : Cell) : State :=
  let last := (s.core c).lastCopy x
  let s := s.modCore c (fun k => k.consumed x)
  if last then s.oxConsumed x else s

/-- Take the head of a channel: its place is reported free from the next slot (R174); the pending count of R315 falls for a cell the
switch counted. -/
def Core.takeHead (x : Core) (p ch : Nat) : Core :=
  x.modEg p (fun g =>
    let q := g.chan ch
    match q.cells with
    | [] => g
    | c :: r =>
      let g := g.modChan ch (fun q => { q with cells := r, freed := q.freed + 1, moved := true })
      if c.m.pend ∧ g.pending ≠ 0 then { g with pending := g.pending - 1 } else g)

/-- Pop the head of a channel and account for its consumption. -/
def State.popHead (s : State) (c : CoreId) (p ch : Nat) : State :=
  match ((s.core c).egAt p).chan ch |>.cells with
  | [] => s
  | x :: _ => ((s.clearHead c p ch).modCore c (fun k => k.takeHead p ch)).consume c x

/-! ## Offers (R173) -/

/-- Put an offer at the end of a port's output buffer. -/
def Core.offer (x : Core) (p : Nat) (o : Offer) : Core := x.modIng p (fun g => { g with obuf := g.obuf ++ [o] })

/-- Free places of a unit's 4-cell output buffer (R12, R121, R150, R238, R293). -/
def Core.obufFree (x : Core) (p : Nat) : Nat := 4 - (x.ingAt p).obuf.length

/-- Offer a cell by a route entry. -/
def offerEntry (e : BitVec 8) (tag : BitVec 3) (key : Key) (data : Payload) : Offer :=
  { via := .entry e, cell := { h := { tag := tag, key := key }, data := data } }

/-- A binding entry of R276: the route entry when bound. -/
def boundEntry? (b : BitVec 16) : Option (BitVec 8) := if b.getLsbD 15 then some (BitVec.ofNat 8 (getBits b 0 8)) else none

/-! ## Pass boundaries (R21) -/

/-- The units of a configuration by a name of 22 bits: a port unit by its port, the ME 128, the Reedbed 129. -/
def unitName (n : Nat) : BitVec 22 := BitVec.ofNat 22 n

/-- A unit crosses its pass boundary. A unit ahead of the others may have crossed more than once. [log entry 43, DEDUCED] -/
def Core.cross (x : Core) (n : Nat) : Core := { x with crossed := x.crossed ++ [unitName n] }

/-! ## Messages (R365, R366) -/

/-- The payload of a datagram: its LEN bytes after the header (R365). -/
def dgBody (m : Datagram) : List Byte := m.payload.take m.len.toNat

/-- The slots that n bytes of a message take on the host port: one cell, 256 bytes, a slot (R14). [log entry 139, DESIGN CHOICE] -/
def hostCells (n : Nat) : Nat := max 1 ((n + 255) / 256)

/-- Whether the port by which a host is reached carries no cell of an earlier message in this slot: outwards, inwards (R14). [log entry 139, DESIGN CHOICE] -/
def State.hostOutFree (s : State) (h : Ipv6) : Bool := decide (s.hostOut[Config.hostDie h] ≤ s.slot)
def State.hostInFree (s : State) (h : Ipv6) : Bool := decide (s.hostIn[Config.hostDie h] ≤ s.slot)

/-- A message of n bytes takes the host port: outwards behind those that it still carries, inwards from this slot on. -/
def State.hostOutUsed (s : State) (h : Ipv6) (n : Nat) : State :=
  { s with hostOut := vmod s.hostOut (Config.hostDie h).val (fun k => max k s.slot + hostCells n) }
def State.hostInUsed (s : State) (h : Ipv6) (n : Nat) : State :=
  { s with hostIn := vset s.hostIn (Config.hostDie h).val (s.slot + hostCells n) }

/-- Send a datagram; bits 7:6 of TEN and 7:3 of QUE are zero (R365). -/
def State.send (s : State) (dest : Dest) (type : Nat) (ten : Nat) (que : Nat) (edge : BitVec 32) (seq pos : Nat) (payload : List Byte) :
    State :=
  let d : Datagram := {
    ver := 1, type := BitVec.ofNat 8 type, ten := BitVec.ofNat 8 (ten % 64), que := BitVec.ofNat 8 (que % 8), edge := edge,
    seq := BitVec.ofNat 64 seq, pos := BitVec.ofNat 64 pos, len := BitVec.ofNat 32 payload.length, resv := 0, payload := payload }
  let s := match dest with | .host h => s.hostOutUsed h payload.length | _ => s
  { s with outbox := s.outbox ++ [{ dest := dest, d := d }] }

/-- The low n bytes of a number, lowest first. -/
def bytesOf (n v : Nat) : List Byte := (List.range n).map (fun i => BitVec.ofNat 8 (v / 256 ^ i))

/-- A byte string as a little-endian number. -/
def numOf (bs : List Byte) : Nat := bs.foldr (fun b acc => b.toNat + 256 * acc) 0

end Sys2Proof.Machine
end

