-- ==== Sys2Proof/Machine/Flags.lean ====
section
/-! DEFINITION. The flag computations: the relations that CMP and CMPI write into predicates (R95, R96), and the sticky flags of the
units (R49): an element's ESR (R117), the matrix engine's flags (R164), a bank's and a thread's FXSAT. -/

namespace Sys2Proof.Machine

def relEq (a b : Word) : Bool := a == b
def relNe (a b : Word) : Bool := a != b
def relLt (a b : Word) : Bool := a.slt b
def relLtu (a b : Word) : Bool := a.ult b
def relLe (a b : Word) : Bool := a.sle b
def relLeu (a b : Word) : Bool := a.ule b

/-- An element's flags of a firing become sticky in ESR (R117). -/
def Elem.setFlags (e : Elem) (f : Flags) : Elem := { e with esr := e.esr ||| f.setWidth 32 }

/-- The matrix engine's sticky flags (R164): INV, OVF, UNF, QSAT and QNAN only. -/
def Me.setFlags (m : Me) (f : Flags) : Me := { m with flags := m.flags ||| (f &&& 0x67), fresh := m.fresh ||| (f &&& 0x67) }

def Bank.setFxsat (b : Bank) (f : Bool) : Bank := { b with fxsat := b.fxsat || f }
def Thread.setFxsat (t : Thread) (f : Bool) : Thread := { t with fxsat := t.fxsat || f }

/-- STATUS of R84. -/
def Thread.status (t : Thread) : Word :=
  BitVec.ofNat 64 (t.cm.toNat + 2 * t.exl.toNat + 4 * t.ev.toNat + 8 * t.be.toNat + 16 * t.fxsat.toNat)

/-- MTS STATUS (R84): FXSAT in both modes; BE and EXL in controller mode; EV and CM never. -/
def Thread.setStatus (t : Thread) (v : Word) : Thread :=
  let t := { t with fxsat := v.getLsbD 4 }
  if t.cm then { t with be := v.getLsbD 3, exl := v.getLsbD 1 } else t

end Sys2Proof.Machine
end

