-- ==== Sys2Proof/WellFormed.lean ====
section
/-! DEFINITION. Which terms of Instr are instructions: the values that the encoding tables mark as reserved inside a field (R63, R69,
R70, R72-R76, R300). Everything else is kept out by the widths of the fields. -/

namespace Sys2Proof

/-- The special registers that R63 lists. -/
def sregListed (s : BitVec 5) : Bool := s.toNat ≤ 12 || (16 ≤ s.toNat && s.toNat ≤ 19)

/-- The special registers whose MTS has a row of its own: TIME, AGELIM, SPILL, WDOG (R63). -/
def sregOwnRow (s : BitVec 5) : Bool := s.toNat == 7 || s.toNat == 16 || s.toNat == 18 || s.toNat == 19

/-- The format codes MXMODE takes (R70). -/
def mxModeListed (f : BitVec 4) : Bool :=
  f.toNat == 2 || f.toNat == 3 || f.toNat == 4 || f.toNat == 5 || f.toNat == 6 || f.toNat == 9

/-- The element's source selects of R73. -/
def srcListed (s : BitVec 5) : Bool := s.toNat ≤ 23

/-- The element's destination selects of R73. -/
def dstListed (d : BitVec 5) : Bool := d.toNat ≤ 9 || d.toNat == 31

/-- The encoding checks of R76 on the selects of an action word. -/
def ElemAct.legal (x : ElemAct) : Bool :=
  srcListed x.sa && srcListed x.sb && dstListed x.da && dstListed x.db && x.ta.toNat ≤ 9

/-- An instruction whose fields the encoding tables allow. -/
def WellFormed (i : Instr) : Bool :=
  match i with
  | .nop => true
  | .trap _ => true
  | .eret => true
  | .wfe => true
  | .fenceT => true
  | .fenceC => true
  | .fenceL => true
  | .fenceD => true
  | .fenceP => true
  | .fenceS => true
  | .mfs _ s => sregListed s
  | .mts _ s => sregListed s && !sregOwnRow s
  | .mtsTime _ => true
  | .mtsAgelim _ => true
  | .mtsSpill _ => true
  | .mtsWdog _ => true
  | .tlbinv _ _ _ => true
  | .resume _ => true
  | .kill _ => true
  | .add _ _ _ => true
  | .sub _ _ _ => true
  | .mul _ _ _ => true
  | .mulh _ _ _ => true
  | .mulhu _ _ _ => true
  | .div _ _ _ => true
  | .divu _ _ _ => true
  | .rem _ _ _ => true
  | .remu _ _ _ => true
  | .and_ _ _ _ => true
  | .or_ _ _ _ => true
  | .xor_ _ _ _ => true
  | .andn _ _ _ => true
  | .shl _ _ _ => true
  | .shr _ _ _ => true
  | .sar _ _ _ => true
  | .shli _ _ _ _ => true
  | .shri _ _ _ _ => true
  | .sari _ _ _ _ => true
  | .min _ _ _ => true
  | .max _ _ _ => true
  | .minu _ _ _ => true
  | .maxu _ _ _ => true
  | .clz _ _ => true
  | .ctz _ _ => true
  | .popc _ _ => true
  | .sextb _ _ => true
  | .sexth _ _ => true
  | .sextw _ _ => true
  | .zextw _ _ => true
  | .ceq _ _ _ => true
  | .cne _ _ _ => true
  | .clt _ _ _ => true
  | .cltu _ _ _ => true
  | .cle _ _ _ => true
  | .cleu _ _ _ => true
  | .pand _ _ _ => true
  | .por _ _ _ => true
  | .pxor _ _ _ => true
  | .pandn _ _ _ => true
  | .pnot _ _ => true
  | .pset _ _ => true
  | .sel _ _ _ _ => true
  | .pmovg _ _ => true
  | .gmovp _ _ => true
  | .addi _ _ _ => true
  | .andi _ _ _ => true
  | .ori _ _ _ => true
  | .xori _ _ _ => true
  | .li _ _ => true
  | .lih _ _ => true
  | .cmpiEq _ _ _ => true
  | .cmpiNe _ _ _ => true
  | .cmpiLt _ _ _ => true
  | .cmpiLtu _ _ _ => true
  | .br _ _ _ => true
  | .jmp _ => true
  | .call _ => true
  | .jr _ => true
  | .callr _ => true
  | .ret => true
  | .ldb _ _ _ => true
  | .ldh _ _ _ => true
  | .ldw _ _ _ => true
  | .ldd _ _ _ => true
  | .ldbu _ _ _ => true
  | .ldhu _ _ _ => true
  | .ldwu _ _ _ => true
  | .stb _ _ _ => true
  | .sth _ _ _ => true
  | .stw _ _ _ => true
  | .std _ _ _ => true
  | .ldp _ _ _ => true
  | .stp _ _ _ => true
  | .aadd _ _ _ _ _ => true
  | .aand _ _ _ _ _ => true
  | .aor _ _ _ _ _ => true
  | .axor _ _ _ _ _ => true
  | .amin _ _ _ _ _ => true
  | .amax _ _ _ _ _ => true
  | .aminu _ _ _ _ _ => true
  | .amaxu _ _ _ _ _ => true
  | .axchg _ _ _ _ _ => true
  | .acas _ _ _ _ _ => true
  | .fxaddAmo _ _ _ _ => true
  | .prefR _ _ => true
  | .prefW _ _ => true
  | .join _ _ => true
  | .leave _ => true
  | .arrive _ => true
  | .gwait _ => true
  | .gsize _ _ => true
  | .yield => true
  | .exit => true
  | .setrole _ => true
  | .tidOf _ => true
  | .launch _ _ => true
  | .twaitany _ _ => true
  | .twaitall _ => true
  | .tffr _ _ => true
  | .tclr _ => true
  | .ttest _ _ => true
  | .apbase _ _ => true
  | .apdim _ _ _ _ => true
  | .apmode _ _ => true
  | .apidx _ _ => true
  | .apget _ _ _ => true
  | .node _ _ => true
  | .trc _ => true
  | .walk _ _ => true
  | .step _ => true
  | .brk _ => true
  | .sload _ _ _ _ => true
  | .sread _ _ _ _ => true
  | .sstore _ _ _ _ => true
  | .sgather _ _ _ _ => true
  | .sscatter _ _ _ _ => true
  | .scell _ _ _ _ => true
  | .sbar _ => true
  | .sdrain _ => true
  | .sedge _ _ => true
  | .sqry _ _ => true
  | .scfg _ _ _ => true
  | .sswap _ _ => true
  | .sarg p _ => (48 ≤ p.toNat && p.toNat ≤ 79 : Bool)
  | .ssplice _ _ => true
  | .scancel _ _ => true
  | .mxmode f => mxModeListed f
  | .mxpanel _ => true
  | .mxrun _ _ _ _ => true
  | .mxdrain _ _ _ _ => true
  | .mxzero _ => true
  | .mxadp _ _ _ => true
  | .mxcode _ _ => true
  | .mxstat _ _ => true
  | .rbload _ _ => true
  | .rbctx _ => true
  | .rbrun _ => true
  | .rbxmode _ k _ => k != 3
  | .rbstat _ _ => true
  | .oxdecl _ _ => true
  | .oxsplit _ => true
  | .oxmerge _ => true
  | .oxpin _ _ => true
  | .oxqry _ _ => true
  | .rtset _ _ => true
  | .mcset _ _ g => g != 0
  | .mcsetX _ _ _ g => g != 0
  | .racecfg _ _ => true
  | .gateset _ _ => true
  | .loopset _ _ => true
  | .elemNop x => x.legal
  | .mov x => x.legal
  | .pass x => x.legal
  | .keyx x => x.legal
  | .keys x => x.legal
  | .cntdn x => x.legal
  | .oxpiv x => x.legal
  | .oxend x => x.legal
  | .fadd x => x.legal
  | .fsub x => x.legal
  | .fmul x => x.legal
  | .fma x => x.legal
  | .fms x => x.legal
  | .fmin x => x.legal
  | .fmax x => x.legal
  | .fabs x => x.legal
  | .fneg x => x.legal
  | .fscl x => x.legal
  | .fred x => x.legal
  | .frmax x => x.legal
  | .fcmpeq x => x.legal
  | .fcmplt x => x.legal
  | .fcmple x => x.legal
  | .fsel x => x.legal
  | .iadd x => x.legal
  | .isub x => x.legal
  | .imul x => x.legal
  | .imac4 x => x.legal
  | .asub3 x => x.legal
  | .imin x => x.legal
  | .imax x => x.legal
  | .ishl x => x.legal
  | .ishr x => x.legal
  | .isar x => x.legal
  | .iand x => x.legal
  | .ior x => x.legal
  | .ixor x => x.legal
  | .inot x => x.legal
  | .icmpeq x => x.legal
  | .icmplt x => x.legal
  | .cvt x => x.legal
  | .qnt8 x => x.legal
  | .dqnt x => x.legal
  | .unp3 x => x.legal
  | .pk3 x => x.legal
  | .lmul x => x.legal
  | .lacc x => x.legal
  | .fxcvt x => x.legal
  | .fxadd x => x.legal
  | .perm x => x.legal
  | .bcast x => x.legal
  | .clamp x => x.legal
  | .kcmp x => x.legal
  | .ksel x => x.legal
  | .illDecode _ => true
  | .fenceComplete _ _ => true
  | .tlbinvComplete _ _ => true
  | .multiclockDone _ _ => true
  | .dcacheLineFill _ _ => true
  | .icacheLineFill _ _ => true
  | .storePerformed _ => true
  | .poolAccessDone _ _ => true
  | .mailboxDelivery _ _ => true
  | .amoPerformed _ _ => true
  | .pageWalk _ _ => true
  | .groupOpApplied _ _ => true
  | .tagWaitSatisfied _ _ => true
  | .nodeRemoteReturn _ _ => true
  | .walkLink _ _ => true
  | .bindSlotTaken _ _ => true
  | .drainTokenInject _ _ => true
  | .scfgCheckDone _ _ => true
  | .scfgLoadDone _ _ => true
  | .spliceDone _ _ => true
  | .streamRelease _ _ => true
  | .loaderReadIssue _ _ => true
  | .loaderReadReturn _ _ => true
  | .sinkCellConsume _ _ => true
  | .sinkWritePerformed _ _ => true
  | .streamComplete _ _ => true
  | .meJobQueueFree _ _ => true
  | .meFire _ => true
  | .meDrainRow _ => true
  | .meZeroRow _ => true
  | .mePanelCell _ _ => true
  | .mePreload _ _ => true
  | .meSteerToken _ _ => true
  | .mePassBoundary _ => true
  | .meDrnDiscard _ _ => true
  | .adapterFetch _ => true
  | .adapterFactorCell _ _ => true
  | .rbLoadCell _ => true
  | .rbLoadDone _ => true
  | .rbInput _ => true
  | .rbEvalGroup _ => true
  | .rbOutput _ => true
  | .rbRunDone _ => true
  | .rbContextSwitch _ => true
  | .rbModeApply _ => true
  | .rbPassBoundary _ => true
  | .rbDrnDiscard _ _ => true
  | .overloadDetect _ _ => true
  | .underloadDetect _ _ => true
  | .oxbowApproval _ _ => true
  | .oxbowRefusal _ _ => true
  | .cloneDone _ _ => true
  | .splHead _ _ => true
  | .oxbowSwitch _ _ => true
  | .oxbowForward _ _ => true
  | .rdeInject _ _ => true
  | .rdeConsumed _ _ => true
  | .holdRelease _ _ => true
  | .mergeStart _ _ => true
  | .twinQuiescent _ _ => true
  | .mergeDone _ _ => true
  | .oxbowTagSet _ => true
  | .descriptorReadDone _ _ => true
  | .elementDrain _ _ => true
  | .cellAdmit _ _ => true
  | .weirMatch _ => true
  | .cellDelivery _ _ => true
  | .rdvSetRelease _ _ => true
  | .rdvStallFault _ _ => true
  | .loopFault _ _ => true
  | .crossbarArrival _ _ => true
  | .crossbarFanout _ _ => true
  | .raceScore _ _ => true
  | .raceEnd _ _ => true
  | .gateFire _ _ => true
  | .bankWrite _ _ => true
  | .bankRead _ _ => true
  | .bankAdd _ _ => true
  | .bankFxadd _ _ => true
  | .bankMin _ _ => true
  | .bankMax _ _ => true
  | .bankTasb _ _ => true
  | .bankCas _ _ => true
  | .bankXchg _ _ => true
  | .bankGather _ _ => true
  | .bankScatter _ _ => true
  | .bankZero _ _ => true
  | .bankOwn _ _ => true
  | .bankDrn _ _ => true
  | .bankSreadRead _ _ => true
  | .patrolRead _ _ => true
  | .faultRecordPost _ => true
  | .wdogExpire _ => true
  | .taskStop _ => true
  | .launchReservation => true
  | .gangStart => true
  | .firstIssue _ => true
  | .taskEnd _ => true
  | .sluiceRead _ _ => true
  | .attestationRead _ _ => true
  | .sluiceWrite _ _ => true
  | .submitLaunch _ _ => true
  | .submitGraph _ _ => true
  | .timeMessage _ _ _ => true
  | .roundData _ _ => true
  | .roundCommit _ _ => true
  | .roundVoid _ _ => true
  | .peerCellSend _ _ => true
  | .commitMsg _ _ => true
  | .voidMsg _ _ => true
  | .roundTimeout _ _ => true
  | .ackMsg _ _ => true
  | .debugRequest _ _ => true
  | .debugHostCommand _ _ => true
  | .debugOutput _ => true
  | .dbgWriteSt _ => true
  | .dbgWriteD _ => true
  | .dbgWriteSf _ => true
  | .dbgWriteP _ => true
  | .dbgWriteEsr _ => true
  | .dbgWriteHead _ => true
  | .dbgWriteTable _ => true
  | .dbgTraceEnable _ => true
  | .dbgSetBe _ => true
  | .frameDiscard _ _ => true
  | .linkLoss _ => true
  | .thermalReading _ _ _ _ => true
  | .thermalTrip _ => true
  | .thermalTripClear _ => true
  | .powerOnBoot => true
  | .firmwareModuleLoad _ => true
  | .moduleReset => true
  | .spareBringIn _ => true
  | .regWrite _ _ _ _ => true
  | .tableFault => true
  | .launchRecordQueued _ _ => true
  | .firmwarePolicySet _ => true
  | .datagramDiscard _ => true

end Sys2Proof
end

