-- ==== Sys2Proof/Decode.lean ====
section
/-! DEFINITION. Decoding (R54-R78): the sequencer's 32-bit words, the elements' 64-bit table entries, and after them the encoder,
from the same tables. Decoding is total: a word that is no instruction is rejected by the name of the check of R59 that it fails. -/

namespace Sys2Proof

/-- Why a sequencer word is no instruction (R59). -/
inductive DecodeError where
  /-- the major opcode is reserved (R58) -/
  | reservedMajor
  /-- the function code is not listed for its group -/
  | reservedFunction
  /-- a field declared zero is not zero -/
  | nonzeroField
  /-- a sub-field holds a value marked reserved -/
  | reservedSubfield
deriving DecidableEq, Repr

/-- Bits hi:lo of w. -/
def bits (w hi lo : Nat) : Nat := w / 2 ^ lo % 2 ^ (hi - lo + 1)

/-- Bits hi:lo of w as a field. -/
def fld {n : Nat} (w hi lo : Nat) : BitVec n := BitVec.ofNat n (bits w hi lo)

/-- The words of major 0x00 (R62-R70). -/
def decodeSys (w : Nat) : Except DecodeError Instr :=
  match bits w 10 5 with
  | 0 => if bits w 4 0 = 0 ∧ bits w 25 11 = 0 then .ok .nop else .error .nonzeroField
  | 1 => if bits w 4 0 = 0 ∧ bits w 25 21 = 0 then .ok (.trap (fld w 20 11)) else .error .nonzeroField
  | 2 => if bits w 4 0 = 0 ∧ bits w 25 11 = 0 then .ok .eret else .error .nonzeroField
  | 3 => if bits w 4 0 = 0 ∧ bits w 25 11 = 0 then .ok .wfe else .error .nonzeroField
  | 4 => if bits w 4 0 = 0 ∧ bits w 25 11 = 0 then .ok .fenceT else if bits w 4 0 = 1 ∧ bits w 25 11 = 0 then .ok .fenceC else if bits w 4 0 = 2 ∧ bits w 25 11 = 0 then .ok .fenceL else if bits w 4 0 = 3 ∧ bits w 25 11 = 0 then .ok .fenceD else if bits w 4 0 = 4 ∧ bits w 25 11 = 0 then .ok .fenceP else if bits w 4 0 = 5 ∧ bits w 25 11 = 0 then .ok .fenceS else .error .nonzeroField
  | 5 => if bits w 4 0 = 0 ∧ bits w 20 16 = 0 then (if sregListed (fld w 15 11 : BitVec 5) then .ok (.mfs (fld w 25 21) (fld w 15 11)) else .error .reservedSubfield) else .error .nonzeroField
  | 6 => if bits w 4 0 = 0 ∧ bits w 15 11 = 7 ∧ bits w 25 21 = 0 then .ok (.mtsTime (fld w 20 16)) else if bits w 4 0 = 0 ∧ bits w 15 11 = 16 ∧ bits w 25 21 = 0 then .ok (.mtsAgelim (fld w 20 16)) else if bits w 4 0 = 0 ∧ bits w 15 11 = 18 ∧ bits w 25 21 = 0 then .ok (.mtsSpill (fld w 20 16)) else if bits w 4 0 = 0 ∧ bits w 15 11 = 19 ∧ bits w 25 21 = 0 then .ok (.mtsWdog (fld w 20 16)) else if bits w 4 0 = 0 ∧ bits w 25 21 = 0 then (if sregListed (fld w 15 11 : BitVec 5) then .ok (.mts (fld w 20 16) (fld w 15 11)) else .error .reservedSubfield) else .error .nonzeroField
  | 7 => if bits w 4 0 = 0 then .ok (.tlbinv (fld w 25 21) (fld w 20 16) (fld w 15 11)) else .error .nonzeroField
  | 8 => if bits w 4 0 = 0 ∧ bits w 15 11 = 0 ∧ bits w 25 21 = 0 then .ok (.resume (fld w 20 16)) else .error .nonzeroField
  | 9 => if bits w 4 0 = 0 ∧ bits w 15 11 = 0 ∧ bits w 25 21 = 0 then .ok (.kill (fld w 20 16)) else .error .nonzeroField
  | _ => .error .reservedFunction

/-- The words of major 0x01 (R62-R70). -/
def decodeAlu (w : Nat) : Except DecodeError Instr :=
  match bits w 10 5 with
  | 0 => if bits w 4 0 = 0 then .ok (.add (fld w 25 21) (fld w 20 16) (fld w 15 11)) else .error .nonzeroField
  | 1 => if bits w 4 0 = 0 then .ok (.sub (fld w 25 21) (fld w 20 16) (fld w 15 11)) else .error .nonzeroField
  | 2 => if bits w 4 0 = 0 then .ok (.mul (fld w 25 21) (fld w 20 16) (fld w 15 11)) else .error .nonzeroField
  | 3 => if bits w 4 0 = 0 then .ok (.mulh (fld w 25 21) (fld w 20 16) (fld w 15 11)) else .error .nonzeroField
  | 4 => if bits w 4 0 = 0 then .ok (.mulhu (fld w 25 21) (fld w 20 16) (fld w 15 11)) else .error .nonzeroField
  | 5 => if bits w 4 0 = 0 then .ok (.div (fld w 25 21) (fld w 20 16) (fld w 15 11)) else .error .nonzeroField
  | 6 => if bits w 4 0 = 0 then .ok (.divu (fld w 25 21) (fld w 20 16) (fld w 15 11)) else .error .nonzeroField
  | 7 => if bits w 4 0 = 0 then .ok (.rem (fld w 25 21) (fld w 20 16) (fld w 15 11)) else .error .nonzeroField
  | 8 => if bits w 4 0 = 0 then .ok (.remu (fld w 25 21) (fld w 20 16) (fld w 15 11)) else .error .nonzeroField
  | 9 => if bits w 4 0 = 0 then .ok (.and_ (fld w 25 21) (fld w 20 16) (fld w 15 11)) else .error .nonzeroField
  | 10 => if bits w 4 0 = 0 then .ok (.or_ (fld w 25 21) (fld w 20 16) (fld w 15 11)) else .error .nonzeroField
  | 11 => if bits w 4 0 = 0 then .ok (.xor_ (fld w 25 21) (fld w 20 16) (fld w 15 11)) else .error .nonzeroField
  | 12 => if bits w 4 0 = 0 then .ok (.andn (fld w 25 21) (fld w 20 16) (fld w 15 11)) else .error .nonzeroField
  | 13 => if bits w 4 0 = 0 then .ok (.shl (fld w 25 21) (fld w 20 16) (fld w 15 11)) else .error .nonzeroField
  | 14 => if bits w 4 0 = 0 then .ok (.shr (fld w 25 21) (fld w 20 16) (fld w 15 11)) else .error .nonzeroField
  | 15 => if bits w 4 0 = 0 then .ok (.sar (fld w 25 21) (fld w 20 16) (fld w 15 11)) else .error .nonzeroField
  | 16 => if bits w 4 1 = 0 then .ok (.shli (fld w 25 21) (fld w 20 16) (fld w 15 11) (fld w 0 0)) else .error .nonzeroField
  | 17 => if bits w 4 1 = 0 then .ok (.shri (fld w 25 21) (fld w 20 16) (fld w 15 11) (fld w 0 0)) else .error .nonzeroField
  | 18 => if bits w 4 1 = 0 then .ok (.sari (fld w 25 21) (fld w 20 16) (fld w 15 11) (fld w 0 0)) else .error .nonzeroField
  | 19 => if bits w 4 0 = 0 then .ok (.min (fld w 25 21) (fld w 20 16) (fld w 15 11)) else .error .nonzeroField
  | 20 => if bits w 4 0 = 0 then .ok (.max (fld w 25 21) (fld w 20 16) (fld w 15 11)) else .error .nonzeroField
  | 21 => if bits w 4 0 = 0 then .ok (.minu (fld w 25 21) (fld w 20 16) (fld w 15 11)) else .error .nonzeroField
  | 22 => if bits w 4 0 = 0 then .ok (.maxu (fld w 25 21) (fld w 20 16) (fld w 15 11)) else .error .nonzeroField
  | 23 => if bits w 4 0 = 0 ∧ bits w 15 11 = 0 then .ok (.clz (fld w 25 21) (fld w 20 16)) else .error .nonzeroField
  | 24 => if bits w 4 0 = 0 ∧ bits w 15 11 = 0 then .ok (.ctz (fld w 25 21) (fld w 20 16)) else .error .nonzeroField
  | 25 => if bits w 4 0 = 0 ∧ bits w 15 11 = 0 then .ok (.popc (fld w 25 21) (fld w 20 16)) else .error .nonzeroField
  | 26 => if bits w 4 0 = 0 ∧ bits w 15 11 = 0 then .ok (.sextb (fld w 25 21) (fld w 20 16)) else .error .nonzeroField
  | 27 => if bits w 4 0 = 0 ∧ bits w 15 11 = 0 then .ok (.sexth (fld w 25 21) (fld w 20 16)) else .error .nonzeroField
  | 28 => if bits w 4 0 = 0 ∧ bits w 15 11 = 0 then .ok (.sextw (fld w 25 21) (fld w 20 16)) else .error .nonzeroField
  | 29 => if bits w 4 0 = 0 ∧ bits w 15 11 = 0 then .ok (.zextw (fld w 25 21) (fld w 20 16)) else .error .nonzeroField
  | _ => .error .reservedFunction

/-- The words of major 0x02 (R62-R70). -/
def decodeCmp (w : Nat) : Except DecodeError Instr :=
  match bits w 10 5 with
  | 0 => if bits w 4 0 = 0 ∧ bits w 25 24 = 0 then .ok (.ceq (fld w 23 21) (fld w 20 16) (fld w 15 11)) else .error .nonzeroField
  | 1 => if bits w 4 0 = 0 ∧ bits w 25 24 = 0 then .ok (.cne (fld w 23 21) (fld w 20 16) (fld w 15 11)) else .error .nonzeroField
  | 2 => if bits w 4 0 = 0 ∧ bits w 25 24 = 0 then .ok (.clt (fld w 23 21) (fld w 20 16) (fld w 15 11)) else .error .nonzeroField
  | 3 => if bits w 4 0 = 0 ∧ bits w 25 24 = 0 then .ok (.cltu (fld w 23 21) (fld w 20 16) (fld w 15 11)) else .error .nonzeroField
  | 4 => if bits w 4 0 = 0 ∧ bits w 25 24 = 0 then .ok (.cle (fld w 23 21) (fld w 20 16) (fld w 15 11)) else .error .nonzeroField
  | 5 => if bits w 4 0 = 0 ∧ bits w 25 24 = 0 then .ok (.cleu (fld w 23 21) (fld w 20 16) (fld w 15 11)) else .error .nonzeroField
  | _ => .error .reservedFunction

/-- The words of major 0x03 (R62-R70). -/
def decodePred (w : Nat) : Except DecodeError Instr :=
  match bits w 10 5 with
  | 0 => if bits w 4 0 = 0 ∧ bits w 15 14 = 0 ∧ bits w 20 19 = 0 ∧ bits w 25 24 = 0 then .ok (.pand (fld w 23 21) (fld w 18 16) (fld w 13 11)) else .error .nonzeroField
  | 1 => if bits w 4 0 = 0 ∧ bits w 15 14 = 0 ∧ bits w 20 19 = 0 ∧ bits w 25 24 = 0 then .ok (.por (fld w 23 21) (fld w 18 16) (fld w 13 11)) else .error .nonzeroField
  | 2 => if bits w 4 0 = 0 ∧ bits w 15 14 = 0 ∧ bits w 20 19 = 0 ∧ bits w 25 24 = 0 then .ok (.pxor (fld w 23 21) (fld w 18 16) (fld w 13 11)) else .error .nonzeroField
  | 3 => if bits w 4 0 = 0 ∧ bits w 15 14 = 0 ∧ bits w 20 19 = 0 ∧ bits w 25 24 = 0 then .ok (.pandn (fld w 23 21) (fld w 18 16) (fld w 13 11)) else .error .nonzeroField
  | 4 => if bits w 4 0 = 0 ∧ bits w 15 11 = 0 ∧ bits w 20 19 = 0 ∧ bits w 25 24 = 0 then .ok (.pnot (fld w 23 21) (fld w 18 16)) else .error .nonzeroField
  | 5 => if bits w 4 1 = 0 ∧ bits w 20 11 = 0 ∧ bits w 25 24 = 0 then .ok (.pset (fld w 23 21) (fld w 0 0)) else .error .nonzeroField
  | 6 => if bits w 4 3 = 0 then .ok (.sel (fld w 25 21) (fld w 20 16) (fld w 15 11) (fld w 2 0)) else .error .nonzeroField
  | 7 => if bits w 4 0 = 0 ∧ bits w 15 11 = 0 ∧ bits w 25 24 = 0 then .ok (.pmovg (fld w 23 21) (fld w 20 16)) else .error .nonzeroField
  | 8 => if bits w 4 0 = 0 ∧ bits w 15 11 = 0 ∧ bits w 20 19 = 0 then .ok (.gmovp (fld w 25 21) (fld w 18 16)) else .error .nonzeroField
  | _ => .error .reservedFunction

/-- The words of major 0x0E (R62-R70). -/
def decodeCmpi (w : Nat) : Except DecodeError Instr :=
  match bits w 22 21 with
  | 0 => .ok (.cmpiEq (fld w 25 23) (fld w 20 16) (fld w 15 0))
  | 1 => .ok (.cmpiNe (fld w 25 23) (fld w 20 16) (fld w 15 0))
  | 2 => .ok (.cmpiLt (fld w 25 23) (fld w 20 16) (fld w 15 0))
  | 3 => .ok (.cmpiLtu (fld w 25 23) (fld w 20 16) (fld w 15 0))
  | _ => .error .reservedFunction

/-- The words of major 0x13 (R62-R70). -/
def decodeJreg (w : Nat) : Except DecodeError Instr :=
  match bits w 10 5 with
  | 0 => if bits w 4 0 = 0 ∧ bits w 15 11 = 0 ∧ bits w 25 21 = 0 then .ok (.jr (fld w 20 16)) else .error .nonzeroField
  | 1 => if bits w 4 0 = 0 ∧ bits w 15 11 = 0 ∧ bits w 25 21 = 0 then .ok (.callr (fld w 20 16)) else .error .nonzeroField
  | 2 => if bits w 4 0 = 0 ∧ bits w 25 11 = 0 then .ok .ret else .error .nonzeroField
  | _ => .error .reservedFunction

/-- The words of major 0x26 (R62-R70). -/
def decodeAmo (w : Nat) : Except DecodeError Instr :=
  match bits w 10 5 with
  | 0 => if bits w 4 2 = 0 then .ok (.aadd (fld w 25 21) (fld w 20 16) (fld w 15 11) (fld w 1 1) (fld w 0 0)) else .error .nonzeroField
  | 1 => if bits w 4 2 = 0 then .ok (.aand (fld w 25 21) (fld w 20 16) (fld w 15 11) (fld w 1 1) (fld w 0 0)) else .error .nonzeroField
  | 2 => if bits w 4 2 = 0 then .ok (.aor (fld w 25 21) (fld w 20 16) (fld w 15 11) (fld w 1 1) (fld w 0 0)) else .error .nonzeroField
  | 3 => if bits w 4 2 = 0 then .ok (.axor (fld w 25 21) (fld w 20 16) (fld w 15 11) (fld w 1 1) (fld w 0 0)) else .error .nonzeroField
  | 4 => if bits w 4 2 = 0 then .ok (.amin (fld w 25 21) (fld w 20 16) (fld w 15 11) (fld w 1 1) (fld w 0 0)) else .error .nonzeroField
  | 5 => if bits w 4 2 = 0 then .ok (.amax (fld w 25 21) (fld w 20 16) (fld w 15 11) (fld w 1 1) (fld w 0 0)) else .error .nonzeroField
  | 6 => if bits w 4 2 = 0 then .ok (.aminu (fld w 25 21) (fld w 20 16) (fld w 15 11) (fld w 1 1) (fld w 0 0)) else .error .nonzeroField
  | 7 => if bits w 4 2 = 0 then .ok (.amaxu (fld w 25 21) (fld w 20 16) (fld w 15 11) (fld w 1 1) (fld w 0 0)) else .error .nonzeroField
  | 8 => if bits w 4 2 = 0 then .ok (.axchg (fld w 25 21) (fld w 20 16) (fld w 15 11) (fld w 1 1) (fld w 0 0)) else .error .nonzeroField
  | 9 => if bits w 4 2 = 0 then .ok (.acas (fld w 25 21) (fld w 20 16) (fld w 15 11) (fld w 1 1) (fld w 0 0)) else .error .nonzeroField
  | 10 => if bits w 0 0 = 1 ∧ bits w 4 2 = 0 then .ok (.fxaddAmo (fld w 25 21) (fld w 20 16) (fld w 15 11) (fld w 1 1)) else .error .nonzeroField
  | _ => .error .reservedFunction

/-- The words of major 0x27 (R62-R70). -/
def decodePref (w : Nat) : Except DecodeError Instr :=
  match bits w 25 21 with
  | 0 => .ok (.prefR (fld w 20 16) (fld w 15 0))
  | 1 => .ok (.prefW (fld w 20 16) (fld w 15 0))
  | _ => .error .reservedSubfield

/-- The words of major 0x28 (R62-R70). -/
def decodeThr (w : Nat) : Except DecodeError Instr :=
  match bits w 10 5 with
  | 0 => if bits w 4 0 = 0 ∧ bits w 15 11 = 0 then .ok (.join (fld w 25 21) (fld w 20 16)) else .error .nonzeroField
  | 1 => if bits w 4 0 = 0 ∧ bits w 15 11 = 0 ∧ bits w 25 21 = 0 then .ok (.leave (fld w 20 16)) else .error .nonzeroField
  | 2 => if bits w 4 0 = 0 ∧ bits w 15 11 = 0 ∧ bits w 25 21 = 0 then .ok (.arrive (fld w 20 16)) else .error .nonzeroField
  | 3 => if bits w 4 0 = 0 ∧ bits w 15 11 = 0 ∧ bits w 25 21 = 0 then .ok (.gwait (fld w 20 16)) else .error .nonzeroField
  | 4 => if bits w 4 0 = 0 ∧ bits w 15 11 = 0 then .ok (.gsize (fld w 25 21) (fld w 20 16)) else .error .nonzeroField
  | 5 => if bits w 4 0 = 0 ∧ bits w 25 11 = 0 then .ok .yield else .error .nonzeroField
  | 6 => if bits w 4 0 = 0 ∧ bits w 25 11 = 0 then .ok .exit else .error .nonzeroField
  | 7 => if bits w 4 2 = 0 ∧ bits w 25 11 = 0 then .ok (.setrole (fld w 1 0)) else .error .nonzeroField
  | 8 => if bits w 4 0 = 0 ∧ bits w 20 11 = 0 then .ok (.tidOf (fld w 25 21)) else .error .nonzeroField
  | 9 => if bits w 4 0 = 0 ∧ bits w 15 11 = 0 then .ok (.launch (fld w 25 21) (fld w 20 16)) else .error .nonzeroField
  | _ => .error .reservedFunction

/-- The words of major 0x29 (R62-R70). -/
def decodeTags (w : Nat) : Except DecodeError Instr :=
  match bits w 10 5 with
  | 0 => if bits w 4 0 = 0 ∧ bits w 15 11 = 0 then .ok (.twaitany (fld w 25 21) (fld w 20 16)) else .error .nonzeroField
  | 1 => if bits w 4 0 = 0 ∧ bits w 15 11 = 0 ∧ bits w 25 21 = 0 then .ok (.twaitall (fld w 20 16)) else .error .nonzeroField
  | 2 => if bits w 4 0 = 0 ∧ bits w 15 11 = 0 then .ok (.tffr (fld w 25 21) (fld w 20 16)) else .error .nonzeroField
  | 3 => if bits w 4 0 = 0 ∧ bits w 15 11 = 0 ∧ bits w 25 21 = 0 then .ok (.tclr (fld w 20 16)) else .error .nonzeroField
  | 4 => if bits w 4 0 = 0 ∧ bits w 15 11 = 0 ∧ bits w 25 24 = 0 then .ok (.ttest (fld w 23 21) (fld w 20 16)) else .error .nonzeroField
  | _ => .error .reservedFunction

/-- The words of major 0x2A (R62-R70). -/
def decodeAps (w : Nat) : Except DecodeError Instr :=
  match bits w 10 5 with
  | 0 => if bits w 4 0 = 0 ∧ bits w 15 11 = 0 ∧ bits w 25 25 = 0 then .ok (.apbase (fld w 24 21) (fld w 20 16)) else .error .nonzeroField
  | 1 => if bits w 4 2 = 0 ∧ bits w 25 25 = 0 then .ok (.apdim (fld w 24 21) (fld w 20 16) (fld w 15 11) (fld w 1 0)) else .error .nonzeroField
  | 2 => if bits w 4 0 = 0 ∧ bits w 15 11 = 0 ∧ bits w 25 25 = 0 then .ok (.apmode (fld w 24 21) (fld w 20 16)) else .error .nonzeroField
  | 3 => if bits w 4 0 = 0 ∧ bits w 15 11 = 0 ∧ bits w 25 25 = 0 then .ok (.apidx (fld w 24 21) (fld w 20 16)) else .error .nonzeroField
  | 4 => if bits w 4 2 = 0 ∧ bits w 15 11 = 0 ∧ bits w 20 20 = 0 then .ok (.apget (fld w 25 21) (fld w 19 16) (fld w 1 0)) else .error .nonzeroField
  | _ => .error .reservedFunction

/-- The words of major 0x30 (R62-R70). -/
def decodeStrm (w : Nat) : Except DecodeError Instr :=
  match bits w 25 22 with
  | 0 => .ok (.sload (fld w 21 15) (fld w 14 11) (fld w 10 5) (fld w 4 0))
  | 1 => .ok (.sread (fld w 21 15) (fld w 14 11) (fld w 10 5) (fld w 4 0))
  | 2 => .ok (.sstore (fld w 21 15) (fld w 14 11) (fld w 10 5) (fld w 4 0))
  | 3 => .ok (.sgather (fld w 21 15) (fld w 14 11) (fld w 10 5) (fld w 4 0))
  | 4 => .ok (.sscatter (fld w 21 15) (fld w 14 11) (fld w 10 5) (fld w 4 0))
  | 5 => if bits w 10 8 = 0 then .ok (.scell (fld w 21 15) (fld w 14 11) (fld w 7 5) (fld w 4 0)) else .error .nonzeroField
  | 6 => if bits w 10 0 = 0 ∧ bits w 21 15 = 0 then .ok (.sbar (fld w 14 11)) else .error .nonzeroField
  | 7 => if bits w 21 1 = 0 then .ok (.sdrain (fld w 0 0)) else .error .nonzeroField
  | 8 => if bits w 4 0 = 0 ∧ bits w 21 15 = 0 then .ok (.sedge (fld w 14 11) (fld w 10 5)) else .error .nonzeroField
  | 9 => if bits w 4 0 = 0 ∧ bits w 21 15 = 0 then .ok (.sqry (fld w 14 11) (fld w 10 5)) else .error .nonzeroField
  | 10 => if bits w 4 1 = 0 ∧ bits w 21 15 = 0 then .ok (.scfg (fld w 14 11) (fld w 10 5) (fld w 0 0)) else .error .nonzeroField
  | 11 => if bits w 10 1 = 0 ∧ bits w 21 15 = 0 then .ok (.sswap (fld w 14 11) (fld w 0 0)) else .error .nonzeroField
  | 12 => if bits w 10 0 = 0 then (if decide (48 ≤ (fld w 21 15 : BitVec 7).toNat ∧ (fld w 21 15 : BitVec 7).toNat ≤ 79) then .ok (.sarg (fld w 21 15) (fld w 14 11)) else .error .reservedSubfield) else .error .nonzeroField
  | 13 => if bits w 4 0 = 0 ∧ bits w 21 15 = 0 then .ok (.ssplice (fld w 14 11) (fld w 10 5)) else .error .nonzeroField
  | 14 => if bits w 4 0 = 0 ∧ bits w 21 15 = 0 then .ok (.scancel (fld w 14 11) (fld w 10 5)) else .error .nonzeroField
  | _ => .error .reservedFunction

/-- The words of major 0x31 (R62-R70). -/
def decodeMx (w : Nat) : Except DecodeError Instr :=
  match bits w 25 21 with
  | 0 => if bits w 20 4 = 0 then (if mxModeListed (fld w 3 0 : BitVec 4) then .ok (.mxmode (fld w 3 0)) else .error .reservedSubfield) else .error .nonzeroField
  | 1 => if bits w 20 1 = 0 then .ok (.mxpanel (fld w 0 0)) else .error .nonzeroField
  | 2 => if bits w 15 4 = 0 then .ok (.mxrun (fld w 20 16) (fld w 3 3) (fld w 2 2) (fld w 1 0)) else .error .nonzeroField
  | 3 => if bits w 15 6 = 0 then .ok (.mxdrain (fld w 20 16) (fld w 5 5) (fld w 4 1) (fld w 0 0)) else .error .nonzeroField
  | 4 => if bits w 20 1 = 0 then .ok (.mxzero (fld w 0 0)) else .error .nonzeroField
  | 5 => if bits w 10 4 = 0 then .ok (.mxadp (fld w 20 16) (fld w 15 11) (fld w 3 0)) else .error .nonzeroField
  | 6 => if bits w 15 2 = 0 then .ok (.mxcode (fld w 20 16) (fld w 1 0)) else .error .nonzeroField
  | 7 => if bits w 15 4 = 0 then .ok (.mxstat (fld w 20 16) (fld w 3 0)) else .error .nonzeroField
  | _ => .error .reservedFunction

/-- The words of major 0x32 (R62-R70). -/
def decodeRb (w : Nat) : Except DecodeError Instr :=
  match bits w 25 21 with
  | 0 => if bits w 15 3 = 0 then .ok (.rbload (fld w 20 16) (fld w 2 0)) else .error .nonzeroField
  | 1 => if bits w 20 3 = 0 then .ok (.rbctx (fld w 2 0)) else .error .nonzeroField
  | 2 => if bits w 15 0 = 0 then .ok (.rbrun (fld w 20 16)) else .error .nonzeroField
  | 3 => if bits w 20 8 = 0 then (if decide ((fld w 4 3 : BitVec 2) ≠ 3) then .ok (.rbxmode (fld w 7 5) (fld w 4 3) (fld w 2 0)) else .error .reservedSubfield) else .error .nonzeroField
  | 4 => if bits w 15 4 = 0 then .ok (.rbstat (fld w 20 16) (fld w 3 0)) else .error .nonzeroField
  | _ => .error .reservedFunction

/-- The words of major 0x33 (R62-R70). -/
def decodeOx (w : Nat) : Except DecodeError Instr :=
  match bits w 25 21 with
  | 0 => if bits w 15 3 = 0 then .ok (.oxdecl (fld w 20 16) (fld w 2 0)) else .error .nonzeroField
  | 1 => if bits w 20 3 = 0 then .ok (.oxsplit (fld w 2 0)) else .error .nonzeroField
  | 2 => if bits w 20 3 = 0 then .ok (.oxmerge (fld w 2 0)) else .error .nonzeroField
  | 3 => if bits w 20 4 = 0 then .ok (.oxpin (fld w 3 3) (fld w 2 0)) else .error .nonzeroField
  | 4 => if bits w 15 3 = 0 then .ok (.oxqry (fld w 20 16) (fld w 2 0)) else .error .nonzeroField
  | _ => .error .reservedFunction

/-- The words of major 0x34 (R62-R70). -/
def decodeRte (w : Nat) : Except DecodeError Instr :=
  match bits w 25 21 with
  | 0 => if bits w 15 8 = 0 then .ok (.rtset (fld w 20 16) (fld w 7 0)) else .error .nonzeroField
  | 1 => if bits w 10 6 = 0 then (if decide ((fld w 5 0 : BitVec 6) ≠ 0) then .ok (.mcset (fld w 20 16) (fld w 15 11) (fld w 5 0)) else .error .reservedSubfield) else if bits w 6 6 = 1 ∧ bits w 10 8 = 0 then (if decide ((fld w 5 0 : BitVec 6) ≠ 0) then .ok (.mcsetX (fld w 20 16) (fld w 15 11) (fld w 7 7) (fld w 5 0)) else .error .reservedSubfield) else .error .nonzeroField
  | 2 => if bits w 15 1 = 0 then .ok (.racecfg (fld w 20 16) (fld w 0 0)) else .error .nonzeroField
  | 3 => if bits w 15 4 = 0 then .ok (.gateset (fld w 20 16) (fld w 3 0)) else .error .nonzeroField
  | 4 => if bits w 15 4 = 0 then .ok (.loopset (fld w 20 16) (fld w 3 0)) else .error .nonzeroField
  | _ => .error .reservedFunction

/-- The words of major 0x38 (R62-R70). -/
def decodeDbg (w : Nat) : Except DecodeError Instr :=
  match bits w 10 5 with
  | 0 => if bits w 4 0 = 0 ∧ bits w 15 11 = 0 then .ok (.node (fld w 25 21) (fld w 20 16)) else .error .nonzeroField
  | 1 => if bits w 4 0 = 0 ∧ bits w 15 11 = 0 ∧ bits w 25 21 = 0 then .ok (.trc (fld w 20 16)) else .error .nonzeroField
  | 2 => if bits w 4 0 = 0 ∧ bits w 15 11 = 0 then .ok (.walk (fld w 25 21) (fld w 20 16)) else .error .nonzeroField
  | 3 => if bits w 4 0 = 0 ∧ bits w 15 11 = 0 ∧ bits w 25 21 = 0 then .ok (.step (fld w 20 16)) else .error .nonzeroField
  | 4 => if bits w 4 0 = 0 ∧ bits w 25 21 = 0 then .ok (.brk (fld w 20 11)) else .error .nonzeroField
  | _ => .error .reservedFunction

/-- A sequencer word (R58, R59). -/
def decodeWord (w : Nat) : Except DecodeError Instr :=
  match bits w 31 26 with
  | 0 => decodeSys w
  | 1 => decodeAlu w
  | 2 => decodeCmp w
  | 3 => decodePred w
  | 8 => .ok (.addi (fld w 25 21) (fld w 20 16) (fld w 15 0))
  | 9 => .ok (.andi (fld w 25 21) (fld w 20 16) (fld w 15 0))
  | 10 => .ok (.ori (fld w 25 21) (fld w 20 16) (fld w 15 0))
  | 11 => .ok (.xori (fld w 25 21) (fld w 20 16) (fld w 15 0))
  | 12 => if bits w 20 16 = 0 then .ok (.li (fld w 25 21) (fld w 15 0)) else .error .nonzeroField
  | 13 => if bits w 20 16 = 0 then .ok (.lih (fld w 25 21) (fld w 15 0)) else .error .nonzeroField
  | 14 => decodeCmpi w
  | 16 => .ok (.br (fld w 25 23) (fld w 22 22) (fld w 21 0))
  | 17 => .ok (.jmp (fld w 25 0))
  | 18 => .ok (.call (fld w 25 0))
  | 19 => decodeJreg w
  | 24 => .ok (.ldb (fld w 25 21) (fld w 20 16) (fld w 15 0))
  | 25 => .ok (.ldh (fld w 25 21) (fld w 20 16) (fld w 15 0))
  | 26 => .ok (.ldw (fld w 25 21) (fld w 20 16) (fld w 15 0))
  | 27 => .ok (.ldd (fld w 25 21) (fld w 20 16) (fld w 15 0))
  | 28 => .ok (.ldbu (fld w 25 21) (fld w 20 16) (fld w 15 0))
  | 29 => .ok (.ldhu (fld w 25 21) (fld w 20 16) (fld w 15 0))
  | 30 => .ok (.ldwu (fld w 25 21) (fld w 20 16) (fld w 15 0))
  | 32 => .ok (.stb (fld w 25 21) (fld w 20 16) (fld w 15 0))
  | 33 => .ok (.sth (fld w 25 21) (fld w 20 16) (fld w 15 0))
  | 34 => .ok (.stw (fld w 25 21) (fld w 20 16) (fld w 15 0))
  | 35 => .ok (.std (fld w 25 21) (fld w 20 16) (fld w 15 0))
  | 36 => .ok (.ldp (fld w 25 21) (fld w 20 16) (fld w 15 0))
  | 37 => .ok (.stp (fld w 25 21) (fld w 20 16) (fld w 15 0))
  | 38 => decodeAmo w
  | 39 => decodePref w
  | 40 => decodeThr w
  | 41 => decodeTags w
  | 42 => decodeAps w
  | 48 => decodeStrm w
  | 49 => decodeMx w
  | 50 => decodeRb w
  | 51 => decodeOx w
  | 52 => decodeRte w
  | 56 => decodeDbg w
  | _ => .error .reservedMajor

/-- The four bytes of a word, the byte at the lowest address first (R2, R54). -/
def wordOfBytes (bs : List Byte) : Nat :=
  bs.foldr (fun b acc => b.toNat + 256 * acc) 0

/-- Decode the instruction at the head of a byte string; the rest of the string comes back with it (R54). -/
def decodeBytes (bs : List Byte) : Except DecodeError (Instr × List Byte) :=
  match bs with
  | b0 :: b1 :: b2 :: b3 :: rest =>
    match decodeWord (wordOfBytes [b0, b1, b2, b3]) with
    | .ok i => .ok (i, rest)
    | .error e => .error e
  | _ => .error .reservedMajor

/-- The word of a sequencer instruction (R56-R70); none for an element operation or an event, which have no sequencer word. -/
def encode (i : Instr) : Option Nat :=
  match i with
  | .nop => some (0)
  | .trap i => some (32 + i.toNat * 2048)
  | .eret => some (64)
  | .wfe => some (96)
  | .fenceT => some (128)
  | .fenceC => some (129)
  | .fenceL => some (130)
  | .fenceD => some (131)
  | .fenceP => some (132)
  | .fenceS => some (133)
  | .mfs d s => some (160 + d.toNat * 2097152 + s.toNat * 2048)
  | .mts a s => some (192 + a.toNat * 65536 + s.toNat * 2048)
  | .mtsTime a => some (14528 + a.toNat * 65536)
  | .mtsAgelim a => some (32960 + a.toNat * 65536)
  | .mtsSpill a => some (37056 + a.toNat * 65536)
  | .mtsWdog a => some (39104 + a.toNat * 65536)
  | .tlbinv d a b => some (224 + d.toNat * 2097152 + a.toNat * 65536 + b.toNat * 2048)
  | .resume a => some (256 + a.toNat * 65536)
  | .kill a => some (288 + a.toNat * 65536)
  | .add d a b => some (67108864 + d.toNat * 2097152 + a.toNat * 65536 + b.toNat * 2048)
  | .sub d a b => some (67108896 + d.toNat * 2097152 + a.toNat * 65536 + b.toNat * 2048)
  | .mul d a b => some (67108928 + d.toNat * 2097152 + a.toNat * 65536 + b.toNat * 2048)
  | .mulh d a b => some (67108960 + d.toNat * 2097152 + a.toNat * 65536 + b.toNat * 2048)
  | .mulhu d a b => some (67108992 + d.toNat * 2097152 + a.toNat * 65536 + b.toNat * 2048)
  | .div d a b => some (67109024 + d.toNat * 2097152 + a.toNat * 65536 + b.toNat * 2048)
  | .divu d a b => some (67109056 + d.toNat * 2097152 + a.toNat * 65536 + b.toNat * 2048)
  | .rem d a b => some (67109088 + d.toNat * 2097152 + a.toNat * 65536 + b.toNat * 2048)
  | .remu d a b => some (67109120 + d.toNat * 2097152 + a.toNat * 65536 + b.toNat * 2048)
  | .and_ d a b => some (67109152 + d.toNat * 2097152 + a.toNat * 65536 + b.toNat * 2048)
  | .or_ d a b => some (67109184 + d.toNat * 2097152 + a.toNat * 65536 + b.toNat * 2048)
  | .xor_ d a b => some (67109216 + d.toNat * 2097152 + a.toNat * 65536 + b.toNat * 2048)
  | .andn d a b => some (67109248 + d.toNat * 2097152 + a.toNat * 65536 + b.toNat * 2048)
  | .shl d a b => some (67109280 + d.toNat * 2097152 + a.toNat * 65536 + b.toNat * 2048)
  | .shr d a b => some (67109312 + d.toNat * 2097152 + a.toNat * 65536 + b.toNat * 2048)
  | .sar d a b => some (67109344 + d.toNat * 2097152 + a.toNat * 65536 + b.toNat * 2048)
  | .shli d a n h => some (67109376 + d.toNat * 2097152 + a.toNat * 65536 + n.toNat * 2048 + h.toNat * 1)
  | .shri d a n h => some (67109408 + d.toNat * 2097152 + a.toNat * 65536 + n.toNat * 2048 + h.toNat * 1)
  | .sari d a n h => some (67109440 + d.toNat * 2097152 + a.toNat * 65536 + n.toNat * 2048 + h.toNat * 1)
  | .min d a b => some (67109472 + d.toNat * 2097152 + a.toNat * 65536 + b.toNat * 2048)
  | .max d a b => some (67109504 + d.toNat * 2097152 + a.toNat * 65536 + b.toNat * 2048)
  | .minu d a b => some (67109536 + d.toNat * 2097152 + a.toNat * 65536 + b.toNat * 2048)
  | .maxu d a b => some (67109568 + d.toNat * 2097152 + a.toNat * 65536 + b.toNat * 2048)
  | .clz d a => some (67109600 + d.toNat * 2097152 + a.toNat * 65536)
  | .ctz d a => some (67109632 + d.toNat * 2097152 + a.toNat * 65536)
  | .popc d a => some (67109664 + d.toNat * 2097152 + a.toNat * 65536)
  | .sextb d a => some (67109696 + d.toNat * 2097152 + a.toNat * 65536)
  | .sexth d a => some (67109728 + d.toNat * 2097152 + a.toNat * 65536)
  | .sextw d a => some (67109760 + d.toNat * 2097152 + a.toNat * 65536)
  | .zextw d a => some (67109792 + d.toNat * 2097152 + a.toNat * 65536)
  | .ceq d a b => some (134217728 + d.toNat * 2097152 + a.toNat * 65536 + b.toNat * 2048)
  | .cne d a b => some (134217760 + d.toNat * 2097152 + a.toNat * 65536 + b.toNat * 2048)
  | .clt d a b => some (134217792 + d.toNat * 2097152 + a.toNat * 65536 + b.toNat * 2048)
  | .cltu d a b => some (134217824 + d.toNat * 2097152 + a.toNat * 65536 + b.toNat * 2048)
  | .cle d a b => some (134217856 + d.toNat * 2097152 + a.toNat * 65536 + b.toNat * 2048)
  | .cleu d a b => some (134217888 + d.toNat * 2097152 + a.toNat * 65536 + b.toNat * 2048)
  | .pand d a b => some (201326592 + d.toNat * 2097152 + a.toNat * 65536 + b.toNat * 2048)
  | .por d a b => some (201326624 + d.toNat * 2097152 + a.toNat * 65536 + b.toNat * 2048)
  | .pxor d a b => some (201326656 + d.toNat * 2097152 + a.toNat * 65536 + b.toNat * 2048)
  | .pandn d a b => some (201326688 + d.toNat * 2097152 + a.toNat * 65536 + b.toNat * 2048)
  | .pnot d a => some (201326720 + d.toNat * 2097152 + a.toNat * 65536)
  | .pset d v => some (201326752 + d.toNat * 2097152 + v.toNat * 1)
  | .sel d a b p => some (201326784 + d.toNat * 2097152 + a.toNat * 65536 + b.toNat * 2048 + p.toNat * 1)
  | .pmovg d a => some (201326816 + d.toNat * 2097152 + a.toNat * 65536)
  | .gmovp d a => some (201326848 + d.toNat * 2097152 + a.toNat * 65536)
  | .addi d a i => some (536870912 + d.toNat * 2097152 + a.toNat * 65536 + i.toNat * 1)
  | .andi d a i => some (603979776 + d.toNat * 2097152 + a.toNat * 65536 + i.toNat * 1)
  | .ori d a i => some (671088640 + d.toNat * 2097152 + a.toNat * 65536 + i.toNat * 1)
  | .xori d a i => some (738197504 + d.toNat * 2097152 + a.toNat * 65536 + i.toNat * 1)
  | .li d i => some (805306368 + d.toNat * 2097152 + i.toNat * 1)
  | .lih d i => some (872415232 + d.toNat * 2097152 + i.toNat * 1)
  | .cmpiEq p a i => some (939524096 + p.toNat * 8388608 + a.toNat * 65536 + i.toNat * 1)
  | .cmpiNe p a i => some (941621248 + p.toNat * 8388608 + a.toNat * 65536 + i.toNat * 1)
  | .cmpiLt p a i => some (943718400 + p.toNat * 8388608 + a.toNat * 65536 + i.toNat * 1)
  | .cmpiLtu p a i => some (945815552 + p.toNat * 8388608 + a.toNat * 65536 + i.toNat * 1)
  | .br p s o => some (1073741824 + p.toNat * 8388608 + s.toNat * 4194304 + o.toNat * 1)
  | .jmp o => some (1140850688 + o.toNat * 1)
  | .call o => some (1207959552 + o.toNat * 1)
  | .jr a => some (1275068416 + a.toNat * 65536)
  | .callr a => some (1275068448 + a.toNat * 65536)
  | .ret => some (1275068480)
  | .ldb d a i => some (1610612736 + d.toNat * 2097152 + a.toNat * 65536 + i.toNat * 1)
  | .ldh d a i => some (1677721600 + d.toNat * 2097152 + a.toNat * 65536 + i.toNat * 1)
  | .ldw d a i => some (1744830464 + d.toNat * 2097152 + a.toNat * 65536 + i.toNat * 1)
  | .ldd d a i => some (1811939328 + d.toNat * 2097152 + a.toNat * 65536 + i.toNat * 1)
  | .ldbu d a i => some (1879048192 + d.toNat * 2097152 + a.toNat * 65536 + i.toNat * 1)
  | .ldhu d a i => some (1946157056 + d.toNat * 2097152 + a.toNat * 65536 + i.toNat * 1)
  | .ldwu d a i => some (2013265920 + d.toNat * 2097152 + a.toNat * 65536 + i.toNat * 1)
  | .stb d a i => some (2147483648 + d.toNat * 2097152 + a.toNat * 65536 + i.toNat * 1)
  | .sth d a i => some (2214592512 + d.toNat * 2097152 + a.toNat * 65536 + i.toNat * 1)
  | .stw d a i => some (2281701376 + d.toNat * 2097152 + a.toNat * 65536 + i.toNat * 1)
  | .std d a i => some (2348810240 + d.toNat * 2097152 + a.toNat * 65536 + i.toNat * 1)
  | .ldp d a i => some (2415919104 + d.toNat * 2097152 + a.toNat * 65536 + i.toNat * 1)
  | .stp d a i => some (2483027968 + d.toNat * 2097152 + a.toNat * 65536 + i.toNat * 1)
  | .aadd d a b s w => some (2550136832 + d.toNat * 2097152 + a.toNat * 65536 + b.toNat * 2048 + s.toNat * 2 + w.toNat * 1)
  | .aand d a b s w => some (2550136864 + d.toNat * 2097152 + a.toNat * 65536 + b.toNat * 2048 + s.toNat * 2 + w.toNat * 1)
  | .aor d a b s w => some (2550136896 + d.toNat * 2097152 + a.toNat * 65536 + b.toNat * 2048 + s.toNat * 2 + w.toNat * 1)
  | .axor d a b s w => some (2550136928 + d.toNat * 2097152 + a.toNat * 65536 + b.toNat * 2048 + s.toNat * 2 + w.toNat * 1)
  | .amin d a b s w => some (2550136960 + d.toNat * 2097152 + a.toNat * 65536 + b.toNat * 2048 + s.toNat * 2 + w.toNat * 1)
  | .amax d a b s w => some (2550136992 + d.toNat * 2097152 + a.toNat * 65536 + b.toNat * 2048 + s.toNat * 2 + w.toNat * 1)
  | .aminu d a b s w => some (2550137024 + d.toNat * 2097152 + a.toNat * 65536 + b.toNat * 2048 + s.toNat * 2 + w.toNat * 1)
  | .amaxu d a b s w => some (2550137056 + d.toNat * 2097152 + a.toNat * 65536 + b.toNat * 2048 + s.toNat * 2 + w.toNat * 1)
  | .axchg d a b s w => some (2550137088 + d.toNat * 2097152 + a.toNat * 65536 + b.toNat * 2048 + s.toNat * 2 + w.toNat * 1)
  | .acas d a b s w => some (2550137120 + d.toNat * 2097152 + a.toNat * 65536 + b.toNat * 2048 + s.toNat * 2 + w.toNat * 1)
  | .fxaddAmo d a b s => some (2550137153 + d.toNat * 2097152 + a.toNat * 65536 + b.toNat * 2048 + s.toNat * 2)
  | .prefR a i => some (2617245696 + a.toNat * 65536 + i.toNat * 1)
  | .prefW a i => some (2619342848 + a.toNat * 65536 + i.toNat * 1)
  | .join d a => some (2684354560 + d.toNat * 2097152 + a.toNat * 65536)
  | .leave a => some (2684354592 + a.toNat * 65536)
  | .arrive a => some (2684354624 + a.toNat * 65536)
  | .gwait a => some (2684354656 + a.toNat * 65536)
  | .gsize d a => some (2684354688 + d.toNat * 2097152 + a.toNat * 65536)
  | .yield => some (2684354720)
  | .exit => some (2684354752)
  | .setrole n => some (2684354784 + n.toNat * 1)
  | .tidOf d => some (2684354816 + d.toNat * 2097152)
  | .launch d a => some (2684354848 + d.toNat * 2097152 + a.toNat * 65536)
  | .twaitany d a => some (2751463424 + d.toNat * 2097152 + a.toNat * 65536)
  | .twaitall a => some (2751463456 + a.toNat * 65536)
  | .tffr d a => some (2751463488 + d.toNat * 2097152 + a.toNat * 65536)
  | .tclr a => some (2751463520 + a.toNat * 65536)
  | .ttest d a => some (2751463552 + d.toNat * 2097152 + a.toNat * 65536)
  | .apbase d a => some (2818572288 + d.toNat * 2097152 + a.toNat * 65536)
  | .apdim d a b n => some (2818572320 + d.toNat * 2097152 + a.toNat * 65536 + b.toNat * 2048 + n.toNat * 1)
  | .apmode d a => some (2818572352 + d.toNat * 2097152 + a.toNat * 65536)
  | .apidx d a => some (2818572384 + d.toNat * 2097152 + a.toNat * 65536)
  | .apget d a n => some (2818572416 + d.toNat * 2097152 + a.toNat * 65536 + n.toNat * 1)
  | .node d a => some (3758096384 + d.toNat * 2097152 + a.toNat * 65536)
  | .trc a => some (3758096416 + a.toNat * 65536)
  | .walk d a => some (3758096448 + d.toNat * 2097152 + a.toNat * 65536)
  | .step a => some (3758096480 + a.toNat * 65536)
  | .brk i => some (3758096512 + i.toNat * 2048)
  | .sload p a t v => some (3221225472 + p.toNat * 32768 + a.toNat * 2048 + t.toNat * 32 + v.toNat * 1)
  | .sread p a t v => some (3225419776 + p.toNat * 32768 + a.toNat * 2048 + t.toNat * 32 + v.toNat * 1)
  | .sstore p a t v => some (3229614080 + p.toNat * 32768 + a.toNat * 2048 + t.toNat * 32 + v.toNat * 1)
  | .sgather p a t v => some (3233808384 + p.toNat * 32768 + a.toNat * 2048 + t.toNat * 32 + v.toNat * 1)
  | .sscatter p a t v => some (3238002688 + p.toNat * 32768 + a.toNat * 2048 + t.toNat * 32 + v.toNat * 1)
  | .scell p n c v => some (3242196992 + p.toNat * 32768 + n.toNat * 2048 + c.toNat * 32 + v.toNat * 1)
  | .sbar n => some (3246391296 + n.toNat * 2048)
  | .sdrain c => some (3250585600 + c.toNat * 1)
  | .sedge n t => some (3254779904 + n.toNat * 2048 + t.toNat * 32)
  | .sqry n t => some (3258974208 + n.toNat * 2048 + t.toNat * 32)
  | .scfg n t c => some (3263168512 + n.toNat * 2048 + t.toNat * 32 + c.toNat * 1)
  | .sswap n c => some (3267362816 + n.toNat * 2048 + c.toNat * 1)
  | .sarg p n => some (3271557120 + p.toNat * 32768 + n.toNat * 2048)
  | .ssplice n t => some (3275751424 + n.toNat * 2048 + t.toNat * 32)
  | .scancel n t => some (3279945728 + n.toNat * 2048 + t.toNat * 32)
  | .mxmode f => some (3288334336 + f.toNat * 1)
  | .mxpanel n => some (3290431488 + n.toNat * 1)
  | .mxrun a t m c => some (3292528640 + a.toNat * 65536 + t.toNat * 8 + m.toNat * 4 + c.toNat * 1)
  | .mxdrain a d f t => some (3294625792 + a.toNat * 65536 + d.toNat * 32 + f.toNat * 2 + t.toNat * 1)
  | .mxzero t => some (3296722944 + t.toNat * 1)
  | .mxadp a b s => some (3298820096 + a.toNat * 65536 + b.toNat * 2048 + s.toNat * 1)
  | .mxcode a i => some (3300917248 + a.toNat * 65536 + i.toNat * 1)
  | .mxstat a s => some (3303014400 + a.toNat * 65536 + s.toNat * 1)
  | .rbload a c => some (3355443200 + a.toNat * 65536 + c.toNat * 1)
  | .rbctx c => some (3357540352 + c.toNat * 1)
  | .rbrun a => some (3359637504 + a.toNat * 65536)
  | .rbxmode n k p => some (3361734656 + n.toNat * 32 + k.toNat * 8 + p.toNat * 1)
  | .rbstat a s => some (3363831808 + a.toNat * 65536 + s.toNat * 1)
  | .oxdecl a s => some (3422552064 + a.toNat * 65536 + s.toNat * 1)
  | .oxsplit s => some (3424649216 + s.toNat * 1)
  | .oxmerge s => some (3426746368 + s.toNat * 1)
  | .oxpin p s => some (3428843520 + p.toNat * 8 + s.toNat * 1)
  | .oxqry a s => some (3430940672 + a.toNat * 65536 + s.toNat * 1)
  | .rtset a e => some (3489660928 + a.toNat * 65536 + e.toNat * 1)
  | .mcset a b g => some (3491758080 + a.toNat * 65536 + b.toNat * 2048 + g.toNat * 1)
  | .mcsetX a b h g => some (3491758144 + a.toNat * 65536 + b.toNat * 2048 + h.toNat * 128 + g.toNat * 1)
  | .racecfg a u => some (3493855232 + a.toNat * 65536 + u.toNat * 1)
  | .gateset a g => some (3495952384 + a.toNat * 65536 + g.toNat * 1)
  | .loopset a l => some (3498049536 + a.toNat * 65536 + l.toNat * 1)
  | .elemNop _ => none
  | .mov _ => none
  | .pass _ => none
  | .keyx _ => none
  | .keys _ => none
  | .cntdn _ => none
  | .oxpiv _ => none
  | .oxend _ => none
  | .fadd _ => none
  | .fsub _ => none
  | .fmul _ => none
  | .fma _ => none
  | .fms _ => none
  | .fmin _ => none
  | .fmax _ => none
  | .fabs _ => none
  | .fneg _ => none
  | .fscl _ => none
  | .fred _ => none
  | .frmax _ => none
  | .fcmpeq _ => none
  | .fcmplt _ => none
  | .fcmple _ => none
  | .fsel _ => none
  | .iadd _ => none
  | .isub _ => none
  | .imul _ => none
  | .imac4 _ => none
  | .asub3 _ => none
  | .imin _ => none
  | .imax _ => none
  | .ishl _ => none
  | .ishr _ => none
  | .isar _ => none
  | .iand _ => none
  | .ior _ => none
  | .ixor _ => none
  | .inot _ => none
  | .icmpeq _ => none
  | .icmplt _ => none
  | .cvt _ => none
  | .qnt8 _ => none
  | .dqnt _ => none
  | .unp3 _ => none
  | .pk3 _ => none
  | .lmul _ => none
  | .lacc _ => none
  | .fxcvt _ => none
  | .fxadd _ => none
  | .perm _ => none
  | .bcast _ => none
  | .clamp _ => none
  | .kcmp _ => none
  | .ksel _ => none
  | .illDecode _ => none
  | .fenceComplete _ _ => none
  | .tlbinvComplete _ _ => none
  | .multiclockDone _ _ => none
  | .dcacheLineFill _ _ => none
  | .icacheLineFill _ _ => none
  | .storePerformed _ => none
  | .poolAccessDone _ _ => none
  | .mailboxDelivery _ _ => none
  | .amoPerformed _ _ => none
  | .pageWalk _ _ => none
  | .groupOpApplied _ _ => none
  | .tagWaitSatisfied _ _ => none
  | .nodeRemoteReturn _ _ => none
  | .walkLink _ _ => none
  | .bindSlotTaken _ _ => none
  | .drainTokenInject _ _ => none
  | .scfgCheckDone _ _ => none
  | .scfgLoadDone _ _ => none
  | .spliceDone _ _ => none
  | .streamRelease _ _ => none
  | .loaderReadIssue _ _ => none
  | .loaderReadReturn _ _ => none
  | .sinkCellConsume _ _ => none
  | .sinkWritePerformed _ _ => none
  | .streamComplete _ _ => none
  | .meJobQueueFree _ _ => none
  | .meFire _ => none
  | .meDrainRow _ => none
  | .meZeroRow _ => none
  | .mePanelCell _ _ => none
  | .mePreload _ _ => none
  | .meSteerToken _ _ => none
  | .mePassBoundary _ => none
  | .meDrnDiscard _ _ => none
  | .adapterFetch _ => none
  | .adapterFactorCell _ _ => none
  | .rbLoadCell _ => none
  | .rbLoadDone _ => none
  | .rbInput _ => none
  | .rbEvalGroup _ => none
  | .rbOutput _ => none
  | .rbRunDone _ => none
  | .rbContextSwitch _ => none
  | .rbModeApply _ => none
  | .rbPassBoundary _ => none
  | .rbDrnDiscard _ _ => none
  | .overloadDetect _ _ => none
  | .underloadDetect _ _ => none
  | .oxbowApproval _ _ => none
  | .oxbowRefusal _ _ => none
  | .cloneDone _ _ => none
  | .splHead _ _ => none
  | .oxbowSwitch _ _ => none
  | .oxbowForward _ _ => none
  | .rdeInject _ _ => none
  | .rdeConsumed _ _ => none
  | .holdRelease _ _ => none
  | .mergeStart _ _ => none
  | .twinQuiescent _ _ => none
  | .mergeDone _ _ => none
  | .oxbowTagSet _ => none
  | .descriptorReadDone _ _ => none
  | .elementDrain _ _ => none
  | .cellAdmit _ _ => none
  | .weirMatch _ => none
  | .cellDelivery _ _ => none
  | .rdvSetRelease _ _ => none
  | .rdvStallFault _ _ => none
  | .loopFault _ _ => none
  | .crossbarArrival _ _ => none
  | .crossbarFanout _ _ => none
  | .raceScore _ _ => none
  | .raceEnd _ _ => none
  | .gateFire _ _ => none
  | .bankWrite _ _ => none
  | .bankRead _ _ => none
  | .bankAdd _ _ => none
  | .bankFxadd _ _ => none
  | .bankMin _ _ => none
  | .bankMax _ _ => none
  | .bankTasb _ _ => none
  | .bankCas _ _ => none
  | .bankXchg _ _ => none
  | .bankGather _ _ => none
  | .bankScatter _ _ => none
  | .bankZero _ _ => none
  | .bankOwn _ _ => none
  | .bankDrn _ _ => none
  | .bankSreadRead _ _ => none
  | .patrolRead _ _ => none
  | .faultRecordPost _ => none
  | .wdogExpire _ => none
  | .taskStop _ => none
  | .launchReservation => none
  | .gangStart => none
  | .firstIssue _ => none
  | .taskEnd _ => none
  | .sluiceRead _ _ => none
  | .attestationRead _ _ => none
  | .sluiceWrite _ _ => none
  | .submitLaunch _ _ => none
  | .submitGraph _ _ => none
  | .timeMessage _ _ _ => none
  | .roundData _ _ => none
  | .roundCommit _ _ => none
  | .roundVoid _ _ => none
  | .peerCellSend _ _ => none
  | .commitMsg _ _ => none
  | .voidMsg _ _ => none
  | .roundTimeout _ _ => none
  | .ackMsg _ _ => none
  | .debugRequest _ _ => none
  | .debugHostCommand _ _ => none
  | .debugOutput _ => none
  | .dbgWriteSt _ => none
  | .dbgWriteD _ => none
  | .dbgWriteSf _ => none
  | .dbgWriteP _ => none
  | .dbgWriteEsr _ => none
  | .dbgWriteHead _ => none
  | .dbgWriteTable _ => none
  | .dbgTraceEnable _ => none
  | .dbgSetBe _ => none
  | .frameDiscard _ _ => none
  | .linkLoss _ => none
  | .thermalReading _ _ _ _ => none
  | .thermalTrip _ => none
  | .thermalTripClear _ => none
  | .powerOnBoot => none
  | .firmwareModuleLoad _ => none
  | .moduleReset => none
  | .spareBringIn _ => none
  | .regWrite _ _ _ _ => none
  | .tableFault => none
  | .launchRecordQueued _ _ => none
  | .firmwarePolicySet _ => none
  | .datagramDiscard _ => none

/-- The trigger word of an element entry (R71). -/
structure Trigger where
  sv  : BitVec 6
  sm  : BitVec 6
  ns  : BitVec 6
  rdy : BitVec 4
  tch : BitVec 2
  tcl : BitVec 3
  pv  : BitVec 2
  pm  : BitVec 2
  en  : BitVec 1
deriving DecidableEq, Repr

/-- The trigger in bits 31:0 of an entry (R54, R71). -/
def decodeTrigger (w : Nat) : Trigger :=
  { sv := fld w 31 26, sm := fld w 25 20, ns := fld w 19 14, rdy := fld w 13 10, tch := fld w 9 8,
    tcl := fld w 7 5, pv := fld w 4 3, pm := fld w 2 1, en := fld w 0 0 }

/-- The selects of an entry's action word, bits 63:32 (R72). -/
def decodeElemAct (w : Nat) : ElemAct :=
  { sa := fld w 55 51, sb := fld w 50 46, da := fld w 45 41, db := fld w 40 36, ta := fld w 35 32 }

/-- The operation of an OP value (R74); none for a reserved value. -/
def elemOpOf (op : Nat) (x : ElemAct) : Option Instr :=
  match op with
  | 0 => some (.elemNop x)
  | 1 => some (.mov x)
  | 2 => some (.pass x)
  | 3 => some (.keyx x)
  | 4 => some (.keys x)
  | 5 => some (.cntdn x)
  | 6 => some (.oxpiv x)
  | 7 => some (.oxend x)
  | 16 => some (.fadd x)
  | 17 => some (.fsub x)
  | 18 => some (.fmul x)
  | 19 => some (.fma x)
  | 20 => some (.fms x)
  | 21 => some (.fmin x)
  | 22 => some (.fmax x)
  | 23 => some (.fabs x)
  | 24 => some (.fneg x)
  | 25 => some (.fscl x)
  | 26 => some (.fred x)
  | 27 => some (.frmax x)
  | 28 => some (.fcmpeq x)
  | 29 => some (.fcmplt x)
  | 30 => some (.fcmple x)
  | 31 => some (.fsel x)
  | 32 => some (.iadd x)
  | 33 => some (.isub x)
  | 34 => some (.imul x)
  | 35 => some (.imac4 x)
  | 36 => some (.asub3 x)
  | 37 => some (.imin x)
  | 38 => some (.imax x)
  | 39 => some (.ishl x)
  | 40 => some (.ishr x)
  | 41 => some (.isar x)
  | 42 => some (.iand x)
  | 43 => some (.ior x)
  | 44 => some (.ixor x)
  | 45 => some (.inot x)
  | 46 => some (.icmpeq x)
  | 47 => some (.icmplt x)
  | 48 => some (.cvt x)
  | 49 => some (.qnt8 x)
  | 50 => some (.dqnt x)
  | 51 => some (.unp3 x)
  | 52 => some (.pk3 x)
  | 53 => some (.lmul x)
  | 54 => some (.lacc x)
  | 55 => some (.fxcvt x)
  | 56 => some (.fxadd x)
  | 57 => some (.perm x)
  | 58 => some (.bcast x)
  | 59 => some (.clamp x)
  | 64 => some (.kcmp x)
  | 65 => some (.ksel x)
  | _ => none

/-- The action of a 64-bit element entry, or none when a field is reserved (R72-R76). -/
def decodeEntry (w : Nat) : Option Instr :=
  let x := decodeElemAct w
  if x.legal then elemOpOf (bits w 63 56) x else none

/-- The OP value and selects of an element operation (R74). -/
def elemOpcode (i : Instr) : Option (Nat × ElemAct) :=
  match i with
  | .nop => none
  | .trap _ => none
  | .eret => none
  | .wfe => none
  | .fenceT => none
  | .fenceC => none
  | .fenceL => none
  | .fenceD => none
  | .fenceP => none
  | .fenceS => none
  | .mfs _ _ => none
  | .mts _ _ => none
  | .mtsTime _ => none
  | .mtsAgelim _ => none
  | .mtsSpill _ => none
  | .mtsWdog _ => none
  | .tlbinv _ _ _ => none
  | .resume _ => none
  | .kill _ => none
  | .add _ _ _ => none
  | .sub _ _ _ => none
  | .mul _ _ _ => none
  | .mulh _ _ _ => none
  | .mulhu _ _ _ => none
  | .div _ _ _ => none
  | .divu _ _ _ => none
  | .rem _ _ _ => none
  | .remu _ _ _ => none
  | .and_ _ _ _ => none
  | .or_ _ _ _ => none
  | .xor_ _ _ _ => none
  | .andn _ _ _ => none
  | .shl _ _ _ => none
  | .shr _ _ _ => none
  | .sar _ _ _ => none
  | .shli _ _ _ _ => none
  | .shri _ _ _ _ => none
  | .sari _ _ _ _ => none
  | .min _ _ _ => none
  | .max _ _ _ => none
  | .minu _ _ _ => none
  | .maxu _ _ _ => none
  | .clz _ _ => none
  | .ctz _ _ => none
  | .popc _ _ => none
  | .sextb _ _ => none
  | .sexth _ _ => none
  | .sextw _ _ => none
  | .zextw _ _ => none
  | .ceq _ _ _ => none
  | .cne _ _ _ => none
  | .clt _ _ _ => none
  | .cltu _ _ _ => none
  | .cle _ _ _ => none
  | .cleu _ _ _ => none
  | .pand _ _ _ => none
  | .por _ _ _ => none
  | .pxor _ _ _ => none
  | .pandn _ _ _ => none
  | .pnot _ _ => none
  | .pset _ _ => none
  | .sel _ _ _ _ => none
  | .pmovg _ _ => none
  | .gmovp _ _ => none
  | .addi _ _ _ => none
  | .andi _ _ _ => none
  | .ori _ _ _ => none
  | .xori _ _ _ => none
  | .li _ _ => none
  | .lih _ _ => none
  | .cmpiEq _ _ _ => none
  | .cmpiNe _ _ _ => none
  | .cmpiLt _ _ _ => none
  | .cmpiLtu _ _ _ => none
  | .br _ _ _ => none
  | .jmp _ => none
  | .call _ => none
  | .jr _ => none
  | .callr _ => none
  | .ret => none
  | .ldb _ _ _ => none
  | .ldh _ _ _ => none
  | .ldw _ _ _ => none
  | .ldd _ _ _ => none
  | .ldbu _ _ _ => none
  | .ldhu _ _ _ => none
  | .ldwu _ _ _ => none
  | .stb _ _ _ => none
  | .sth _ _ _ => none
  | .stw _ _ _ => none
  | .std _ _ _ => none
  | .ldp _ _ _ => none
  | .stp _ _ _ => none
  | .aadd _ _ _ _ _ => none
  | .aand _ _ _ _ _ => none
  | .aor _ _ _ _ _ => none
  | .axor _ _ _ _ _ => none
  | .amin _ _ _ _ _ => none
  | .amax _ _ _ _ _ => none
  | .aminu _ _ _ _ _ => none
  | .amaxu _ _ _ _ _ => none
  | .axchg _ _ _ _ _ => none
  | .acas _ _ _ _ _ => none
  | .fxaddAmo _ _ _ _ => none
  | .prefR _ _ => none
  | .prefW _ _ => none
  | .join _ _ => none
  | .leave _ => none
  | .arrive _ => none
  | .gwait _ => none
  | .gsize _ _ => none
  | .yield => none
  | .exit => none
  | .setrole _ => none
  | .tidOf _ => none
  | .launch _ _ => none
  | .twaitany _ _ => none
  | .twaitall _ => none
  | .tffr _ _ => none
  | .tclr _ => none
  | .ttest _ _ => none
  | .apbase _ _ => none
  | .apdim _ _ _ _ => none
  | .apmode _ _ => none
  | .apidx _ _ => none
  | .apget _ _ _ => none
  | .node _ _ => none
  | .trc _ => none
  | .walk _ _ => none
  | .step _ => none
  | .brk _ => none
  | .sload _ _ _ _ => none
  | .sread _ _ _ _ => none
  | .sstore _ _ _ _ => none
  | .sgather _ _ _ _ => none
  | .sscatter _ _ _ _ => none
  | .scell _ _ _ _ => none
  | .sbar _ => none
  | .sdrain _ => none
  | .sedge _ _ => none
  | .sqry _ _ => none
  | .scfg _ _ _ => none
  | .sswap _ _ => none
  | .sarg _ _ => none
  | .ssplice _ _ => none
  | .scancel _ _ => none
  | .mxmode _ => none
  | .mxpanel _ => none
  | .mxrun _ _ _ _ => none
  | .mxdrain _ _ _ _ => none
  | .mxzero _ => none
  | .mxadp _ _ _ => none
  | .mxcode _ _ => none
  | .mxstat _ _ => none
  | .rbload _ _ => none
  | .rbctx _ => none
  | .rbrun _ => none
  | .rbxmode _ _ _ => none
  | .rbstat _ _ => none
  | .oxdecl _ _ => none
  | .oxsplit _ => none
  | .oxmerge _ => none
  | .oxpin _ _ => none
  | .oxqry _ _ => none
  | .rtset _ _ => none
  | .mcset _ _ _ => none
  | .mcsetX _ _ _ _ => none
  | .racecfg _ _ => none
  | .gateset _ _ => none
  | .loopset _ _ => none
  | .elemNop x => some (0, x)
  | .mov x => some (1, x)
  | .pass x => some (2, x)
  | .keyx x => some (3, x)
  | .keys x => some (4, x)
  | .cntdn x => some (5, x)
  | .oxpiv x => some (6, x)
  | .oxend x => some (7, x)
  | .fadd x => some (16, x)
  | .fsub x => some (17, x)
  | .fmul x => some (18, x)
  | .fma x => some (19, x)
  | .fms x => some (20, x)
  | .fmin x => some (21, x)
  | .fmax x => some (22, x)
  | .fabs x => some (23, x)
  | .fneg x => some (24, x)
  | .fscl x => some (25, x)
  | .fred x => some (26, x)
  | .frmax x => some (27, x)
  | .fcmpeq x => some (28, x)
  | .fcmplt x => some (29, x)
  | .fcmple x => some (30, x)
  | .fsel x => some (31, x)
  | .iadd x => some (32, x)
  | .isub x => some (33, x)
  | .imul x => some (34, x)
  | .imac4 x => some (35, x)
  | .asub3 x => some (36, x)
  | .imin x => some (37, x)
  | .imax x => some (38, x)
  | .ishl x => some (39, x)
  | .ishr x => some (40, x)
  | .isar x => some (41, x)
  | .iand x => some (42, x)
  | .ior x => some (43, x)
  | .ixor x => some (44, x)
  | .inot x => some (45, x)
  | .icmpeq x => some (46, x)
  | .icmplt x => some (47, x)
  | .cvt x => some (48, x)
  | .qnt8 x => some (49, x)
  | .dqnt x => some (50, x)
  | .unp3 x => some (51, x)
  | .pk3 x => some (52, x)
  | .lmul x => some (53, x)
  | .lacc x => some (54, x)
  | .fxcvt x => some (55, x)
  | .fxadd x => some (56, x)
  | .perm x => some (57, x)
  | .bcast x => some (58, x)
  | .clamp x => some (59, x)
  | .kcmp x => some (64, x)
  | .ksel x => some (65, x)
  | .illDecode _ => none
  | .fenceComplete _ _ => none
  | .tlbinvComplete _ _ => none
  | .multiclockDone _ _ => none
  | .dcacheLineFill _ _ => none
  | .icacheLineFill _ _ => none
  | .storePerformed _ => none
  | .poolAccessDone _ _ => none
  | .mailboxDelivery _ _ => none
  | .amoPerformed _ _ => none
  | .pageWalk _ _ => none
  | .groupOpApplied _ _ => none
  | .tagWaitSatisfied _ _ => none
  | .nodeRemoteReturn _ _ => none
  | .walkLink _ _ => none
  | .bindSlotTaken _ _ => none
  | .drainTokenInject _ _ => none
  | .scfgCheckDone _ _ => none
  | .scfgLoadDone _ _ => none
  | .spliceDone _ _ => none
  | .streamRelease _ _ => none
  | .loaderReadIssue _ _ => none
  | .loaderReadReturn _ _ => none
  | .sinkCellConsume _ _ => none
  | .sinkWritePerformed _ _ => none
  | .streamComplete _ _ => none
  | .meJobQueueFree _ _ => none
  | .meFire _ => none
  | .meDrainRow _ => none
  | .meZeroRow _ => none
  | .mePanelCell _ _ => none
  | .mePreload _ _ => none
  | .meSteerToken _ _ => none
  | .mePassBoundary _ => none
  | .meDrnDiscard _ _ => none
  | .adapterFetch _ => none
  | .adapterFactorCell _ _ => none
  | .rbLoadCell _ => none
  | .rbLoadDone _ => none
  | .rbInput _ => none
  | .rbEvalGroup _ => none
  | .rbOutput _ => none
  | .rbRunDone _ => none
  | .rbContextSwitch _ => none
  | .rbModeApply _ => none
  | .rbPassBoundary _ => none
  | .rbDrnDiscard _ _ => none
  | .overloadDetect _ _ => none
  | .underloadDetect _ _ => none
  | .oxbowApproval _ _ => none
  | .oxbowRefusal _ _ => none
  | .cloneDone _ _ => none
  | .splHead _ _ => none
  | .oxbowSwitch _ _ => none
  | .oxbowForward _ _ => none
  | .rdeInject _ _ => none
  | .rdeConsumed _ _ => none
  | .holdRelease _ _ => none
  | .mergeStart _ _ => none
  | .twinQuiescent _ _ => none
  | .mergeDone _ _ => none
  | .oxbowTagSet _ => none
  | .descriptorReadDone _ _ => none
  | .elementDrain _ _ => none
  | .cellAdmit _ _ => none
  | .weirMatch _ => none
  | .cellDelivery _ _ => none
  | .rdvSetRelease _ _ => none
  | .rdvStallFault _ _ => none
  | .loopFault _ _ => none
  | .crossbarArrival _ _ => none
  | .crossbarFanout _ _ => none
  | .raceScore _ _ => none
  | .raceEnd _ _ => none
  | .gateFire _ _ => none
  | .bankWrite _ _ => none
  | .bankRead _ _ => none
  | .bankAdd _ _ => none
  | .bankFxadd _ _ => none
  | .bankMin _ _ => none
  | .bankMax _ _ => none
  | .bankTasb _ _ => none
  | .bankCas _ _ => none
  | .bankXchg _ _ => none
  | .bankGather _ _ => none
  | .bankScatter _ _ => none
  | .bankZero _ _ => none
  | .bankOwn _ _ => none
  | .bankDrn _ _ => none
  | .bankSreadRead _ _ => none
  | .patrolRead _ _ => none
  | .faultRecordPost _ => none
  | .wdogExpire _ => none
  | .taskStop _ => none
  | .launchReservation => none
  | .gangStart => none
  | .firstIssue _ => none
  | .taskEnd _ => none
  | .sluiceRead _ _ => none
  | .attestationRead _ _ => none
  | .sluiceWrite _ _ => none
  | .submitLaunch _ _ => none
  | .submitGraph _ _ => none
  | .timeMessage _ _ _ => none
  | .roundData _ _ => none
  | .roundCommit _ _ => none
  | .roundVoid _ _ => none
  | .peerCellSend _ _ => none
  | .commitMsg _ _ => none
  | .voidMsg _ _ => none
  | .roundTimeout _ _ => none
  | .ackMsg _ _ => none
  | .debugRequest _ _ => none
  | .debugHostCommand _ _ => none
  | .debugOutput _ => none
  | .dbgWriteSt _ => none
  | .dbgWriteD _ => none
  | .dbgWriteSf _ => none
  | .dbgWriteP _ => none
  | .dbgWriteEsr _ => none
  | .dbgWriteHead _ => none
  | .dbgWriteTable _ => none
  | .dbgTraceEnable _ => none
  | .dbgSetBe _ => none
  | .frameDiscard _ _ => none
  | .linkLoss _ => none
  | .thermalReading _ _ _ _ => none
  | .thermalTrip _ => none
  | .thermalTripClear _ => none
  | .powerOnBoot => none
  | .firmwareModuleLoad _ => none
  | .moduleReset => none
  | .spareBringIn _ => none
  | .regWrite _ _ _ _ => none
  | .tableFault => none
  | .launchRecordQueued _ _ => none
  | .firmwarePolicySet _ => none
  | .datagramDiscard _ => none

/-- The action word of an element operation in bits 63:32 of an entry whose trigger is zero (R72). -/
def encodeAction (i : Instr) : Option Nat :=
  match elemOpcode i with
  | some (op, x) => some (op * 72057594037927936 + x.sa.toNat * 2251799813685248 + x.sb.toNat * 70368744177664 +
      x.da.toNat * 2199023255552 + x.db.toNat * 68719476736 + x.ta.toNat * 4294967296)
  | none => none

/-- The instruction the decoder reads from nbits bits w numbered as the opcode table numbers them: a 32-bit sequencer word, or a 64-bit
element entry whose action is the high half (R54). -/
def decodeTableWord (nbits w : Nat) : Option Instr :=
  if nbits ≤ 32 then
    match decodeWord (w % 4294967296) with
    | .ok i => some i
    | .error _ => none
  else if nbits ≤ 64 then decodeEntry w
  else none

end Sys2Proof
end

