-- ==== Sys2Proof/Machine/Operands.lean ====
section
/-! DEFINITION. The operand forms of the sequencer words (R57): immediates, branch targets, results into registers and predicates, and
the traps an instruction raises on its operands (R60, R61, R105). -/

namespace Sys2Proof.Machine

/-- A sign-extended 16-bit immediate (R57). -/
def simm (i : BitVec 16) : Word := i.signExtend 64
/-- A zero-extended 16-bit immediate (R57). -/
def zimm (i : BitVec 16) : Word := i.setWidth 64

/-- The target of a B or J form: pc + 4 * Sext(off) mod 2^55 (R57, R99). -/
def target {n : Nat} (pc : VA) (off : BitVec n) : VA := pc + (off.signExtend 55) * 4

/-- The byte address Ga + Sext(imm16), low 55 bits (R244). -/
def Thread.ea (t : Thread) (a : BitVec 5) (i : BitVec 16) : VA := vaOf (t.rd a + simm i)

/-- The pool address (Ga + Sext(imm16))[27:0] (R246). -/
def Thread.pa (t : Thread) (a : BitVec 5) (i : BitVec 16) : Nat := (t.rd a + simm i).toNat % 2 ^ 28

/-- G number n + 1 of the STRM forms (R69). -/
def regAfter (n : BitVec 4) : BitVec 5 := n.setWidth 5 + 1

/-- A Gn of the STRM forms: G0-G15 (R69). -/
def regOf (n : BitVec 4) : BitVec 5 := n.setWidth 5

/-- The executing thread's result into Gd, and on to the next word. -/
def State.put (s : State) (d : BitVec 5) (v : Word) : State := s.modMe (fun t => (t.wr d v).next)

/-- The executing thread's predicate result. -/
def State.putP (s : State) (d : BitVec 3) (v : Bool) : State := s.modMe (fun t => (t.wrP d v).next)

/-- On to the next word with nothing else. -/
def State.skip (s : State) : State := s.modMe Thread.next

/-- A result that is in place after n BUSY clocks (R92). -/
def State.putLater (s : State) (d : BitVec 5) (v : Word) (n : Nat) : State :=
  s.modMe (fun t => { t with st := .busy, pend := .result d v (s.slot + n) })

/-- The executing thread parks. -/
def State.parkMe (s : State) (p : Pend) : State := s.modMe (fun t => t.park p)

/-- A parked or busy thread completes its instruction: what f does to it, then READY at the next word. -/
def State.finish (s : State) (c : CoreId) (t : Tid) (f : Thread → Thread) : State :=
  s.modThr c t (fun th => (f th).next.wake s.slot)

/-- ILL with a cause of R60 at the executing word. -/
def State.ill (s : State) (i : Instr) (cause : Nat) : State := s.trap kILL (illEval ((encode i).getD 0) cause)

/-- ALIGN, XLAT or PROT of an access by the executing word (R105). -/
def State.accTrap (s : State) (code : BitVec 8) (va : Nat) (k : Kind) : State := s.trap code (accessEval va k)

/-- A controller form: ILL with cause 1 in task mode (R60, R83). -/
def State.controller (s : State) (i : Instr) (f : State) : State := if s.me.cm then f else s.ill i 1

end Sys2Proof.Machine
end

