-- ==== Sys2Proof/Machine/Alu.lean ====
section
/-! DEFINITION. The register forms of the sequencer: ALU (R93, R94), CMP (R95), PRED (R97) and the immediate forms (R96, R98). -/

namespace Sys2Proof.Machine

/-! ## ALU values -/

/-- Bits 127:64 of the signed product (R93). -/
def mulhS (a b : Word) : Word := BitVec.ofInt 64 (a.toInt * b.toInt / 2 ^ 64)
/-- Bits 127:64 of the unsigned product (R93). -/
def mulhU (a b : Word) : Word := BitVec.ofNat 64 (a.toNat * b.toNat / 2 ^ 64)

/-- Signed quotient toward zero; all ones for a zero divisor (R94). -/
def divS (a b : Word) : Word := if b = 0 then BitVec.allOnes 64 else BitVec.ofInt 64 (a.toInt.tdiv b.toInt)
def divU (a b : Word) : Word := if b = 0 then BitVec.allOnes 64 else BitVec.ofNat 64 (a.toNat / b.toNat)
/-- Signed remainder with the dividend's sign; the dividend for a zero divisor (R94). -/
def remS (a b : Word) : Word := if b = 0 then a else BitVec.ofInt 64 (a.toInt.tmod b.toInt)
def remU (a b : Word) : Word := if b = 0 then a else BitVec.ofNat 64 (a.toNat % b.toNat)

/-- Significant bits of a magnitude. -/
def sigBits (n : Nat) : Nat := if n = 0 then 0 else n.log2 + 1

/-- BUSY clocks of a division by R92: 2 and the significant bits of the dividend's magnitude. -/
def divClocks (mag : Nat) : Nat := min 66 (2 + sigBits mag)

/-- The shift amount of a register (R93). -/
def amount (b : Word) : Nat := b.toNat % 64
/-- The shift amount n = fn[0]:b of an immediate shift (R64). -/
def amountI (n : BitVec 5) (h : BitVec 1) : Nat := h.toNat * 32 + n.toNat

def clz64 (a : Word) : Word := BitVec.ofNat 64 (64 - sigBits a.toNat)
/-- Zero bits below the lowest one bit; 64 for zero. -/
def ctz64 (a : Word) : Word := BitVec.ofNat 64 (((List.range 64).find? (fun i => a.getLsbD i)).getD 64)
def popc64 (a : Word) : Word := BitVec.ofNat 64 (((List.range 64).filter (fun i => a.getLsbD i)).length)

def minS (a b : Word) : Word := if a.slt b then a else b
def maxS (a b : Word) : Word := if a.slt b then b else a
def minU (a b : Word) : Word := if a.ult b then a else b
def maxU (a b : Word) : Word := if a.ult b then b else a

/-! ## ALU (R93, R94) -/

/-- A three-register form: both sources are read before Gd is written (R93). -/
def State.alu (s : State) (d a b : BitVec 5) (f : Word → Word → Word) : State := s.put d (f (s.me.rd a) (s.me.rd b))
/-- A two-register form. -/
def State.alu1 (s : State) (d a : BitVec 5) (f : Word → Word) : State := s.put d (f (s.me.rd a))

def execAdd (d a b : BitVec 5) (s : State) : Out := .next (s.alu d a b (fun x y => x + y))
def execSub (d a b : BitVec 5) (s : State) : Out := .next (s.alu d a b (fun x y => x - y))
/-- MUL stays BUSY for 2 clocks (R92). -/
def execMul (d a b : BitVec 5) (s : State) : Out := .next (s.putLater d (s.me.rd a * s.me.rd b) 2)
def execMulh (d a b : BitVec 5) (s : State) : Out := .next (s.putLater d (mulhS (s.me.rd a) (s.me.rd b)) 2)
def execMulhu (d a b : BitVec 5) (s : State) : Out := .next (s.putLater d (mulhU (s.me.rd a) (s.me.rd b)) 2)
def execDiv (d a b : BitVec 5) (s : State) : Out :=
  .next (s.putLater d (divS (s.me.rd a) (s.me.rd b)) (divClocks (s.me.rd a).toInt.natAbs))
def execDivu (d a b : BitVec 5) (s : State) : Out :=
  .next (s.putLater d (divU (s.me.rd a) (s.me.rd b)) (divClocks (s.me.rd a).toNat))
def execRem (d a b : BitVec 5) (s : State) : Out :=
  .next (s.putLater d (remS (s.me.rd a) (s.me.rd b)) (divClocks (s.me.rd a).toInt.natAbs))
def execRemu (d a b : BitVec 5) (s : State) : Out :=
  .next (s.putLater d (remU (s.me.rd a) (s.me.rd b)) (divClocks (s.me.rd a).toNat))
def execAnd_ (d a b : BitVec 5) (s : State) : Out := .next (s.alu d a b (fun x y => x &&& y))
def execOr_ (d a b : BitVec 5) (s : State) : Out := .next (s.alu d a b (fun x y => x ||| y))
def execXor_ (d a b : BitVec 5) (s : State) : Out := .next (s.alu d a b (fun x y => x ^^^ y))
def execAndn (d a b : BitVec 5) (s : State) : Out := .next (s.alu d a b (fun x y => x &&& ~~~y))
def execShl (d a b : BitVec 5) (s : State) : Out := .next (s.alu d a b (fun x y => x <<< amount y))
def execShr (d a b : BitVec 5) (s : State) : Out := .next (s.alu d a b (fun x y => x >>> amount y))
def execSar (d a b : BitVec 5) (s : State) : Out := .next (s.alu d a b (fun x y => x.sshiftRight (amount y)))
def execShli (d a n : BitVec 5) (h : BitVec 1) (s : State) : Out := .next (s.alu1 d a (fun x => x <<< amountI n h))
def execShri (d a n : BitVec 5) (h : BitVec 1) (s : State) : Out := .next (s.alu1 d a (fun x => x >>> amountI n h))
def execSari (d a n : BitVec 5) (h : BitVec 1) (s : State) : Out := .next (s.alu1 d a (fun x => x.sshiftRight (amountI n h)))
def execMin (d a b : BitVec 5) (s : State) : Out := .next (s.alu d a b minS)
def execMax (d a b : BitVec 5) (s : State) : Out := .next (s.alu d a b maxS)
def execMinu (d a b : BitVec 5) (s : State) : Out := .next (s.alu d a b minU)
def execMaxu (d a b : BitVec 5) (s : State) : Out := .next (s.alu d a b maxU)
def execClz (d a : BitVec 5) (s : State) : Out := .next (s.alu1 d a clz64)
def execCtz (d a : BitVec 5) (s : State) : Out := .next (s.alu1 d a ctz64)
def execPopc (d a : BitVec 5) (s : State) : Out := .next (s.alu1 d a popc64)
def execSextb (d a : BitVec 5) (s : State) : Out := .next (s.alu1 d a (fun x => (x.setWidth 8).signExtend 64))
def execSexth (d a : BitVec 5) (s : State) : Out := .next (s.alu1 d a (fun x => (x.setWidth 16).signExtend 64))
def execSextw (d a : BitVec 5) (s : State) : Out := .next (s.alu1 d a (fun x => (x.setWidth 32).signExtend 64))
def execZextw (d a : BitVec 5) (s : State) : Out := .next (s.alu1 d a (fun x => (x.setWidth 32).setWidth 64))

/-- The BUSY count runs out: the result is in place and the thread READY from the next clock (R92). Before that slot the unit idles. -/
def execMulticlockDone (c : CoreId) (t : Tid) (s : State) : Out :=
  match (s.thr c t).st, (s.thr c t).pend with
  | .busy, .result d v last => if last ≤ s.slot then .next (s.finish c t (fun th => th.wr d v)) else .next s
  | _, _ => .next s

/-! ## Compares (R95, R96) -/

def State.cmp (s : State) (d : BitVec 3) (a b : BitVec 5) (f : Word → Word → Bool) : State := s.putP d (f (s.me.rd a) (s.me.rd b))

def execCeq (d : BitVec 3) (a b : BitVec 5) (s : State) : Out := .next (s.cmp d a b relEq)
def execCne (d : BitVec 3) (a b : BitVec 5) (s : State) : Out := .next (s.cmp d a b relNe)
def execClt (d : BitVec 3) (a b : BitVec 5) (s : State) : Out := .next (s.cmp d a b relLt)
def execCltu (d : BitVec 3) (a b : BitVec 5) (s : State) : Out := .next (s.cmp d a b relLtu)
def execCle (d : BitVec 3) (a b : BitVec 5) (s : State) : Out := .next (s.cmp d a b relLe)
def execCleu (d : BitVec 3) (a b : BitVec 5) (s : State) : Out := .next (s.cmp d a b relLeu)

def State.cmpi (s : State) (p : BitVec 3) (a : BitVec 5) (i : BitVec 16) (f : Word → Word → Bool) : State :=
  s.putP p (f (s.me.rd a) (simm i))

def execCmpiEq (p : BitVec 3) (a : BitVec 5) (i : BitVec 16) (s : State) : Out := .next (s.cmpi p a i relEq)
def execCmpiNe (p : BitVec 3) (a : BitVec 5) (i : BitVec 16) (s : State) : Out := .next (s.cmpi p a i relNe)
def execCmpiLt (p : BitVec 3) (a : BitVec 5) (i : BitVec 16) (s : State) : Out := .next (s.cmpi p a i relLt)
def execCmpiLtu (p : BitVec 3) (a : BitVec 5) (i : BitVec 16) (s : State) : Out := .next (s.cmpi p a i relLtu)

/-! ## Predicates (R97) -/

def execPand (d a b : BitVec 3) (s : State) : Out := .next (s.putP d (s.me.rdP a && s.me.rdP b))
def execPor (d a b : BitVec 3) (s : State) : Out := .next (s.putP d (s.me.rdP a || s.me.rdP b))
def execPxor (d a b : BitVec 3) (s : State) : Out := .next (s.putP d (s.me.rdP a != s.me.rdP b))
def execPandn (d a b : BitVec 3) (s : State) : Out := .next (s.putP d (s.me.rdP a && !s.me.rdP b))
def execPnot (d a : BitVec 3) (s : State) : Out := .next (s.putP d (!s.me.rdP a))
def execPset (d : BitVec 3) (v : BitVec 1) (s : State) : Out := .next (s.putP d (v == 1))
def execSel (d a b : BitVec 5) (p : BitVec 3) (s : State) : Out :=
  .next (s.put d (if s.me.rdP p then s.me.rd a else s.me.rd b))
def execPmovg (d : BitVec 3) (a : BitVec 5) (s : State) : Out := .next (s.putP d (s.me.rd a != 0))
def execGmovp (d : BitVec 5) (a : BitVec 3) (s : State) : Out := .next (s.put d (if s.me.rdP a then 1 else 0))

/-! ## Immediates (R98) -/

def execAddi (d a : BitVec 5) (i : BitVec 16) (s : State) : Out := .next (s.put d (s.me.rd a + simm i))
def execAndi (d a : BitVec 5) (i : BitVec 16) (s : State) : Out := .next (s.put d (s.me.rd a &&& zimm i))
def execOri (d a : BitVec 5) (i : BitVec 16) (s : State) : Out := .next (s.put d (s.me.rd a ||| zimm i))
def execXori (d a : BitVec 5) (i : BitVec 16) (s : State) : Out := .next (s.put d (s.me.rd a ^^^ zimm i))
def execLi (d : BitVec 5) (i : BitVec 16) (s : State) : Out := .next (s.put d (simm i))
/-- LIH: Gd[47:0] * 2^16 + imm16, Gd read before it is written (R98). -/
def execLih (d : BitVec 5) (i : BitVec 16) (s : State) : Out := .next (s.put d ((s.me.rd d <<< 16) ||| zimm i))

end Sys2Proof.Machine
end

