-- ==== Sys2Proof/Machine/Control.lean ====
section
/-! DEFINITION. Branches, jumps and calls (R99-R101). -/

namespace Sys2Proof.Machine

/-- BR: to the target when P[p] = s (R99). -/
def execBr (p : BitVec 3) (v : BitVec 1) (o : BitVec 22) (s : State) : Out :=
  .next (s.modMe (fun t => if t.rdP p = (v == 1) then { t with pc := target t.pc o } else t.next))

def execJmp (o : BitVec 26) (s : State) : Out := .next (s.modMe (fun t => { t with pc := target t.pc o }))

/-- The link that CALL and CALLR write (R99, R100). -/
def linkOf (pc : VA) : Word := pc.setWidth 64 + 4

def execCall (o : BitVec 26) (s : State) : Out :=
  .next (s.modMe (fun t => { (t.wr 31 (linkOf t.pc)) with pc := target t.pc o }))

/-- A JREG transfer: ALIGN with the target and kind execute when its low bits are not zero, and then nothing changes (R65, R100). -/
def State.jumpReg (s : State) (v : Word) (link : Bool) : State :=
  let tv := vaOf v
  if tv.toNat % 4 ≠ 0 then s.accTrap kALIGN tv.toNat .execute
  else s.modMe (fun t => { (if link then t.wr 31 (linkOf t.pc) else t) with pc := tv })

def execJr (a : BitVec 5) (s : State) : Out := .next (s.jumpReg (s.me.rd a) false)
/-- CALLR reads Ga before it writes the link (R100). -/
def execCallr (a : BitVec 5) (s : State) : Out := .next (s.jumpReg (s.me.rd a) true)
def execRet (s : State) : Out := .next (s.jumpReg (s.me.rd 31) false)

end Sys2Proof.Machine
end

