-- ==== Sys2Proof/Machine/Xlat.lean ====
section
/-! DEFINITION. Translation (R252-R257): the walk of the page tables, the sequencer's TLB, the caches' lines, and fetching an
instruction's word (R54, R55, R91). -/

namespace Sys2Proof.Machine

/-- What a walk ends in (R253). ea is the entry's address, e its new value when A or D changes. -/
inductive WalkRes where
  | leaf (ea : Nat) (e : Nat) (changed : Bool) (level : Nat) (frame : Nat) (w x d : Bool)
  | fault (code : BitVec 8) (ea : Nat)
  | absent
deriving DecidableEq, Repr

def hbmTop : Nat := 2 ^ 40

/-- A leaf entry's end of the walk at a level (R253). -/
def walkLeaf (ea e level : Nat) (k : Kind) : WalkRes :=
  let frame := e / 2 ^ 16 % 2 ^ 28
  let w := e / 4 % 2 == 1
  let x := e / 8 % 2 == 1
  if level = 1 then .fault kPROT ea
  else if level = 2 ∧ frame % 2 ^ 13 ≠ 0 then .fault kPROT ea
  else if (k = .write ∧ w = false) ∨ (k = .execute ∧ x = false) then .fault kPROT ea
  else
    let a := e / 16 % 2 == 1
    let d := e / 32 % 2 == 1
    let d' := d || k = .write
    let n := e + (if a then 0 else 16) + (if d' && !d then 32 else 0)
    .leaf ea n (decide (n ≠ e)) level frame w x d'

/-- The walk from level on, with left levels to go (R253). [log entry 9, DESIGN CHOICE] -/
def walkFrom (hbm : Memory) (bad : List Nat) (va : Nat) (k : Kind) (frame : Nat) (left : Nat) : WalkRes :=
  match left with
  | 0 => .fault kPROT 0
  | n + 1 =>
    let level := 3 - n
    let idx := va / 2 ^ (16 + 13 * n) % 2 ^ 13
    let ea := frame * 2 ^ 16 + 8 * idx
    if hbmTop ≤ ea then .absent
    else if bad.contains (ea / 8) then .fault kECC ea
    else
      let e := Memory.readN hbm ea 8
      if e % 2 = 0 then .fault kXLAT ea
      else if e / 2 ^ 44 ≠ 0 ∨ e / 64 % 2 ^ 10 ≠ 0 ∨ e / 2 ^ 40 % 16 ≠ 0 then .fault kPROT ea
      else if e / 2 % 2 = 0 then
        (if n = 0 then .fault kPROT ea else walkFrom hbm bad va k (e / 2 ^ 16 % 2 ^ 28) n)
      else walkLeaf ea e level k

/-- A walk in a core's tenant (R253). [log entry 9, DESIGN CHOICE] -/
def State.walk (s : State) (c : CoreId) (va : Nat) (k : Kind) : WalkRes :=
  walkFrom s.hbm s.ecc.hbm va k (s.core c).ptbase.toNat 3

/-- The TLB or extent entry of a leaf. -/
def xlatOf (va level frame : Nat) (w x d : Bool) (ten : Tenant) : Xlat :=
  { block := decide (level = 2), no := if level = 2 then va / 2 ^ 29 else va / 2 ^ 16,
    frame := BitVec.ofNat 28 frame, w := w, x := x, dirty := d, ten := ten }

def Xlat.covers (e : Xlat) (va : Nat) : Bool := if e.block then va / 2 ^ 29 == e.no else va / 2 ^ 16 == e.no

/-- The table entries that a walk reads, down to its leaf or to the one that stops it (R253). -/
def walkReads (hbm : Memory) (bad : List Nat) (va : Nat) (frame : Nat) (left : Nat) : List Nat :=
  match left with
  | 0 => []
  | n + 1 =>
    let ea := frame * 2 ^ 16 + 8 * (va / 2 ^ (16 + 13 * n) % 2 ^ 13)
    if hbmTop ≤ ea ∨ bad.contains (ea / 8) = true then []
    else
      let e := Memory.readN hbm ea 8
      let table := e % 2 = 1 ∧ e / 2 ^ 44 = 0 ∧ e / 64 % 2 ^ 10 = 0 ∧ e / 2 ^ 40 % 16 = 0 ∧ e / 2 % 2 = 0
      ea :: (if table then walkReads hbm bad va (e / 2 ^ 16 % 2 ^ 28) n else [])

/-- A walk from a root corrects the correctable errors of the entries that it reads (R258). -/
def State.walkSoft (s : State) (root va : Nat) : State := (walkReads s.hbm s.ecc.hbm va root 3).foldl (fun s a => s.softHbm a 8) s

/-- The same in a core's tenant. -/
def State.walked (s : State) (c : CoreId) (va : Nat) : State := s.walkSoft (s.core c).ptbase.toNat va

/-- The physical address of va under an entry (R253). -/
def Xlat.pa (e : Xlat) (va : Nat) : Nat :=
  e.frame.toNat * 2 ^ 16 + (if e.block then va % 2 ^ 29 else va % 2 ^ 16)

/-- Whether an entry serves an access without a walk: W and D for a write (R254), X for a fetch. -/
def Xlat.allows (e : Xlat) (k : Kind) : Bool :=
  match k with
  | .read => true
  | .write => e.w && e.dirty
  | .execute => e.x

/-- The entry of a TLB or of a generator's extents that translates va: a page entry before a block entry (R255). -/
def findXlat (l : List Xlat) (ten : Tenant) (va : Nat) : Option Xlat :=
  match l.find? (fun e => !e.block && e.ten == ten && e.covers va) with
  | some e => some e
  | none => l.find? (fun e => e.block && e.ten == ten && e.covers va)

/-- The physical address of va for an access, when the TLB serves it. -/
def State.translate (s : State) (c : CoreId) (va : Nat) (k : Kind) : Option Nat :=
  match findXlat (s.core c).tlb (s.tenantOf c) va with
  | some e => if e.allows k then some (e.pa va) else none
  | none => none

/-- Put an entry into the TLB: it replaces the entry of its own page or block; a full class loses a free victim (R255). [log entry 2, DESIGN CHOICE] -/
def tlbFill (tlb : List Xlat) (e : Xlat) (fresh : Nat) : List Xlat :=
  let l := tlb.filter (fun x => !(x.block == e.block && x.no == e.no && x.ten == e.ten))
  let cap := if e.block then 8 else 64
  let same := l.filter (fun x => x.block == e.block)
  if same.length < cap then l ++ [e]
  else match same[Config.victimTlb fresh % cap]? with
    | some v => l.filter (fun x => x != v) ++ [e]
    | none => l ++ [e]

/-- Write a walked entry back to the table when A or D changed (R253, R254). -/
def State.walkWrite (s : State) (ea e : Nat) (changed : Bool) : State :=
  if changed then s.hbmStore ea 8 e else s

/-! ## Cache lines (R236, R245) -/

def findLine (l : List Line) (no : Nat) : Option Line := l.find? (fun x => x.no == no)

/-- Install a line: 64 sets of 8 ways; a full set loses a free victim. [log entry 2, DESIGN CHOICE; log entry 16, DESIGN CHOICE] -/
def installLine (l : List Line) (x : Line) (fresh : Nat) : List Line :=
  let l := l.filter (fun y => y.no != x.no)
  let set := l.filter (fun y => y.no % 64 == x.no % 64)
  if set.length < 8 then l ++ [x]
  else match set[Config.victimWay fresh % 8]? with
    | some v => l.filter (fun y => y.no != v.no) ++ [x]
    | none => l ++ [x]

/-- The line's 64 bytes in HBM. -/
def State.hbmLine (s : State) (no : Nat) : BitVec 512 := BitVec.ofNat 512 (Memory.readN s.hbm (64 * no) 64)

/-- Whether one of the line's words holds an uncorrectable error (R258). -/
def State.lineBad (s : State) (no : Nat) : Bool := s.hbmBad (64 * no) 64

/-- The youngest buffered store's byte at an address (R245). -/
def bufByte? (b : List BufStore) (a : Nat) : Option Nat :=
  b.foldl (fun acc x => if x.pa ≤ a && a < x.pa + x.w then some (x.v.toNat / 256 ^ (a - x.pa) % 256) else acc) none

/-- Replace the bytes of a line that buffered stores cover (R245). [log entry 17, DEDUCED] -/
def mergeLine (b : List BufStore) (no : Nat) (d : BitVec 512) : BitVec 512 :=
  if b.isEmpty then d
  else BitVec.ofNat 512 ((List.range 64).foldl (fun acc i =>
    acc + (match bufByte? b (64 * no + i) with | some x => x | none => getBits d (8 * i) 8) * 256 ^ i) 0)

/-- A store's bytes into the line that holds its address, when there is one (R245). -/
def storeLine (l : List Line) (pa w : Nat) (v : Word) : List Line :=
  l.map (fun x => if x.no == pa / 64 then { x with data := setBits x.data (8 * (pa % 64)) (8 * w) v.toNat } else x)

/-- The next value of the free-value counter. [log entry 2, DESIGN CHOICE] -/
def State.tickFresh (s : State) : State := { s with fresh := s.fresh + 1 }

/-! ## Fetch (R54, R61, R91) -/

/-- What fetching the word at a thread's PC gives: the word, a walk to wait for, or a line to wait for. -/
inductive Fetched where
  | word (w : Nat)
  | walk
  | miss (line : Nat)
deriving DecidableEq, Repr

/-- [log entry 11, PRESUMED] -/
def State.fetch (s : State) (c : CoreId) (t : Tid) : Fetched :=
  let pc := (s.thr c t).pc.toNat
  match s.translate c pc .execute with
  | none => .walk
  | some pa =>
    match findLine (s.core c).icache (pa / 64) with
    | some l => .word (getBits l.data (8 * (pa % 64)) 32)
    | none => .miss (pa / 64)

/-- An instruction-cache line fill returns, and the parked thread can issue (R91). An uncorrectable error in the line traps (R258). [log entry 11, PRESUMED] -/
def execIcacheLineFill (c : CoreId) (t : Tid) (s : State) : Out :=
  match (s.thr c t).st, (s.thr c t).pend with
  | .parked, .ifetch line =>
    if s.lineBad line then
      .next (s.trapAt c t kECC (accessEval (64 * line) .execute) (s.thr c t).pc)
    else
      let x : Line := { no := line, data := s.hbmLine line }
      let s := s.softHbm (64 * line) 64
      .next ((s.modCore c (fun k => { k with icache := installLine k.icache x s.fresh })).modThr c t (fun th => th.wake s.slot)
        |>.tickFresh)
  | _, _ => .next s

end Sys2Proof.Machine
end

