-- ==== Sys2Proof/Machine/SeqMem.lean ====
section
/-! DEFINITION. The sequencer's memory instructions: loads and stores (R244, R245), pool accesses and the mailbox and status windows
(R237, R241, R242, R246), atomic operations (R247, R248) and prefetch (R249). The banks' side of pool accesses is in Bank.lean. -/

namespace Sys2Proof.Machine

/-! ## Loads and stores through VA space -/

/-- A loaded value of w bytes extended to 64 bits (R244). -/
def extend (w : Nat) (sx : Bool) (v : Nat) : Word := if sx then BitVec.ofInt 64 (sext (8 * w) v) else BitVec.ofNat 64 v

/-- Byte a as a thread of the core sees it without a fill: the youngest buffered store, then the cache line (R245). -/
def Core.byteAt? (x : Core) (a : Nat) : Option Nat :=
  match bufByte? x.wbuf a with
  | some b => some b
  | none => (findLine x.dcache (a / 64)).map (fun l => getBits l.data (8 * (a % 64)) 8)

/-- The w bytes at a, when every one is buffered or cached. -/
def Core.loadBytes? (x : Core) (a w : Nat) : Option Nat :=
  match w with
  | 0 => some 0
  | n + 1 =>
    match x.byteAt? a, x.loadBytes? (a + 1) n with
    | some b, some r => some (b + 256 * r)
    | _, _ => none

/-- A load at a physical address: the value at once, or the thread parks on a line fill (R91, R245). -/
def State.loadPA (s : State) (pa w : Nat) (sx : Bool) (d : BitVec 5) : State :=
  match s.myCore.loadBytes? pa w with
  | some v => s.put d (extend w sx v)
  | none => s.parkMe (.load pa w sx d true)

/-- A load of w bytes (R244). -/
def State.load (s : State) (d a : BitVec 5) (i : BitVec 16) (w : Nat) (sx : Bool) : State :=
  let va := (s.me.ea a i).toNat
  if va % w ≠ 0 then s.accTrap kALIGN va .read
  else match s.translate s.cur.1 va .read with
    | none => s.parkMe (.walk (s.me.ea a i) .read)
    | some pa => s.loadPA pa w sx d

/-- A store enters the write buffer and updates a present line (R245). -/
def Core.bufferStore (x : Core) (t : Tid) (va pa w : Nat) (v : Word) : Core :=
  { x with wbuf := x.wbuf ++ [{ t := t, va := va, pa := pa, w := w, v := v }], dcache := storeLine x.dcache pa w v }

/-- Put a thread at the end of the core's waiting list, in issue order. [log entry 18, DESIGN CHOICE] -/
def Core.enqueueWait (x : Core) (t : Tid) : Core := { x with waitq := x.waitq ++ [t] }
def Core.dequeueWait (x : Core) (t : Tid) : Core := { x with waitq := x.waitq.filter (fun y => y != t) }

/-- A store at a physical address: into the buffer, or the thread parks until a place frees (R245). -/
def State.storePA (s : State) (va pa w : Nat) (v : Word) : State :=
  if s.myCore.wbuf.length < 8 then
    (s.modCore s.cur.1 (fun x => x.bufferStore s.cur.2 va pa w v)).skip
  else
    (s.modCore s.cur.1 (fun x => x.enqueueWait s.cur.2)).parkMe (.store va pa w v)

/-- A store of w bytes (R244). -/
def State.store (s : State) (d a : BitVec 5) (i : BitVec 16) (w : Nat) : State :=
  let va := (s.me.ea a i).toNat
  if va % w ≠ 0 then s.accTrap kALIGN va .write
  else match s.translate s.cur.1 va .write with
    | none => s.parkMe (.walk (s.me.ea a i) .write)
    | some pa => s.storePA va pa w (BitVec.ofNat 64 ((s.me.rd d).toNat % 2 ^ (8 * w)))

def execLdb (d a : BitVec 5) (i : BitVec 16) (s : State) : Out := .next (s.load d a i 1 true)
def execLdh (d a : BitVec 5) (i : BitVec 16) (s : State) : Out := .next (s.load d a i 2 true)
def execLdw (d a : BitVec 5) (i : BitVec 16) (s : State) : Out := .next (s.load d a i 4 true)
def execLdd (d a : BitVec 5) (i : BitVec 16) (s : State) : Out := .next (s.load d a i 8 false)
def execLdbu (d a : BitVec 5) (i : BitVec 16) (s : State) : Out := .next (s.load d a i 1 false)
def execLdhu (d a : BitVec 5) (i : BitVec 16) (s : State) : Out := .next (s.load d a i 2 false)
def execLdwu (d a : BitVec 5) (i : BitVec 16) (s : State) : Out := .next (s.load d a i 4 false)
def execStb (d a : BitVec 5) (i : BitVec 16) (s : State) : Out := .next (s.store d a i 1)
def execSth (d a : BitVec 5) (i : BitVec 16) (s : State) : Out := .next (s.store d a i 2)
def execStw (d a : BitVec 5) (i : BitVec 16) (s : State) : Out := .next (s.store d a i 4)
def execStd (d a : BitVec 5) (i : BitVec 16) (s : State) : Out := .next (s.store d a i 8)

/-- A data-cache line fill returns, in a slot after that of the miss: the line of HBM, with the core's buffered stores merged, is installed unless a fence dropped the
fill (R250), and the load completes from it (R91, R245). [log entry 17, DEDUCED] -/
def execDcacheLineFill (c : CoreId) (t : Tid) (s : State) : Out :=
  match (s.thr c t).st, (s.thr c t).pend with
  | .parked, .load pa w sx d keep =>
    let x := s.core c
    if s.slot < (s.thr c t).readyAt then .next s
    else match x.loadBytes? pa w with
    | some v => .next (s.finish c t (fun th => th.wr d (extend w sx v)))
    | none =>
      if s.lineBad (pa / 64) then
        .next (s.trapAt c t kECC (accessEval (pa / 64 * 64) .read) (s.thr c t).pc)
      else
        let data := mergeLine x.wbuf (pa / 64) (s.hbmLine (pa / 64))
        let v := getBits data (8 * (pa % 64)) (8 * w)
        let s := s.softHbm (pa / 64 * 64) 64
        let s := if keep then
            (s.modCore c (fun k => { k with dcache := installLine k.dcache { no := pa / 64, data := data } s.fresh })).tickFresh
          else s
        .next (s.finish c t (fun th => th.wr d (extend w sx v)))
  | _, _ => .next s

/-- The oldest thread waiting for a place in the write buffer. -/
def Core.storeWaiter? (x : Core) : Option (Tid × Nat × Nat × Nat × Word) :=
  x.waitq.findSome? (fun t => match (x.thr t).st, (x.thr t).pend with
    | .parked, .store va pa w v => some (t, va, pa, w, v)
    | _, _ => none)

/-- The oldest buffered store is performed and leaves the buffer (R245); the oldest waiting store takes the place. -/
def execStorePerformed (c : CoreId) (s : State) : Out :=
  match (s.core c).wbuf with
  | [] => .next s
  | b :: r =>
    let s := s.hbmStore b.pa b.w b.v.toNat
    let s := s.modCore c (fun x => { x with wbuf := r })
    match (s.core c).storeWaiter? with
    | some (t, va, pa, w, v) =>
      .next ((s.modCore c (fun x => (x.bufferStore t va pa w v).dequeueWait t)).finish c t id)
    | none => .next s

/-! ## Pool space (R237, R246) -/

/-- The own slice of a core starts at this pool address. -/
def sliceBase (c : CoreId) : Nat := c.val * 4194304
def poolCore (pa : Nat) : Nat := pa / 4194304 % 64
def poolBank (pa : Nat) : Nat := pa / 65536 % 64
def poolOff (pa : Nat) : Nat := pa % 65536

/-- A bank's status word (R241). -/
def Bank.status (b : Bank) : Word := BitVec.ofNat 64 (b.fxsat.toNat + 256 * b.owner.toNat + 4294967296 * b.cecnt.toNat)

/-- The value of an LDP offset of the status window (R241). -/
def Core.statusWindow (x : Core) (off : Nat) : Word := if off % 8 = 0 ∧ off / 8 < 48 then (x.bankAt (off / 8)).status else 0

/-- The value of an LDP offset of a mailbox window, when it does not park (R242). -/
def Thread.mailWindow? (t : Thread) (off : Nat) : Option Word :=
  if off < 0x100 then (t.mailbox.head?).map (fun c => BitVec.ofNat 64 (c.data.toNat / 2 ^ (8 * off) % 2 ^ 64))
  else if off = 0x100 then (t.mailbox.head?).map (fun c => c.h.word)
  else if off = 0x108 then some (BitVec.ofNat 64 (t.mailbox.length % 32))
  else some 0

/-- The checks of R246 on a pool address: the fault code, or none. -/
def poolCheck (c : CoreId) (pa : Nat) : Option (BitVec 8) :=
  if pa % 8 ≠ 0 then some kALIGN
  else if poolCore pa ≠ c.val ∨ (48 ≤ poolBank pa ∧ poolBank pa ≤ 61) then some kPROT
  else none

/-- LDP (R246): its bank returns the value later; the windows answer at once, or the thread parks on an empty mailbox (R242). -/
def execLdp (d a : BitVec 5) (i : BitVec 16) (s : State) : Out :=
  let pa := s.me.pa a i
  match poolCheck s.cur.1 pa with
  | some code => .next (s.accTrap code pa .read)
  | none =>
    if poolBank pa = 62 then
      match s.me.mailWindow? (poolOff pa) with
      | some v => .next (s.put d v)
      | none => .next (s.parkMe (.mailbox d (poolOff pa)))
    else if poolBank pa = 63 then .next (s.put d (s.myCore.statusWindow (poolOff pa)))
    else
      .next ((s.modCore s.cur.1 (fun x => { x with direct := x.direct ++ [{ t := s.cur.2, addr := pa, op := .load }] })).parkMe
        (.ldp d))

/-- Pop the oldest mailbox cell of a thread: its place in the SEQ channel is free from the next slot (R242). A DRN crosses the port's
pass boundary (R21). -/
def State.popMail (s : State) (c : CoreId) (t : Tid) : State :=
  match (s.thr c t).mailbox with
  | [] => s
  | x :: r =>
    let s := s.modThr c t (fun th => { th with mailbox := r })
    let p := 118 + t.val % 4
    (s.modCore c (fun k =>
      let k := k.modEg p (fun g => g.modChan 0 (fun q => { q with freed := q.freed + 1, moved := true }))
      if x.h.tag = tDRN then (k.modEg p (fun g => { g with passes := g.passes + 1 })).cross p else k)).consume c x

/-- STP (R246): the bank performs it later (R238); the windows act at once. The bank accepts it at issue, however many accesses wait there, and serves
them in the order of their issue. [log entry 148, DESIGN CHOICE] -/
def execStp (d a : BitVec 5) (i : BitVec 16) (s : State) : Out :=
  let pa := s.me.pa a i
  match poolCheck s.cur.1 pa with
  | some code => .next (s.accTrap code pa .write)
  | none =>
    let v := s.me.rd d
    if poolBank pa = 62 then
      .next (if poolOff pa = 0x200 then (s.popMail s.cur.1 s.cur.2).skip else s.skip)
    else if poolBank pa = 63 then
      .next (if poolOff pa / 8 < 48 then
          (s.modCore s.cur.1 (fun x => x.modBank (poolOff pa / 8) (fun b => { b with fxsat := v.getLsbD 0 }))).skip
        else s.skip)
    else
      .next ((s.modCore s.cur.1 (fun x => { x with direct := x.direct ++ [{ t := s.cur.2, addr := pa, op := .store v }] })).skip)

/-! ## Atomic operations (R247, R248) -/

/-- The new value of a W-byte location (R247); FXADD's 16-byte lane (R248) saturates by R42. -/
def amoNew (op : AmoOp) (w old b cmp : Nat) : Nat :=
  let so := sext (8 * w) old
  let sb := sext (8 * w) b
  match op with
  | .add => (old + b) % 2 ^ (8 * w)
  | .and => old &&& b
  | .or => old ||| b
  | .xor => old ^^^ b
  | .min => if so ≤ sb then old else b
  | .max => if so ≤ sb then b else old
  | .minu => if old ≤ b then old else b
  | .maxu => if old ≤ b then b else old
  | .xchg => b
  | .cas => if old = cmp then b else old
  | .fxadd => (fxAdd old (wrap 128 (sext 64 b * 2 ^ 32))).1

/-- Whether the AMO saturates (R248). -/
def amoSat (op : AmoOp) (old b : Nat) : Bool :=
  match op with
  | .fxadd => (fxAdd old (wrap 128 (sext 64 b * 2 ^ 32))).2
  | _ => false

/-- Gd of an AMO: the old value, sign-extended for .W; the Q32.32 window for FXADD (R247, R248). -/
def amoResult (op : AmoOp) (w old : Nat) : Word :=
  match op with
  | .fxadd => BitVec.ofNat 64 (old / 2 ^ 32)
  | _ => extend w true old

/-- The bytes an AMO acts on: 4, 8, or 16 for FXADD. -/
def amoBytes (op : AmoOp) (wide : BitVec 1) : Nat :=
  match op with
  | .fxadd => 16
  | _ => if wide = 1 then 8 else 4

/-- An AMO at issue (R247): its checks, then the thread parks until the operation is performed. -/
def State.amo (s : State) (op : AmoOp) (d a b : BitVec 5) (sp wide : BitVec 1) : State :=
  let w := amoBytes op wide
  let ow := match op with | .fxadd => 8 | _ => w
  let bv : Word := BitVec.ofNat 64 ((s.me.rd b).toNat % 2 ^ (8 * ow))
  let cmp : Word := BitVec.ofNat 64 ((s.me.rd d).toNat % 2 ^ (8 * ow))
  if sp = 1 then
    let x := (s.me.rd a).toNat % 2 ^ 28
    if x % w ≠ 0 then s.accTrap kALIGN x .write
    else if poolCore x ≠ s.cur.1.val ∨ 48 ≤ poolBank x then s.accTrap kPROT x .write
    else s.parkMe (.amo op w true x bv d cmp false 0)
  else
    let va := (vaOf (s.me.rd a)).toNat
    if va % w ≠ 0 then s.accTrap kALIGN va .write
    else match s.translate s.cur.1 va .write with
      | none => s.parkMe (.walk (vaOf (s.me.rd a)) .write)
      | some pa => s.parkMe (.amo op w false pa bv d cmp false va)

def execAadd (d a b : BitVec 5) (sp w : BitVec 1) (s : State) : Out := .next (s.amo .add d a b sp w)
def execAand (d a b : BitVec 5) (sp w : BitVec 1) (s : State) : Out := .next (s.amo .and d a b sp w)
def execAor (d a b : BitVec 5) (sp w : BitVec 1) (s : State) : Out := .next (s.amo .or d a b sp w)
def execAxor (d a b : BitVec 5) (sp w : BitVec 1) (s : State) : Out := .next (s.amo .xor d a b sp w)
def execAmin (d a b : BitVec 5) (sp w : BitVec 1) (s : State) : Out := .next (s.amo .min d a b sp w)
def execAmax (d a b : BitVec 5) (sp w : BitVec 1) (s : State) : Out := .next (s.amo .max d a b sp w)
def execAminu (d a b : BitVec 5) (sp w : BitVec 1) (s : State) : Out := .next (s.amo .minu d a b sp w)
def execAmaxu (d a b : BitVec 5) (sp w : BitVec 1) (s : State) : Out := .next (s.amo .maxu d a b sp w)
def execAxchg (d a b : BitVec 5) (sp w : BitVec 1) (s : State) : Out := .next (s.amo .xchg d a b sp w)
def execAcas (d a b : BitVec 5) (sp w : BitVec 1) (s : State) : Out := .next (s.amo .cas d a b sp w)
def execFxaddAmo (d a b : BitVec 5) (sp : BitVec 1) (s : State) : Out := .next (s.amo .fxadd d a b sp 1)

/-- Whether every earlier store of a thread has been performed (R247). -/
def Core.storesDone (x : Core) (t : Tid) : Bool := x.wbuf.all (fun b => b.t != t)

/-! ## Prefetch (R249) -/

/-- A prefetch for a read or a write may fill the TLB, and the cache line too for PREF.R; it never traps, parks or changes a page-table entry: one
that would is dropped (R249). Whether it fills is free (log entry 2). [log entry 2, DESIGN CHOICE] -/
def State.prefetch (s : State) (va : VA) (line : Bool) : State :=
  let c := s.cur.1
  if Config.prefetchFills s.fresh then
    let s := s.walked c va.toNat
    let s := match s.walk c va.toNat (if line then .read else .write) with
      | .leaf _ _ changed level frame w x d =>
        if changed then s
        else s.modCore c (fun k => { k with tlb := tlbFill k.tlb (xlatOf va.toNat level frame w x d (s.tenantOf c)) s.fresh })
      | _ => s
    let s := if line then
        match s.translate c va.toNat .read with
        | some pa =>
          if (findLine (s.core c).dcache (pa / 64)).isSome || s.lineBad (pa / 64) then s
          else (s.softHbm (pa / 64 * 64) 64).modCore c (fun k => { k with
            dcache := installLine k.dcache { no := pa / 64, data := mergeLine k.wbuf (pa / 64) (s.hbmLine (pa / 64)) } s.fresh })
        | none => s
      else s
    s.tickFresh.skip
  else s.tickFresh.skip

def execPrefR (a : BitVec 5) (i : BitVec 16) (s : State) : Out := .next (s.prefetch (s.me.ea a i) true)
def execPrefW (a : BitVec 5) (i : BitVec 16) (s : State) : Out := .next (s.prefetch (s.me.ea a i) false)

end Sys2Proof.Machine
end

