-- ==== Sys2Proof/Machine/Weir.lean ====
section
/-! DEFINITION. The Weir (R170-R198): space reports, routes, admission, matching, delivery, rendezvous, multicast, loop budgets and the
crossbar between cores. -/

namespace Sys2Proof.Machine

/-! ## Space reports (R172, R174, R183) -/

/-- The cells matched to an egress port and not yet delivered, for the ports that share a channel. -/
def Core.flights (x : Core) (p : Nat) : List Cell :=
  ((x.egAt p).flight.map (fun y => y.2)) ++ (if p = 80 then (x.egAt 81).flight.map (fun y => y.2) else [])

/-- Mailbox cells that hold places of a SEQ channel (R242). -/
def Core.mailHeld (x : Core) (p : Nat) : Nat :=
  if 118 ≤ p ∧ p ≤ 121 then
    ((List.finRange 16).filter (fun t => t.val % 4 == p - 118)).foldl (fun n t => n + (x.thr t).mailbox.length) 0
  else 0

/-- Whether an egress port holds a cell in its hold queue: one of the held VC, admitted after the switch that made it hold, or behind cells of an
earlier merge that are still being released (R270, R316, R317). -/
def Egress.holds (g : Egress) (y : Cell) : Bool := g.holding == some y.h.vc && !y.m.spl && (g.holdOld || decide (g.holdFrom < y.m.since))

/-- The cells on their way into channel ch of port p: not those for a hold queue or the rendezvous buffer (R182, R316). -/
def Core.inAir (x : Core) (p ch : Nat) : List Cell :=
  let g := x.egAt p
  (x.flights (chanPort p)).filter (fun c => x.chanOf? p c.h == some ch && (!c.inSet || !isElemPort p) && !g.holds c)

/-- Places of channel ch of port p that are taken: by its cells, the cells on their way and those in mailboxes. Places freed in the slot count as
taken until the next (R174). -/
def Core.chanUsed (x : Core) (p ch : Nat) : Nat :=
  let q := (x.egAt (chanPort p)).chan ch
  q.cells.length + q.freed + (x.inAir p ch).length + x.mailHeld p

/-- Free places of channel ch of port p as the report of the slot's start gives them: without the cells that a set released in the slot has
brought (R174). -/
def Core.chanFree (x : Core) (p ch : Nat) : Nat := chanCap p - (x.chanUsed p ch - ((x.egAt (chanPort p)).chan ch).put)

/-- The last place of a channel admits only class 2 and 3 (R172). -/
def placeFor (cls free : Nat) : Bool := if 2 ≤ cls then 1 ≤ free else 2 ≤ free

/-- Whether channel ch of port p has a place for a cell of its class by what stands in it and is on its way now (R172): what a set released in the slot,
a held cell and a matched cell take of it is counted at once. -/
def Core.roomNow (x : Core) (p ch : Nat) (c : Cell) : Bool := placeFor (x.classOf c) (chanCap p - x.chanUsed p ch)

/-- Whether the rendezvous buffer of port p takes an operand of a RID now: its set is open or on its way, or one of the 32 is free (R183). -/
def Core.rdvTakes (x : Core) (p : Nat) (rid : BitVec 8) : Bool :=
  let g := x.egAt p
  let open_ := (g.rdv.map (fun r => r.rid) ++ (g.flight.filterMap (fun y => if y.2.inSet then some y.2.h.rid else none))).eraseDups
  open_.contains rid || decide (open_.length < 32)

/-- Whether a cell that the slot's report admits finds its place when it is matched: where a set or a held cell released in the slot would take the
last one, the match waits. [log entry 129, DESIGN CHOICE] -/
def Core.fits (x : Core) (p : Nat) (c : Cell) : Bool :=
  let g := x.egAt p
  if g.holds c then g.hold.length + (g.flight.filter (fun y => g.holds y.2)).length < 64
  else match x.chanOf? p c.h with
    | some ch => if isElemPort p && c.inSet then x.rdvTakes p c.h.rid else x.roomNow p ch c
    | none => true

/-- The RIDs with an open set at an element port as the report of the slot's start has them: delivered, in flight, or released in the slot (R174,
R183). [log entry 20, DEDUCED] -/
def Core.openRids (x : Core) (p : Nat) : List (BitVec 8) :=
  ((x.egAt p).rdv.map (fun r => r.rid) ++ (x.egAt p).rdvGone ++ ((x.egAt p).flight.filterMap (fun y => if y.2.inSet then some y.2.h.rid else none))).eraseDups

/-- Whether an SPL of the Oxbow stands before a cell on the way to channel C0: the cell was admitted after it (R311). -/
def Egress.splAhead (g : Egress) (c : Cell) : Bool :=
  match g.splIn with
  | some z => decide (z.m.since < c.m.since)
  | none => false

/-- Whether egress port p reports space to a cell, x being the core as it stands at the start of the slot (R172, R174, R183, R311, R316). A frozen element's port reports none to the first operand of a
new RID (R24). [log entry 20, DEDUCED] -/
def Core.space (x : Core) (p : Nat) (c : Cell) : Bool :=
  let g := x.egAt p
  if egReserved p then false
  else if g.frozen.isSome then false
  else if g.holds c then
    g.hold.length + (g.flight.filter (fun y => g.holds y.2)).length < 64
  else match x.chanOf? p c.h with
    | none => false
    | some ch =>
      let free := x.chanFree p ch
      placeFor (x.classOf c) free && !(ch == 0 && g.splAhead c) &&
        (if !c.inSet || !isElemPort p then true
         else (x.openRids p).contains c.h.rid ||
          (decide ((x.openRids p).length < 32) && x.elems[Fin.ofNat 32 (p - 48)].frozen.isNone))

/-! ## Routes (R190-R194) -/

def rtMode (r : BitVec 256) : Nat := let m := getBits r 28 4; if m ≤ 5 then m else 0
def rtDest (r : BitVec 256) (i : Nat) : BitVec 32 := BitVec.ofNat 32 (getBits r (64 + 32 * i) 32)

/-- A destination word's cell header and far end: none when the word gives a PORT fault (R191, R194). PORT is ignored where MC is not
zero; a cell for a far core goes to its NET port, and the crossbar copies it by the cluster's group MC (R16). -/
def destOf (c : CoreId) (d : BitVec 32) (h : Header) : Option (Header × Option Far) :=
  if d.getLsbD 31 = false then none
  else
    let core := Fin.ofNat 64 (getBits d 25 6)
    let net := getBits d 21 4
    let port := BitVec.ofNat 7 (getBits d 14 7)
    let vc := BitVec.ofNat 5 (getBits d 9 5)
    let mc := BitVec.ofNat 6 (getBits d 3 6)
    if core = c then
      if mc = 0 ∧ isNetPort port.toNat then none
      else some ({ h with ep := if mc = 0 then port else 0, vc := vc, mc := mc }, none)
    else if 12 ≤ net then none
    else some ({ h with ep := BitVec.ofNat 7 (96 + net), vc := vc, mc := mc }, some { core := core, port := port, vc := vc, mc := mc })

/-- Bytes i to i + n - 1 of the declaration. -/
def Stage.field (g : Stage) (i n : Nat) : Nat := getBits g.decl (8 * i) (8 * n)

/-- The input and the redirect VC of a stage (R305). -/
def Stage.ivc (g : Stage) : BitVec 5 := BitVec.ofNat 5 (g.field 10 1)
def Stage.rvc (g : Stage) : BitVec 5 := BitVec.ofNat 5 (g.field 11 1)

/-- The key-range entry of a stage that holds a key (R307). -/
def Stage.lookup (g : Stage) (k : Key) : Option (BitVec 64) :=
  g.ranges.toList.find? (fun e => e.getLsbD 63 && decide (getBits e 0 16 ≤ k.toNat) && decide (k.toNat < getBits e 16 17))

def rangePort (e : BitVec 64) : BitVec 7 := BitVec.ofNat 7 (getBits e 42 7)
def rangeCore (e : BitVec 64) : CoreId := Fin.ofNat 64 (getBits e 36 6)

/-- Index j of a steering register (R193): beyond the eight that it holds a free value. [log entry 112, DESIGN CHOICE] -/
def Steer.index (g : Steer) (j : Nat) : BitVec 8 := vget g.idx j (Config.steerIndex j)

/-- The entries that a STEER entry leads to (R193). -/
def Core.steerEntries (x : Core) (el : ElemId) (r : BitVec 256) : List (BitVec 8) :=
  let sg : Steer := vget x.elems[el].sg (getBits r 9 2) {}
  (List.range sg.k.toNat).map (fun j => BitVec.ofNat 8 (getBits r 11 8 + (sg.index j).toNat))

/-- Whether a header's destination is a bank port here or at its far end (R209); a multicast cell names none. -/
def toBank (h : Header) (far : Option Far) : Bool :=
  h.mc == 0 && (match far with
    | some f => isBankPort f.port.toNat
    | none => isBankPort h.ep.toNat)

/-- Whether a cell enters the multicast queue of its port (R179): one for a far core crosses the Weir to its NET port alone (R194). -/
def Cell.isMcast (c : Cell) : Bool := c.h.mc != 0 && c.far.isNone

/-- The RID an entry gives its next injection (R190). -/
def Core.entryRid (x : Core) (e : BitVec 8) (r : BitVec 256) : BitVec 8 :=
  if r.getLsbD 55 then vget x.rids e.toNat 0 else BitVec.ofNat 8 (getBits r 56 8)

/-- The header fields that come from a route entry (R192). -/
def entryHeader (h : Header) (r : BitVec 256) (rid : BitVec 8) : Header :=
  { h with cop := BitVec.ofNat 4 (getBits r 19 4), rid := rid, opx := BitVec.ofNat 2 (getBits r 53 2), opn := BitVec.ofNat 2 (getBits r 51 2) }

/-- What an offer resolves to: copies to admit with the entries whose RID counters advance, a cell for a peer edge, or a PORT fault. -/
inductive Resolved where
  | copies (l : List Cell) (adv : List (BitVec 8))
  | peer (k : StrmId) (c : Cell) (adv : List (BitVec 8))
  | fault
deriving DecidableEq, Repr

/-- A UNI injection of a cell on an entry (R192). -/
def Core.uni (x : Core) (c : CoreId) (e : BitVec 8) (cell : Cell) : Option Cell :=
  let r := vget x.routes e.toNat 0
  let h := entryHeader cell.h r (x.entryRid e r)
  (destOf c (rtDest r 0) h).map (fun y => { cell with h := y.1, far := y.2 })

/-- The key of a source stream's cell without a key or scale array (R209). -/
def keyFor (o : Offer) (cell : Cell) : Cell :=
  if o.keyed then
    match cell.m.strm with
    | some (_, j) => { cell with h := { cell.h with key := if toBank cell.h cell.far then BitVec.ofNat 16 (256 * j) else 0 } }
    | none => cell
  else cell

/-- The stream slot of the peer sender bound to an entry (R192, R230). -/
def Core.peerOn (x : Core) (e : BitVec 8) : Option StrmId :=
  (List.finRange 32).find? (fun k =>
    match Sparse.get? x.edges k.val with
    | some ed => ed.send && ed.entry == e && x.strms[k].st != .done && x.strms[k].st != .free
    | none => false)

/-- The cell that a PEER entry gives: its header fields come from the entry, EP, VC and MC from destination 0, and R198 tests it as any other (R192,
R198). [log entry 105,
DEDUCED] -/
def peerCell (c : CoreId) (cell : Cell) (r : BitVec 256) (rid : BitVec 8) : Cell :=
  let d := rtDest r 0
  let core : CoreId := Fin.ofNat 64 (getBits d 25 6)
  let port := BitVec.ofNat 7 (getBits d 14 7)
  let vc := BitVec.ofNat 5 (getBits d 9 5)
  let mc := BitVec.ofNat 6 (getBits d 3 6)
  { cell with
    h := { entryHeader cell.h r rid with ep := if mc = 0 then port else 0, vc := vc, mc := mc }
    far := if core = c then none else some { core := core, port := port, vc := vc, mc := mc } }

/-- Resolve an offer of core c in this slot (R192, R193, R307). Where two chosen indices name one RIDINC entry, R190 and R193 do not say which RIDs
their copies take: both take the counter's value, and it advances twice. [log entry 130, DESIGN CHOICE] A STAGE entry of a stream whose KEY follows the
destination is looked up with KEY 0. [log entry 147, DESIGN CHOICE] -/
def Core.resolve (x : Core) (c : CoreId) (o : Offer) : Resolved :=
  match o.via with
  | .direct => .copies [keyFor o o.cell] []
  | .entry e =>
    let r := vget x.routes e.toNat 0
    let adv := if r.getLsbD 55 then [e] else []
    let strm := o.cell.m.strm.isSome
    if o.uni && rtMode r != 1 then .fault
    else match rtMode r with
    | 1 => match x.uni c e o.cell with | some y => .copies [keyFor o y] adv | none => .fault
    | 2 =>
      let h := entryHeader o.cell.h r (x.entryRid e r)
      let n := getBits r 26 2 + 1
      let ys := (List.range n).map (fun i => (destOf c (rtDest r i) h).map (fun y => keyFor o { o.cell with h := y.1, far := y.2 }))
      if ys.all Option.isSome then .copies (ys.filterMap id) adv else .fault
    | 3 =>
      let g := x.stages[Fin.ofNat 8 (getBits r 23 3)]
      let d := rtDest r 0
      if g.st = .none ∨ d.getLsbD 31 = false then .fault
      else match g.lookup o.cell.h.key with
        | none => .fault
        | some en =>
          let h := entryHeader o.cell.h r (x.entryRid e r)
          let vc := BitVec.ofNat 5 (getBits d 9 5)
          if rangeCore en = c then
            .copies [keyFor o { o.cell with h := { h with ep := rangePort en, vc := vc, mc := 0 }, far := none }] adv
          else if 12 ≤ getBits d 21 4 then .fault
          else
            .copies [keyFor o { o.cell with
              h := { h with ep := BitVec.ofNat 7 (96 + getBits d 21 4), vc := vc, mc := 0 },
              far := some { core := rangeCore en, port := rangePort en, vc := vc, mc := 0 }
              m := { o.cell.m with twin := if vc = g.ivc ∨ vc = g.rvc then some (c, Fin.ofNat 8 (getBits r 23 3)) else none } }] adv
    | 4 =>
      match o.elem with
      | none => .fault
      | some el =>
        if strm then .fault
        else
          let es := x.steerEntries el r
          let ys := es.map (fun en => if rtMode (vget x.routes en.toNat 0) = 1 then x.uni c en o.cell else none)
          if es = [] ∨ !ys.all Option.isSome then .fault
          else .copies (ys.filterMap id) (es.filter (fun en => (vget x.routes en.toNat 0).getLsbD 55))
    | 5 =>
      if strm then .fault else match x.peerOn e with
        | some k => .peer k (peerCell c o.cell r (x.entryRid e r)) adv
        | none => .fault
    | _ => .fault

/-- A header as far as a destination word gives it, also one that names no legal destination: an invalid word gives nothing, and a NET field of 12 to 15
no EP (R191, R198). [log entry 151, DESIGN CHOICE] -/
def fillWord (c : CoreId) (d : BitVec 32) (h : Header) : Header :=
  if d.getLsbD 31 = false then h
  else
    let net := getBits d 21 4
    let mc := BitVec.ofNat 6 (getBits d 3 6)
    let port : BitVec 7 :=
      if Fin.ofNat 64 (getBits d 25 6) = c then (if mc = 0 then BitVec.ofNat 7 (getBits d 14 7) else 0)
      else if net < 12 then BitVec.ofNat 7 (96 + net) else h.ep
    { h with ep := port, vc := BitVec.ofNat 5 (getBits d 9 5), mc := mc }

/-- The header of an offer whose entry fails: COP, RID, OPX and OPN come from the entry, EP, VC and MC from the first destination word that fails, of a
STEER entry from the first chosen entry that fails, of a STAGE entry the VC (R192, R193, R198). [log entry 151, DESIGN CHOICE] -/
def Core.failedHeader (x : Core) (c : CoreId) (o : Offer) : Header :=
  match o.via with
  | .direct => o.cell.h
  | .entry e =>
    let r := vget x.routes e.toNat 0
    let h := entryHeader o.cell.h r (x.entryRid e r)
    match rtMode r with
    | 1 => fillWord c (rtDest r 0) h
    | 2 =>
      match (List.range (getBits r 26 2 + 1)).find? (fun i => (destOf c (rtDest r i) h).isNone) with
      | some i => fillWord c (rtDest r i) h
      | none => h
    | 3 => if (rtDest r 0).getLsbD 31 then { h with vc := BitVec.ofNat 5 (getBits (rtDest r 0) 9 5) } else h
    | 4 =>
      match o.elem with
      | none => h
      | some el =>
        match (x.steerEntries el r).find? (fun i => rtMode (vget x.routes i.toNat 0) != 1 || (x.uni c i o.cell).isNone) with
        | some i =>
          let q := vget x.routes i.toNat 0
          let g := entryHeader o.cell.h q (x.entryRid i q)
          if rtMode q = 1 then fillWord c (rtDest q 0) g else g
        | none => h
    | 5 => (peerCell c o.cell r (x.entryRid e r)).h
    | _ => h

/-- Whether a cell names a reserved port, here or at its far end (R11); a multicast cell names none. -/
def Cell.toReserved (y : Cell) : Bool :=
  y.h.mc == 0 && (egReserved y.h.ep.toNat || (match y.far with | some f => egReserved f.port.toNat | none => false))

/-- Whether an offer's route entry, as it stands, gives a cell that names a reserved port (R127). -/
def Core.toReserved (x : Core) (c : CoreId) (o : Offer) : Bool :=
  match x.resolve c o with
  | .copies l _ => l.any Cell.toReserved
  | .peer _ y _ => y.toReserved
  | .fault => false

/-- The route entries that an offer's injection reads (R258). -/
def Core.routeSpots (x : Core) (c : CoreId) (o : Offer) : List Spot :=
  match o.via with
  | .direct => []
  | .entry e =>
    let r := vget x.routes e.toNat 0
    .route c e :: (match rtMode r, o.elem with | 4, some el => (x.steerEntries el r).map (fun i => .route c i) | _, _ => [])

/-- The VC table entries that the admission of cells reads (R171, R258); a cell that came in at MGMT has a class of its own (R369). -/
def vcSpots (c : CoreId) (cs : List Cell) : List Spot := (cs.filter (fun y => !y.m.mgmt)).map (fun y => .vct c y.h.vc)

/-! ## Faults at injection (R198) -/

/-- Whether a resolved cell is refused. A multicast cell carries its group; a unicast cell for a NET port needs a far core. [log entry 121, DEDUCED] -/
def Core.refused (x : Core) (c : Cell) : Bool :=
  let mask := vget x.mgroups c.h.mc.toNat 0
  if c.h.mc ≠ 0 then
    egReserved c.h.ep.toNat || c.h.rid ≠ 0 || c.h.opn < c.h.opx || (c.far.isNone && (mask = 0 || mask.toNat / 2 ^ 124 ≠ 0))
  else
    egReserved c.h.ep.toNat || (c.h.rid ≠ 0 && c.far.isNone && !isElemPort c.h.ep.toNat) ||
      (match c.far with
        | some f => egReserved f.port.toNat || (c.h.rid ≠ 0 && !isElemPort f.port.toNat)
        | none => false) ||
      c.h.opn < c.h.opx || (isNetPort c.h.ep.toNat && c.far.isNone)

/-! ## Places (R173) -/

/-- The place a unicast cell of a VC and class takes in an ingress buffer, if one is free. -/
def placeOf (buf : List Queued) (vc : BitVec 5) (cls : Nat) : Option Place :=
  let ofVc := (buf.filter (fun q => q.place == .reserved && q.cell.h.vc == vc)).length
  if ofVc < 2 then some .reserved
  else if 2 ≤ cls ∧ (buf.filter (fun q => q.place == .express)).length < 32 then some .express
  else if (buf.filter (fun q => q.place == .shared)).length < 416 then some .shared
  else none

def qKey (ep : BitVec 7) (vc : BitVec 5) : Nat := ep.toNat * 32 + vc.toNat
/-- The multicast queue's key in qstat. -/
def mcKey : Nat := 4096

/-- Why an offer is not admitted in this slot. -/
inductive Wait where
  | bucket | loop (l : LoopId) (h : BitVec 64) | room
deriving DecidableEq, Repr

/-- The loop budget that a cell counts against (R186, R369). -/
def Core.loopOf (x : Core) (c : Cell) : Option LoopId := if c.m.mgmt then none else vcLoop? (x.vcEntry c.h.vc)

/-- Count a cell against its loop at admission. -/
def Core.loopUp (x : Core) (l : LoopId) : Core :=
  x.modLoop l.val (fun b => { b with inflight := b.inflight + 1, admitted := b.admitted + 1, active := true })

/-- Whether admission on a loop waits in this slot: a cell consumed in the slot lowers the count from the next one (R186). -/
def LoopB.atLimit (b : LoopB) : Bool := decide (b.budget.toNat ≤ b.inflight + b.freed)

/-- Admit one resolved cell into port p, or say what it waits for: a port whose budget is at its limit waits on that budget (R187), whether or not it holds a token. SEQ is the number of cells that entered the queue before it (R167).
[log entry 106, DEDUCED] -/
def Core.admitCell (x : Core) (slot p : Nat) (c : Cell) : Except Wait Core :=
  let g := x.ingAt p
  let lp := x.loopOf c
  let atLimit := match lp with
    | some l => (vget x.loops l.val {}).atLimit
    | none => false
  if atLimit then .error (match lp with | some l => .loop l c.h.word | none => .room)
  else if (bucketCeiling p).isSome && decide (g.bucket.level < 1024) then .error .bucket
  else
    let take (g : Ingress) : Ingress := { g with
      bucket := { g.bucket with level := g.bucket.level - 1024 }, admitted := g.admitted + 1, waiting := none }
    let key := if c.isMcast then mcKey else qKey c.h.ep c.h.vc
    let st := Sparse.getD g.qstat key {}
    let h := { c.h with ip := BitVec.ofNat 7 p, seq := BitVec.ofNat 4 st.admitted }
    let qs := Sparse.set g.qstat key { st with admitted := st.admitted + 1 }
    if !c.isMcast then
      match placeOf g.buf c.h.vc (x.classOf c) with
      | none => .error .room
      | some pl =>
        let y : Cell := { c with h := h, m := { c.m with loop := lp, since := slot + 1 } }
        let x := x.modIng p (fun g => { take g with buf := g.buf ++ [{ cell := y, place := pl }], qstat := qs })
        .ok (match lp with | some l => x.loopUp l | none => x)
    else if g.mcq.length < 64 then
      let mask := vget x.mgroups c.h.mc.toNat 0
      let n := ((List.range 128).filter (fun i => mask.getLsbD i)).length
      let y : Cell := { c with h := h, m := { c.m with loop := none, copy := some x.nextCopy, since := slot + 1 } }
      let x := x.modIng p (fun g => { take g with mcq := g.mcq ++ [{ cell := y, residue := mask }], qstat := qs })
      let x := { x with mcLive := Sparse.set x.mcLive x.nextCopy (n, lp), nextCopy := x.nextCopy + 1 }
      .ok (match lp with | some l => x.loopUp l | none => x)
    else .error .room

/-- Admit every copy, or none (R192). -/
def Core.admitAll (x : Core) (slot p : Nat) (cs : List Cell) : Except Wait Core :=
  match cs with
  | [] => .ok x
  | c :: r => match x.admitCell slot p c with
    | .ok y => y.admitAll slot p r
    | .error w => .error w

/-- Advance the RID counters of entries: from 255 to 1 (R190). -/
def Core.advRids (x : Core) (es : List (BitVec 8)) : Core :=
  es.foldl (fun x e => { x with rids := vmod x.rids e.toNat (fun r => if r = 255 then 1 else r + 1) }) x

/-- The port number of an ingress unit's element. -/
def elemOfPort (p : Nat) : ElemId := Fin.ofNat 32 (p - 48)

/-- Freeze the engine (R165, R361): job, tile and path in DETAIL, rows fired and the row in POS. -/
def State.freezeMe (s : State) (c : CoreId) (kind : BitVec 8) (job : Nat) (tile path : Bool) (row : Nat) (arg : BitVec 64) : State :=
  let m := (s.core c).me
  let s := s.modCore c (fun x => x.modMe (fun m => { m with frozen := some { kind := kind, arg := arg } }))
  s.record c kind (unitId c 1 0) (job % 8 + 8 * tile.toNat + 16 * path.toNat) (pos2 m.fired.toNat row) arg

/-- The job, tile and row of a refused cell of the drain path (R165, R361): the place that the job has in the queue, or had when it emitted the
row and has left since. A drain token has no row: the record then names the job whose rows the path emits. [log entry 118, DEDUCED] -/
def Me.emitting (m : Me) (row : Option (Nat × Bool × Nat)) : Nat × Bool × Nat :=
  let drains (j : MeJob) : Bool := j.kind == .drain || j.pass
  match row with
  | some z => z
  | none => match m.jobs.findIdx? drains with
    | some i => (match m.jobs[i]? with | some j => (i, j.tile, j.done) | none => (0, false, 0))
    | none => (0, false, 0)

def Rb.phaseCode (b : Rb) : Nat := match b.phase with | .idle => 0 | .input _ => 1 | .eval _ => 2 | .output _ => 3

/-- Freeze the Reedbed (R302, R361). R361's cells consumed are the input cells since launch, also where the load path faults, for which no rule says
which cells count; its record has the phase and the lane group of the run path and record index 0. ARG is 0 where no cell is at fault, lane group and
index are 0 outside EVAL. [log entry 131, DESIGN CHOICE] -/
def State.freezeRb (s : State) (c : CoreId) (kind : BitVec 8) (load : Bool) (record : Nat) (h : BitVec 64) : State :=
  let b := (s.core c).rb
  let g := match b.phase with | .eval g => g | _ => 0
  let s := s.modCore c (fun x => x.modRb (fun b => { b with frozen := some { kind := kind, arg := h } }))
  s.record c kind (unitId c 2 0) (b.phaseCode + 4 * (g % 8) + 32 * load.toNat) (pos2 record b.inCells.toNat) h

/-- A port freezes by R198 and its unit with it: an element (R127), the matrix engine (R165) or the Reedbed (R302), whose record it then
is, with the refused header. [log entry 118, DEDUCED] -/
def State.freezeUnit (s : State) (c : CoreId) (p : Nat) (kind : BitVec 8) (h : Header) (row : Option (Nat × Bool × Nat) := none) : State :=
  if 80 ≤ p ∧ p ≤ 87 then
    let j := (s.core c).me.emitting row
    s.freezeMe c kind j.1 j.2.1 true j.2.2 h.word
  else if 88 ≤ p ∧ p ≤ 91 then s.freezeRb c kind false 0 h.word
  else
    let s := if isElemPort p then
        s.modCore c (fun x => x.modElem (elemOfPort p) (fun y => { y with frozen := some { kind := kind, arg := h.word } }))
      else s
    s.record c kind (unitId c 0 p) p (pos2 ((s.core c).ingAt p).admitted 0) h.word

/-- Freeze an ingress port with PORT, or with ECC where a table has bad parity; the record holds the refused header (R198, R258). A source stream whose cell is refused freezes with its
port, and the record then names its slot (R227, R361). -/
def State.freezeIng (s : State) (c : CoreId) (p : Nat) (kind : BitVec 8) (h : Header) (strm : Option (StrmId × Nat) := none)
    (row : Option (Nat × Bool × Nat) := none) : State :=
  let s := s.modCore c (fun x => x.modIng p (fun g => { g with frozen := some { kind := kind, arg := h.word } }))
  match strm with
  | none => s.freezeUnit c p kind h row
  | some (k, _) =>
    let y := (s.core c).strms[k]
    let s := s.modCore c (fun x => x.modStrm k (fun z => { z with st := .frozen, fault := some (kind, 0) }))
    s.record c kind (unitId c 4 k.val) k.val (pos2 y.elems y.cells) h.word

/-- Freeze an element (R127): the entry's index and the select at fault go into the record's DETAIL (R361). -/
def State.freezeElem (s : State) (c : CoreId) (e : ElemId) (kind : BitVec 8) (entry field : Nat) (arg : BitVec 64) : State :=
  let el := (s.core c).elems[e]
  let s := s.modCore c (fun x => x.modElem e (fun y => { y with frozen := some { kind := kind, arg := arg } }))
  s.record c kind (unitId c 0 (48 + e.val)) (entry + 32 * field) (pos2 el.firings.toNat el.st.toNat) arg

/-- How often the cells of an offer will be delivered: a multicast cell once into each member's channel (R179, R218). -/
def Core.landings (x : Core) (cs : List Cell) : Nat :=
  cs.foldl (fun n y =>
    let mask := vget x.mgroups y.h.mc.toNat 0
    n + if y.isMcast then ((List.range 128).filter (fun i => mask.getLsbD i)).length else 1) 0

/-- What a port's unit learns when its offer is admitted as so many cells with so many deliveries to come: a source stream counts it
(R218), a waiting SCELL or TRC completes (R199, R339), and SDRAIN when its last token is in (R221). -/
def State.offerTaken (s : State) (c : CoreId) (o : Offer) (copies lands : Nat) : State :=
  let s := match o.cell.m.strm with
    | some (k, j) => s.modCore c (fun x => x.modStrm k (fun y => { y with admitted := y.admitted + 1, outLeft := Sparse.set y.outLeft j lands }))
    | none => s
  let s := match o.cell.m.rtn with
    | some (k, g) => s.modCore k (fun x => x.modStage g (fun y => { y with rtn := y.rtn + copies - 1 }))
    | none => s
  match o.who with
  | some t =>
    match (s.thr c t).st, (s.thr c t).pend with
    | .parked, .scell _ _ true => s.finish c t id
    | .parked, .trc => s.finish c t id
    | .parked, .sdrain =>
      let more := (s.core c).pendDrn.any (fun y => y.1 == t) ||
        (s.core c).ing.toList.any (fun g => g.obuf.any (fun o => o.who == some t))
      if more then s else s.finish c t id
    | _, _ => s
  | none => s

/-- Stage cells of a twin are counted from their admission at the source core (R317). -/
def State.countTwin (s : State) (c : CoreId) (cs : List Cell) : State :=
  cs.foldl (fun s y => match y.m.twin with
    | some (k, g) => if k = c then s.modCore k (fun x => x.modStage g (fun z => { z with twinCells := z.twinCells + 1 })) else s
    | none => s) s

/-- The first offer of a port: what stands ahead, then the output buffer. -/
def Ingress.first? (g : Ingress) : Option Offer := match g.ahead with | o :: _ => some o | [] => g.obuf.head?
def Ingress.dropFirst (g : Ingress) : Ingress :=
  match g.ahead with | _ :: r => { g with ahead := r } | [] => { g with obuf := g.obuf.drop 1 }

/-- Whether the sender of a peer edge may admit one more cell (R231): round r + 2 waits for the commit of round r. -/
def Edge.room (e : Edge) : Bool :=
  let n := 2 ^ e.rlog
  (e.total = 0 || decide (e.admitted < e.total)) && decide (e.admitted / n < e.committed + 2)

/-- Admission at a port (R173): the first offer is admitted when bucket, loop budget and buffer allow, once a slot. A fault of R198, and one of R258
in a route or VC table entry, is found where the cell is offered, before those tests [log entry 132, DEDUCED], and a VC table entry's parity by no other
reader [log entry 157, DESIGN CHOICE]. A refused cell is recorded as its entry fills it. [log entry 151, DESIGN CHOICE] A cell of an element whose route
entry comes to name a reserved port only after the firing is found here: port and element freeze (R11). [log entry 142, DESIGN CHOICE] -/
def State.admit1 (s : State) (c : CoreId) (p : Nat) : State :=
  let x := s.core c
  let g := x.ingAt p
  if g.frozen.isSome || g.took || inReserved p || (x.weirHalted && !x.weirCredit) then s
  else match g.first? with
    | none => s
    | some o =>
      if s.slot < o.since then s
      else if s.fatalAt (x.routeSpots c o) then s.freezeIng c p kECC o.cell.h o.cell.m.strm o.row
      else match x.resolve c o with
        | .fault => s.freezeIng c p kPORT (keyFor o { o.cell with h := x.failedHeader c o }).h o.cell.m.strm o.row
        | .peer k y adv =>
          if x.refused y then s.freezeIng c p kPORT y.h o.cell.m.strm o.row
          else match Sparse.get? x.edges k.val with
          | none => s
          | some ed =>
            if ed.room && !((bucketCeiling p).isSome && decide (g.bucket.level < 1024)) then
              let cell := { y with h := { y.h with ip := BitVec.ofNat 7 p }, far := none }
              let s := s.modCore c (fun x => ({ (x.modIng p (fun g => { g.dropFirst with
                took := true, admitted := g.admitted + 1, bucket := { g.bucket with level := g.bucket.level - 1024 } })) with
                edges := Sparse.set x.edges k.val { ed with admitted := ed.admitted + 1, outq := ed.outq ++ [cell] } } : Core).advRids adv)
              (s.offerTaken c o 1 1).oxConsumed o.cell
            else s
        | .copies cs adv =>
          match cs.find? (fun y => x.refused y) with
          | some bad => s.freezeIng c p kPORT bad.h o.cell.m.strm o.row
          | none =>
            if s.fatalAt (vcSpots c cs) then s.freezeIng c p kECC o.cell.h o.cell.m.strm o.row
            else match x.admitAll s.slot p cs with
            | .error (.loop l h) => s.modCore c (fun x => x.modIng p (fun g => { g with waiting := match g.waiting with
                | some w => if w.loop = l then some w else some { loop := l, since := s.slot, h := h }
                | none => some { loop := l, since := s.slot, h := h } }))
            | .error _ => s
            | .ok y =>
              let s := s.setCore c ((y.modIng p (fun g => { g.dropFirst with took := true })).advRids adv)
              (s.offerTaken c o cs.length (x.landings cs)).countTwin c cs

/-- The payload of the SCELL at the front of a SEQ port is read, whole and in one slot, once the thread's earlier pool stores are done
(R199); until then the offer waits. -/
def State.readyScell (s : State) (c : CoreId) (p : Nat) : State :=
  match ((s.core c).ingAt p).first? with
  | some o =>
    match o.who with
    | none => s
    | some t =>
      match (s.thr c t).pend with
      | .scell a h false =>
        if (s.core c).direct.any (fun d => d.t == t) then s
        else if s.poolBad a 256 then
          let s := s.modCore c (fun x => x.modIng p Ingress.dropFirst)
          s.trapAt c t kECC (accessEval a .read) (s.thr c t).pc
        else
          let y : Cell := { o.cell with data := BitVec.ofNat 2048 (Memory.readN s.pool a 256) }
          let s := s.softPool a 256
          s.modCore c (fun x => (x.modThr t (fun th => { th with pend := .scell a h true })).modIng p (fun g =>
            match g.ahead with
            | _ :: r => { g with ahead := { o with cell := y } :: r }
            | [] => { g with obuf := { o with cell := y } :: g.obuf.drop 1 }))
      | _ => s
  | none => s

/-- Whether the front of a port is an SCELL whose payload is not yet read. -/
def State.scellHeld (s : State) (c : CoreId) (p : Nat) : Bool :=
  match ((s.core c).ingAt p).first? with
  | some o => match o.who with
    | some t => match (s.thr c t).pend with
      | .scell _ _ false => true
      | _ => false
    | none => false
  | none => false

/-- CELL_ADMIT (R173). -/
def execCellAdmit (c : CoreId) (p : PortId) (s : State) : Out :=
  let s := s.readyScell c p.val
  .next (if s.scellHeld c p.val then s else s.admit1 c p.val)

/-! ## Matching (R175-R178) -/

/-- A queue head that asks to cross: its ingress, egress, cell, age, and whether it is the multicast head. -/
structure Req where
  inp   : Nat
  out   : Nat
  cell  : Cell
  age   : Nat
  role  : Nat
  urgent : Bool
  mcast : Bool
deriving DecidableEq, Repr

/-- Class of a request: URGENT above role 3 down to 0 (R176). -/
def Req.cls (r : Req) : Nat := if r.urgent then 4 else r.role

/-- The heads of an ingress port's unicast queues that can take part in this slot (R174). -/
def Ingress.heads (g : Ingress) (slot : Nat) : List Cell :=
  (g.buf.foldl (fun acc q =>
    if acc.any (fun y => y.h.ep == q.cell.h.ep && y.h.vc == q.cell.h.vc) then acc else acc ++ [q.cell]) []).filter
    (fun y => decide (y.m.since ≤ slot))

/-- The better of two heads of one ingress for one egress (R177): URGENT by age, then role, then age, then the lower VC. -/
def betterHead (a b : Req) : Bool :=
  if a.cls ≠ b.cls then decide (b.cls < a.cls)
  else if a.age ≠ b.age then decide (b.age < a.age)
  else if a.role ≠ b.role then decide (b.role < a.role)
  else decide (a.cell.h.vc.toNat ≤ b.cell.h.vc.toNat)

/-- The requests of an ingress port to the unmatched egress ports (R175, R177), by the space reports of the slot's start, x0 (R174). Where a unicast and a multicast head of one ingress ask for one
egress, R176 names no winner at the egress: between equals there the unicast request, listed first, is granted. [log entry 133, DESIGN
CHOICE] -/
def Core.requests (x0 x : Core) (slot p : Nat) (outs : List Nat) : List Req :=
  let g := x.ingAt p
  let lim := x.agelim.toNat
  let uni := (g.heads slot).filterMap (fun y =>
    let out := y.h.ep.toNat
    if outs.contains out && x0.space out y && x.fits out y then
      let age := (Sparse.getD g.qstat (qKey y.h.ep y.h.vc) {}).age
      some { inp := p, out := out, cell := y, age := age, role := x.roleOf y, urgent := decide (lim ≤ age), mcast := false : Req }
    else none)
  let best := uni.foldl (fun acc r =>
    match acc.find? (fun y => y.out == r.out) with
    | none => acc ++ [r]
    | some o => if betterHead o r then acc else acc.map (fun y => if y.out == r.out then r else y)) []
  let mc := match g.mcq with
    | [] => []
    | m :: _ =>
      if m.cell.m.since ≤ slot then
        ((List.range 128).filter (fun i => m.residue.getLsbD i && outs.contains i &&
          x0.space i { m.cell with h := { m.cell.h with ep := BitVec.ofNat 7 i } } &&
          x.fits i { m.cell with h := { m.cell.h with ep := BitVec.ofNat 7 i } })).map (fun i =>
            ({ inp := p, out := i, cell := m.cell, age := g.mcAge, role := x.roleOf m.cell,
               urgent := decide (lim ≤ g.mcAge), mcast := true } : Req))
      else []
  best ++ mc

/-- Distance of a port at or after a pointer, wrapping at 128 (R176). -/
def after (ptr : BitVec 7) (p : Nat) : Nat := (p + 128 - ptr.toNat) % 128

/-- The least element of a list by a measure. -/
def leastBy {α : Type} (f : α → Nat) (l : List α) : Option α :=
  l.foldl (fun acc y => match acc with | none => some y | some z => if f y < f z then some y else acc) none

/-- Choose among candidates of one class by R176: URGENT by age then the lower port; otherwise the first at or after the pointer. -/
def choose (cands : List Req) (ptr : Nat → BitVec 7) (port : Req → Nat) : Option Req :=
  let top := cands.foldl (fun m r => max m r.cls) 0
  let l := cands.filter (fun r => r.cls == top)
  if top = 4 then
    let oldest := l.foldl (fun m r => max m r.age) 0
    leastBy port (l.filter (fun r => r.age == oldest))
  else leastBy (fun r => after (ptr top) (port r)) l

/-- MXA0 and MXA1 share a channel (R143): where it has no place for both granted cells, MXA1 grants none in this pass. [log entry 107,
DESIGN CHOICE] -/
def Core.shareA (x : Core) (gr : List Req) : List Req :=
  match gr.find? (fun r => r.out == 80) with
  | none => gr
  | some _ => gr.filter (fun r => r.out != 81 || placeFor (x.classOf r.cell) (chanCap 80 - x.chanUsed 80 0 - 1))

/-- The grants of a pass: one for each requested egress port (R175, R176). -/
def Core.grants (x : Core) (reqs : List Req) : List Req :=
  x.shareA (((reqs.map (fun r => r.out)).eraseDups).filterMap (fun o =>
    choose (reqs.filter (fun r => r.out == o)) (fun cls => vget (x.egAt o).grant cls 0) (fun r => r.inp)))

/-- What an ingress port accepts of its grants: one unicast grant or all the grants of its multicast head (R175, R176). -/
def Core.accepts (x : Core) (gr : List Req) (p : Nat) : List Req :=
  let mine := gr.filter (fun r => r.inp == p)
  let mc := mine.filter (fun r => r.mcast)
  let uni := mine.filter (fun r => !r.mcast)
  let topU := uni.foldl (fun m r => max m r.cls) 0
  let topM := mc.foldl (fun m r => max m r.cls) 0
  if !mc.isEmpty && (uni.isEmpty || decide (topU ≤ topM)) then mc
  else match choose uni (fun cls => vget (x.ingAt p).accept cls 0) (fun r => r.out) with
    | some r => [r]
    | none => []

/-- The pointers that a pass-1 accept moves (R176). -/
def Core.movePointers (x : Core) (acc : List Req) : Core :=
  match acc with
  | [] => x
  | r :: _ =>
    if r.urgent then x
    else
      let low := acc.foldl (fun m y => min m y.out) 127
      let x := acc.foldl (fun x y => x.modEg y.out (fun g => { g with grant := vset g.grant r.role (BitVec.ofNat 7 (y.inp + 1)) })) x
      x.modIng r.inp (fun g => { g with accept := vset g.accept r.role (BitVec.ofNat 7 (low + 1)) })

/-- Carry the accepted cells of one ingress port: they are in flight to their egress ports (R174, R179). -/
def Core.carry (x : Core) (slot : Nat) (acc : List Req) : Core :=
  match acc with
  | [] => x
  | r :: _ =>
    if r.mcast then
      let x := acc.foldl (fun x y => x.modEg y.out (fun g => { g with
        flight := g.flight ++ [(slot, { y.cell with h := { y.cell.h with ep := BitVec.ofNat 7 y.out } })] })) x
      x.modIng r.inp (fun g => match g.mcq with
        | [] => g
        | m :: rest =>
          let res := acc.foldl (fun (b : BitVec 128) y => b &&& ~~~(1#128 <<< y.out)) m.residue
          if res = 0 then { g with mcq := rest, mcAge := 0, mcMoved := true }
          else { g with mcq := { m with residue := res } :: rest, mcMoved := true })
    else
      let x := x.modEg r.out (fun g => { g with flight := g.flight ++ [(slot, r.cell)] })
      x.modIng r.inp (fun g =>
        let key := qKey r.cell.h.ep r.cell.h.vc
        let st := Sparse.getD g.qstat key {}
        { g with
          buf := g.buf.eraseP (fun q => q.cell.h.ep == r.cell.h.ep && q.cell.h.vc == r.cell.h.vc)
          qstat := Sparse.set g.qstat key { st with moved := true } })

/-- One pass over the ports still unmatched (R175). -/
def Core.pass (x0 x : Core) (slot : Nat) (first : Bool) (ins outs : List Nat) : Core × List Nat × List Nat :=
  let reqs := ins.flatMap (fun p => Core.requests x0 x slot p outs)
  let gr := x.grants reqs
  let acc := ((gr.map (fun r => r.inp)).eraseDups).map (fun p => x.accepts gr p)
  let y := acc.foldl (fun y a => y.carry slot a) x
  let y := if first then acc.foldl (fun y a => y.movePointers a) y else y
  (y, ins.filter (fun p => !acc.any (fun a => a.any (fun r => r.inp == p))),
    outs.filter (fun o => !acc.any (fun a => a.any (fun r => r.out == o))))

/-- The three passes of a slot (R175), without the ingress ports that are shut; x0 is the core at the slot's start. -/
def Core.matchSlot (x0 x : Core) (slot : Nat) (shut : List Nat := []) : Core :=
  let ins := (List.range 128).filter (fun p => let g := x.ingAt p; (!g.buf.isEmpty || !g.mcq.isEmpty) && !shut.contains p)
  let outs := (List.range 128).filter (fun o => !(x.egAt o).flight.any (fun y => y.1 == slot))
  let (x, ins, outs) := Core.pass x0 x slot true ins outs
  let (x, ins, outs) := Core.pass x0 x slot false ins outs
  (Core.pass x0 x slot false ins outs).1

/-- The copies that a multicast queue's head still owes (R179), each with its member's port. -/
def Ingress.mcHeads (g : Ingress) (slot : Nat) : List Cell :=
  match g.mcq with
  | [] => []
  | m :: _ =>
    if m.cell.m.since ≤ slot then
      ((List.range 128).filter (fun i => m.residue.getLsbD i)).map (fun i =>
        { m.cell with h := { m.cell.h with ep := BitVec.ofNat 7 i } })
    else []

/-- Queue heads for element ports, multicast ones included, whose active map holds V = 0 for their VC (R275). -/
def Core.unmapped (x : Core) (slot : Nat) : List (ElemId × Header) :=
  (List.range 128).flatMap (fun p => ((x.ingAt p).heads slot ++ (x.ingAt p).mcHeads slot).filterMap (fun y =>
    let ep := y.h.ep.toNat
    if isElemPort ep && (x.chanOf? ep y.h).isNone && x.elems[elemOfPort ep].frozen.isNone && !(x.egAt ep).holds y then
      some (elemOfPort ep, y.h)
    else none))

/-- The ingress ports with a head whose VC's entry has bad parity, with its header: matching would read its role there (R176, R258). -/
def State.vcShut (s : State) (c : CoreId) : List (Nat × Header) :=
  if s.ecc.spots.isEmpty then []
  else (List.range 128).filterMap (fun p =>
    (((((s.core c).ingAt p).heads s.slot ++ ((s.core c).ingAt p).mcHeads s.slot).find? (fun y => s.fatalAt (vcSpots c [y])))).map (fun y => (p, y.h)))

/-- WEIR_MATCH: a port that would read a VC table entry with bad parity freezes (R258); the slot's matching; then an element whose map does not take a waiting head freezes with PORT (R175, R275). -/
def execWeirMatch (c : CoreId) (s : State) : Out :=
  let x := s.core c
  if x.weirHalted && !x.weirCredit then .next s
  else
    let bad := x.unmapped s.slot
    let shut := s.vcShut c
    let s := shut.foldl (fun s y => if ((s.core c).ingAt y.1).frozen.isSome then s else s.freezeIng c y.1 kECC y.2) s
    let s := s.setCore c (Core.matchSlot (s.atStart.core c) (s.core c) s.slot (shut.map (fun y => y.1)))
    .next (bad.foldl (fun s y =>
      if (s.core c).elems[y.1].frozen.isSome then s else s.freezeElem c y.1 kPORT 0 6 y.2.word) s)

/-! ## Delivery (R174, R182-R184) -/

/-- A source stream learns that a copy of its cell stands in its destination channel (R218). -/
def State.strmDelivered (s : State) (c : CoreId) (y : Cell) : State :=
  match y.m.strm with
  | none => s
  | some (k, j) => s.modCore c (fun x => x.modStrm k (fun z =>
      match Sparse.get? z.outLeft j with
      | none => z
      | some n =>
        if n ≤ 1 then
          let z := { z with outLeft := Sparse.erase z.outLeft j, cells := z.cells + 1 }
          if z.cells = z.ncells ∧ z.ncells ≠ 0 then { z with doneAt := some s.slot } else z
        else { z with outLeft := Sparse.set z.outLeft j (n - 1) }))

/-- Freeze a rendezvous port (R184). -/
def State.freezeRdv (s : State) (c : CoreId) (p : Nat) (bad : Option Cell) : State :=
  let g := (s.core c).egAt p
  let rid := match g.rdv with | r :: _ => r.rid.toNat | [] => 0
  let h : BitVec 64 := match bad with | some y => y.h.word | none => 0
  let s := s.modCore c (fun x => x.modEg p (fun g => { g with frozen := some { kind := kRDV, arg := h }, badCell := bad }))
  s.record c kRDV (unitId c 0 p) rid (pos2 g.rdvRel 0) h

/-- An operand enters the rendezvous buffer: it opens a set, joins its set, or is refused (R183, R184). A set can be released from the
slot after its last operand's delivery (R174, R182). -/
def State.rdvDeliver (s : State) (c : CoreId) (p : Nat) (y : Cell) : State :=
  let g := (s.core c).egAt p
  match g.rdv.find? (fun r => r.rid == y.h.rid) with
  | none =>
    let y : Cell := { y with m := { y.m with since := s.slot + 1 } }
    s.modCore c (fun x => x.modEg p (fun g => { g with rdv := g.rdv ++ [{ rid := y.h.rid, opn := y.h.opn, ops := [y] }] }))
  | some r =>
    let y : Cell := { y with m := { y.m with since := s.slot + 1 } }
    if r.opn ≠ y.h.opn || r.ops.any (fun z => z.h.opx == y.h.opx) then s.freezeRdv c p (some y)
    else s.modCore c (fun x => x.modEg p (fun g => { g with
      rdv := g.rdv.map (fun q => if q.rid == y.h.rid then { q with ops := q.ops ++ [y] } else q) }))

/-- Append a cell to a channel; it can be acted on from the next slot. -/
def Core.pushChan (x : Core) (slot p ch : Nat) (y : Cell) : Core :=
  x.modEg p (fun g => g.modChan ch (fun q => { q with
    cells := q.cells ++ [{ y with m := { y.m with since := slot + 1 } }], fed := some (Fin.ofNat 128 y.h.ip.toNat) }))

/-- One matched cell lands (R174): in the hold queue, the rendezvous buffer, or its channel; at a NET or STORE channel that is its
consumption (R186), but a routine's cell that leaves the core is counted until its consumption there (R311, R315). [log entry 58, DEDUCED;
log entry 109, DEDUCED] -/
def State.land (s : State) (c : CoreId) (p : Nat) (y : Cell) : State :=
  let x := s.core c
  let g := x.egAt p
  let s := s.strmDelivered c y
  if g.holds y then s.modCore c (fun x => x.modEg p (fun g => { g with hold := g.hold ++ [y] }))
  else if y.m.spl ∧ y.h.tag = tRDE ∧ isElemPort p then s.modCore c (fun x => x.modEg p (fun g => { g with rdeIn := some y }))
  else if y.inSet && isElemPort p then s.rdvDeliver c p y
  else if isNetPort p || isStorePort p then
    let on := isNetPort p && y.m.copy.isNone
    (s.modCore c (fun x => x.pushChan s.slot p 0 { y with m := { y.m with
      loop := none, copy := none, rtn := if on then y.m.rtn else none } })).consume c
        { y with m := { y.m with twin := none, rtn := if on then none else y.m.rtn } }
  else
    match x.chanOf? p y.h with
    | some ch => s.modCore c (fun x => x.pushChan s.slot (chanPort p) ch y)
    | none => s

/-- Whether a matched cell stands before an element port whose map, swapped since, holds V = 0 for its VC: it is delivered to no channel
(R275). [log entry 108, DEDUCED] -/
def Core.strayed (x : Core) (p : Nat) (y : Cell) : Bool :=
  isElemPort p && (x.chanOf? p y.h).isNone && !(x.egAt p).holds y

/-- The cells of port p that land in this slot, each with the slot of its match: the map of its element takes them (R174, R275). -/
def Core.dueAt (x : Core) (slot p : Nat) : List (Nat × Nat × Cell) :=
  ((x.egAt p).flight.filter (fun y => decide (y.1 < slot) && !x.strayed p y.2)).map (fun y => (y.1, p, y.2))

/-- Put a cell behind those matched in its slot or before. -/
def insDue (z : Nat × Nat × Cell) : List (Nat × Nat × Cell) → List (Nat × Nat × Cell)
  | [] => [z]
  | w :: r => if w.1 ≤ z.1 then w :: insDue z r else z :: w :: r

/-- The ports whose cells land together with those of port p: MXA0 and MXA1 feed one channel (R143). -/
def Core.landsWith (x : Core) (p : Nat) : List Nat :=
  if p = 80 ∨ p = 81 then [80, 81].filter (fun q => (x.egAt q).frozen.isNone) else [p]

/-- The due cells of some ports land, those of one slot in the order of the ports (R143, R174). -/
def State.deliver (s : State) (c : CoreId) (ps : List Nat) : State :=
  let due := ps.foldl (fun l q => ((s.core c).dueAt s.slot q).foldl (fun l z => insDue z l) l) []
  let s := ps.foldl (fun s q => s.modCore c (fun x => x.modEg q (fun g => { g with
    flight := g.flight.filter (fun y => !decide (y.1 < s.slot) || x.strayed q y.2) }))) s
  due.foldl (fun s y => s.land c y.2.1 y.2.2) s

/-- CELL_DELIVERY: the cells matched to a port in an earlier slot land, the oldest first (R174); one that its element's map does not take
stays outside, and the element freezes (R275). -/
def execCellDelivery (c : CoreId) (p : PortId) (s : State) : Out :=
  if ((s.core c).egAt p.val).frozen.isSome then .next s
  else
    let s := s.deliver c ((s.core c).landsWith p.val)
    match ((s.core c).egAt p.val).flight.find? (fun y => decide (y.1 < s.slot) && (s.core c).strayed p.val y.2) with
    | some y =>
      .next (if (s.core c).elems[elemOfPort p.val].frozen.isSome then s else s.freezeElem c (elemOfPort p.val) kPORT 0 6 y.2.h.word)
    | none => .next s

/-- A cell that comes into a channel from a set or a hold queue: its place stands in the report from the next slot on (R174). -/
def Core.putCell (x : Core) (slot p ch : Nat) (y : Cell) : Core :=
  (x.pushChan slot p ch y).modEg p (fun g => g.modChan ch (fun q => { q with put := q.put + 1 }))

/-- A set's operands stand in their channels, its RID and places in the report until the next slot (R174, R182). -/
def Core.putSet (x : Core) (slot p : Nat) (ops : List Cell) : Core :=
  ops.foldl (fun x y => x.putCell slot p y.h.opx.toNat y) x

/-- RDV_SET_RELEASE: the oldest open set, when complete and every channel it uses has a free place for its operand's class (R172, R182). -/
def execRdvSetRelease (c : CoreId) (e : ElemId) (s : State) : Out :=
  let p := 48 + e.val
  let x := s.core c
  let g := x.egAt p
  match g.frozen, g.rdv with
  | none, r :: rest =>
    let full := decide (r.ops.length = r.opn.toNat + 1) && r.ops.all (fun y => decide (y.m.since ≤ s.slot))
    let room := r.ops.all (fun y => x.roomNow p y.h.opx.toNat y)
    if full && room then
      .next (s.modCore c (fun x => (x.modEg p (fun g => { g with
        rdv := rest, rdvRel := g.rdvRel + 1, rdvStall := 0, rdvGone := r.rid :: g.rdvGone })).putSet s.slot p r.ops))
    else .next s
  | _, _ => .next s

/-- RDV_STALL_FAULT: no set released for 4 * AGELIM slots while all 32 were open (R184). -/
def execRdvStallFault (c : CoreId) (e : ElemId) (s : State) : Out :=
  let p := 48 + e.val
  let x := s.core c
  let g := x.egAt p
  if g.frozen.isNone && g.rdv.length == 32 && decide (4 * x.agelim.toNat ≤ g.rdvStall) then .next (s.freezeRdv c p none)
  else .next s

/-- What an ingress port waits for: a loop budget for which its first offer, as its route entry now resolves it, would be admitted (R187). A port frozen
for another reason waits for none. -/
def Core.waitsFor (x : Core) (c : CoreId) (p : Nat) : Option LoopWait :=
  let g := x.ingAt p
  match g.frozen, g.waiting, g.first? with
  | none, some w, some o => match x.resolve c o with
    | .copies cs _ => if cs.any (fun y => x.loopOf y == some w.loop) && !cs.any (fun y => x.refused y) then some w else none
    | _ => none
  | _, _, _ => none

/-- LOOP_FAULT: a budget's stall count reaches 4 * AGELIM, and the ports that wait on it freeze (R187). -/
def execLoopFault (c : CoreId) (l : LoopId) (s : State) : Out :=
  let x := s.core c
  let b := vget x.loops l.val {}
  if !b.frozen && decide (4 * x.agelim.toNat ≤ b.stall) then
    let waits (p : Nat) : Option LoopWait := (x.waitsFor c p).filter (fun w => w.loop == l)
    let ports := (List.range 128).filter (fun p => (waits p).isSome)
    let h : BitVec 64 := match leastBy (fun (w : LoopWait) => w.since) (ports.filterMap waits) with
      | some w => w.h
      | none => 0
    let s := s.modCore c (fun x => (ports.foldl (fun x p => x.modIng p (fun g => { g with
      frozen := some { kind := kLOOP, arg := h } })) x).modLoop l.val (fun b => { b with frozen := true }))
    .next (s.record c kLOOP (unitId c 7 l.val) l.val (pos2 b.inflight b.budget.toNat) h)
  else .next s

/-! ## Mailboxes (R242) -/

/-- MAILBOX_DELIVERY: the head of a SEQ channel enters the mailbox of thread 4 * KEY[1:0] + q, sets EV and wakes a parked reader. The
cell keeps its place in the channel until the thread pops it. -/
def execMailboxDelivery (c : CoreId) (q : Fin 4) (s : State) : Out :=
  let p := 118 + q.val
  match (s.core c).head? s.slot p 0 with
  | none => .next s
  | some y =>
    let t : Tid := Fin.ofNat 16 (4 * (y.h.key.toNat % 4) + q.val)
    let s := s.modCore c (fun x => x.modEg p (fun g => g.modChan 0 (fun k => { k with cells := k.cells.drop 1 })))
    let s := s.modThr c t (fun th => { th with mailbox := th.mailbox ++ [y] })
    match (s.thr c t).st, (s.thr c t).pend with
    | .parked, .mailbox d off =>
      let v := ((s.thr c t).mailWindow? off).getD 0
      .next (s.modThr c t (fun th => { ((th.wr d v).next.wake s.slot) with ev := true }))
    | _, _ => .next (s.modThr c t (fun th => th.setEv s.slot))

/-! ## The crossbar and the ring (R14, R15, R181, R194) -/

/-- The neighbouring cluster a ring port leads to (R14). -/
def ringTo (k : ClusterId) (i : Nat) : ClusterId := if i < 200 then k + 1 else k + 3

/-- The cell that arrives at a far core (R194). -/
def arrived (y : Cell) : Cell :=
  match y.far with
  | some f => { y with
      h := { y.h with ep := f.port, vc := f.vc, mc := 0 }, far := none
      m := { rtn := y.m.rtn, twin := y.m.twin, spl := y.m.spl, fwd := y.m.fwd } }
  | none => { y with m := {} }

/-- The crossbar port of a core's NET port (R14). -/
def xbarPort (c : CoreId) (n : Nat) : Nat := 12 * c.inCluster.val + n

/-- The ring link of a cell that leaves core c by NET port n (R15). -/
def ringLink (c : CoreId) (n : Nat) : Nat := xbarPort c n % 8

/-- Whether a cell from core c for another cluster travels towards CLUSTER + 1: the shorter way, and by the source's CORE to the opposite
one (R15). -/
def ringUp (c : CoreId) (k : ClusterId) : Bool :=
  if c.cluster + 1 = k then true
  else if c.cluster + 3 = k then false
  else c.inCluster.val % 2 == 0

/-- The port by which a unicast cell of core c and NET port n leaves the crossbar of cluster k: the far core's NET port of the same number,
or the ring link of its direction, which keeps its number (R14, R15, R194). -/
def xbarOut (c : CoreId) (n : Nat) (k : ClusterId) (d : CoreId) : Nat :=
  if d.cluster = k then xbarPort d n
  else if ringUp c d.cluster then 192 + ringLink c n else 200 + ringLink c n

/-- The port by which a cell enters the next cluster when it left by ring port i (R14). -/
def ringIn (i : Nat) : Nat := if i < 200 then i + 8 else i - 8

/-- CROSSBAR_ARRIVAL: the oldest cell that leaves the crossbar by a core's NET port is offered there, one in a slot, to be admitted afresh
(R14, R194). Cells that entered by different ports come in the order in which they entered, and the port's unit keeps 4 cells at
most; the spec gives no such order and no such depth. [log entry 19, DESIGN CHOICE] -/
def execCrossbarArrival (c : CoreId) (n : Fin 12) (s : State) : Out :=
  let due (y : XCell) : Bool := y.here == c.cluster && y.outp == xbarPort c n.val && decide (y.since ≤ s.slot)
  match s.xbar.find? due with
  | none => .next s
  | some y =>
    if (s.core c).obufFree (96 + n.val) = 0 || ((s.core c).ingAt (96 + n.val)).came then .next s
    else
      let s := { s with xbar := s.xbar.eraseP due }
      .next (s.modCore c (fun x => (x.offer (96 + n.val) { cell := y.cell }).modIng (96 + n.val) (fun g => { g with came := true })))

/-- The copies of a multicast cell by a cluster's group: one for every NET port of the mask, and, where ring is set, one over the link of
R15 for every ring port; the port it entered by takes none (R181). [log entry 110, DEDUCED] -/
def xbarCopies (y : XCell) (k : ClusterId) (mask : BitVec 224) (ring : Bool) (since : Nat) : List XCell :=
  ((List.range (if ring then 208 else 192)).filter (fun i => mask.getLsbD i && i != y.inp)).map (fun i =>
    { y with
      here := k, since := since
      outp := if i < 192 then i else if i < 200 then 192 + ringLink y.src y.net.val else 200 + ringLink y.src y.net.val
      cell := { y.cell with far := none, m := {} } })

/-- Whether a task owns a cluster's group (R181). -/
def XGroup.ownedBy (g : XGroup) (t : Option TaskId) : Bool := g.mask != 0 && g.owner.isSome && g.owner == t

/-- A NET egress unit takes its channel's head: a drain token crosses the port's boundary (R21, R262), and the count of the cells that it
has handed over rises. -/
def State.netTake (s : State) (c : CoreId) (n : Nat) (y : Cell) : State :=
  s.modCore c (fun x =>
    let x := (x.takeHead (96 + n) 0).modEg (96 + n) (fun g => { g with handed := g.handed + 1 })
    if y.h.tag = tDRN then (x.modEg (96 + n) (fun g => { g with passes := g.passes + 1 })).cross (96 + n) else x)

/-- CROSSBAR_FANOUT: the multicast head of a NET channel enters the crossbar and is copied by the cluster's group of its number; a group
that the task does not own freezes the port with PORT (R16, R181). -/
def execCrossbarFanout (c : CoreId) (n : Fin 12) (s : State) : Out :=
  let p := 96 + n.val
  match (s.core c).head? s.slot p 0 with
  | none => .next s
  | some y =>
    if y.h.mc = 0 ∨ ((s.core c).egAt p).frozen.isSome ∨ (((s.core c).egAt p).chan 0).moved then .next s
    else
      let g : XGroup := vget s.xgroups[c.cluster] y.h.mc.toNat {}
      if g.ownedBy (s.core c).task then
        let z : XCell := { src := c, net := n, task := (s.core c).task, here := c.cluster, inp := xbarPort c n.val, outp := 0, cell := y }
        let s := (s.netTake c n.val y).oxConsumed y
        .next { s with xbar := s.xbar ++ xbarCopies z c.cluster g.mask true (s.slot + 1) }
      else
        let s := s.modCore c (fun x => x.modEg p (fun g => { g with frozen := some { kind := kPORT, arg := y.h.word } }))
        .next (s.record c kPORT (unitId c 0 p) p (pos2 ((s.core c).egAt p).handed 0) y.h.word)

/-- A NET port hands its unicast head to the crossbar, one in a slot and at most 16 of its cells there at once (R14, R194); a DRN
crosses the port's boundary (R21, R262). [log entry 19, DESIGN CHOICE] -/
def State.netForward (s : State) (c : CoreId) (n : Nat) : State :=
  let p := 96 + n
  match (s.core c).head? s.slot p 0 with
  | none => s
  | some y =>
    match y.far with
    | none => s
    | some f =>
      if y.h.mc ≠ 0 || ((s.core c).egAt p).frozen.isSome || (((s.core c).egAt p).chan 0).moved ||
          decide (16 ≤ (s.xbar.filter (fun z => z.src == c && z.net.val == n)).length) then s
      else
        let s := s.netTake c n y
        { s with xbar := s.xbar ++ [{
          src := c, net := Fin.ofNat 12 n, task := (s.core c).task, here := c.cluster, inp := xbarPort c n
          outp := xbarOut c n c.cluster f.core, since := s.slot + 1, dst := some f.core, cell := arrived y }] }

/-- A cell goes over a ring link to the next cluster (R15). A multicast copy is copied there by that cluster's group, over no further
ring port; where its task does not own the group it is discarded, with a PORT record of the sending core's crossbar (R181). -/
def State.ringHop (s : State) (y : XCell) : State :=
  let k := ringTo y.here y.outp
  let z : XCell := { y with here := k, inp := ringIn y.outp, since := s.slot + 1 }
  match y.dst with
  | some d => { s with xbar := s.xbar ++ [{ z with outp := xbarOut y.src y.net.val k d }] }
  | none =>
    let g : XGroup := vget s.xgroups[k] y.cell.h.mc.toNat {}
    if g.ownedBy y.task then { s with xbar := s.xbar ++ xbarCopies z k g.mask false (s.slot + 1) }
    else s.record y.src kPORT (unitId y.src 14 0) (96 + y.net.val) (pos2 0 0) y.cell.h.word

/-- The cells that cross one ring port in a slot: the first two that leave by it (R14, R15). -/
def State.ringCells (s : State) (k : ClusterId) (i : Nat) : List XCell :=
  (s.xbar.filter (fun y => y.here == k && y.outp == i && decide (y.since ≤ s.slot))).take 2

/-- The ring ports of every cluster carry their cells at the end of the slot (R14, R15). R394 leaves the time of a hop open: here it is one slot,
of every cell and at every slot's end, whatever the schedule. [log entry 19, DESIGN CHOICE] -/
def State.ringTick (s : State) : State :=
  let go := (List.finRange 4).flatMap (fun k => (List.range 16).flatMap (fun j => s.ringCells k (192 + j)))
  go.foldl (fun s y => ({ s with xbar := s.xbar.erase y } : State).ringHop y) s

/-- What a task's cells and groups in the crossbars come to at its end: its cells are discarded (R355), the masks of its groups become zero,
and their owner none (R181). -/
def State.leaveXbar (s : State) (id : TaskId) : State :=
  { s with
    xbar := s.xbar.filter (fun y => y.task != some id)
    xgroups := s.xgroups.map (fun l => l.map (fun g => if g.owner = some id then {} else g)) }

end Sys2Proof.Machine
end

