-- ==== Sys2Proof/Machine/Sys.lean ====
section
/-! DEFINITION. The SYS forms that act on the thread and its special registers (R106-R111), the watchdog and bucket windows (R85, R86,
R90), the fences (R250), the page walk of a thread (R253), and an illegal word (R59). -/

namespace Sys2Proof.Machine

/-! ## NOP, TRAP, BRK, ERET, WFE -/

def execNop (s : State) : Out := .next s.skip

/-- TRAP: TRAPI with the immediate; EPC names the next word (R103, R106). -/
def execTrap (i : BitVec 10) (s : State) : Out := .next (s.trapAt s.cur.1 s.cur.2 kTRAPI (i.setWidth 64) (s.me.pc + 4))

/-- BRK: TRAPI with EVAL[10] when BE is 1, else a NOP (R106). -/
def execBrk (i : BitVec 10) (s : State) : Out :=
  .next (if s.me.be then s.trapAt s.cur.1 s.cur.2 kTRAPI (i.setWidth 64 ||| 0x400) (s.me.pc + 4) else s.skip)

/-- ERET, a controller form (R107). -/
def execEret (s : State) : Out := .next (s.controller .eret (s.modMe Thread.eret))

/-- WFE: clears EV and goes on, or parks until EV is set (R109). -/
def execWfe (s : State) : Out :=
  .next (if s.me.ev then s.modMe (fun t => { t.next with ev := false }) else s.parkMe .wfe)

/-- A word that no form takes (R59). -/
def execIllDecode (w : BitVec 32) (s : State) : Out := .next (s.trap kILL (illEval w.toNat 0))

/-! ## Special registers (R63, R82, R111) -/

/-- The registers of R63 that only controller mode reads. -/
def sregController (r : BitVec 5) : Bool := 16 ≤ r.toNat && r.toNat ≤ 19

/-- SPILL of the port last selected (R85). -/
def Core.spill (x : Core) (p : Nat) : Word :=
  if (bucketCeiling p).isSome then
    let b := (x.ingAt p).bucket
    BitVec.ofNat 64 (p + 256 * b.rate + 2 ^ 32 * b.depth + 2 ^ 48 * (b.level / 1024))
  else BitVec.ofNat 64 p

/-- WDOG of a core's task; a free core keeps the last value of the task that it had, until the scrub (R356). -/
def State.wdogOf (s : State) (c : CoreId) : Nat :=
  match s.taskOf c with | some t => t.wdog | none => (match (s.core c).lastTask with | some y => y.2 | none => 0)

/-- CLOCK of a core's task (R82); an ended task keeps its last value, also when its cores are free, until the scrub (R356). -/
def State.clockOf (s : State) (c : CoreId) : Nat :=
  match s.taskOf c with | some t => t.clock s.slot | none => (match (s.core c).lastTask with | some y => y.1 | none => 0)

/-- What MFS reads (R82); a bucket's level is that of the slot's start (R326). -/
def State.readSreg (s : State) (r : BitVec 5) : Word :=
  let c := s.cur.1
  let x := s.core c
  let t := s.me
  match r.toNat with
  | 0 => BitVec.ofNat 64 s.cur.2.val
  | 1 => BitVec.ofNat 64 c.inCluster.val
  | 2 => BitVec.ofNat 64 c.cluster.val
  | 3 => match x.task with | some id => id.setWidth 64 | none => 0
  | 4 => (s.tenantOf c).setWidth 64
  | 5 => t.role.setWidth 64
  | 6 => BitVec.ofNat 64 (s.clockOf c)
  | 7 => s.time
  | 8 => x.tb
  | 9 => t.status
  | 10 => t.epc.setWidth 64
  | 11 => t.ecause.setWidth 64
  | 12 => t.eval
  | 16 => x.agelim.setWidth 64
  | 17 => BitVec.ofNat 64 (x.ptbase.toNat * 2 ^ 16)
  | 18 => (s.atStart.core c).spill x.spillSel.toNat
  | 19 => BitVec.ofNat 64 (s.wdogOf c)
  | _ => 0

/-- MFS (R111): ILL 0 for a reserved number, ILL 1 for a controller register in task mode. -/
def execMfs (d r : BitVec 5) (s : State) : Out :=
  .next (
    if !sregListed r then s.ill (.mfs d r) 0
    else if sregController r && !s.me.cm then s.ill (.mfs d r) 1
    else s.put d (s.readSreg r))

/-- The bits of EVAL that R105 uses. [log entry 25, DEDUCED] -/
def evalMask : Word := 0x037FFFFFFFFFFFFF

/-- A register that MTS writes whole, without a row of its own (R82, R84). [log entry 25, DEDUCED] -/
def Core.writeSreg (x : Core) (t : Tid) (r : BitVec 5) (v : Word) : Core :=
  match r.toNat with
  | 5 => x.modThr t (fun y => { y with role := v.setWidth 2 })
  | 9 => x.modThr t (fun y => y.setStatus v)
  | 10 => x.modThr t (fun y => { y with epc := vaOf v &&& ~~~3 })
  | 11 => x.modThr t (fun y => { y with ecause := v.setWidth 8 })
  | 12 => x.modThr t (fun y => { y with eval := v &&& evalMask })
  | 17 => { x with ptbase := BitVec.ofNat 28 (getBits v 16 28) }
  | _ => x

/-- The registers that MTS never writes (R63). -/
def sregReadOnly (r : BitVec 5) : Bool := r.toNat ≤ 4 || r.toNat = 6 || r.toNat = 8

/-- The cause of R60 that an MTS of register r raises in a mode, or none. -/
def mtsCause (r : BitVec 5) (cm : Bool) : Option Nat :=
  if sregReadOnly r then some 2
  else if cm || r = 9 then none
  else if sregController r then some 1
  else some 2

/-- MTS of a register without a row of its own (R111). -/
def execMts (a r : BitVec 5) (s : State) : Out :=
  .next (
    if !sregListed r then s.ill (.mts a r) 0
    else match mtsCause r s.me.cm with
      | some k => s.ill (.mts a r) k
      | none => (s.modCore s.cur.1 (fun x => x.writeSreg s.cur.2 r (s.me.rd a))).skip)

/-- REG_WRITE: the write itself (R4, R82). -/
def execRegWrite (c : CoreId) (t : Tid) (r : BitVec 5) (v : Word) (s : State) : Out :=
  .next (s.modCore c (fun x => x.writeSreg t r v))

/-- MTS TIME steps the module's time in one slot (R82, R370). -/
def execMtsTime (a : BitVec 5) (s : State) : Out :=
  .next (match mtsCause 7 s.me.cm with
    | some k => s.ill (.mtsTime a) k
    | none => ({ s with timeStep := some (s.me.rd a) }).skip)

/-- AGELIM's clamp (R90). -/
def clampAgelim (v : Nat) : BitVec 16 := BitVec.ofNat 16 (if v < 16 then 16 else v)

/-- MTS AGELIM, for the next clock's arbitration (R90). -/
def execMtsAgelim (a : BitVec 5) (s : State) : Out :=
  .next (match mtsCause 16 s.me.cm with
    | some k => s.ill (.mtsAgelim a) k
    | none => (s.modCore s.cur.1 (fun x => { x with agelimNext := some (clampAgelim ((s.me.rd a).toNat % 65536)) })).skip)

/-- A bucket with a new rate and depth, each below the port's ceiling, from the next slot (R85, R188). -/
def Bucket.write (b : Bucket) (p rate depth : Nat) : Bucket :=
  match bucketCeiling p with
  | none => b
  | some (rc, dc) =>
    let r := min rate rc
    let d := min (max depth 1) dc
    { b with late := some (r, d) }

/-- MTS SPILL (R85): selects the port, and writes its bucket when it injects. -/
def execMtsSpill (a : BitVec 5) (s : State) : Out :=
  .next (match mtsCause 18 s.me.cm with
    | some k => s.ill (.mtsSpill a) k
    | none =>
      let v := s.me.rd a
      let p := getBits v 0 7
      (s.modCore s.cur.1 (fun x => { (x.modIng p (fun g => { g with bucket := g.bucket.write p (getBits v 8 11) (getBits v 32 16) }))
        with spillSel := BitVec.ofNat 7 p })).skip)

/-- MTS WDOG: the smaller of Ga and the record's cycle limit, from the next slot (R86). -/
def execMtsWdog (a : BitVec 5) (s : State) : Out :=
  .next (match mtsCause 19 s.me.cm with
    | some k => s.ill (.mtsWdog a) k
    | none =>
      match s.taskOf s.cur.1 with
      | some t => (s.modTask t.lrec.id (fun y => { y with wdogNext := some (min (s.me.rd a).toNat y.lrec.limit) })).skip
      | none => s.skip)

/-! ## Fences (R250) -/

/-- The cells of round r of an edge end (R231): 2^n, or what is left of TOTAL. -/
def Edge.roundLen (e : Edge) (r : Nat) : Nat :=
  let n := 2 ^ e.rlog
  if e.total = 0 then n else min n (e.total - r * n)

/-- Whether every cell of round r has landed (R232). -/
def Edge.whole (e : Edge) (r : Nat) : Bool :=
  let n := 2 ^ e.rlog
  decide (0 < e.roundLen r) &&
    decide ((e.landed.filter (fun y => decide (r * n ≤ y.1 ∧ y.1 < r * n + e.roundLen r))).length = e.roundLen r)

/-- The rounds that stand whole in the core's receiving edge ends: slot, round, and the voids until now. -/
def Core.wholeRounds (x : Core) : List (Nat × Nat × Nat) :=
  x.edges.flatMap (fun y =>
    if y.2.send then []
    else ([y.2.committed, y.2.committed + 1].filter (fun r => y.2.whole r)).map (fun r => (y.1, r, Sparse.getD y.2.voids r 0)))

/-- Whether this round of a fence has been committed or voided. -/
def Core.roundOver (x : Core) (y : Nat × Nat × Nat) : Bool :=
  match Sparse.get? x.edges y.1 with
  | none => true
  | some e => decide (y.2.1 < e.committed) || decide (Sparse.getD e.voids y.2.1 0 ≠ y.2.2)

/-- The die of a physical address (R234). -/
def dieOf (pa : Nat) : Nat := pa / 2 ^ 38 % 4

/-- The condition of a FENCE's scope for a thread (R250). -/
def Core.fenceMet (x : Core) (c : CoreId) (t : Tid) (sc : Scope) (rounds : List (Nat × Nat × Nat)) : Bool :=
  let pool := x.direct.all (fun d => d.t != t)
  match sc with
  | .c => pool
  | .l => pool && x.wbuf.all (fun b => b.t != t || dieOf b.pa != c.cluster.val)
  | .d => pool && x.storesDone t
  | .s => pool && x.storesDone t
  | .p => pool && x.storesDone t && rounds.all (fun y => x.roundOver y)

/-- A thread issues a FENCE of a scope other than T and parks. -/
def State.fence (s : State) (sc : Scope) : State :=
  s.parkMe (.fence sc (if sc = .p then s.myCore.wholeRounds else []))

/-- FENCE.T completes in its issue clock. -/
def execFenceT (s : State) : Out := .next s.skip
def execFenceC (s : State) : Out := .next (s.fence .c)
def execFenceL (s : State) : Out := .next (s.fence .l)
def execFenceD (s : State) : Out := .next (s.fence .d)
def execFenceP (s : State) : Out := .next (s.fence .p)
def execFenceS (s : State) : Out := .next (s.fence .s)

/-- FENCE.S and FENCE.P drop every data-cache line, and no fill in progress is installed (R250). -/
def Core.dropLines (x : Core) : Core :=
  { (x.mapThr (fun _ t => match t.pend with
      | .load pa w sx d _ => { t with pend := .load pa w sx d false }
      | _ => t)) with dcache := [] }

/-- FENCE_COMPLETE: the scope's ordering holds, and the thread goes on (R110, R250). -/
def execFenceComplete (c : CoreId) (t : Tid) (s : State) : Out :=
  match (s.thr c t).st, (s.thr c t).pend with
  | .parked, .fence sc rounds =>
    if (s.core c).fenceMet c t sc rounds then
      let s := if sc = .s ∨ sc = .p then s.modCore c Core.dropLines else s
      .next (s.finish c t id)
    else .next s
  | _, _ => .next s

/-! ## The page walk of a thread (R253-R255) -/

/-- EVAL of a walk's fault: the VA and kind, or the line of the entry read for ECC (R105). -/
def walkEval (code : BitVec 8) (ea va : Nat) (k : Kind) : Word := accessEval (if code = kECC then ea / 64 * 64 else va) k

/-- A parked thread's walk ends: its translation enters the TLB and the thread issues again, or it takes the trap. -/
def State.walkThread (s : State) (c : CoreId) (t : Tid) : Out :=
  match (s.thr c t).st, (s.thr c t).pend with
  | .parked, .walk va k =>
    let s := s.walked c va.toNat
    match s.walk c va.toNat k with
    | .absent => .fault .absentPhysical
    | .fault code ea => .next (s.trapAt c t code (walkEval code ea va.toNat k) (s.thr c t).pc)
    | .leaf ea e changed level frame w x d =>
      let s := s.walkWrite ea e changed
      let s := s.modCore c (fun y => { y with tlb := tlbFill y.tlb (xlatOf va.toNat level frame w x d (s.tenantOf c)) s.fresh })
      .next (s.tickFresh.modThr c t (fun th => th.wake s.slot))
  | _, _ => .next s

end Sys2Proof.Machine
end

