-- ==== Sys2Proof/Machine/Bank.lean ====
section
/-! DEFINITION. The bank units (R238-R243): the rotation of their four sources, the cell operations, a thread's direct accesses and pool
AMOs (R246, R247), drain tokens (R262) and patrol reads (R258). -/

namespace Sys2Proof.Machine

/-! ## Credit (R216) -/

/-- The places that the channel of a port reported for a header. -/
def Core.placesFor (x : Core) (h : Header) : Nat :=
  match x.chanOf? h.ep.toNat h with
  | some ch => x.chanFree h.ep.toNat ch
  | none => 0

/-- The least number of free places over the channels of one resolved destination; a multicast one takes its group's ports. [log entry 52, DEDUCED] -/
def Core.destPlaces (x : Core) (y : Header × Option Far) : Nat :=
  if y.1.mc = 0 ∨ y.2.isSome then x.placesFor y.1
  else
    let mask := vget x.mgroups y.1.mc.toNat 0
    ((List.range 124).filter (fun i => mask.getLsbD i)).foldl (fun n i => min n (x.placesFor { y.1 with ep := BitVec.ofNat 7 i })) 256

/-- The free places of a source stream's destination (R216). -/
def Core.strmPlaces (x : Core) (c : CoreId) (k : StrmId) (y : Strm) : Nat :=
  if y.port ≠ 124 then x.placesFor { ep := y.port, vc := y.vc }
  else
    let e := BitVec.ofNat 8 (224 + k.val)
    let r := vget x.routes e.toNat 0
    let h := entryHeader {} r (x.entryRid e r)
    match rtMode r with
    | 1 => match destOf c (rtDest r 0) h with | some z => x.destPlaces z | none => 0
    | 2 => ((List.range (getBits r 26 2 + 1)).filterMap (fun i => destOf c (rtDest r i) h)).foldl (fun n z => min n (x.destPlaces z)) 256
    | 3 =>
      let g := x.stages[Fin.ofNat 8 (getBits r 23 3)]
      let d := rtDest r 0
      let vc := BitVec.ofNat 5 (getBits d 9 5)
      (g.ranges.toList.filter (fun z => z.getLsbD 63)).foldl (fun n z =>
        min n (x.placesFor { h with vc := vc, ep := if rangeCore z = c then rangePort z else BitVec.ofNat 7 (96 + getBits d 21 4) })) 256
    | _ => 0

/-- The credit of a source generator (R216). -/
def Core.credit (x : Core) (c : CoreId) (k : StrmId) : Nat :=
  let y := x.strms[k]
  x.strmPlaces c k y + 16 - (y.asked - y.admitted)

/-! ## The rotation (R238) -/

def bankBase (c : CoreId) (b : Nat) : Nat := sliceBase c + b * 65536

/-- Whether a COP produces a reply cell (R238). -/
def copReplies (cop : Nat) : Bool := cop == 1 || cop == 6 || cop == 7 || cop == 8 || cop == 9

/-- The request a bank can perform in this slot: the head of its channel, unless it is a DRN or waits for the output buffer. -/
def Core.bankRequest? (x : Core) (slot b : Nat) : Option Cell :=
  if (x.bankAt b).frozen.isSome then none
  else match x.head? slot b 0 with
    | none => none
    | some y =>
      if y.h.tag = tDRN then none
      else if copReplies y.h.cop.toNat && x.obufFree b == 0 then none
      else some y

/-- The SREAD stream bound on a bank (R212). -/
def Core.bankStrm? (x : Core) (b : Nat) : Option StrmId :=
  (List.finRange 32).find? (fun k =>
    let y := x.strms[k]
    y.kind == .sread && y.st != .free && y.st != .done && poolBank (getBits y.pat 0 28) == b)

/-- The SREAD stream that can read in this slot: running, with cells left and not cancelled, its slot holding the bank's token (R214,
R243), with credit (R216), and a free place in the output buffer. -/
def Core.bankGen? (x : Core) (c : CoreId) (b : Nat) : Option StrmId :=
  match x.bankStrm? b with
  | none => none
  | some k =>
    let y := x.strms[k]
    let g := x.bankAt b
    if y.st == .running && g.frozen.isNone && decide (y.asked < y.ncells) && (y.own.isNone || y.own == some g.owner) &&
        !y.cancel && decide (0 < x.credit c k) && decide (0 < x.obufFree b) then some k else none

/-- The direct access at the front of a bank's order (R238). -/
def Core.bankDirect? (x : Core) (b : Nat) : Option Direct := x.direct.find? (fun d => poolBank d.addr == b)

/-- Whether source i of a bank waits: request, generator, sequencer, system. -/
def Core.bankWaits (x : Core) (c : CoreId) (slot b i : Nat) : Bool :=
  match i with
  | 0 => (x.bankRequest? slot b).isSome
  | 1 => (x.bankGen? c b).isSome
  | 2 => (x.bankDirect? b).isSome
  | _ => !(x.bankAt b).sys.isEmpty

/-- The source a bank serves in this slot, in rotation from one past the last (R238); none when it has served one. [log entry 12, DESIGN CHOICE] -/
def Core.bankPick (x : Core) (c : CoreId) (slot b : Nat) : Option Nat :=
  let g := x.bankAt b
  if g.served then none
  else ((List.range 4).map (fun i => (g.rot.val + i) % 4)).find? (fun i => x.bankWaits c slot b i)

/-- A bank has performed an operation of source i. -/
def Core.bankServed (x : Core) (b i : Nat) : Core :=
  x.modBank b (fun g => { g with rot := Fin.ofNat 4 (i + 1), served := true, ops := g.ops + 1 })

/-! ## Errors in pool words (R258) -/

/-- Write n bytes of a number into the pool. -/
def State.poolWrite (s : State) (a n v : Nat) : State :=
  { (s.poolMarks a n) with pool := Memory.writeN s.pool a n v }

/-! ## Cell operations (R239, R240) -/

/-- Freeze a bank; the record holds the request's header (R240, R361). -/
def State.freezeBank (s : State) (c : CoreId) (b : Nat) (kind : BitVec 8) (h : Header) : State :=
  let s := s.modCore c (fun x => x.modBank b (fun g => { g with frozen := some { kind := kind, arg := h.word }, served := true }))
  s.record c kind (unitId c 0 b) b (pos2 ((s.core c).bankAt b).ops.toNat 0) h.word

/-- The reply route of a bank for a VC (R276). -/
def Core.replyEntry? (x : Core) (b : Nat) (vc : BitVec 5) : Option (BitVec 8) :=
  boundEntry? (vget (vget x.cfg.reply b (Vector.replicate 32 0)) vc.toNat 0)

/-- What a bank operation does: the fault that stops it, or the reads (offset, width), the writes (offset, width, value), a reply, a
saturation, a new owner. -/
structure CopRes where
  fault  : Option (BitVec 8) := none
  reads  : List (Nat × Nat) := []
  writes : List (Nat × Nat × Nat) := []
  reply  : Option Payload := none
  sat    : Bool := false
  owner  : Option Bool := none
deriving DecidableEq, Repr

def CopRes.bad (k : BitVec 8) : CopRes := { fault := some k }

/-- Perform the request at the head of a bank's channel when its COP is one of cops and the rotation reaches it: f gives the operation's
effect from the state, the bank's base address and the cell. [log entry 123, DEDUCED] -/
def State.bankCop (s : State) (c : CoreId) (b : Nat) (cops : List Nat) (f : State → Nat → Cell → CopRes) : State :=
  let x := s.core c
  match x.bankRequest? s.slot b with
  | none => s
  | some y =>
    if cops.contains y.h.cop.toNat && x.bankPick c s.slot b == some 0 then
      let en := x.replyEntry? b y.h.vc
      let r := if copReplies y.h.cop.toNat && en.isNone then CopRes.bad kPORT else f s (bankBase c b) y
      match r.fault with
      | some k => s.freezeBank c b k y.h
      | none =>
        let s := r.reads.foldl (fun s w => s.softPool (bankBase c b + w.1) w.2) s
        let s := r.writes.foldl (fun s w => s.poolWrite (bankBase c b + w.1) w.2.1 w.2.2) s
        let s := s.modCore c (fun x => (x.bankServed b 0).modBank b (fun g => { g with
          fxsat := g.fxsat || r.sat, owner := r.owner.getD g.owner, reqAt := s.slot }))
        let s := match r.reply, en with
          | some p, some e => s.modCore c (fun x => x.offer b { offerEntry e y.h.tag y.h.key p with since := s.slot + 1 })
          | _, _ => s
        s.popHead c b 0
    else s

/-- The 256 bytes of an aligned KEY, when aligned and without error. -/
def blockAt (s : State) (base : Nat) (y : Cell) : Except (BitVec 8) Nat :=
  let k := y.h.key.toNat
  if k % 256 ≠ 0 then .error kALIGN
  else if s.poolBad (base + k) 256 then .error kECC
  else .ok (Memory.readN s.pool (base + k) 256)

/-- A whole-block write: KEY aligned. -/
def copWrite (y : Cell) (v : Nat) : CopRes :=
  if y.h.key.toNat % 256 ≠ 0 then .bad kALIGN else { writes := [(y.h.key.toNat, 256, v)] }

/-- BANK_WRITE; a reserved COP freezes the bank with PORT (R169, R240). [log entry 28, DEDUCED] -/
def execBankWrite (c : CoreId) (b : BankId) (s : State) : Out :=
  .next (s.bankCop c b.val [0, 13, 14, 15] (fun _ _ y => if y.h.cop = 0 then copWrite y y.data.toNat else .bad kPORT))

def execBankRead (c : CoreId) (b : BankId) (s : State) : Out :=
  .next (s.bankCop c b.val [1] (fun s base y => match blockAt s base y with
    | .error k => .bad k
    | .ok v => { reads := [(y.h.key.toNat, 256)], reply := some (BitVec.ofNat 2048 v) }))

/-- The formats on which bank arithmetic faults (R40, R52). -/
def copFmtOk (f : Fmt) : Bool := !(f == 0 || f == 14 || f == 9 || f == 10 || f == 12 || f == 13 || f == 15)

/-- One lane of ADD, MIN or MAX in a format: floating by RNE with SAT 0, integers wrapping, FX128 saturating (R42, R52). -/
def copLane (op : Nat) (f : Fmt) (x y : Nat) : Nat × Bool :=
  match ffmt? f with
  | some ff =>
    let a := decodeF ff x
    let b := decodeF ff y
    let v := match op with
      | 2 => (FVal.add 0 a b).1
      | 4 => FVal.min a b
      | _ => FVal.max a b
    ((encodeF ff v 0 false).1, false)
  | none =>
    let n (z : Nat) : Int := if f = 7 then (z : Int) else sext (laneBits f) z
    match op with
    | 2 => if f = 11 then fxAdd x y else (wrap (laneBits f) (n x + n y), false)
    | 4 => (if n x ≤ n y then x else y, false)
    | _ => (if n x ≤ n y then y else x, false)

/-- Lane-by-lane arithmetic on the block at KEY in a format. [log entry 123, DEDUCED] -/
def copArith (op : Nat) (f : Fmt) (s : State) (base : Nat) (y : Cell) : CopRes :=
  if !copFmtOk f then .bad kFMT
  else match blockAt s base y with
    | .error k => .bad k
    | .ok v =>
      let w := laneBits f
      let d := y.data.toNat
      let r := (List.range (laneCount f)).map (fun i => copLane op f (lane w i v) (lane w i d))
      { reads := [(y.h.key.toNat, 256)], writes := [(y.h.key.toNat, 256, (ofLanes w (laneCount f) (fun i => (r.getD i (0, false)).1)).toNat)], sat := r.any (fun z => z.2) }

/-- The format of a VC in the active Weir VC table (R171). -/
def State.fmtOfVc (s : State) (c : CoreId) (vc : BitVec 5) : Fmt := vcFmt ((s.core c).vcEntry vc)

def execBankAdd (c : CoreId) (b : BankId) (s : State) : Out :=
  .next (s.bankCop c b.val [2] (fun s base y => copArith 2 (s.fmtOfVc c y.h.vc) s base y))
def execBankFxadd (c : CoreId) (b : BankId) (s : State) : Out :=
  .next (s.bankCop c b.val [3] (fun s base y => copArith 2 11 s base y))
def execBankMin (c : CoreId) (b : BankId) (s : State) : Out :=
  .next (s.bankCop c b.val [4] (fun s base y => copArith 4 (s.fmtOfVc c y.h.vc) s base y))
def execBankMax (c : CoreId) (b : BankId) (s : State) : Out :=
  .next (s.bankCop c b.val [5] (fun s base y => copArith 5 (s.fmtOfVc c y.h.vc) s base y))

def laneNone : Nat := 0xFFFFFFFF

/-- The bit index a TASB lane names, or none (R239). -/
def tasbBit (y : Cell) (i : Nat) : Option Nat :=
  let x := lane 32 i y.data.toNat
  if x = laneNone then none else some (8 * y.h.key.toNat + x)

/-- BANK_TASB: test and set of bits, the reply holding those that were already set. -/
def execBankTasb (c : CoreId) (b : BankId) (s : State) : Out :=
  .next (s.bankCop c b.val [6] (fun s base y =>
    let l := (List.range 64).map (fun i => (i, tasbBit y i))
    if l.any (fun z => match z.2 with | some b => decide (2 ^ 19 ≤ b) | none => false) then .bad kPROT
    else if l.any (fun z => match z.2 with | some b => s.poolBad (base + b / 8) 1 | none => false) then .bad kECC
    else
      let at_ (b : Nat) : Nat := (Memory.get s.pool (base + b / 8)).toNat / 2 ^ (b % 8) % 2
      let r := l.foldl (fun (acc : List Nat × Nat) z => match z.2 with
        | none => acc
        | some b => if at_ b == 1 || acc.1.contains b then (acc.1, acc.2 + 2 ^ z.1) else (acc.1 ++ [b], acc.2)) ([], 0)
      let bytes := (r.1.map (fun b => b / 8)).eraseDups
      { reads := (l.filterMap (fun z => z.2)).map (fun b => (b / 8, 1))
        writes := bytes.map (fun a =>
          (a, 1, (Memory.get s.pool (base + a)).toNat + (r.1.filter (fun b => b / 8 == a)).foldl (fun n b => n + 2 ^ (b % 8)) 0)),
        reply := some (BitVec.ofNat 2048 r.2) }))

def execBankCas (c : CoreId) (b : BankId) (s : State) : Out :=
  .next (s.bankCop c b.val [7] (fun s base y =>
    let k := y.h.key.toNat
    if k % 8 ≠ 0 then .bad kALIGN
    else if s.poolBad (base + k) 8 then .bad kECC
    else
      let old := Memory.readN s.pool (base + k) 8
      let hit := old == lane 64 0 y.data.toNat
      { reads := [(k, 8)], writes := if hit then [(k, 8, lane 64 1 y.data.toNat)] else [],
        reply := some (BitVec.ofNat 2048 (old + (if hit then 2 ^ 64 else 0))) }))

def execBankXchg (c : CoreId) (b : BankId) (s : State) : Out :=
  .next (s.bankCop c b.val [8] (fun s base y => match blockAt s base y with
    | .error k => .bad k
    | .ok v => { reads := [(y.h.key.toNat, 256)], writes := [(y.h.key.toNat, 256, y.data.toNat)], reply := some (BitVec.ofNat 2048 v) }))

/-- The fault of GATHER and SCATTER addresses (R240). -/
def idxFault (y : Cell) (n : Nat) : Option (BitVec 8) :=
  let l := ((List.range n).map (fun i => lane 32 i y.data.toNat)).filter (fun x => x != laneNone)
  if l.any (fun x => decide ((y.h.key.toNat + x) % 4 ≠ 0)) then some kALIGN
  else if l.any (fun x => decide (65532 < y.h.key.toNat + x)) then some kPROT
  else none

def execBankGather (c : CoreId) (b : BankId) (s : State) : Out :=
  .next (s.bankCop c b.val [9] (fun s base y =>
    match idxFault y 64 with
    | some k => .bad k
    | none =>
      let d := y.data.toNat
      let addr (i : Nat) : Nat := base + y.h.key.toNat + lane 32 i d
      if (List.range 64).any (fun i => lane 32 i d != laneNone && s.poolBad (addr i) 4) then .bad kECC
      else { reads := ((List.range 64).filter (fun i => lane 32 i d != laneNone)).map (fun i => (y.h.key.toNat + lane 32 i d, 4)),
             reply := some (ofLanes 32 64 (fun i => if lane 32 i d = laneNone then 0 else Memory.readN s.pool (addr i) 4)) }))

def execBankScatter (c : CoreId) (b : BankId) (s : State) : Out :=
  .next (s.bankCop c b.val [10] (fun _ _ y =>
    match idxFault y 32 with
    | some k => .bad k
    | none =>
      let d := y.data.toNat
      { writes := ((List.range 32).filter (fun i => lane 32 i d != laneNone)).map (fun i =>
          (y.h.key.toNat + lane 32 i d, 4, lane 32 (32 + i) d)) }))

def execBankZero (c : CoreId) (b : BankId) (s : State) : Out :=
  .next (s.bankCop c b.val [11] (fun _ _ y => copWrite y 0))

/-- BANK_OWN: the token goes to the slot that KEY[0] names (R243). -/
def execBankOwn (c : CoreId) (b : BankId) (s : State) : Out :=
  .next (s.bankCop c b.val [12] (fun _ _ y => { owner := some (y.h.key.getLsbD 0) }))

/-- BANK_DRN: the token at the head is consumed in a slot after the requests ahead of it were performed (R262). [log entry 123, DEDUCED] -/
def execBankDrn (c : CoreId) (b : BankId) (s : State) : Out :=
  let x := s.core c
  let g := x.bankAt b.val
  match x.head? s.slot b.val 0 with
  | none => .next s
  | some y =>
    if y.h.tag = tDRN ∧ g.frozen.isNone ∧ (g.ops = 0 ∨ g.reqAt < s.slot) then
      .next ((s.popHead c b.val 0).modCore c (fun x => (x.modBank b.val (fun g => { g with passes := g.passes + 1 })).cross b.val))
    else .next s

/-! ## Direct accesses of threads (R238, R246) -/

/-- The first access of a thread that stands at the front of its bank's order and that the rotation reaches. -/
def Core.directOf? (x : Core) (c : CoreId) (slot : Nat) (t : Tid) : Option Direct :=
  x.direct.find? (fun d => d.t == t && x.bankDirect? (poolBank d.addr) == some d && x.bankPick c slot (poolBank d.addr) == some 2)

/-- The access leaves the order, its bank having served it. -/
def Core.directDone (x : Core) (d : Direct) : Core := { (x.bankServed (poolBank d.addr) 2) with direct := x.direct.erase d }

/-- POOL_ACCESS_DONE: the bank performs a thread's LDP or STP; an LDP's thread goes on with the value (R246), or traps on an error. [log entry 27, DEDUCED] -/
def execPoolAccessDone (c : CoreId) (t : Tid) (s : State) : Out :=
  match (s.core c).directOf? c s.slot t with
  | none => .next s
  | some d =>
    match d.op with
    | .amo => .next s
    | .store v => .next ((s.modCore c (fun x => x.directDone d)).poolWrite d.addr 8 v.toNat)
    | .load =>
      let bad := s.poolBad d.addr 8
      let v : Word := BitVec.ofNat 64 (Memory.readN s.pool d.addr 8)
      let s := (s.modCore c (fun x => x.directDone d)).softPool d.addr 8
      match (s.thr c t).st, (s.thr c t).pend with
      | .parked, .ldp rd =>
        if bad then .next (s.trapAt c t kECC (accessEval d.addr .read) (s.thr c t).pc)
        else .next (s.finish c t (fun th => th.wr rd v))
      | _, _ => .next s

/-! ## Atomic operations performed (R247, R248) -/

/-- An AMO's result for its thread. -/
def Thread.amoDone (t : Thread) (op : AmoOp) (w old b : Nat) (d : BitVec 5) : Thread :=
  (t.setFxsat (amoSat op old b)).wr d (amoResult op w old)

/-- The dropped data-cache line of an address. -/
def Core.dropLine (x : Core) (pa : Nat) : Core := { x with dcache := x.dcache.filter (fun l => l.no != pa / 64) }

/-- The end of an AMO: its thread goes on; that of a stopped task has only to be rid of it (R356). -/
def State.amoEnd (s : State) (c : CoreId) (t : Tid) (f : Thread → Thread) : State :=
  if (s.thr c t).st = .idle then s.modThr c t (fun th => { th with pend := .none }) else s.finish c t f

/-- An uncorrectable error met by an AMO: a precise trap of its thread. -/
def State.amoTrap (s : State) (c : CoreId) (t : Tid) (a : Nat) : State :=
  if (s.thr c t).st = .idle then s.modThr c t (fun th => { th with pend := .none })
  else s.trapAt c t kECC (accessEval a .write) (s.thr c t).pc

/-- A VA AMO at the HBM controller: one indivisible read, computation and write. -/
def State.amoHbm (s : State) (c : CoreId) (t : Tid) (op : AmoOp) (w pa : Nat) (b : Word) (d : BitVec 5) (cmp : Word) : State :=
  if s.hbmBad pa w then
    s.amoTrap c t (pa / 64 * 64)
  else
    let old := Memory.readN s.hbm pa w
    let s := (s.softHbm pa w).hbmStore pa w (amoNew op w old b.toNat cmp.toNat)
    (s.modCore c (fun x => x.dropLine pa)).amoEnd c t (fun th => th.amoDone op w old b.toNat d)

/-- A pool AMO at its bank. -/
def State.amoPool (s : State) (c : CoreId) (t : Tid) (dd : Direct) (op : AmoOp) (w : Nat) (b : Word) (d : BitVec 5) (cmp : Word) : State :=
  let bad := s.poolBad dd.addr w
  let s := s.modCore c (fun x => x.directDone dd)
  if bad then s.amoTrap c t dd.addr
  else
    let old := Memory.readN s.pool dd.addr w
    ((s.softPool dd.addr w).poolWrite dd.addr w (amoNew op w old b.toNat cmp.toNat)).amoEnd c t (fun th => th.amoDone op w old b.toNat d)

/-- AMO_PERFORMED: once every earlier store of the thread has been performed, a VA AMO is performed, and a pool AMO is offered to its
bank and then performed in its turn (R238, R247). An AMO that a stopped task had issued is performed too (R356). -/
def execAmoPerformed (c : CoreId) (t : Tid) (s : State) : Out :=
  let x := s.core c
  match (s.thr c t).pend with
  | .amo op w pool a b d cmp posted va =>
    if posted then
      match x.directOf? c s.slot t with
      | some dd => .next (s.amoPool c t dd op w b d cmp)
      | none => .next s
    else if x.storesDone t && x.direct.all (fun y => y.t != t) then
      if pool then
        .next (s.modCore c (fun x => { (x.modThr t (fun th => { th with pend := .amo op w pool a b d cmp true va })) with
          direct := x.direct ++ [{ t := t, addr := a, op := .amo }] }))
      else .next (s.amoHbm c t op w a b d cmp)
    else .next s
  | _ => .next s

/-! ## The system path and patrol reads (R238, R258) -/

/-- The oldest write of a bank's system path, when the rotation reaches it; a fault record then sets EV of the controller thread (R362). [log entry 21, DEDUCED] -/
def State.sysPath (s : State) (c : CoreId) (b : Nat) : State :=
  let x := s.core c
  if x.bankPick c s.slot b = some 3 then
    match (x.bankAt b).sys with
    | [] => s
    | w :: r =>
      let s := s.modCore c (fun x => (x.bankServed b 3).modBank b (fun g => { g with sys := r }))
      let s := { (s.poolMarks w.addr w.bytes.length) with pool := Memory.writeBytes s.pool w.addr w.bytes }
      if w.ring then (match (s.core c).controller? with | some t => s.modThr c t (fun th => th.setEv s.slot) | none => s) else s
  else s

/-- A patrol read corrects the first marked word of its bank or stack: words k to k + n - 1. -/
def patrolled (l : List Nat) (k n : Nat) : List Nat :=
  match l.find? (fun w => decide (k ≤ w ∧ w < k + n)) with | some w => l.erase w | none => l

/-- PATROL_READ: a slot that no program requests; a corrected error is counted (R258, R376). -/
def execPatrolRead (w : PatrolTarget) (corrected : Bool) (s : State) : Out :=
  match w with
  | .bank c b =>
    if (s.core c).bankPick c s.slot b.val = none && !((s.core c).bankAt b.val).served && corrected then
      .next (({ s with ecc := { s.ecc with poolSoft := patrolled s.ecc.poolSoft (bankBase c b.val / 8) 8192 } }).modCore c (fun x =>
        x.modBank b.val (fun g => { g with cecnt := ceCount g.cecnt })))
    else .next s
  | .hbm k =>
    if corrected then .next { s with
      ecc := { s.ecc with hbmSoft := patrolled s.ecc.hbmSoft (k.val * 2 ^ 33) (2 ^ 33) }
      errs := { s.errs with stack := s.errs.stack.set k.val (s.errs.stack[k] + 1) k.isLt } }
    else .next s

end Sys2Proof.Machine
end

