-- ==== Sys2Proof/Machine/Stage.lean ====
section
/-! DEFINITION. The fields of a stage declaration (R305), and which stage an element belongs to, at its source or its twin. -/

namespace Sys2Proof.Machine

def Stage.emask (g : Stage) : Nat := g.field 0 4
def Stage.banks (g : Stage) : Nat := g.field 4 6
def Stage.lo (g : Stage) : Nat := g.field 12 2
def Stage.hi (g : Stage) : Nat := g.field 14 4
def Stage.splitSt (g : Stage) : BitVec 6 := BitVec.ofNat 6 (g.field 18 1)
def Stage.mergeSt (g : Stage) : BitVec 6 := BitVec.ofNat 6 (g.field 19 1)
def Stage.ovd (g : Stage) : Nat := g.field 20 2
def Stage.ovw (g : Stage) : Nat := g.field 22 2
def Stage.und (g : Stage) : Nat := g.field 24 2
def Stage.unw (g : Stage) : Nat := g.field 26 2

/-- The valid twin candidates in order of preference. -/
def Stage.cands (g : Stage) : List CoreId :=
  ((List.range 4).filter (fun i => g.field (28 + i) 1 / 128 == 1)).map (fun i => Fin.ofNat 64 (g.field (28 + i) 1 % 64))
def Stage.pe0 (g : Stage) : Option (BitVec 8) := if g.field 34 1 % 2 = 1 then some (BitVec.ofNat 8 (g.field 32 1)) else none
def Stage.pe1 (g : Stage) : Option (BitVec 8) := if g.field 34 1 / 2 % 2 = 1 then some (BitVec.ofNat 8 (g.field 33 1)) else none
def Stage.xnet (g : Stage) : Nat := g.field 35 1 % 16
def Stage.loop? (g : Stage) : Option LoopId := if g.field 36 1 / 128 = 1 then some (Fin.ofNat 16 (g.field 36 1)) else none
def Stage.tag? (g : Stage) : Option (BitVec 6) := if g.field 37 1 / 64 % 2 = 1 then some (BitVec.ofNat 6 (g.field 37 1)) else none

def Stage.hasElem (g : Stage) (e : ElemId) : Bool := g.emask.testBit e.val
def Stage.elems (g : Stage) : List ElemId := (List.finRange 32).filter (fun e => g.hasElem e)
/-- The lead element: the lowest of EMASK. -/
def Stage.lead? (g : Stage) : Option ElemId := g.elems.head?

/-- The declared stages of a core that an element belongs to. -/
def Core.stagesOf (x : Core) (e : ElemId) : List StageId :=
  (List.finRange 8).filter (fun g => x.stages[g].st != .none && x.stages[g].hasElem e)

/-- The stage of an element on its source core that is in one of the given states. -/
def Core.sourceStage? (x : Core) (e : ElemId) (p : OxState → Bool) : Option StageId :=
  (x.stagesOf e).find? (fun g => p x.stages[g].st)

/-- The source core and stage whose twin is core c and which holds an element, in one of the given states. -/
def State.twinStage? (s : State) (c : CoreId) (e : ElemId) (p : OxState → Bool) : Option (CoreId × StageId) :=
  (List.finRange 64).findSome? (fun k =>
    ((List.finRange 8).find? (fun g =>
      let y := (s.core k).stages[g]
      y.twin == some c && y.hasElem e && p y.st)).map (fun g => (k, g)))

/-- A stage with the table that the next slot sees (R314). -/
def Core.stageSoon (x : Core) (g : StageId) : Stage :=
  x.late.foldl (fun y l => match l with
    | .ranges h t => if h = g then { y with ranges := t } else y
    | _ => y) x.stages[g]

/-- Whether the stage's table sends a key to another core: a key of a moved range (R314, R315). -/
def Stage.moved (g : Stage) (c : CoreId) (k : Key) : Bool :=
  match g.lookup k with
  | some e => rangeCore e != c
  | none => false

/-- The heads that an element's guards see (R126, R314, R315): a DRN, a held-back IVC head and an SPL not yet taken count as empty. -/
def State.visHead (s : State) (c : CoreId) (e : ElemId) (ch : Nat) : Option Cell :=
  let x := s.core c
  match x.head? s.slot (48 + e.val) ch with
  | none => none
  | some y =>
    if y.h.tag = tDRN then none
    else
      let hidden := (x.stagesOf e).any (fun g =>
        let z := x.stageSoon g
        y.h.vc == z.ivc &&
          ((z.st == .splitting && x.elems[e].ended) || (z.st == .draining && z.moved c y.h.key)))
      if hidden then none else some y

end Sys2Proof.Machine
end

