-- ==== Sys2Proof/Machine/Firing.lean ====
section
/-! DEFINITION. The firing rule of the elements (R115-R131): sources and the operation format, guards and selection, and the one step
in which a firing takes effect. The operations are in ElemOps.lean. -/

namespace Sys2Proof.Machine

/-- A value an operation reads or writes: payload, format and key (R116). -/
structure Val where
  data : Payload
  fmt  : Fmt
  key  : Key
deriving DecidableEq, Repr

/-- A result: the value, and a predicate rule of the operation's own (R124). -/
structure Res where
  v    : Val
  pred : Option Bool := none
deriving DecidableEq, Repr

/-- What an operation is given (R122): the operands, the operation format F, the old DA, and the element's control fields. -/
structure OpIn where
  a    : Val
  b    : Val
  f    : Fmt
  old  : DReg
  oldD : Bool
  rm   : Nat
  sat  : Bool
  qf   : Bool
  ill3e : Bool
  tab  : Vector (BitVec 32) 4
  /-- the selects, the formats that the sources carry (R125), and the scalars of R118 -/
  selA : BitVec 5
  selB : BitVec 5
  fa   : Option Fmt
  fb   : Option Fmt
  scalA : Nat
  scalB : Nat
deriving DecidableEq, Repr

/-- What an operation gives: results for DA and DB, flags, and whether each channel select pops (R140). -/
structure OpOut where
  ra    : Res
  rb    : Res
  flags : Flags := 0
  popA  : Bool := true
  popB  : Bool := true
deriving DecidableEq, Repr

/-- A fault of an operation: its kind and the field at fault (R361). -/
structure OpFault where
  kind  : BitVec 8
  field : Nat
deriving DecidableEq, Repr

/-- How an operation uses its sources (R75, R125): whether it reads SA and SB, whether SB's format goes unchecked, and whether DA must
be a D register, channels, or a predicate or NONE (R131), and whether it writes DA and DB. -/
structure OpUse where
  a    : Bool := true
  b    : Bool := false
  rawB : Bool := false
  needD : Bool := false
  needC : Bool := false
  needP : Bool := false
  dA : Bool := true
  dB : Bool := true
deriving DecidableEq, Repr

/-! ## Sources (R73, R116, R118) -/

/-- The channel a source select names. -/
def srcChan? (sel : BitVec 5) : Option Nat := if 4 ≤ sel.toNat ∧ sel.toNat ≤ 11 then some (sel.toNat % 4) else none
def srcPops (sel : BitVec 5) : Bool := 8 ≤ sel.toNat && sel.toNat ≤ 11

/-- A number in every lane of format F, by the rule of R118 for ST. -/
def fillInt (f : Fmt) (n : Nat) : Payload :=
  match f.toNat with
  | 0 => ofLanes 8 256 (fun _ => n)
  | 10 => ofLanes 8 256 (fun _ => n)
  | 14 => ofLanes 8 256 (fun _ => n)
  | 11 => ofLanes 128 16 (fun _ => n * 2 ^ 64)
  | 6 | 7 => ofLanes 8 256 (fun _ => n)
  | 8 => ofLanes 32 64 (fun _ => n)
  | _ => ofLanes (laneBits f) (laneCount f) (fun _ => (encodeLane f (.ofInt n) 0 true).1)

/-- The lane-index vector in format F (R118). Under LNS6, E4M3S and E5M2S, where the LANE row gives no value, i is encoded as the ST row
encodes ST. [log entry 113, DEDUCED] -/
def laneVec (f : Fmt) : Payload :=
  match f.toNat with
  | 0 | 10 | 14 => ofLanes 8 256 (fun j => j % 256)
  | 11 => ofLanes 128 16 (fun i => i * 2 ^ 64)
  | 6 | 7 => ofLanes 8 256 (fun i => i % 256)
  | 8 => ofLanes 32 64 (fun i => i)
  | _ => ofLanes (laneBits f) (laneCount f) (fun i => (encodeLane f (.ofInt i) 0 true).1)

/-- K as a cell in format F (R118). -/
def kVec (f : Fmt) (k : Word) : Payload :=
  match f.toNat with
  | 0 | 10 | 14 => ofLanes 64 32 (fun _ => k.toNat)
  | 11 => ofLanes 128 16 (fun _ => wrap 128 (sext 64 k.toNat * 2 ^ 32))
  | _ => ofLanes (laneBits f) (laneCount f) (fun _ => k.toNat % 2 ^ laneBits f)

/-- The format of a source that carries one: a channel head, a D register or a literal (R125). A head whose VC the map does not take has
a free format. [log entry 111, DESIGN CHOICE] -/
def State.srcFmt? (s : State) (c : CoreId) (e : ElemId) (sel : BitVec 5) : Option Fmt :=
  let x := s.core c
  let el := x.elems[e]
  let n := sel.toNat
  if n ≤ 3 then some (vget el.d n {}).fmt
  else if n ≤ 11 then
    match x.head? s.slot (48 + e.val) (n % 4) with
    | some y => some (match (x.elemCfg e).vcMap y.h.vc with | some (_, f) => f | none => BitVec.ofNat 4 (Config.strayFmt y.h.vc).val)
    | none => some 0
  else if 16 ≤ n ∧ n ≤ 23 then some (vget (x.elemCfg e).litFmt (n - 16) 0)
  else none

/-- A source read as a cell in the operation format F (R116, R118). The key of K, ZERO, ST, LANE and the literals is zero. -/
def State.srcVal (s : State) (c : CoreId) (e : ElemId) (sel : BitVec 5) (f : Fmt) : Val :=
  let x := s.core c
  let el := x.elems[e]
  let n := sel.toNat
  let fmt := (s.srcFmt? c e sel).getD f
  if n ≤ 3 then let d := vget el.d n {}; { data := d.data, fmt := d.fmt, key := d.key }
  else if n ≤ 11 then
    match x.head? s.slot (48 + e.val) (n % 4) with
    | some y => { data := y.data, fmt := fmt, key := y.h.key }
    | none => { data := 0, fmt := fmt, key := 0 }
  else if n = 12 then { data := kVec f el.k, fmt := f, key := 0 }
  else if n = 13 then { data := 0, fmt := f, key := 0 }
  else if n = 14 then { data := fillInt f el.st.toNat, fmt := f, key := 0 }
  else if n = 15 then { data := laneVec f, fmt := f, key := 0 }
  else { data := vget (x.elemCfg e).lits (n - 16) 0, fmt := fmt, key := 0 }

/-- A source read as a scalar: its bytes 1:0, and K[15:0] for K (R118). -/
def scalarOf (v : Val) (sel : BitVec 5) (k : Word) : Nat := if sel = 12 then k.toNat % 65536 else v.data.toNat % 65536

/-- The operation format of a firing (R125). [log entry 23, DEDUCED] -/
def State.opFormat (s : State) (c : CoreId) (e : ElemId) (x : ElemAct) (u : OpUse) : Fmt :=
  let a := if u.a then s.srcFmt? c e x.sa else none
  match a with
  | some f => f
  | none => match (if u.b then s.srcFmt? c e x.sb else none) with | some f => f | none => 8

/-! ## Guards (R120, R121) -/

/-- Entry i of the element's active table, as the firing clock reads it. -/
def Core.entryAt (x : Core) (e : ElemId) (i : Nat) : Nat := (vget (x.elemCfg e).table i 0).toNat

/-- How the operation of OP value op uses its sources (R75, R131-R140). A bitwise operation faults on no format (R30). -/
def opUse (op : Nat) : OpUse :=
  match op with
  | 0x00 => { a := false, dA := false, dB := false }
  | 0x02 => { b := true, rawB := true }
  | 0x04 => { b := true, rawB := true }
  | 0x06 => { needP := true, dB := false }
  | 0x07 => { a := false, needP := true, dB := false }
  | 0x10 | 0x11 | 0x12 | 0x15 | 0x16 | 0x1C | 0x1D | 0x1E => { b := true }
  | 0x13 | 0x14 => { b := true, needD := true }
  | 0x19 => { b := true, rawB := true }
  | 0x1F => { b := true, needD := true }
  | 0x20 | 0x21 | 0x22 | 0x25 | 0x26 | 0x2E | 0x2F => { b := true }
  | 0x2A | 0x2B | 0x2C => { b := true, rawB := true }
  | 0x23 | 0x24 => { b := true, rawB := true, needD := true }
  | 0x27 | 0x28 | 0x29 => { b := true, rawB := true }
  | 0x30 | 0x32 | 0x33 | 0x34 | 0x37 => { b := true, rawB := true }
  | 0x31 => { b := true }
  | 0x35 => { b := true }
  | 0x36 => { b := true, needD := true }
  | 0x38 | 0x3B => { b := true }
  | 0x39 | 0x3A => { b := true, rawB := true }
  | 0x40 => { b := true }
  | 0x41 => { b := true, rawB := true, needC := true }
  | _ => {}

/-- The action with NONE in the destinations that the operation does not write (R75). [log entry 54, DEDUCED] -/
def OpUse.mask (u : OpUse) (x : ElemAct) : ElemAct := { x with da := if u.dA then x.da else 31, db := if u.dB then x.db else 31 }

/-- R131: rules an image's entry must keep beyond R76; broken by a debug-port write they give TABLE. -/
def actOk (x : ElemAct) (u : OpUse) : Bool :=
  (!u.needD || x.da.toNat ≤ 3) &&
  (!u.needC || ((srcChan? x.sa).isSome && (srcChan? x.sb).isSome)) &&
  (!u.needP || ((x.da.toNat = 8 || x.da.toNat = 9 || x.da.toNat = 31) && (x.db.toNat = 8 || x.db.toNat = 9 || x.db.toNat = 31)))

/-- Whether an entry is an operation with legal fields (R76, R131). -/
def entryLegal (w : Nat) : Bool := (decodeEntry w).isSome && actOk (decodeElemAct w) (opUse (bits w 63 56))

/-- Whether an entry's OP is one of R74. -/
def opListed (op : Nat) (x : ElemAct) : Bool := (elemOpOf op x).isSome

/-- The field at fault of an entry that breaks R76 or R131, as R361 numbers it. -/
def tableField (op : Nat) (x : ElemAct) : Nat :=
  let u := opUse op
  if !opListed op x then 0
  else if 24 ≤ x.sa.toNat then 1
  else if 24 ≤ x.sb.toNat then 2
  else if 10 ≤ x.da.toNat ∧ x.da.toNat ≤ 30 then 3
  else if 10 ≤ x.db.toNat ∧ x.db.toNat ≤ 30 then 4
  else if 10 ≤ x.ta.toNat then 5
  else if u.needD ∧ 3 < x.da.toNat then 3
  else if u.needC ∧ (srcChan? x.sa).isNone then 1
  else if u.needC ∧ (srcChan? x.sb).isNone then 2
  else if u.needP ∧ ¬(x.da.toNat = 8 ∨ x.da.toNat = 9 ∨ x.da.toNat = 31) then 3
  else if u.needP then 4
  else 0

/-- The channels of an entry's readiness set (R120): RDY, the channels of the used sources (R75), and TCH under a tag test. An entry whose
OP is reserved uses no source. [log entry 114, DEDUCED] -/
def readySet (w : Nat) : List Nat :=
  let t := decodeTrigger w
  let x := decodeElemAct w
  let u := if opListed (bits w 63 56) x then opUse (bits w 63 56) else { a := false }
  ((List.range 4).filter (fun i => t.rdy.getLsbD i)) ++ (if u.a then (srcChan? x.sa).toList else []) ++
    (if u.b then (srcChan? x.sb).toList else []) ++ (if t.tcl ≠ 7 then [t.tch.toNat] else [])

/-- The part of a guard that reads the state and the predicates (R120). -/
def stateMatch (el : Elem) (t : Trigger) : Bool :=
  t.en == 1 && ((el.st ^^^ t.sv) &&& t.sm) == 0 && ((el.p ^^^ t.pv) &&& t.pm) == 0

/-- R120: the guard of entry i. -/
def State.guard (s : State) (c : CoreId) (e : ElemId) (i : Nat) : Bool :=
  let x := s.core c
  let w := x.entryAt e i
  let t := decodeTrigger w
  stateMatch x.elems[e] t && (readySet w).all (fun ch => (s.visHead c e ch).isSome) &&
    (t.tcl == 7 || (match s.visHead c e t.tch.toNat with | some y => y.h.tag == t.tcl | none => false))

/-- O destinations of an action (R121). -/
def outCount (x : ElemAct) : Nat :=
  (if 4 ≤ x.da.toNat ∧ x.da.toNat ≤ 7 then 1 else 0) + (if 4 ≤ x.db.toNat ∧ x.db.toNat ≤ 7 then 1 else 0)

/-- The input channels that the configuration binds to an element (R275). -/
def ElemCfg.bound (e : ElemCfg) : List Nat :=
  (List.range 4).filter (fun ch => (List.range 32).any (fun v =>
    match e.vcMap (BitVec.ofNat 5 v) with | some (k, _) => k == ch | none => false))

def ElemCfg.boundOuts (e : ElemCfg) : List (BitVec 8) := (e.out.toList).filterMap boundEntry?

/-- Whether the element takes its pass boundary in this clock, in place of a firing (R126). An element with no bound input channel, of which R126
holds of all its channels without any token, takes none. [log entry 143, DESIGN CHOICE] -/
def State.drainReady (s : State) (c : CoreId) (e : ElemId) : Bool :=
  let x := s.core c
  let cfg := x.elemCfg e
  !cfg.bound.isEmpty && cfg.bound.all (fun ch =>
    match x.head? s.slot (48 + e.val) ch with | some y => y.h.tag == tDRN | none => false) &&
    decide (cfg.boundOuts.length ≤ x.obufFree (48 + e.val))

/-- An Oxbow SPL has become the head of C0 and has not been taken (R311). -/
def State.splWaiting (s : State) (c : CoreId) (e : ElemId) : Bool :=
  match (s.core c).head? s.slot (48 + e.val) 0 with
  | some y => y.m.spl && y.h.tag == tSPL && !(s.core c).elems[e].splSeen
  | none => false

/-- Whether the element may act in this clock: a slot is active, it is not frozen, not halted without a step, and has not acted. -/
def State.elemRuns (s : State) (c : CoreId) (e : ElemId) : Bool :=
  let x := s.core c
  let el := x.elems[e]
  x.activeSlot?.isSome && el.frozen.isNone && (!el.halted || el.credit) && el.acted != some s.slot

/-- The entry that fires in this clock (R120, R121): the lowest whose guard holds, if its outputs have room. A reserved entry needs none
of its own: it faults (R77). -/
def State.select (s : State) (c : CoreId) (e : ElemId) : Option (Fin 32) :=
  if !s.elemRuns c e || s.drainReady c e || s.splWaiting c e then none
  else
    match (List.finRange 32).find? (fun i => s.guard c e i.val) with
    | none => none
    | some i =>
      let w := (s.core c).entryAt e i.val
      if entryLegal w && decide ((s.core c).obufFree (48 + e.val) < outCount ((opUse (bits w 63 56)).mask (decodeElemAct w))) then none else some i

/-! ## The step of a firing (R122-R124) -/

/-- The class TA gives the cells of a firing (R72). -/
def State.tagOf (s : State) (c : CoreId) (e : ElemId) (x : ElemAct) (u : OpUse) : BitVec 3 :=
  let headTag (sel : BitVec 5) : BitVec 3 := match srcChan? sel with
    | some ch => match (s.core c).head? s.slot (48 + e.val) ch with | some y => y.h.tag | none => tDATA
    | none => tDATA
  if x.ta = 0 then headTag x.sa
  else if x.ta = 9 then (if u.b then headTag x.sb else tDATA)
  else BitVec.ofNat 3 (x.ta.toNat - 1)

/-- Lane 0 of a result holds a non-zero bit (R124). -/
def Val.lane0 (v : Val) : Bool :=
  match v.fmt.toNat with
  | 10 => tritAt v.data.toNat 0 != 0
  | _ => v.data.toNat % 2 ^ laneBits v.fmt != 0

/-- The route entry bound to output channel k (R276). -/
def Core.outEntry? (x : Core) (e : ElemId) (k : Nat) : Option (BitVec 8) := boundEntry? (vget (x.elemCfg e).out k 0)

/-- Whether a destination is an O with no binding: PORT (R276). -/
def Core.unboundO (x : Core) (e : ElemId) (d : BitVec 5) : Bool :=
  decide (4 ≤ d.toNat ∧ d.toNat ≤ 7) && (x.outEntry? e (d.toNat - 4)).isNone

/-- Pop a channel of an element: a STEER head goes into SGn (R193), the cell is consumed (R186). An entry of a routine that pops C0 by its select
pops the Oxbow's SPL as any head, and an OXEND after it finds none to pop. [log entry 136, DESIGN CHOICE] -/
def State.popElem (s : State) (c : CoreId) (e : ElemId) (ch : Nat) : State :=
  match (s.core c).head? s.slot (48 + e.val) ch with
  | none => s
  | some y =>
    let s := if y.h.tag = tSTEER then
        s.modCore c (fun x => x.modElem e (fun el => { el with sg := vset el.sg ch {
          k := BitVec.ofNat 4 (lane 8 1 y.data.toNat)
          idx := Vector.ofFn (fun j => BitVec.ofNat 8 (lane 16 (2 + j.val) y.data.toNat)) } }))
      else s
    s.popHead c (48 + e.val) ch

/-- The Oxbow routine that an element is running, from the SPL that starts it until its OXEND: its stage's core and number (R311, R317). -/
def State.routineOf (s : State) (c : CoreId) (e : ElemId) : Option (CoreId × StageId) :=
  if (s.core c).elems[e].ended || !(s.core c).elems[e].splSeen then none
  else match (s.core c).sourceStage? e (fun t => t == .splitting) with
    | some g => some (c, g)
    | none => s.twinStage? c e (fun t => t == .merging)

/-- Emit one cell on output channel k (R124): into the element's output buffer, counted when the routine sends it through PE0 or PE1
(R311). -/
def State.emit (s : State) (c : CoreId) (e : ElemId) (k : Nat) (tag : BitVec 3) (v : Val) : State :=
  match (s.core c).outEntry? e k with
  | none => s
  | some en =>
    let o := { offerEntry en tag v.key v.data with elem := some e, since := s.slot + 1 }
    match s.routineOf c e with
    | some (kc, g) =>
      let st := (s.core kc).stages[g]
      if st.pe0 = some en ∨ st.pe1 = some en then
        let s := s.modCore kc (fun x => x.modStage g (fun y => { y with rtn := y.rtn + 1 }))
        s.modCore c (fun x => x.offer (48 + e.val) { o with cell := { o.cell with m := { o.cell.m with rtn := some (kc, g) } } })
      else s.modCore c (fun x => x.offer (48 + e.val) o)
    | none => s.modCore c (fun x => x.offer (48 + e.val) o)

/-- Write a result to a destination that is a D register or a predicate (R124). -/
def Elem.write (el : Elem) (d : BitVec 5) (r : Res) : Elem :=
  let n := d.toNat
  if n ≤ 3 then { el with d := vset el.d n { data := r.v.data, fmt := r.v.fmt, key := r.v.key } }
  else if n = 8 ∨ n = 9 then
    let v := r.pred.getD r.v.lane0
    { el with p := if v then el.p ||| (1#2 <<< (n - 8)) else el.p &&& ~~~(1#2 <<< (n - 8)) }
  else el

/-- Emit a result when the destination is an O. -/
def State.emitTo (s : State) (c : CoreId) (e : ElemId) (d : BitVec 5) (tag : BitVec 3) (r : Res) : State :=
  if 4 ≤ d.toNat ∧ d.toNat ≤ 7 then s.emit c e (d.toNat - 4) tag r.v else s

/-- NS of the entry being fired (R122). -/
def State.nsOf (s : State) : BitVec 6 := (decodeTrigger ((s.core s.fire.core).entryAt s.fire.elem s.fire.entry.val)).ns

/-- The channels a firing pops, each once (R122, R140); of one channel that both selects name, either select pops the head (R123). -/
def popList (x : ElemAct) (u : OpUse) (o : OpOut) : List Nat :=
  if u.a && u.b && srcChan? x.sa == srcChan? x.sb then
    (if (o.popA || o.popB) && (srcPops x.sa || srcPops x.sb) then (srcChan? x.sa).toList else [])
  else
    (if u.a && o.popA && srcPops x.sa then (srcChan? x.sa).toList else []) ++
      (if u.b && o.popB && srcPops x.sb then (srcChan? x.sb).toList else [])

/-- Freeze the firing element; the record holds the entry (R127, R361). [log entry 23, DEDUCED] -/
def State.fireFault (s : State) (k : OpFault) : State :=
  s.freezeElem s.fire.core s.fire.elem k.kind s.fire.entry.val k.field
    (BitVec.ofNat 64 ((s.core s.fire.core).entryAt s.fire.elem s.fire.entry.val))

/-- The words that a destination select writes. -/
def destSpots (c : CoreId) (e : ElemId) (sel : BitVec 5) : List Spot :=
  if h : sel.toNat < 4 then dregSpots c e ⟨sel.toNat, h⟩ else []

/-- The effect of a firing that does not fault, as one step (R122). -/
def State.fireStep (s : State) (x : ElemAct) (u : OpUse) (o : OpOut) : State :=
  let c := s.fire.core
  let e := s.fire.elem
  let tag := s.tagOf c e x u
  let ns := s.nsOf
  let s := (popList x u o).foldl (fun s ch => s.popElem c e ch) s
  let s := (s.clearSpots (destSpots c e x.da ++ destSpots c e x.db)).modCore c (fun k =>
    k.modElem e (fun el => ((el.write x.da o.ra).write x.db o.rb).setFlags o.flags))
  let s := (s.emitTo c e x.da tag o.ra).emitTo c e x.db tag o.rb
  s.modCore c (fun k => k.modElem e (fun el => { el with
    st := ns, firings := el.firings + 1, credit := false, acted := some s.slot }))

/-- The inputs of the firing's operation (R122, R125); the code table is that of the start of the clock (R149). -/
def State.opIn (s : State) (x : ElemAct) (u : OpUse) : OpIn :=
  let c := s.fire.core
  let e := s.fire.elem
  let f := s.opFormat c e x u
  let el := (s.core c).elems[e]
  { a := s.srcVal c e x.sa f, b := s.srcVal c e x.sb f, f := f,
    old := if x.da.toNat ≤ 3 then vget el.d x.da.toNat {} else {}, oldD := decide (x.da.toNat ≤ 3),
    rm := getBits el.esr 10 2, sat := el.esr.getLsbD 14, qf := el.esr.getLsbD 15, ill3e := el.esr.getLsbD 13,
    tab := (s.atStart.core c).me.cta, selA := x.sa, selB := x.sb
    fa := if u.a then s.srcFmt? c e x.sa else none, fb := if u.b then s.srcFmt? c e x.sb else none
    scalA := scalarOf (s.srcVal c e x.sa f) x.sa el.k, scalB := scalarOf (s.srcVal c e x.sb f) x.sb el.k }

/-- The places with error correction that a source select reads (R127). -/
def selSpots (c : CoreId) (e : ElemId) (sel : BitVec 5) : List Spot :=
  let n := sel.toNat
  if n ≤ 3 then dregSpots c e (Fin.ofNat 4 n)
  else if n ≤ 11 then headSpots c e (Fin.ofNat 4 n)
  else if n = 12 then [.kreg c e]
  else if 16 ≤ n ∧ n ≤ 23 then [.literal c e (Fin.ofNat 8 (n - 16))]
  else []

/-- Whether a firing reads the old contents of DA: an operation that accumulates there (R131), a conversion to more lanes than it has or a PK3,
which keep the other lanes of a D register of the result's format (R135, R137). -/
def OpIn.readsOld (i : OpIn) (op : Nat) : Bool :=
  let to_ : Fmt := BitVec.ofNat 4 i.scalB
  i.oldD && ((opUse op).needD || (op == 0x34 && i.old.fmt == 10) ||
    ((op == 0x30 || op == 0x32 || op == 0x37) && i.old.fmt == to_ && decide (laneCount i.f < laneCount to_)))

/-- Whether a firing reads the code table: LACC, and CVT from LNS6 (R149). -/
def OpIn.readsCode (i : OpIn) (op : Nat) : Bool := op == 0x36 || (op == 0x30 && i.f == 9)

/-- The places with error correction or parity that a firing reads beside its entry: its sources, the old DA and the code table (R127, R258). -/
def State.fireReads (s : State) (x : ElemAct) (op : Nat) : List Spot :=
  let u := opUse op
  let c := s.fire.core
  let e := s.fire.elem
  let i := s.opIn x u
  (if u.a then selSpots c e x.sa else []) ++ (if u.b then selSpots c e x.sb else []) ++
    (if i.readsOld op then destSpots c e x.da else []) ++ (if i.readsCode op then codeSpots c else [])

/-- The field at fault of a firing that reads an uncorrectable error: a source, the old DA, the code table, or the entry itself (R127, R361).
[log entry 23, DEDUCED] -/
def State.fireEcc? (s : State) (x : ElemAct) (op : Nat) : Option Nat :=
  if s.fatalAt [.entry s.fire.core s.fire.elem s.fire.entry] then some 0
  else if s.fatalAt (s.fireReads x op) then some 6
  else none

/-- Whether a result for an O would be a cell that names a reserved port by the route entry bound there, as the entry stands in the firing clock (R11,
R127). [log entry 142, DESIGN CHOICE] -/
def State.emitsReserved (s : State) (d : BitVec 5) (r : Res) : Bool :=
  decide (4 ≤ d.toNat ∧ d.toNat ≤ 7) && (match (s.core s.fire.core).outEntry? s.fire.elem (d.toNat - 4) with
    | some en => (s.core s.fire.core).toReserved s.fire.core { offerEntry en tDATA r.v.key r.v.data with elem := some s.fire.elem }
    | none => false)

/-- An operation's firing (R122, R125, R127): it corrects and counts the correctable errors that it reads and goes on; reserved encodings and the
rules of R131 give TABLE, an unbound output, and at the end a cell for a reserved port, PORT, an uncorrectable error ECC;
a format that the operation does not take is found before a second operand whose own format is not F, and that before an operand's data. [log entry 23, DEDUCED; log entry 142, DESIGN CHOICE] -/
def State.fireOp (s : State) (x : ElemAct) (op : Nat) (f : OpIn → Except OpFault OpOut) : State :=
  let u := opUse op
  let c := s.fire.core
  let e := s.fire.elem
  if !x.legal || !actOk x u then s.fireFault { kind := kTABLE, field := tableField op x }
  else
  let x := u.mask x
  match s.fireEcc? x op with
  | some k => s.fireFault { kind := kECC, field := k }
  | none =>
  if (s.core c).unboundO e x.da then s.fireFault { kind := kPORT, field := 3 }
  else if (s.core c).unboundO e x.db then s.fireFault { kind := kPORT, field := 4 }
  else
    let i := s.opIn x u
    let mixed := u.b && !u.rawB && (match s.srcFmt? c e x.sb with | some g => g != i.f | none => false)
    match f i with
    | .error k => if mixed && k.field == 6 then s.fireFault { kind := kFMT, field := 2 } else s.fireFault k
    | .ok o =>
      if mixed then s.fireFault { kind := kFMT, field := 2 }
      else if s.emitsReserved x.da o.ra then s.fireFault { kind := kPORT, field := 3 }
      else if s.emitsReserved x.db o.rb then s.fireFault { kind := kPORT, field := 4 }
      else (s.softAt (s.fireReads x op) (ErrCounts.countElem c)).fireStep x u o

/-- ELEMENT_DRAIN: the element's pass boundary (R126). -/
def execElementDrain (c : CoreId) (e : ElemId) (s : State) : Out :=
  let x := s.core c
  if s.elemRuns c e && s.drainReady c e then
    let cfg := x.elemCfg e
    let s := cfg.bound.foldl (fun s ch => s.popHead c (48 + e.val) ch) s
    let s := cfg.boundOuts.foldl (fun s en => s.modCore c (fun x => x.offer (48 + e.val)
      { offerEntry en tDRN 0 0 with elem := some e, since := s.slot + 1 })) s
    let s := if ((s.core c).elems[e]).kpend.isSome then s.clearSpots [.kreg c e] else s
    .next (s.modCore c (fun x => (x.modElem e (fun el => { el with
      k := el.kpend.getD el.k, kpend := none, passes := el.passes + 1, credit := false, acted := some s.slot })).cross (48 + e.val)))
  else .next s

/-- TABLE_FAULT: the firing element's entry holds a reserved encoding (R77): it freezes and consumes nothing; the record names the field
(R127). -/
def execTableFault (s : State) : Out :=
  let w := (s.core s.fire.core).entryAt s.fire.elem s.fire.entry.val
  .next (s.fireFault { kind := kTABLE, field := tableField (bits w 63 56) (decodeElemAct w) })

end Sys2Proof.Machine
end

