-- ==== Sys2Proof/Machine/Pattern.lean ====
section
/-! DEFINITION. Pattern registers and what they describe (R205-R208), the APS instructions (R211), the checks of the binding forms
(R212-R214), SBAR (R220), and the taking of stream slots and units (R213). -/

namespace Sys2Proof.Machine

/-! ## Pattern fields (R205) -/

def patBase (p : BitVec 256) : Nat := getBits p 0 55
def patEsz (p : BitVec 256) : Nat := getBits p 55 3
def patMode (p : BitVec 256) : Nat := getBits p 58 2
def patAux (p : BitVec 256) : BitVec 4 := BitVec.ofNat 4 (getBits p 60 4)
def patCount (p : BitVec 256) (d : Nat) : Nat := getBits p (64 + 48 * d) 20
def patStride (p : BitVec 256) (d : Nat) : Int := sext 28 (getBits p (84 + 48 * d) 28)
/-- c_d: a count of 0 acts as 1. -/
def patDim (p : BitVec 256) (d : Nat) : Nat := max (patCount p d) 1
/-- size(ESZ): both cell sizes are 256 bytes. -/
def eszSize (e : Nat) : Nat := if e ≤ 4 then 2 ^ e else 256
def patSize (p : BitVec 256) : Nat := eszSize (patEsz p)

/-- The elements of an affine pattern. -/
def patN (p : BitVec 256) : Nat := patDim p 0 * patDim p 1 * patDim p 2 * patDim p 3

/-- N of a stream: c0 times the number of indices for an indirect pattern (R206, R207). -/
def streamN (p aux : BitVec 256) : Nat := if patMode p = 1 then patDim p 0 * patN aux else patN p

/-- N_cells (R206). -/
def streamCells (p aux : BitVec 256) : Nat := (streamN p aux * patSize p + 255) / 256

/-- addr(e) of an affine pattern, before it wraps (R206). -/
def patOffset (p : BitVec 256) (e : Nat) : Int :=
  let i0 := e % patDim p 0
  let i1 := e / patDim p 0 % patDim p 1
  let i2 := e / (patDim p 0 * patDim p 1) % patDim p 2
  let i3 := e / (patDim p 0 * patDim p 1 * patDim p 2)
  patSize p * (i0 * patStride p 0 + i1 * patStride p 1 + i2 * patStride p 2 + i3 * patStride p 3)

/-- An address modulo the top of its space: 2^55 for VA, 2^28 for the pool (R206). -/
def wrapAddr (top : Nat) (x : Int) : Nat := (x % (top : Int)).toNat

def vaTop : Nat := 2 ^ 55
def poolTop : Nat := 2 ^ 28

/-- addr(e) of an affine pattern. -/
def patAddr (top : Nat) (p : BitVec 256) (e : Nat) : Nat := wrapAddr top (patBase p + patOffset p e)

/-- The address of element e of an indirect stream whose index is x (R207). -/
def indirectAddr (p : BitVec 256) (e x : Nat) : Nat :=
  wrapAddr vaTop (patBase p + patSize p * ((x : Int) * patStride p 1 + (e % patDim p 0 : Nat) * patStride p 0))

/-- The cell of element e, and the first element of a cell. -/
def patPer (p : BitVec 256) : Nat := 256 / patSize p

/-! ## APS (R211) -/

def execApbase (d : BitVec 4) (a : BitVec 5) (s : State) : Out :=
  .next (s.modMe (fun t => (t.wrAP d (setBits (t.rdAP d) 0 55 (t.rd a).toNat)).next))

/-- APDIM: ILL with cause 3 for a count or a stride that its field does not hold. -/
def execApdim (d : BitVec 4) (a b : BitVec 5) (n : BitVec 2) (s : State) : Out :=
  let cnt := (s.me.rd a).toNat
  let str := s.me.rd b
  .next (
    if 2 ^ 20 ≤ cnt ∨ str ≠ (str.setWidth 28).signExtend 64 then s.ill (.apdim d a b n) 3
    else s.modMe (fun t =>
      (t.wrAP d (setBits (t.rdAP d) (64 + 48 * n.toNat) 48 (cnt + 2 ^ 20 * (str.toNat % 2 ^ 28)))).next))

def execApmode (d : BitVec 4) (a : BitVec 5) (s : State) : Out :=
  let v := s.me.rd a
  .next (s.modMe (fun t =>
    (t.wrAP d (setBits (t.rdAP d) 55 9 (getBits v 0 3 + 8 * getBits v 3 2 + 32 * getBits v 8 4))).next))

def execApidx (d : BitVec 4) (a : BitVec 5) (s : State) : Out :=
  .next (s.modMe (fun t => (t.wrAP d (setBits (t.rdAP d) 58 6 (1 + 4 * getBits (t.rd a) 0 4))).next))

def execApget (d : BitVec 5) (a : BitVec 4) (n : BitVec 2) (s : State) : Out :=
  .next (s.put d (BitVec.ofNat 64 (getBits (s.me.rdAP a) (64 * n.toNat) 64)))

/-! ## Binding forms (R212, R213) -/

/-- Whether a function number of R212 names a sink. -/
def fnSink (fn : Nat) : Bool := fn == 2 || fn == 4

/-- Check 1 of R213: whether the form raises ILL. -/
def bindIll (fn port : Nat) (p aux : BitVec 256) : Bool :=
  let m := patMode p
  let z := patEsz p
  z == 7 || m == 3 ||
  (if fn = 3 ∨ fn = 4 then m != 1 else m != 0 && m != 2) ||
  (z == 6 && (m == 1 || m == 2)) ||
  (m == 1 && (patMode aux != 0 || patEsz aux != 2 || patCount p 2 != 0 || patCount p 3 != 0)) ||
  (if fnSink fn then !isStorePort port else isStorePort port || (egReserved port && port != 124)) ||
  decide (2 ^ 48 < streamN p aux)

/-- Check 2 of R213: the address that is not aligned, if any. Of the arrays only the one that the pattern uses is checked. [log entry 30, DEDUCED] -/
def bindMisaligned? (p aux : BitVec 256) : Option Nat :=
  let al := min (patSize p) 64
  let arr := patMode p == 1 || patMode p == 2 || patEsz p == 6
  if patBase p % al ≠ 0 then some (patBase p)
  else if arr && decide (patBase aux % al ≠ 0) then some (patBase aux)
  else none

/-- The configuration slot that a bank stream belongs to (R214): a pending swap's, else the active one. [log entry 29, DEDUCED] -/
def Core.ownSlot? (x : Core) : Option Bool :=
  match x.swap with
  | some w => some w.slot
  | none => x.activeSlot?

/-- A binding form at issue (R213): its checks, then the thread parks for a slot and a unit. -/
def State.bindForm (s : State) (i : Instr) (fn : Nat) (p : BitVec 7) (a : BitVec 4) (tag : BitVec 6) (v : BitVec 5) : State :=
  let pat := s.me.rdAP a
  let aux := s.me.rdAP (patAux pat)
  let kind : Kind := if fnSink fn then .write else .read
  if bindIll fn p.toNat pat aux then s.ill i 3
  else match bindMisaligned? pat aux with
    | some x => s.accTrap kALIGN x kind
    | none =>
      let own := if fn = 1 then s.myCore.ownSlot? else none
      if fn = 1 ∧ (poolCore (patBase pat) ≠ s.cur.1.val ∨ 48 ≤ poolBank (patBase pat)) then s.accTrap kPROT (patBase pat) kind
      else s.parkMe (.bind { fn := BitVec.ofNat 4 fn, port := p, pat := pat, aux := aux, tag := tag, vc := v } own)

def execSload (p : BitVec 7) (a : BitVec 4) (t : BitVec 6) (v : BitVec 5) (s : State) : Out :=
  .next (s.bindForm (.sload p a t v) 0 p a t v)
def execSread (p : BitVec 7) (a : BitVec 4) (t : BitVec 6) (v : BitVec 5) (s : State) : Out :=
  .next (s.bindForm (.sread p a t v) 1 p a t v)
def execSstore (p : BitVec 7) (a : BitVec 4) (t : BitVec 6) (v : BitVec 5) (s : State) : Out :=
  .next (s.bindForm (.sstore p a t v) 2 p a t v)
def execSgather (p : BitVec 7) (a : BitVec 4) (t : BitVec 6) (v : BitVec 5) (s : State) : Out :=
  .next (s.bindForm (.sgather p a t v) 3 p a t v)
def execSscatter (p : BitVec 7) (a : BitVec 4) (t : BitVec 6) (v : BitVec 5) (s : State) : Out :=
  .next (s.bindForm (.sscatter p a t v) 4 p a t v)

/-- SBAR: the thread's pending barrier mask (R220). -/
def execSbar (n : BitVec 4) (s : State) : Out :=
  .next (s.modMe (fun t => { t.next with barMask := (t.rd (regOf n)).setWidth 32 }))

/-! ## Slots and units (R204, R212) -/

def Strm.live (y : Strm) : Bool := y.st != .free && y.st != .done

def StrmKind.isSource (k : StrmKind) : Bool := k == .sload || k == .sread || k == .sgather
def StrmKind.isSink (k : StrmKind) : Bool := k == .sstore || k == .sscatter

/-- The lowest slot that is FREE or DONE (R204). -/
def Core.freeStrm? (x : Core) : Option StrmId := (List.finRange 32).find? (fun k => !x.strms[k].live)

/-- The lowest idle loader. -/
def Core.loaderIdle? (x : Core) : Option (Fin 8) :=
  (List.finRange 8).find? (fun l => !x.strms.toList.any (fun y => y.live && y.loader == some l))

/-- Whether a storer is idle: bound to no stream and to no splice. -/
def Core.storerFree (x : Core) (q : Fin 8) : Bool :=
  !x.strms.toList.any (fun y => y.live && y.storer == some q) && !x.splices.any (fun z => z.storer == q)

def Core.storerIdle? (x : Core) : Option (Fin 8) := (List.finRange 8).find? (fun q => x.storerFree q)

/-- Whether a stream has finished its accesses (R218): its reads for a source, its writes for a sink; a FROZEN one has not (R220). -/
def Strm.finished (y : Strm) : Bool :=
  if !y.live then true
  else if y.st == .frozen then false
  else if y.kind.isSource then decide (y.asked = y.ncells)
  else if y.kind.isSink then decide (y.cells = y.ncells) && y.writes.isEmpty
  else y.doneAt.isSome

/-- The slots whose streams have finished their accesses, or that are FREE or DONE. -/
def Core.finishedSlots (x : Core) : BitVec 32 :=
  BitVec.ofNat 32 ((List.finRange 32).foldl (fun n k => if x.strms[k].finished then n + 2 ^ k.val else n) 0)

/-- Drop those slots from every barrier mask (R220). [log entry 41, DEDUCED] -/
def Core.pruneMasks (x : Core) : Core :=
  let done := x.finishedSlots
  { x with strms := x.strms.map (fun y => if y.mask = 0 then y else { y with mask := y.mask &&& ~~~done }) }

/-- Whether a held stream can start (R214, R220, R243): its mask is empty, and its slot holds the bank's token and waits for no swap
(R262). -/
def Core.strmFree (x : Core) (y : Strm) : Bool :=
  y.mask == 0 &&
    (if y.kind == .sread then
      match y.own with
      | none => true
      | some b => (x.bankAt (poolBank (patBase y.pat))).owner == b &&
          (match x.swap with | some w => w.slot != b | none => true)
    else true)

/-- A splice of slot k goes on without the slot: it keeps the extents of the stream that it served (R204, R226). [log entry 32, DEDUCED] -/
def Core.leaveSplices (x : Core) (k : StrmId) : Core :=
  { x with splices := x.splices.map (fun z =>
      if z.strm = k ∧ z.gone = false then { z with gone := true, extents := x.strms[k].extents } else z) }

/-- A new stream in its slot: WAIT when it is held, RUNNING otherwise (R213). Its mask is held against the slots as they stood. -/
def Core.takeSlot (x : Core) (k : StrmId) (y : Strm) : Core :=
  let m := y.mask &&& ~~~x.finishedSlots
  let x := x.leaveSplices k
  let x := { (x.pruneMasks.modStrm k (fun _ => { y with mask := m })) with edges := Sparse.erase x.edges k.val }
  x.modStrm k (fun y => { y with st := if x.strmFree y then .running else .wait })

/-- The kind of stream that a function number of R212 binds. -/
def kindOfFn (fn : BitVec 4) : StrmKind :=
  match fn.toNat with
  | 0 => .sload | 1 => .sread | 2 => .sstore | 3 => .sgather | _ => .sscatter

/-- The storer that a STORE port names. -/
def storerOf (p : BitVec 7) : Fin 8 := Fin.ofNat 8 (p.toNat - 108)

/-- Whether the unit that a binding form takes is free, and the loader and storer it takes (R212). -/
def Core.bindUnit? (x : Core) (r : BindReq) : Option (Option (Fin 8) × Option (Fin 8)) :=
  match kindOfFn r.fn with
  | .sload | .sgather => (x.loaderIdle?).map (fun l => (some l, none))
  | .sread => if (x.bankStrm? (poolBank (patBase r.pat))).isNone then some (none, none) else none
  | _ => if x.storerFree (storerOf r.port) then some (none, some (storerOf r.port)) else none

/-- A binding form's thread takes the slot and the unit: the mask is consumed and the instruction completes (R213, R220). [log entry 41, DEDUCED] -/
def State.bindTake (s : State) (c : CoreId) (t : Tid) (r : BindReq) (own : Option Bool) : State :=
  let x := s.core c
  match x.freeStrm?, x.bindUnit? r with
  | some k, some u =>
    let y : Strm := {
      kind := kindOfFn r.fn, st := .wait, pat := r.pat, aux := r.aux, port := r.port, vc := r.vc, tag := r.tag
      mask := (s.thr c t).barMask, own := own, total := streamN r.pat r.aux, ncells := streamCells r.pat r.aux
      loader := u.1, storer := u.2 }
    (s.modCore c (fun x => x.takeSlot k y)).finish c t (fun th => { th with barMask := 0 })
  | _, _ => s

/-- STREAM_RELEASE: a held stream starts running (R214, R220). [log entry 29, DEDUCED] -/
def execStreamRelease (c : CoreId) (k : StrmId) (s : State) : Out :=
  let x := (s.core c).pruneMasks
  let y := x.strms[k]
  .next (if y.st = .wait ∧ x.strmFree y then s.setCore c (x.modStrm k (fun y => { y with st := .running })) else s)

end Sys2Proof.Machine
end

