-- ==== Sys2Proof/Machine/Streams.lean ====
section
/-! DEFINITION. Streams at work: their accesses and translations (R206-R210, R215-R217), completion (R218), drain tokens (R221, R262),
SCELL (R199), SARG (R224), SSPLICE (R226), faults (R227), cancelling (R228), SQRY (R229). -/

namespace Sys2Proof.Machine

/-! ## Faults and walks (R215, R227) -/

/-- A stream freezes: the record holds its slot, the kind of access, its two position counters and the address (R227, R361). [log entry 33, DEDUCED] -/
def State.freezeStrm (s : State) (c : CoreId) (k : StrmId) (code : BitVec 8) (a : Nat) (wr : Bool) : State :=
  let y := (s.core c).strms[k]
  let s := s.modCore c (fun x => x.modStrm k (fun z => { z with st := .frozen, fault := some (code, a), walk := none }))
  s.record c code (unitId c 4 k.val) (k.val + (if wr then 32 else 0)) (pos2 y.elems y.cells) (BitVec.ofNat 64 a)

/-- A fault of a stream freezes it once the writes of the elements before are performed (R227). -/
def State.stopAt (s : State) (c : CoreId) (k : StrmId) (code : BitVec 8) (a : Nat) (wr : Bool) : State :=
  if ((s.core c).strms[k]).writes.isEmpty then s.freezeStrm c k code a wr else s

/-- What an access of a generator comes to: a value, a walk to wait for, or a fault at an address. -/
inductive Acc where
  | val (v : Nat)
  | walk (va : Nat) (k : Kind)
  | bad (code : BitVec 8) (a : Nat) (wr : Bool)
deriving DecidableEq, Repr

/-- The physical address of va by a stream's own extents (R215). -/
def Strm.pa? (y : Strm) (ten : Tenant) (va : Nat) (k : Kind) : Option Nat :=
  match findXlat y.extents ten va with
  | some e => if e.allows k then some (e.pa va) else none
  | none => none

/-- The bytes of an access of n bytes at va that lie on its first page; an index or a key can cross into the next (R213, R215). -/
def onPage (va n : Nat) : Nat := min n (2 ^ 16 - va % 2 ^ 16)

/-- A read of n bytes on one page by a stream's extents. A frame beyond HBM, which only a splice can have put there, addresses nothing: no leaf
maps there, and the read gives PROT as such a leaf does (R226, R234, R253). [log entry 32, DEDUCED] -/
def State.strmReadPage (s : State) (c : CoreId) (y : Strm) (va n : Nat) : Acc :=
  match y.pa? (s.tenantOf c) va .read with
  | none => .walk va .read
  | some pa =>
    if hbmTop ≤ pa then .bad kPROT va false
    else if s.hbmBad pa n then .bad kECC va false else .val (Memory.readN s.hbm pa n)

/-- A read of n bytes at a VA by a stream's extents, each page by its own. -/
def State.strmReadVa (s : State) (c : CoreId) (y : Strm) (va n : Nat) : Acc :=
  let m := onPage va n
  if m = n then s.strmReadPage c y va n
  else match s.strmReadPage c y va m with
    | .val v => (match s.strmReadPage c y ((va + m) % vaTop) (n - m) with
      | .val r => .val (v + 256 ^ m * r)
      | z => z)
    | z => z

/-- A read of n bytes of the pool by a bank's generator: PROT outside its bank (R214). -/
def State.strmReadPool (s : State) (y : Strm) (a n : Nat) : Acc :=
  let home := patBase y.pat / 65536 % 4096
  if a / 65536 ≠ home ∨ (a + n - 1) / 65536 ≠ home then .bad kPROT a false
  else if s.poolBad a n then .bad kECC a false
  else .val (Memory.readN s.pool a n)

def State.strmRead (s : State) (c : CoreId) (y : Strm) (a n : Nat) : Acc :=
  if y.kind = .sread then s.strmReadPool y a n else s.strmReadVa c y a n

def Strm.top (y : Strm) : Nat := if y.kind = .sread then poolTop else vaTop

/-- The address of element e; an indirect one reads its index (R206, R207). -/
def State.elemAddr (s : State) (c : CoreId) (y : Strm) (e : Nat) : Acc :=
  if patMode y.pat = 1 then
    match s.strmReadVa c y (patAddr vaTop y.aux (e / patDim y.pat 0)) 4 with
    | .val x => .val (indirectAddr y.pat e x)
    | r => r
  else .val (patAddr y.top y.pat e)

/-- Reads of left lines of 64 bytes from a. -/
def State.readLines (s : State) (c : CoreId) (y : Strm) (a left : Nat) : Acc :=
  match left with
  | 0 => .val 0
  | n + 1 =>
    match s.strmRead c y (a % y.top) 64 with
    | .val v => match s.readLines c y (a + 64) n with
      | .val r => .val (v + 2 ^ 512 * r)
      | z => z
    | z => z

/-- The value of element e. -/
def State.readElem (s : State) (c : CoreId) (y : Strm) (e : Nat) : Acc :=
  match s.elemAddr c y e with
  | .val a => if patSize y.pat ≤ 16 then s.strmRead c y a (patSize y.pat) else s.readLines c y a 4
  | z => z

/-- Read the next n elements of the cell being assembled, up to the first that cannot be read. -/
def State.fillCell (s : State) (c : CoreId) (y : Strm) (n : Nat) : Strm × Option Acc :=
  match n with
  | 0 => (y, none)
  | n + 1 =>
    match s.readElem c y y.elems with
    | .val v =>
      let w := 8 * patSize y.pat
      s.fillCell c { y with asm := setBits y.asm (w * (y.elems % patPer y.pat)) w v, elems := y.elems + 1 } n
    | z => (y, some z)

/-- Elements of a stream up to the end of cell j. -/
def Strm.upTo (y : Strm) (j : Nat) : Nat := min (patPer y.pat * (j + 1)) y.total

/-- The key or scale that goes with cell j (R208, R209); zero without an array. [log entry 42, DEDUCED] -/
def State.readKey (s : State) (c : CoreId) (y : Strm) (j : Nat) : Acc :=
  if patMode y.pat = 2 then s.strmRead c y ((patBase y.aux + 2 * j) % y.top) 2
  else if patEsz y.pat = 6 then s.strmRead c y ((patBase y.aux + j) % y.top) 1
  else .val 0

/-- The cell that a source stream has assembled (R209). -/
def Strm.cellOf (y : Strm) (k : StrmId) (slot key : Nat) : Cell := {
  h := { ep := if y.port = 124 then 0 else y.port, vc := if y.port = 124 then 0 else y.vc, key := BitVec.ofNat 16 key }
  data := y.asm
  m := { strm := some (k, y.asked), since := slot + 1 } }

/-- Its offer: by route entry 224 + slot for port 124; KEY by destination when no array gives it (R209). -/
def Strm.offerOf (y : Strm) (k : StrmId) (slot : Nat) (cell : Cell) : Offer := {
  via := if y.port = 124 then .entry (BitVec.ofNat 8 (224 + k.val)) else .direct
  cell := { cell with m := { cell.m with since := 0 } }
  keyed := patMode y.pat != 2 && patEsz y.pat != 6
  since := slot + 1 }

/-- Assemble the next cell: its cell when every read is done, else the stream as far as it has come and what stops it. [log entry 31, DEDUCED] -/
def State.nextCell (s : State) (c : CoreId) (k : StrmId) (y : Strm) : Strm × Except Acc Cell :=
  match s.fillCell c y (y.upTo y.asked - y.elems) with
  | (y, some z) => (y, .error z)
  | (y, none) =>
    match s.readKey c y y.asked with
    | .val key => ({ y with asm := 0, asked := y.asked + 1 }, .ok (y.cellOf k s.slot key))
    | z => (y, .error z)

/-- A stream meets what stops it: it waits for a walk, or freezes, once the elements before the one that stops it are performed (R227). -/
def State.strmStop (s : State) (c : CoreId) (k : StrmId) (z : Acc) : State :=
  match z with
  | .walk va kd => s.modCore c (fun x => x.modStrm k (fun y => { y with walk := some (BitVec.ofNat 55 va, kd) }))
  | .bad code a wr => s.stopAt c k code a wr
  | .val _ => s

/-! ## Splices (R226) -/

/-- Whether a frame lies beyond HBM: it addresses nothing (R234). -/
def frameAbsent (frame : Nat) : Bool := decide (2 ^ 24 ≤ frame)

/-- Copy line no (VA / 64) of a page from the old frame to the new one; what is written where nothing is addressed is nowhere (R226, R234). [log
entry 32, DEDUCED] -/
def State.copyLine (s : State) (old new off : Nat) : State :=
  let t := s.softHbm (old + 64 * off) 64
  if frameAbsent new then t else t.hbmStore (new * 2 ^ 16 + 64 * off) 64 (Memory.readN s.hbm (old + 64 * off) 64)

/-- The parts of a page, each an offset and a length, that elements a to b of a stream lie on. -/
def State.partsOn (s : State) (c : CoreId) (y : Strm) (page a b : Nat) : List (Nat × Nat) :=
  (List.range (b - a)).flatMap (fun i =>
    match s.elemAddr c y (a + i) with
    | .val v =>
      let n := patSize y.pat
      let m := onPage v n
      [(v, m), ((v + m) % vaTop, n - m)].filterMap (fun z => if z.2 ≠ 0 ∧ z.1 / 2 ^ 16 = page then some (z.1 % 2 ^ 16, z.2) else none)
    | _ => [])

/-- The lines of a page (0-1023) of which these parts cover every byte. -/
def wholeLines (l : List (Nat × Nat)) : List Nat :=
  ((l.flatMap (fun q => (List.range (q.2 / 64 + 1)).map (fun j => q.1 / 64 + j))).eraseDups).filter (fun n =>
    (List.range 64).all (fun i => l.any (fun q => decide (q.1 ≤ 64 * n + i ∧ 64 * n + i < q.1 + q.2))))

/-- The core's splices with their places, of one stream slot that still holds its stream. -/
def Core.splicesOf (x : Core) (k : StrmId) : List (Nat × Splice) :=
  ((List.range x.splices.length).zip x.splices).filter (fun z => z.2.strm == k)

/-- The splices of a stream that fork elements a to b: each with the old frame's address and the parts of its page that they lie on. -/
def State.forks (s : State) (c : CoreId) (k : StrmId) (y : Strm) (a b : Nat) : List (Nat × Splice × Nat × List (Nat × Nat)) :=
  (((s.core c).splicesOf k).filter (fun z => !z.2.gone)).filterMap (fun z =>
    let l := s.partsOn c y z.2.page a b
    if l.isEmpty then none else (y.pa? (s.tenantOf c) (z.2.page * 2 ^ 16) .read).map (fun old => (z.1, z.2, old, l)))

/-- Where the forks of a stream's next cell go (R14). -/
def State.forkPas (s : State) (c : CoreId) (k : StrmId) : List Nat :=
  let y := (s.core c).strms[k]
  (s.forks c k y y.elems (y.upTo y.asked)).flatMap (fun z =>
    if frameAbsent z.2.1.frame then [] else z.2.2.2.map (fun q => z.2.1.frame * 2 ^ 16 + q.1))

/-- Whether the storers that fork a stream's next cell have issued no cell's writes in this slot (R394). -/
def State.forksReady (s : State) (c : CoreId) (k : StrmId) : Bool :=
  let y := (s.core c).strms[k]
  (s.forks c k y y.elems (y.upTo y.asked)).all (fun z => (s.core c).storerReady (some z.2.1.storer) s.slot)

/-- A stream's splices fork elements a to b, which it has just read: the storer of each writes their bytes, one cell's at most, to the new frame, and
the lines that are then whole need no copy (R226, R394). [log entry 32, DEDUCED] -/
def State.forkCell (s : State) (c : CoreId) (k : StrmId) (a b : Nat) : State :=
  (s.forks c k (s.core c).strms[k] a b).foldl (fun t z =>
    let (i, p, old, l) := z
    let t := if frameAbsent p.frame then t else l.foldl (fun t q => t.hbmStore (p.frame * 2 ^ 16 + q.1) q.2 (Memory.readN s.hbm (old + q.1) q.2)) t
    t.modCore c (fun x => ({ x with splices := x.splices.set i { p with
      lines := p.lines ++ (wholeLines l).filter (fun n => !p.lines.contains n) } } : Core).storerUsed (some p.storer) s.slot)) s

/-- The correctable errors that a read of n bytes has met: each page's own (R258). -/
def State.softRead (s : State) (c : CoreId) (y : Strm) (a n : Nat) : State :=
  if y.kind = .sread then s.softPool a n
  else
    let page (s : State) (va n : Nat) : State := match y.pa? (s.tenantOf c) va .read with
      | some pa => s.softHbm pa n
      | none => s
    let m := if n ≤ 16 then onPage a n else n
    if m = n then page s a n else page (page s a m) ((a + m) % vaTop) (n - m)

/-- The correctable errors that the reads of elements a to b have met: of the elements, or of a sink's indices (R258). -/
def State.softElems (s : State) (c : CoreId) (y : Strm) (a b : Nat) : State :=
  if s.ecc.hbmSoft.isEmpty && s.ecc.poolSoft.isEmpty then s
  else (List.range (b - a)).foldl (fun s i =>
    let s := if patMode y.pat = 1 then
        s.softRead c y (patAddr vaTop y.aux ((a + i) / patDim y.pat 0)) 4
      else s
    match s.elemAddr c y (a + i) with
    | .val v => if y.kind.isSink then s else s.softRead c y v (patSize y.pat)
    | _ => s) s

/-- The address of the key or scale that goes with cell j, and its bytes (R208, R209). -/
def Strm.keyAt? (y : Strm) (j : Nat) : Option (Nat × Nat) :=
  if patMode y.pat = 2 then some ((patBase y.aux + 2 * j) % y.top, 2)
  else if patEsz y.pat = 6 then some ((patBase y.aux + j) % y.top, 1)
  else none

/-- The correctable errors that the read of cell j's key has met (R258). -/
def State.softKey (s : State) (c : CoreId) (y : Strm) (j : Nat) : State :=
  match y.keyAt? j with
  | some (a, n) => s.softRead c y a n
  | none => s

/-- Where the first and the last of n bytes at a VA lie in HBM, as far as a stream's extents give it. -/
def Strm.placesOf (y : Strm) (ten : Tenant) (va n : Nat) : List Nat := [va, (va + n - 1) % vaTop].filterMap (fun a => y.pa? ten a .read)

/-- Where the index words of elements a to b lie (R206). -/
def State.indexPas (s : State) (c : CoreId) (y : Strm) (a b : Nat) : List Nat :=
  if patMode y.pat = 1 then (List.range (b - a)).flatMap (fun i => y.placesOf (s.tenantOf c) (patAddr vaTop y.aux ((a + i) / patDim y.pat 0)) 4) else []

/-- Where the reads of a source stream's elements a to b lie, their index words among them. -/
def State.elemPas (s : State) (c : CoreId) (y : Strm) (a b : Nat) : List Nat :=
  s.indexPas c y a b ++ (List.range (b - a)).flatMap (fun i => match s.elemAddr c y (a + i) with
    | .val v => y.placesOf (s.tenantOf c) v (patSize y.pat)
    | _ => [])

/-- Where the reads of a stream's next cell lie: of the elements that it still lacks, their index words, and its key. -/
def State.cellPas (s : State) (c : CoreId) (y : Strm) : List Nat :=
  s.elemPas c y y.elems (y.upTo y.asked) ++ (match y.keyAt? y.asked with | some (a, n) => y.placesOf (s.tenantOf c) a n | none => [])

/-- Where the reads lie that a stream has issued for its next cell when it stops at element e: that of the element, and of its index word, among
them. -/
def State.partPas (s : State) (c : CoreId) (y : Strm) (e : Nat) : List Nat :=
  if e < y.upTo y.asked then s.elemPas c y y.elems (e + 1) else s.cellPas c y

/-! ## Loaders (R216) -/

/-- The ingress port of a source stream. -/
def Strm.srcPort (y : Strm) : Nat :=
  match y.loader with
  | some l => 108 + l.val
  | none => poolBank (patBase y.pat)

/-- LOADER_READ_ISSUE: with credit, the reads of the next cell, one cell a slot over the stream paths of its stacks; what stops them leaves those before it,
which are the loader's of this slot (R14, R216, R227, R394). [log entry
31, DEDUCED] -/
def execLoaderReadIssue (c : CoreId) (k : StrmId) (s : State) : Out :=
  let x := s.core c
  let y := x.strms[k]
  if y.st == .running && (y.kind == .sload || y.kind == .sgather) && !y.cancel && y.walk.isNone && decide (y.asked < y.ncells) &&
      (x.ingAt y.srcPort).frozen.isNone && decide (0 < x.credit c k) && x.loaderFree y.loader s.slot && s.pathsFree false (s.cellPas c y) &&
      s.pathsFree true (s.forkPas c k) && s.forksReady c k then
    match s.nextCell c k y with
    | (z, .ok cell) =>
      let s := (((s.softElems c y y.elems z.elems).softKey c y y.asked).pathsUsed false (s.cellPas c y)).pathsUsed true (s.forkPas c k)
      .next ((s.modCore c (fun x => (x.modStrm k (fun _ => { z with inflight := z.inflight ++ [cell] })).loaderUsed y.loader s.slot)).forkCell c k y.elems z.elems)
    | (z, .error r) =>
      let s := ((s.softElems c y y.elems z.elems).pathsUsed false (s.partPas c y z.elems)).pathsUsed true (s.forkPas c k)
      .next (((s.modCore c (fun x => (x.modStrm k (fun _ => z)).loaderUsed y.loader s.slot)).forkCell c k y.elems z.elems).strmStop c k r)
  else .next s

/-- LOADER_READ_RETURN: the oldest cell comes back into the loader's return queue of 16 cells (R204, R216). [log entry 31, DEDUCED] -/
def execLoaderReadReturn (c : CoreId) (k : StrmId) (s : State) : Out :=
  let y := (s.core c).strms[k]
  match y.inflight with
  | [] => .next s
  | q :: r =>
    if y.live && !y.cancel && decide (q.m.since ≤ s.slot) && decide (((s.core c).ingAt y.srcPort).obuf.length < 16) then
      .next (s.modCore c (fun x => (x.modStrm k (fun y => { y with inflight := r })).offer y.srcPort (y.offerOf k s.slot q)))
    else .next s

/-- BANK_SREAD_READ: a bank's generator makes its next cell in one operation (R214, R238). -/
def execBankSreadRead (c : CoreId) (b : BankId) (s : State) : Out :=
  let x := s.core c
  match x.bankGen? c b.val with
  | none => .next s
  | some k =>
    let y := x.strms[k]
    if x.bankPick c s.slot b.val = some 1 then
      match s.nextCell c k y with
      | (z, .ok cell) =>
        .next (((s.softElems c y y.elems z.elems).softKey c y y.asked).modCore c (fun x => ((x.modStrm k (fun _ => z)).bankServed b.val 1).offer b.val (z.offerOf k s.slot cell)))
      | (z, .error r) =>
        .next (((s.softElems c y y.elems z.elems).modCore c (fun x => (x.modStrm k (fun _ => z)).modBank b.val (fun g => { g with served := true }))).strmStop c k r)
    else .next s

/-! ## Storers (R210, R216) -/

/-- The bytes i to i + n - 1 of a payload. -/
def payloadBytes (p : Payload) (i n : Nat) : List Byte := bytesOf n (getBits p (8 * i) (8 * n))

/-- A write of bytes at a VA by a stream's extents, each page by its own. -/
def State.strmWrite (s : State) (c : CoreId) (y : Strm) (va : Nat) (b : List Byte) : Except Acc (List SinkWrite) :=
  let m := onPage va b.length
  match y.pa? (s.tenantOf c) va .write with
  | none => .error (.walk va .write)
  | some pa =>
    if m = b.length then .ok [{ addr := pa, bytes := b }]
    else match y.pa? (s.tenantOf c) ((va + m) % vaTop) .write with
      | none => .error (.walk ((va + m) % vaTop) .write)
      | some qa => .ok [{ addr := pa, bytes := b.take m }, { addr := qa, bytes := b.drop m }]

/-- The writes of element e with payload p: one, or four lines (R210). -/
def State.elemWrites (s : State) (c : CoreId) (y : Strm) (p : Payload) (e : Nat) : Except Acc (List SinkWrite) :=
  match s.elemAddr c y e with
  | .val a =>
    let n := patSize y.pat
    let i := n * (e % patPer y.pat)
    if n ≤ 16 then s.strmWrite c y a (payloadBytes p i n)
    else (List.range 4).foldl (fun acc j => match acc with
      | .error z => .error z
      | .ok l => (s.strmWrite c y ((a + 64 * j) % vaTop) (payloadBytes p (i + 64 * j) 64)).map (fun w => l ++ w)) (.ok [])
  | z => .error z

/-- Issue the writes of the next n elements, up to the first that cannot be issued. -/
def State.emptyCell (s : State) (c : CoreId) (y : Strm) (p : Payload) (n : Nat) : Strm × Option Acc :=
  match n with
  | 0 => (y, none)
  | n + 1 =>
    match s.elemWrites c y p y.elems with
    | .ok l => s.emptyCell c { y with writes := y.writes ++ l, elems := y.elems + 1 } p n
    | .error z => (y, some z)

/-- The key or scale write of cell j (R210). -/
def State.keyWrites (s : State) (c : CoreId) (y : Strm) (j : Nat) (key : Key) : Except Acc (List SinkWrite) :=
  if patMode y.pat = 2 then s.strmWrite c y ((patBase y.aux + 2 * j) % vaTop) (bytesOf 2 key.toNat)
  else if patEsz y.pat = 6 then s.strmWrite c y ((patBase y.aux + j) % vaTop) (bytesOf 1 (key.toNat % 256))
  else .ok []

/-- The writes of a sink's next cell, its key's last: the stream with them, up to the first that cannot be issued. -/
def State.sinkCell (s : State) (c : CoreId) (y : Strm) (cell : Cell) : Strm × Option Acc :=
  match s.emptyCell c y cell.data (y.upTo y.cells - y.elems) with
  | (z, some r) => (z, some r)
  | (z, none) => match s.keyWrites c z z.cells cell.h.key with
    | .error r => (z, some r)
    | .ok l => ({ z with writes := z.writes ++ l }, none)

/-- The head cell that a running sink is taking. -/
def State.sinkHead? (s : State) (c : CoreId) (k : StrmId) : Option Cell :=
  let y := (s.core c).strms[k]
  match y.storer with
  | none => none
  | some q => ((s.core c).head? s.slot (108 + q.val) 0).filter (fun cell => y.kind.isSink && !y.cancel && cell.h.tag != tDRN)

/-- Where the writes go that stream z has and stream y had not. -/
def Strm.newWrites (y z : Strm) : List Nat := (z.writes.drop y.writes.length).map (fun w => w.addr)

/-- A sink issues the writes that it has as z: they are its storer's of this slot (R14, R394). -/
def State.sinkIssue (s : State) (c : CoreId) (k : StrmId) (z : Strm) : State :=
  let y := (s.core c).strms[k]
  let s := (s.softElems c y y.elems z.elems).pathsUsed true (y.newWrites z)
  s.modCore c (fun x => if (y.newWrites z).isEmpty then x.modStrm k (fun _ => z) else (x.modStrm k (fun _ => z)).storerUsed y.storer s.slot)

/-- A sink whose walk for its head cell has failed issues the writes of the elements before the one that it stops at (R227). -/
def State.sinkUpTo (s : State) (c : CoreId) (k : StrmId) : State :=
  match s.sinkHead? c k with
  | some cell => s.sinkIssue c k (s.sinkCell c (s.core c).strms[k] cell).1
  | none => s

/-- Whether its storer or a stream path is taken in this slot, so that it issues none of them (R14, R394). -/
def State.sinkWaits (s : State) (c : CoreId) (k : StrmId) : Bool :=
  let y := (s.core c).strms[k]
  match s.sinkHead? c k with
  | some cell =>
    let pas := y.newWrites (s.sinkCell c y cell).1
    !pas.isEmpty && !((s.core c).storerReady y.storer s.slot && s.pathsFree true pas)
  | none => false

/-- A sink is complete when its last write is performed (R218). -/
def Strm.sinkDone (y : Strm) (slot : Nat) : Strm :=
  if y.kind.isSink ∧ y.cells = y.ncells ∧ y.writes.isEmpty ∧ y.doneAt.isNone ∧ y.cancel = false then { y with doneAt := some slot } else y

/-- SINK_CELL_CONSUME: a sink takes the head of its storer's channel once it can issue all its writes, one cell a slot: while a translation is
missing it issues none, and one that cannot be had leaves those of the elements before it (R227, R228); the index words of a scatter come by the stream
paths of a loader's reads (R14); a cell on another VC freezes it; a
drain token is consumed when every write ahead is performed (R14, R210, R212, R216, R262, R394). [log entry 47, DEDUCED] -/
def execSinkCellConsume (c : CoreId) (k : StrmId) (s : State) : Out :=
  let x := s.core c
  let y := x.strms[k]
  match y.storer with
  | none => .next s
  | some q =>
    let p := 108 + q.val
    match x.head? s.slot p 0 with
    | none => .next s
    | some cell =>
      if y.st == .running && y.kind.isSink && !y.cancel && y.walk.isNone && decide (y.cells < y.ncells) && !((x.egAt p).chan 0).moved &&
          x.storerReady (some q) s.slot then
        if cell.h.vc ≠ y.vc then
          if !y.writes.isEmpty then .next s
          else
          let s := s.modCore c (fun x => x.modStrm k (fun z => { z with st := .frozen, fault := some (kPORT, 0) }))
          .next (s.record c kPORT (unitId c 4 k.val) (k.val + 32) (pos2 y.elems y.cells) cell.h.word)
        else if cell.h.tag = tDRN then
          if y.writes.isEmpty then
            .next ((s.popHead c p 0).modCore c (fun x => (x.modEg p (fun g => { g with passes := g.passes + 1 })).cross p))
          else .next s
        else
          let (z, stop) := s.sinkCell c y cell
          let read := if y.kind = .sscatter then s.indexPas c y y.elems (min (z.elems + 1) (y.upTo y.cells)) else []
          if !s.pathsFree false read then .next s
          else match stop with
          | some (.walk va kd) => .next ((s.pathsUsed false read).strmStop c k (.walk va kd))
          | some r => .next (if s.pathsFree true (y.newWrites z) then ((s.pathsUsed false read).sinkIssue c k z).strmStop c k r else s)
          | none =>
            let pas := y.newWrites z
            if !s.pathsFree true pas then .next s
            else
              let w := ({ z with cells := z.cells + 1 } : Strm).sinkDone s.slot
              .next (((((s.softElems c y y.elems z.elems).pathsUsed false read).pathsUsed true pas).modCore c (fun x =>
                (x.modStrm k (fun _ => w)).storerUsed (some q) s.slot)).popHead c p 0)
      else .next s

/-- PAGE_WALK: a thread's walk, or a generator's, which patches the extent into the stream or freezes it, once the writes of the elements
before are performed (R215, R227, R253). [log entry 15, DEDUCED] -/
def execPageWalk (c : CoreId) (who : Walker) (s : State) : Out :=
  match who with
  | .thread t => s.walkThread c t
  | .stream k =>
    let y := (s.core c).strms[k]
    match y.st, y.walk with
    | .running, some (va, kd) =>
      let old := s
      let s := s.walked c va.toNat
      match s.walk c va.toNat kd with
      | .absent => .fault .absentPhysical
      | .fault code _ => .next (if s.sinkWaits c k then old else (s.sinkUpTo c k).stopAt c k code va.toNat (kd == .write))
      | .leaf ea e changed level frame w x d =>
        let s := s.walkWrite ea e changed
        let z := xlatOf va.toNat level frame w x d (s.tenantOf c)
        .next (s.modCore c (fun x => x.modStrm k (fun y => { y with
          walk := none, extents := y.extents.filter (fun q => !(q.block == z.block && q.no == z.no)) ++ [z] })))
    | _, _ => .next s

/-- A drain token at a STORE port that no stream uses is consumed (R21, R262). -/
def State.storeDrn (s : State) (c : CoreId) (q : Fin 8) : State :=
  let x := s.core c
  let p := 108 + q.val
  match x.head? s.slot p 0 with
  | some y =>
    if y.h.tag = tDRN ∧ x.storerFree q then
      (s.popHead c p 0).modCore c (fun x => (x.modEg p (fun g => { g with passes := g.passes + 1 })).cross p)
    else s
  | none => s

/-- Perform a write in HBM; words it covers whole get a new code (R258). -/
def State.hbmWrite (s : State) (w : SinkWrite) : State :=
  s.hbmPut w.addr w.bytes

/-- SINK_WRITE_PERFORMED: the oldest write of a sink is performed in HBM (R218). -/
def execSinkWritePerformed (c : CoreId) (k : StrmId) (s : State) : Out :=
  let y := (s.core c).strms[k]
  match y.writes with
  | [] => .next s
  | w :: r =>
    .next ((s.hbmWrite w).modCore c (fun x => x.modStrm k (fun y => ({ y with writes := r } : Strm).sinkDone s.slot)))

/-! ## Completion, cancelling and queries (R218, R228, R229) -/

/-- SQRY's state codes. -/
def StrmState.code (st : StrmState) : Nat :=
  match st with | .free => 0 | .wait => 1 | .running => 2 | .paused => 3 | .frozen => 4 | .done => 5

/-- The word of R229. -/
def Strm.word (y : Strm) (k : StrmId) (st : StrmState) : Word := BitVec.ofNat 64 (y.cells % 2 ^ 48 * 2 ^ 16 + st.code * 32 + k.val)

/-- SQRY: the lowest slot with the tag that is not FREE, as it stood at the start of the slot (R229, R326). -/
def execSqry (n : BitVec 4) (t : BitVec 6) (s : State) : Out :=
  let x := s.atStart.myCore
  .next (match (List.finRange 32).find? (fun k => x.strms[k].st != .free && x.strms[k].tag == t) with
    | some k => s.put (regOf n) (x.strms[k].word k x.strms[k].st)
    | none => s.put (regOf n) 0)

/-- Drop an ingress port's offers of a stream; a port frozen by one of them runs again (R228). -/
def Ingress.dropStrm (g : Ingress) (k : StrmId) : Ingress :=
  let mine (o : Offer) : Bool := match o.cell.m.strm with | some (j, _) => j == k | none => false
  let blocked := match g.first? with | some o => mine o && g.frozen.isSome | none => false
  { g with obuf := g.obuf.filter (fun o => !mine o), ahead := g.ahead.filter (fun o => !mine o), frozen := if blocked then none else g.frozen }

/-- An SCFG load writes nothing more: its slot becomes EMPTY, and a pending swap that names it is dropped (R228, R282). -/
def Core.cancelLoad (x : Core) (k : StrmId) : Core :=
  let y := x.strms[k]
  if y.doneAt.isSome then x
  else
    let x := x.modSlot y.cfgSlot (fun _ => {})
    { x with
      banks := x.banks.map (fun b => { b with sys := b.sys.filter (fun w => w.load != some k) })
      swap := match x.swap with | some w => if w.slot = y.cfgSlot then none else some w | none => none }

/-- Stop a stream at a cell boundary (R228): what is fetched and not admitted is dropped, a sink consumes no more. -/
def Core.cancelStrm (x : Core) (k : StrmId) : Core :=
  let y := x.strms[k]
  let x := if y.kind.isSource then x.modIng y.srcPort (fun g => g.dropStrm k) else x
  let x := if y.kind = .scfg then x.cancelLoad k else x
  x.modStrm k (fun y => { y with cancel := true, inflight := [], asm := 0, walk := none })

/-- Whether a cancelled stream has nothing left to do. -/
def Strm.stopped (y : Strm) : Bool := y.cancel && y.outLeft.isEmpty && y.writes.isEmpty

/-- The thread that waits in SCANCEL for a stream. [log entry 97, DEDUCED] -/
def Core.cancellers (x : Core) (k : StrmId) : List (Tid × BitVec 5) :=
  (List.finRange 16).filterMap (fun t => match (x.thr t).st, (x.thr t).pend with
    | .parked, .scancel d j => if j = k then some (t, d) else none
    | _, _ => none)

/-- STREAM_COMPLETE: in a slot after its last act, a stream sets its tag and becomes DONE (R218); a cancelled one also lets its thread
go on with the position (R228). A stream of a task that is being stopped sets no tag (R356). -/
def execStreamComplete (c : CoreId) (k : StrmId) (s : State) : Out :=
  let y := (s.core c).strms[k]
  let past := match y.doneAt with | some d => decide (d < s.slot) | none => false
  if y.live && (y.stopped || past) then
    let quiet := match s.taskOf c with
      | some t => match t.phase with | .stopping _ _ => true | _ => false
      | none => false
    let s := s.modCore c (fun x =>
      let x := if quiet then x else x.tagNext y.tag
      x.modStrm k (fun y => { y with st := .done, cancel := false, doneAt := none }))
    .next (((s.core c).cancellers k).foldl (fun s z => s.finish c z.1 (fun th => th.wr z.2 (y.word k .done))) s)
  else .next s

/-! ## SCELL and SARG (R199, R224) -/

/-- SCELL (R199); a task-mode thread may not name DBG (R379). [log entry 122, DEDUCED] -/
def execScell (p : BitVec 7) (n : BitVec 4) (k : BitVec 3) (v : BitVec 5) (s : State) : Out :=
  let a := (s.me.rd (regOf n)).toNat % 2 ^ 28
  .next (
    if p = 123 ∧ s.me.cm = false then s.ill (.scell p n k v) 3
    else if a % 256 ≠ 0 then s.accTrap kALIGN a .read
    else if poolCore a ≠ s.cur.1.val ∨ 48 ≤ poolBank a then s.accTrap kPROT a .read
    else
      let h := { Header.ofWord (s.me.rd (regAfter n)) with ep := p, vc := v, tag := k, ip := 0, seq := 0 }
      let o : Offer := { cell := { h := h }, who := some s.cur.2 }
      (s.modCore s.cur.1 (fun x => x.offer (118 + s.cur.2.val % 4) o)).parkMe (.scell a h false))

def execSarg (p : BitVec 7) (n : BitVec 4) (s : State) : Out :=
  let v := s.me.rd (regOf n)
  .next ((s.modCore s.cur.1 (fun x => x.modElem (elemOfPort p.toNat) (fun e => { e with kpend := some v }))).skip)

/-! ## Drain tokens (R221) -/

/-- The VCs on which a source stream's cells leave: its own, or those of its route entry's destinations (R209). -/
def Core.strmVcs (x : Core) (k : StrmId) (y : Strm) : List (BitVec 5) :=
  if y.port ≠ 124 then [y.vc]
  else
    let r := vget x.routes (224 + k.val) 0
    let n := if rtMode r = 2 then getBits r 26 2 + 1 else 1
    (List.range n).map (fun i => BitVec.ofNat 5 (getBits (rtDest r i) 9 5))

/-- Whether the last cell of a source stream has been offered. -/
def Strm.allOffered (y : Strm) : Bool := !y.live || (y.asked == y.ncells && y.inflight.isEmpty)

/-- The source streams bound on an ingress port and VC whose last cell a drain token follows. -/
def Core.ahead (x : Core) (d : Drain) : List StrmId :=
  (List.finRange 32).filter (fun k =>
    let y := x.strms[k]
    y.live && y.kind.isSource && y.srcPort == d.inp.toNat && (x.strmVcs k y).contains d.vc && !y.allOffered)

/-- A drain token's offer for a thread. -/
def drnOffer (d : Drain) (t : Tid) (since : Nat) : Offer :=
  { cell := { h := { ep := d.out, vc := d.vc, tag := tDRN } }, who := some t, since := since }

/-- SDRAIN: the tokens of a loaded slot's drain list; the thread parks until every one is admitted (R221). -/
def execSdrain (b : BitVec 1) (s : State) : Out :=
  let c := s.cur.1
  let x := s.core c
  let g := x.slotAt (b == 1)
  .next (
    if (g.st = .loaded ∨ g.st = .active) ∧ g.drain ≠ [] then
      let s := s.modCore c (fun x => g.drain.foldl (fun x d =>
        let l := x.ahead d
        if l.isEmpty then x.offer d.inp.toNat (drnOffer d s.cur.2 0)
        else { x with pendDrn := x.pendDrn ++ [(s.cur.2, d, l)] }) x)
      s.parkMe .sdrain
    else s.skip)

/-- The streams that tokens still wait for. -/
def Core.pruneDrn (x : Core) : Core :=
  { x with pendDrn := x.pendDrn.map (fun y => (y.1, y.2.1, y.2.2.filter (fun k => !x.strms[k].allOffered))) }

/-- DRAIN_TOKEN_INJECT: the tokens of a port whose streams have offered their last cells are offered (R221). -/
def execDrainTokenInject (c : CoreId) (p : PortId) (s : State) : Out :=
  .next (s.modCore c (fun x =>
    let x := x.pruneDrn
    let ready := x.pendDrn.filter (fun y => y.2.1.inp.toNat == p.val && y.2.2.isEmpty)
    let x := { x with pendDrn := x.pendDrn.filter (fun y => !(y.2.1.inp.toNat == p.val && y.2.2.isEmpty)) }
    ready.foldl (fun x y => x.offer p.val (drnOffer y.2.1 y.1 0)) x))

/-! ## SSPLICE (R226) -/

/-- Whether a slot can take a splice: a RUNNING source stream. -/
def Strm.spliceable (y : Strm) : Bool := y.st == .running && y.kind.isSource

/-- Start a splice with the lowest idle storer; none when it has to wait. -/
def Core.startSplice? (x : Core) (k : StrmId) (page frame : Nat) (tag : BitVec 6) : Option Core :=
  (x.storerIdle?).map (fun q => { x with splices := x.splices ++ [{ strm := k, page := page, frame := frame, tag := tag, storer := q }] })

/-- SSPLICE: a controller form (R226). With every storer busy the thread parks until one is idle. [log entry 32, DEDUCED] -/
def execSsplice (n : BitVec 4) (t : BitVec 6) (s : State) : Out :=
  let a := s.me.rd (regOf n)
  let frame := getBits (s.me.rd (regAfter n)) 16 28
  let k : StrmId := Fin.ofNat 32 (getBits a 0 5)
  let page := getBits a 16 39
  if !s.me.cm then .next (s.ill (.ssplice n t) 1)
  else if !(s.myCore.strms[k]).spliceable then .next (s.ill (.ssplice n t) 3)
  else match s.myCore.startSplice? k page frame t with
    | some x => .next ((s.setCore s.cur.1 x).skip)
    | none => .next (s.parkMe (.splice k page frame t ((encode (.ssplice n t)).getD 0)))

/-- A waiting SSPLICE takes a storer; it raises ILL with cause 3 for its word when its stream stops running while it waits, a check that
R226 does not place. [log entry 32, DEDUCED] -/
def State.spliceTake (s : State) (c : CoreId) (t : Tid) (k : StrmId) (page frame : Nat) (tag : BitVec 6) (word : Nat) : State :=
  if !((s.core c).strms[k]).spliceable then s.trapAt c t kILL (illEval word 3) (s.thr c t).pc
  else match (s.core c).startSplice? k page frame tag with
    | some x => (s.setCore c x).finish c t id
    | none => s

/-- Whether elements of the pattern on a VA page are still to be read; a pool pattern has none. [log entry 32, DEDUCED] -/
def State.pageLeft (s : State) (c : CoreId) (y : Strm) (page : Nat) : Bool :=
  y.live && !y.cancel && y.kind != .sread && (List.range (y.total - y.elems)).any (fun i => match s.elemAddr c y (y.elems + i) with
    | .val v => v / 2 ^ 16 == page || (patSize y.pat == 256 && (v + 255) % vaTop / 2 ^ 16 == page)
    | _ => true)

/-- The splice of slot k whose storer can act: its stream has finished the page, or its slot holds another stream. -/
def State.spliceReady? (s : State) (c : CoreId) (k : StrmId) : Option (Nat × Splice) :=
  ((s.core c).splicesOf k).find? (fun z =>
    (s.core c).storerReady (some z.2.storer) s.slot && (z.2.gone || !s.pageLeft c ((s.core c).strms[k]) z.2.page))

/-- The translation of a splice's page: the stream's extent, or what the tenant's tables give. -/
def State.spliceOld (s : State) (c : CoreId) (k : StrmId) (z : Splice) : WalkRes :=
  let va := z.page * 2 ^ 16
  match findXlat (if z.gone then z.extents else ((s.core c).strms[k]).extents) (s.tenantOf c) va with
  | some e => .leaf 0 0 false 3 (e.pa va / 2 ^ 16) e.w e.x e.dirty
  | none => s.walk c va .read

/-- A splice leaves the core's list. -/
def Core.dropSplice (x : Core) (i : Nat) : Core := { x with splices := x.splices.eraseIdx i }

/-- The fault of a splice: it ends, and the stream freezes while its slot still holds it; the record is the stream's either way. [log entry 32, DEDUCED] -/
def State.spliceFault (s : State) (c : CoreId) (k : StrmId) (i : Nat) (z : Splice) (code : BitVec 8) : State :=
  let s := s.modCore c (fun x => x.dropSplice i)
  let y := (s.core c).strms[k]
  let va := z.page * 2 ^ 16
  if !z.gone && y.live then s.freezeStrm c k code va false
  else s.record c code (unitId c 4 k.val) k.val (pos2 y.elems y.cells) (BitVec.ofNat 64 va)

/-- The splice has copied every line: the stream's extent is repatched to the new frame and the tag sets. -/
def State.spliceEnd (s : State) (c : CoreId) (k : StrmId) (i : Nat) (z : Splice) (w x d : Bool) : State :=
  let fresh := xlatOf (z.page * 2 ^ 16) 3 z.frame w x d (s.tenantOf c)
  (s.modCore c (fun q =>
    let q := q.dropSplice i
    if z.gone then q
    else q.modStrm k (fun y => { y with extents := y.extents.filter (fun q => !(!q.block && q.no == z.page)) ++ [fresh] }))).tagNext c z.tag

/-- SPLICE_DONE: once the stream has finished the page, the storer copies the remaining lines, four lines (one cell) a slot (R14, R394); with
the last of them the extent is repatched and the tag sets (R226). [log entry 32, DEDUCED] -/
def execSpliceDone (c : CoreId) (k : StrmId) (s : State) : Out :=
  match s.spliceReady? c k with
  | none => .next s
  | some (i, z) =>
    let s := s.walked c (z.page * 2 ^ 16)
    match s.spliceOld c k z with
    | .absent => .fault .absentPhysical
    | .fault code _ => .next (s.spliceFault c k i z code)
    | .leaf _ _ _ level frame w x d =>
      let old := (xlatOf (z.page * 2 ^ 16) level frame w x d (s.tenantOf c)).pa (z.page * 2 ^ 16)
      let left := (List.range 1024).filter (fun n => !z.lines.contains n)
      let now := left.take 4
      let from_ := now.map (fun n => old + 64 * n)
      let dst := if frameAbsent z.frame then [] else now.map (fun n => z.frame * 2 ^ 16 + 64 * n)
      if !s.pathsFree false from_ || !s.pathsFree true dst then .next s
      else if now.any (fun n => s.hbmBad (old + 64 * n) 64) then
        .next (((s.pathsUsed false from_).modCore c (fun x => x.storerUsed (some z.storer) s.slot)).spliceFault c k i z kECC)
      else
        let s := ((now.foldl (fun s n => s.copyLine old z.frame n) s).pathsUsed false from_).pathsUsed true dst
        let s := s.modCore c (fun x => x.storerUsed (some z.storer) s.slot)
        if left.length ≤ 4 then .next (s.spliceEnd c k i z w x d)
        else .next (s.modCore c (fun x => { x with splices := x.splices.set i { z with lines := z.lines ++ now } }))

end Sys2Proof.Machine
end

