-- ==== Sys2Proof/Machine/Image.lean ====
section
/-! DEFINITION. Configuration images (R277-R281), SCFG (R222, R282), SSWAP (R223), the units of a configuration and its pass boundary
(R21), and what a swap writes (R117, R119, R282, R283). -/

namespace Sys2Proof.Machine

/-! ## Reading an image (R277, R278) -/

/-- n bytes of an image from an offset, within one 16-byte block. -/
abbrev Img := Nat → Nat → Nat

/-- n blocks of 16 bytes. -/
def imgWide (rd : Img) (off n : Nat) : Nat :=
  match n with
  | 0 => 0
  | n + 1 => rd off 16 + 2 ^ 128 * imgWide rd (off + 16) n

def imgZero (rd : Img) (off n : Nat) : Bool := (List.range n).all (fun i => rd (off + i) 1 == 0)

/-- A section: its type, body bytes, ARG and the offset of its body. -/
structure Sec where
  type : Nat
  len  : Nat
  arg  : Nat
  off  : Nat
deriving DecidableEq, Repr

/-- The image header: LENGTH when it is legal. -/
def imgLength? (rd : Img) : Option Nat :=
  let n := rd 4 4
  if rd 0 4 = 1 ∧ n % 16 = 0 ∧ 32 ≤ n ∧ n ≤ 2 ^ 24 ∧ rd 8 8 = 0 then some n else none

/-- The sections from an offset, up to END, which ends at LENGTH; none when a header breaks its rule. -/
def imgSections (rd : Img) (len off fuel : Nat) : Option (List Sec) :=
  match fuel with
  | 0 => none
  | fuel + 1 =>
    if len < off + 16 then none
    else
      let y : Sec := { type := rd off 2, len := rd (off + 4) 4, arg := rd (off + 8) 8, off := off + 16 }
      if rd (off + 2) 2 ≠ 0 ∨ y.len % 16 ≠ 0 ∨ len < off + 16 + y.len ∨ 10 < y.type then none
      else if y.type = 0 then (if y.arg = 0 ∧ y.len = 0 ∧ off + 16 = len then some [] else none)
      else (imgSections rd len (off + 16 + y.len) fuel).map (fun l => y :: l)

/-! ## The checks (R30, R76, R117, R131, R171, R275-R279, R281) -/

/-- A binding entry of R276: its reserved bits are zero. -/
def bindOk (v : Nat) : Bool := v / 256 % 128 == 0
/-- A VC map entry of R275. -/
def vcMapOk (v : Nat) : Bool := v / 64 % 512 == 0 && v % 16 != 15
/-- A Weir VC table entry of R171. -/
def vcTabOk (v : Nat) : Bool := v / 8192 == 0 && v % 16 != 15

def popcount8 (m : Nat) : Nat := (List.range 8).foldl (fun n i => n + m / 2 ^ i % 2) 0

/-- An ELEMENT body (R279). -/
def elementOk (rd : Img) (y : Sec) : Bool :=
  let o := y.off
  decide (y.arg < 32) && y.len == 368 + 256 * popcount8 (rd (o + 360) 1) &&
  decide (rd o 1 < 64) && decide (rd (o + 1) 1 < 2) && (rd (o + 2) 2 &&& 0x1380) == 0 && rd (o + 4) 4 == 0 &&
  (List.range 4).all (fun i => bindOk (rd (o + 16 + 2 * i) 2)) && rd (o + 24) 8 == 0 &&
  (List.range 32).all (fun v => vcMapOk (rd (o + 32 + 2 * v) 2)) &&
  (List.range 32).all (fun i => entryLegal (rd (o + 96 + 8 * i) 8)) &&
  (List.range 8).all (fun i => decide (rd (o + 352 + i) 1 < 15)) && imgZero rd (o + 361) 7

/-- A POOL section's block: pool address and byte count (R281). -/
def Sec.poolAddr (y : Sec) : Nat := y.arg % 2 ^ 28
def Sec.poolCount (y : Sec) : Nat := y.arg / 2 ^ 32 % 2 ^ 28

/-- A section's own rules (R278); NODE entries of reserved indices may hold any value. [log entry 45, DEDUCED; log entry 158, DESIGN CHOICE] -/
def secOk (rd : Img) (y : Sec) : Bool :=
  let o := y.off
  match y.type with
  | 1 => elementOk rd y
  | 2 => y.arg == 0 && y.len == 64 && (List.range 32).all (fun v => vcTabOk (rd (o + 2 * v) 2))
  | 3 => decide (y.arg < 48) && y.len == 64 && (List.range 32).all (fun v => bindOk (rd (o + 2 * v) 2))
  | 4 => decide (y.arg < 256) && y.len % 32 == 0 && decide (y.arg + y.len / 32 ≤ 256)
  | 5 => decide (1 ≤ y.arg) && decide (y.arg < 64) && y.len == 16
  | 6 => decide (y.arg < 2) && y.len == 16 && rd (o + 3) 5 == 0 && rd (o + 8) 8 == 0
  | 7 => y.arg == 0 && y.len == 32 && (List.range 12).all (fun v => bindOk (rd (o + 2 * v) 2)) && rd (o + 24) 8 == 0
  | 8 =>
    decide (1 ≤ y.arg) && decide (y.arg ≤ 32) && decide (4 * y.arg ≤ y.len) &&
    (List.range y.arg).all (fun i =>
      let p := o + 4 * i
      decide (rd p 1 < 128) && !inReserved (rd p 1) && decide (rd (p + 1) 1 < 128) && !egReserved (rd (p + 1) 1) &&
        decide (rd (p + 2) 1 < 32) && rd (p + 3) 1 == 0) && imgZero rd (o + 4 * y.arg) (y.len - 4 * y.arg)
  | 9 => decide (y.arg < 256) && decide (y.arg + y.len / 8 ≤ 160)
  | 10 =>
    y.arg / 2 ^ 28 % 16 == 0 && decide (y.arg / 2 ^ 60 = 0) && decide (1 ≤ y.poolCount) && decide (y.poolCount ≤ y.len) &&
    decide (poolBank y.poolAddr < 48) && decide (y.poolAddr % 4194304 + y.poolCount ≤ 48 * 65536) &&
    imgZero rd (o + y.poolCount) (y.len - y.poolCount)
  | _ => false

/-- What a section takes of its table: ranges of (type, first, count) may not meet (R278). -/
def Sec.span (y : Sec) : Nat × Nat :=
  match y.type with
  | 2 | 7 => (0, 1)
  | 4 => (y.arg, y.len / 32)
  | 9 => (y.arg, y.len / 8)
  | 10 => (y.poolAddr, y.poolCount)
  | _ => (y.arg, 1)

def Sec.clash (a b : Sec) : Bool :=
  a.type == b.type && a.type != 8 && a.span.2 != 0 && b.span.2 != 0 &&
    decide (a.span.1 < b.span.1 + b.span.2 ∧ b.span.1 < a.span.1 + a.span.2)

def noClash (l : List Sec) : Bool :=
  match l with
  | [] => true
  | y :: r => r.all (fun z => !y.clash z) && noClash r

/-- Every check of an image: its sections when it is legal. Several DRAIN sections fill one list of at most 32 triples. [log entry 45, DEDUCED] -/
def imgCheck (rd : Img) : Option (List Sec) :=
  match imgLength? rd with
  | none => none
  | some n =>
    match imgSections rd n 16 (n / 16) with
    | none => none
    | some l =>
      let drains := (l.filter (fun y => y.type == 8)).foldl (fun n y => n + y.arg) 0
      if l.all (secOk rd) && noClash l && decide (drains ≤ 32) then some l else none

/-! ## Writing a slot (R279-R281) -/

/-- The ELEMENT contents of a section. -/
def elemOfImg (rd : Img) (o : Nat) : ElemCfg :=
  let mask := rd (o + 360) 1
  let present (i : Nat) : Bool := mask / 2 ^ i % 2 == 1
  let place (i : Nat) : Nat := o + 368 + 256 * ((List.range i).filter present).length
  { initSt := BitVec.ofNat 6 (rd o 1)
    clr := rd (o + 1) 1 % 2 == 1
    esrc := BitVec.ofNat 16 (rd (o + 2) 2)
    k := BitVec.ofNat 64 (rd (o + 8) 8)
    out := Vector.ofFn (fun i => BitVec.ofNat 16 (rd (o + 16 + 2 * i.val) 2))
    vcmap := Vector.ofFn (fun v => BitVec.ofNat 16 (rd (o + 32 + 2 * v.val) 2))
    table := Vector.ofFn (fun i => BitVec.ofNat 64 (rd (o + 96 + 8 * i.val) 8))
    litFmt := Vector.ofFn (fun i => if present i.val then BitVec.ofNat 4 (rd (o + 352 + i.val) 1) else 0)
    lits := Vector.ofFn (fun i => if present i.val then BitVec.ofNat 2048 (imgWide rd (place i.val) 16) else 0) }

/-- A section's effect on the loaded slot. -/
def Slot.addSec (g : Slot) (rd : Img) (y : Sec) : Slot :=
  let o := y.off
  match y.type with
  | 1 => { g with elems := vset g.elems y.arg (elemOfImg rd o) }
  | 2 => { g with vct := Vector.ofFn (fun v => BitVec.ofNat 16 (rd (o + 2 * v.val) 2)) }
  | 3 => { g with reply := vset g.reply y.arg (Vector.ofFn (fun v => BitVec.ofNat 16 (rd (o + 2 * v.val) 2))) }
  | 4 => { g with routes := (List.range (y.len / 32)).foldl (fun m i =>
      Sparse.set m (y.arg + i) (BitVec.ofNat 256 (imgWide rd (o + 32 * i) 2))) g.routes }
  | 5 => { g with mcast := Sparse.set g.mcast y.arg (BitVec.ofNat 128 (rd o 16)) }
  | 6 => { g with race := Sparse.set g.race y.arg (BitVec.ofNat 64 (rd o 8)) }
  | 7 => { g with portbind := Vector.ofFn (fun v => BitVec.ofNat 16 (rd (o + 2 * v.val) 2)) }
  | 8 => { g with drain := g.drain ++ (List.range y.arg).map (fun i =>
      { inp := BitVec.ofNat 7 (rd (o + 4 * i) 1), out := BitVec.ofNat 7 (rd (o + 4 * i + 1) 1), vc := BitVec.ofNat 5 (rd (o + 4 * i + 2) 1) : Drain }) }
  | 9 => { g with node := (List.range (y.len / 8)).foldl (fun v i => vset v (y.arg + i) (BitVec.ofNat 64 (rd (o + 8 * i) 8))) g.node }
  | _ => g

/-- The slot that an image gives; tables without a section hold their launch values (R280). -/
def slotOfImg (rd : Img) (l : List Sec) : Slot := l.foldl (fun g y => g.addSec rd y) {}

/-- The words of a POOL block, each written as one operation of its bank (R281). -/
def poolWords (rd : Img) (y : Sec) (load : Option StrmId) : List SysWrite :=
  let a := y.poolAddr
  let b := a + y.poolCount
  (List.range ((b + 7) / 8 - a / 8)).map (fun i =>
    let lo := max a (8 * (a / 8 + i))
    let hi := min b (8 * (a / 8 + i) + 8)
    { addr := lo, bytes := (List.range (hi - lo)).map (fun j => BitVec.ofNat 8 (rd (y.off + (lo - a) + j) 1)), load := load })

/-- The POOL words of an image for a core; blocks of other cores are skipped. -/
def imgPool (rd : Img) (l : List Sec) (c : CoreId) (load : Option StrmId) : List SysWrite :=
  (l.filter (fun y => y.type == 10 && poolCore y.poolAddr == c.val)).flatMap (fun y => poolWords rd y load)

/-- Queue a write on its bank's system path. -/
def Core.sysWrite (x : Core) (w : SysWrite) : Core := x.modBank (poolBank w.addr) (fun b => { b with sys := b.sys ++ [w] })

/-! ## SCFG (R222, R282) -/

/-- SCFG: ALIGN, ILL for the active or the swap's slot, and then the slot is LOADING and the thread waits for a stream slot and a loader. [log entry 46, DEDUCED; log entry 122, DEDUCED] -/
def execScfg (n : BitVec 4) (t : BitVec 6) (b : BitVec 1) (s : State) : Out :=
  let va := vaOf (s.me.rd (regOf n))
  let slot := b == 1
  let x := s.myCore
  let named := match x.swap with | some w => w.slot == slot | none => false
  .next (
    if va.toNat % 256 ≠ 0 then s.accTrap kALIGN va.toNat .read
    else if x.activeSlot? = some slot ∨ named = true then s.ill (.scfg n t b) 3
    else (s.modCore s.cur.1 (fun x => x.modSlot slot (fun g => { g with st := .loading }))).parkMe (.scfg va slot t))

/-- A parked SCFG takes a stream slot and a loader. [log entry 46, DEDUCED] -/
def State.scfgTake (s : State) (c : CoreId) (t : Tid) (va : VA) (slot : Bool) (tag : BitVec 6) : State :=
  let x := s.core c
  match x.freeStrm?, x.loaderIdle? with
  | some k, some l =>
    let y : Strm := { kind := .scfg, st := .wait, tag := tag, mask := (s.thr c t).barMask, loader := some l, cfgVa := va.toNat, cfgSlot := slot }
    (s.modCore c (fun x => x.takeSlot k y)).finish c t (fun th => { th with barMask := 0 })
  | _, _ => s

/-- Bytes of an image held in cells: a read of n bytes lies in one. -/
def imgOf (cells : Sparse Payload) : Img := fun off n => getBits (Sparse.getD cells (off / 256) 0) (8 * (off % 256)) (8 * n)

/-- The image as the phase's read has brought it, whatever TLBINV drops and whatever is written after (R225). -/
def Strm.image (y : Strm) : Img := imgOf y.img

/-- The VA of cell j of the image. -/
def Strm.imgVa (y : Strm) (j : Nat) : Nat := (y.cfgVa + 256 * j) % vaTop

/-- The bytes of the image that a read has to cover: those that a legal header's LENGTH gives, else the header's; before the first cell is there
the header stands in HBM. -/
def State.imgBytes (s : State) (c : CoreId) (y : Strm) : Nat :=
  let rd : Img := if y.cfgAsked = 0 then
      (match s.strmReadPage c y (y.imgVa 0) 16 with | .val v => imgOf [(0, BitVec.ofNat 2048 v)] | _ => imgOf [])
    else y.image
  (imgLength? rd).getD 16

/-- A loader reads the next cell of an image of n bytes, at most one a slot, also one that stops it (R14, R394). -/
def State.imgPull (s : State) (c : CoreId) (k : StrmId) (y : Strm) (n : Nat) : State :=
  let len := min 256 (n - 256 * y.cfgAsked)
  let pas := (y.pa? (s.tenantOf c) (y.imgVa y.cfgAsked) .read).toList
  if !(s.core c).loaderFree y.loader s.slot || !s.pathsFree false pas then s
  else
    match s.strmReadPage c y (y.imgVa y.cfgAsked) len with
    | .val v => ((pas.foldl (fun s pa => s.softHbm pa len) s).pathsUsed false pas).modCore c (fun x =>
        (x.modStrm k (fun z => { z with cfgAsked := y.cfgAsked + 1, img := Sparse.set y.img y.cfgAsked (BitVec.ofNat 2048 v) })).loaderUsed
          y.loader s.slot)
    | z => (if pas.isEmpty then s else (s.pathsUsed false pas).modCore c (fun x => x.loaderUsed y.loader s.slot)).strmStop c k z

/-- A CFG fault: the stream freezes and the slot is FAULTED; its contents stay only while a swap waits on it (R222, R282). -/
def State.cfgFault (s : State) (c : CoreId) (k : StrmId) : State :=
  let y := (s.core c).strms[k]
  let named := match (s.core c).swap with | some w => w.slot == y.cfgSlot | none => false
  let s := s.modCore c (fun x => x.modSlot y.cfgSlot (fun g => if named then { g with st := .faulted } else { st := .faulted }))
  s.freezeStrm c k kCFG y.cfgVa false

/-- SCFG_CHECK_DONE: the first read, cell by cell, and then the check of the whole image, which touches no table. -/
def execScfgCheckDone (c : CoreId) (k : StrmId) (s : State) : Out :=
  let y := (s.core c).strms[k]
  if y.st == .running && y.kind == .scfg && !y.cancel && y.walk.isNone && y.cfgPhase == 0 then
    let n := s.imgBytes c y
    if 256 * y.cfgAsked < n then .next (s.imgPull c k y n)
    else match imgCheck y.image with
      | none => .next (s.cfgFault c k)
      | some _ =>
        .next (s.modCore c (fun x => (x.modStrm k (fun z => { z with cfgPhase := 1, cfgLen := n, cfgAsked := 0, img := [] })).modSlot y.cfgSlot
          (fun g => { g with st := .loading })))
  else .next s

/-- The load's pool words that are still to be performed. -/
def Core.loadLeft (x : Core) (k : StrmId) : Bool := x.banks.toList.any (fun b => b.sys.any (fun w => w.load == some k))

/-- SCFG_LOAD_DONE: the second read, cell by cell, then the slot is written; once the pool blocks are performed the slot is LOADED, the
tag sets and the stream is DONE (R281, R282). [log entry 46, DEDUCED] -/
def execScfgLoadDone (c : CoreId) (k : StrmId) (s : State) : Out :=
  let y := (s.core c).strms[k]
  if y.st == .running && y.kind == .scfg && !y.cancel && y.walk.isNone && decide (1 ≤ y.cfgPhase) then
    if y.cfgPhase = 1 ∧ 256 * y.cfgAsked < y.cfgLen then .next (s.imgPull c k y y.cfgLen)
    else
      let s :=
        if y.cfgPhase = 1 then
          let rd := y.image
          let l := (imgSections rd y.cfgLen 16 (y.cfgLen / 16)).getD []
          s.modCore c (fun x =>
            let x := x.modSlot y.cfgSlot (fun _ => { slotOfImg rd l with st := .loading })
            (imgPool rd l c (some k)).foldl (fun x w => x.sysWrite w) (x.modStrm k (fun z => { z with cfgPhase := 2, img := [] })))
        else s
      if (s.core c).loadLeft k then .next s
      else
        .next (s.modCore c (fun x => ((x.modSlot y.cfgSlot (fun g => { g with st := .loaded })).tagNext y.tag).modStrm k
          (fun z => { z with st := .done })))
  else .next s

/-! ## SSWAP (R223) -/

/-- SSWAP: the pending swap; ILL for a slot that no SCFG has loaded, unless a swap waits on it. -/
def execSswap (n : BitVec 4) (b : BitVec 1) (s : State) : Out :=
  let slot := b == 1
  let x := s.myCore
  let named := match x.swap with | some w => w.slot == slot | none => false
  let st := (x.slotAt slot).st
  .next (
    if st = .empty ∨ (st = .faulted ∧ named = false) then s.ill (.sswap n b) 3
    else (s.modCore s.cur.1 (fun x => { x with swap := some { slot := slot, count := (s.me.rd (regOf n)).toNat } })).skip)

/-! ## Units and pass boundary of a configuration (R21) -/

/-- The unit of an egress port that a drain token makes part of a configuration; the ports whose tokens are discarded name none. [log entry 43, DEDUCED] -/
def portUnit? (p : Nat) : Option Nat :=
  if p = 80 ∨ p = 81 then some 128 else if 88 ≤ p ∧ p ≤ 91 then some 129
  else if (82 ≤ p ∧ p ≤ 87) ∨ (92 ≤ p ∧ p ≤ 95) ∨ egReserved p then none else some p

/-- The egress ports of core c, with the VC, that a drain token of a unit u on a route entry reaches; a STEER entry leads to the entries that the
element's steering register chooses as it stands (R193). [log entry 44, DEDUCED] -/
def Core.entryDests (x : Core) (c : CoreId) (u : Nat) (e : BitVec 8) : List (Nat × BitVec 5) :=
  let r := vget x.routes e.toNat 0
  let dest (d : BitVec 32) : List (Nat × BitVec 5) := match destOf c d {} with
    | some (h, none) =>
      (if h.mc = 0 then [h.ep.toNat]
      else (List.range 128).filter (fun i => (vget x.mgroups h.mc.toNat 0).getLsbD i)).map (fun p => (p, h.vc))
    | some (h, some _) => [(h.ep.toNat, h.vc)]
    | none => []
  match rtMode r with
    | 1 => dest (rtDest r 0)
    | 2 => (List.range (getBits r 26 2 + 1)).flatMap (fun i => dest (rtDest r i))
    | 3 =>
      match x.stages[Fin.ofNat 8 (getBits r 23 3)].lookup 0 with
      | some en => [(if rangeCore en = c then (rangePort en).toNat else 96 + getBits (rtDest r 0) 21 4, BitVec.ofNat 5 (getBits (rtDest r 0) 9 5))]
      | none => []
    | 4 =>
      if isElemPort u then
        let sg : Steer := vget (x.elems[elemOfPort u]).sg (getBits r 9 2) {}
        (List.range sg.k.toNat).flatMap (fun j =>
          let q := vget x.routes ((getBits r 11 8 + (sg.index j).toNat) % 256) 0
          if rtMode q = 1 then dest (rtDest q 0) else [])
      else []
    | _ => []

/-- The units of core c that such a token reaches. -/
def Core.entryUnits (x : Core) (c : CoreId) (u : Nat) (e : BitVec 8) : List Nat := (x.entryDests c u e).filterMap (fun d => portUnit? d.1)

/-- The route entries on which a unit of a slot emits its drain tokens. -/
def Core.drnEntries (x : Core) (g : Slot) (u : Nat) : List (BitVec 8) :=
  if isElemPort u then (vget g.elems (u - 48) {}).boundOuts
  else if u = 128 then (g.portbind.toList.take 8).filterMap boundEntry?
  else if u = 129 then (g.portbind.toList.drop 8).filterMap boundEntry?
  else if u = 116 then [BitVec.ofNat 8 (getBits x.races[0].cfg 16 8)]
  else if u = 117 then [BitVec.ofNat 8 (getBits x.races[1].cfg 16 8)]
  else []

/-- Add what the units reach, until nothing is new. [log entry 44, DEDUCED] -/
def Core.closeUnits (x : Core) (c : CoreId) (g : Slot) (l : List Nat) (fuel : Nat) : List Nat :=
  match fuel with
  | 0 => l
  | fuel + 1 =>
    let more := (l.flatMap (fun u => (x.drnEntries g u).flatMap (fun e => x.entryUnits c u e))).filter (fun u => !l.contains u)
    if more.isEmpty then l else x.closeUnits c g (l ++ more.eraseDups) fuel

/-- The units of a configuration slot. -/
def Core.unitsOf (x : Core) (c : CoreId) (g : Slot) : List Nat :=
  let els := ((List.range 32).filter (fun e => !(vget g.elems e {}).bound.isEmpty)).map (fun e => 48 + e)
  let drains := g.drain.filterMap (fun d => portUnit? d.out.toNat)
  x.closeUnits c g (els ++ drains).eraseDups 130

/-- The channel in which a drain token for an egress port and VC stands: an element's by its VC map in the slot, MXA1's cells in MXA0's (R172). -/
def Slot.drnLane (g : Slot) (d : Nat × BitVec 5) : Nat × Nat :=
  (chanPort d.1, if isElemPort d.1 then (match (vget g.elems (d.1 - 48) {}).vcMap d.2 with | some (ch, _) => ch | none => 0) else 0)

/-- How often each unit crosses in one pass of the configuration, when the units that reach it cross as often as need says: with the drain tokens of the
drain list and of those units, as many times as the fullest of its channels receives one (R21, R262). [log entry 43, DEDUCED] -/
def Core.drnStep (x : Core) (c : CoreId) (g : Slot) (us : List Nat) (need : List (Nat × Nat)) : List (Nat × Nat) :=
  let l : List ((Nat × BitVec 5) × Nat) := g.drain.map (fun d => ((d.out.toNat, d.vc), 1)) ++
    us.flatMap (fun v => (x.drnEntries g v).flatMap (fun e => (x.entryDests c v e).map (fun d => (d, (need.lookup v).getD 1))))
  us.map (fun u =>
    let mine := (l.filter (fun y => portUnit? y.1.1 == some u)).map (fun y => (g.drnLane y.1, y.2))
    (u, mine.foldl (fun n y => max n ((mine.filter (fun z => z.1 == y.1)).foldl (fun k z => k + z.2) 0)) 1))

/-- The units of a configuration with the crossings that make up one pass of each. [log entry 43, DEDUCED] -/
def Core.drnNeeds (x : Core) (c : CoreId) (g : Slot) (us : List Nat) (fuel : Nat) : List (Nat × Nat) :=
  match fuel with
  | 0 => us.map (fun u => (u, 1))
  | fuel + 1 => x.drnStep c g us (x.drnNeeds c g us fuel)

/-- Take n crossings of a unit out of a list. -/
def dropCrossed (u : BitVec 22) (n : Nat) (l : List (BitVec 22)) : List (BitVec 22) := (List.range n).foldl (fun l _ => l.erase u) l

/-! ## The swap (R117, R119, R282, R283) -/

/-- Bits 15:13 and 11:10 of ESR: the control fields. -/
def esrControl : BitVec 32 := 0xEC00

/-- An element at a swap: ST, K and the ESR control fields are the new image's; CLR clears the flags (R117, R119). -/
def Elem.swapTo (e : Elem) (g : ElemCfg) : Elem :=
  let flags := if g.clr then 0 else e.esr &&& 0x7F
  { e with st := g.initSt, k := g.k, esr := (g.esrc.setWidth 32 &&& esrControl) ||| flags }

/-- A slot becomes ACTIVE, the other one LOADED, and the staged values enter the live tables in the order ROUTE, MCAST, RACE. -/
def Core.activate (x : Core) (b : Bool) : Core :=
  let x := match x.activeSlot? with
    | some o => x.modSlot o (fun g => { g with st := .loaded })
    | none => x
  let x := x.modSlot b (fun g => { g with st := .active })
  let g := x.slotAt b
  let x := { x with elems := Vector.ofFn (fun e => x.elems[e].swapTo g.elems[e]), crossed := [], swap := none }
  let x := { x with
    routes := g.routes.foldl (fun v (y : Nat × BitVec 256) => vset v y.1 y.2) x.routes
    rids := g.routes.foldl (fun v (y : Nat × BitVec 256) => vset v y.1 (BitVec.ofNat 8 (getBits y.2 56 8))) x.rids
    mgroups := g.mcast.foldl (fun v (y : Nat × BitVec 128) => vset v y.1 y.2) x.mgroups }
  { x with races := g.race.foldl (fun v (y : Nat × BitVec 64) => vmod v y.1 (fun r => { r with cfg := y.2 })) x.races }

/-- The places with parity that a swap gives new contents (R258, R282): K of the elements and the route entries that the slot stages; and, unless the
slot was the ACTIVE one before, the entries and literals of the elements and the VC table. -/
def Core.swapSpots (x : Core) (c : CoreId) (b same : Bool) : List Spot :=
  (List.finRange 32).map (fun e => .kreg c e) ++ (x.slotAt b).routes.map (fun y => .route c (BitVec.ofNat 8 y.1)) ++
    (if same then [] else
      (List.finRange 32).flatMap (fun e => (List.finRange 32).map (fun i => .entry c e i) ++ (List.finRange 8).map (fun n => .literal c e n)) ++
        (List.range 32).map (fun v => .vct c (BitVec.ofNat 5 v)))

/-- The end of a slot: a pass boundary when every unit has crossed as often as the drain tokens of one pass make it, and the pending swap when its rule
allows (R21, R223, R262). [log entry 43, DEDUCED] -/
def Core.swapTick (x : Core) (c : CoreId) : Core :=
  let act := x.activeSlot?
  let bound : Bool × Core :=
    if x.crossed.isEmpty then (false, x)
    else match act with
      | none => (false, { x with crossed := [] })
      | some b =>
        let us := x.unitsOf c (x.slotAt b)
        let needs := x.drnNeeds c (x.slotAt b) us us.length
        let x := { x with crossed := x.crossed.filter (fun u => (us.map unitName).contains u) }
        if needs.all (fun y => decide (y.2 ≤ x.crossed.count (unitName y.1))) && !us.isEmpty then
          (true, { x with crossed := needs.foldl (fun l y => dropCrossed (unitName y.1) y.2 l) x.crossed, passes := x.passes + 1 })
        else (false, x)
  let x := bound.2
  match x.swap with
  | none => x
  | some w =>
    let seen := w.seen + bound.1.toNat
    let st := (x.slotAt w.slot).st
    let x := { x with swap := some { w with seen := seen } }
    if st = .loaded ∨ st = .active then
      if act.isNone then x.activate w.slot
      else if bound.1 ∧ (w.count = 0 ∨ w.count ≤ seen) then x.activate w.slot
      else x
    else x

end Sys2Proof.Machine
end

