-- ==== Sys2Proof/Machine/Peers.lean ====
section
/-! DEFINITION. Peer edges (R230-R232): SEDGE's descriptor, the sender's rounds and replay area, the receiver's landing and commit, voids
and time-outs (R368), the datagrams that carry them (R365-R367); SCANCEL (R228), and the taking of a slot by every parked form (R213). -/

namespace Sys2Proof.Machine

/-! ## Translation at once (R253) -/

/-- A translation that is walked, when needed, in the step that uses it. -/
inductive Touch where
  | ok (s : State) (pa : Nat)
  | fault (s : State) (code : BitVec 8)
  | absent

/-- Translate va by a stream's extents, walking the tables when none serves (R215); the walk corrects what it reads (R258). -/
def State.strmTouch (s : State) (c : CoreId) (k : StrmId) (va : Nat) (kd : Kind) : Touch :=
  match ((s.core c).strms[k]).pa? (s.tenantOf c) va kd with
  | some pa => .ok s pa
  | none =>
    match s.walk c va kd with
    | .absent => .absent
    | .fault code _ => .fault (s.walked c va) code
    | .leaf ea e changed level frame w x d =>
      let z := xlatOf va level frame w x d (s.tenantOf c)
      let s := (s.walked c va).walkWrite ea e changed
      .ok (s.modCore c (fun x => x.modStrm k (fun y => { y with
        extents := y.extents.filter (fun q => !(q.block == z.block && q.no == z.no)) ++ [z] }))) (z.pa va)

/-- Where an access of a stream at va goes, as far as its extents or the tables give it: the stream path that it takes (R14). -/
def State.strmPlaces (s : State) (c : CoreId) (k : StrmId) (va : Nat) (kd : Kind) : List Nat :=
  match ((s.core c).strms[k]).pa? (s.tenantOf c) va kd with
  | some pa => [pa]
  | none =>
    match s.walk c va kd with
    | .leaf _ _ _ level frame w x d => [(xlatOf va level frame w x d (s.tenantOf c)).pa va]
    | _ => []

/-- Translate va by the core's TLB, walking the tables when no entry serves; the walk corrects what it reads (R258). -/
def State.touch (s : State) (c : CoreId) (va : Nat) (kd : Kind) : Touch :=
  match s.translate c va kd with
  | some pa => .ok s pa
  | none =>
    match s.walk c va kd with
    | .absent => .absent
    | .fault code _ => .fault (s.walked c va) code
    | .leaf ea e changed level frame w x d =>
      let z := xlatOf va level frame w x d (s.tenantOf c)
      let s := (s.walked c va).walkWrite ea e changed
      .ok ((s.modCore c (fun y => { y with tlb := tlbFill y.tlb z s.fresh })).tickFresh) (z.pa va)

/-- The n bytes of HBM at pa as a thread's descriptor read sees them: the core's buffered stores first (R245). -/
def State.readOwn (s : State) (c : CoreId) (pa n : Nat) : Nat :=
  let b := (s.core c).wbuf
  (List.range n).foldl (fun acc i =>
    acc + (match bufByte? b (pa + i) with | some v => v | none => (Memory.get s.hbm (pa + i)).toNat) * 256 ^ i) 0

/-! ## Edge ends -/

def Edge.n (e : Edge) : Nat := 2 ^ e.rlog
/-- The first cell of round r. -/
def Edge.first (e : Edge) (r : Nat) : Nat := r * e.n
/-- The VA of cell m in the replay or round area: half (round mod 2). -/
def Edge.place (e : Edge) (m : Nat) : Nat := (e.rarea + (m / e.n % 2 * e.n + m % e.n) * 256) % vaTop
/-- Whether cell m is its round's last. -/
def Edge.lastOf (e : Edge) (m : Nat) : Bool := m + 1 == e.first (m / e.n) + e.roundLen (m / e.n)
/-- Cells committed after r rounds. -/
def Edge.cellsOf (e : Edge) (r : Nat) : Nat := if e.total = 0 then r * e.n else min (r * e.n) e.total

/-- Round r has been voided once more. -/
def Edge.voided (e : Edge) (r : Nat) : Edge := { e with voids := Sparse.set e.voids r (Sparse.getD e.voids r 0 + 1) }

/-- What a receiver holds of round r is gone: its half, and the cells in its receive buffer. -/
def Edge.drop (e : Edge) (r : Nat) : Edge := { (e.voided r) with
  landed := e.landed.filter (fun y => y.1 / e.n != r), rxq := e.rxq.filter (fun y => y.round != r), row := if r = e.committed then 0 else e.row }

/-- A receiver discards the half of round r, and what still comes of it until its sender has begun it again (R232). [log entry 38, DESIGN CHOICE] -/
def Edge.discard (e : Edge) (r : Nat) : Edge := { (e.drop r) with await := r :: e.await.filter (fun y => y != r) }

/-- The sender has given round r up and begins it again: the half is empty, and what comes now is the round from its start. [log entry 38, DESIGN CHOICE] -/
def Edge.restart (e : Edge) (r : Nat) : Edge := { (e.drop r) with await := e.await.filter (fun y => y != r) }

/-- The cells of round r that have landed or wait in the receive buffer. -/
def Edge.landedOf (e : Edge) (r : Nat) : Nat := (e.landed.filter (fun z => z.1 / e.n == r)).length
def Edge.queuedOf (e : Edge) (r : Nat) : Nat := (e.rxq.filter (fun y => y.round == r)).length

/-- Cells of round r enter the receive buffer, as many as the round still lacks (R367). [log entry 37, DESIGN CHOICE] -/
def Edge.receive (e : Edge) (r : Nat) (link : LinkId) (l : List (BitVec 64 × Payload)) : Edge := { e with
  rxq := e.rxq ++ (l.take (e.roundLen r - e.landedOf r - e.queuedOf r)).map (fun y => { round := r, link := link, head := y.1, data := y.2 }) }

/-- The edge end of a core's stream slot. -/
def Core.edge? (x : Core) (k : StrmId) : Option Edge := Sparse.get? x.edges k.val
def Core.setEdge (x : Core) (k : StrmId) (e : Edge) : Core := { x with edges := Sparse.set x.edges k.val e }

/-- The edge ends of a tenant with an edge number, in a direction, core and slot: those that are live, or those of DONE slots. -/
def State.endsWith (s : State) (ten : Tenant) (edge : BitVec 32) (send live : Bool) : List (CoreId × StrmId) :=
  (List.finRange 64).flatMap (fun c =>
    if (s.core c).edges.isEmpty || s.tenantOf c != ten then []
    else ((List.finRange 32).filter (fun k =>
      (if live then (s.core c).strms[k].live else (s.core c).strms[k].st == .done) && (match (s.core c).edge? k with
        | some e => e.edge == edge && e.send == send
        | none => false))).map (fun k => (c, k)))

def State.endsOf (s : State) (ten : Tenant) (edge : BitVec 32) (send : Bool) : List (CoreId × StrmId) := s.endsWith ten edge send true

/-- The queue that carries a tenant's rounds on a peer link (R367). [log entry 35, DESIGN CHOICE] -/
def State.peerQueue? (s : State) (ten : Tenant) : Option LinkQ := s.linkQs.find? (fun q => q.tenant == ten)

/-- The place of a queue of a peer link among the 192 of the module (R367). -/
def LinkQ.at_ (q : LinkQ) : Nat := 8 * q.link.val + q.queue.val

/-- Send a round message of an edge in its tenant's queue, with the queue's next SEQ, whichever tenants share the queue (R365, R367). -/
def State.peerSend (s : State) (ten : Tenant) (e : Edge) (type pos : Nat) (payload : List Byte) : State :=
  match s.peerQueue? ten with
  | none => s
  | some q =>
    ({ s with txSeq := vmod s.txSeq q.at_ (fun n => n + 1) }).send (.peer e.peer) type ten.toNat q.queue.val e.edge (vget s.txSeq q.at_ 0) pos payload

/-- The record of an edge end (R361). -/
def State.edgeRecord (s : State) (c : CoreId) (k : StrmId) (kind : BitVec 8) (detail round row : Nat) (arg : BitVec 64) : State :=
  s.record c kind (unitId c 4 k.val) detail (pos2 round row) arg

/-- A peer end freezes with PEER; the detail is the underlying kind (R232, R367). -/
def State.peerFault (s : State) (c : CoreId) (k : StrmId) (e : Edge) (code : BitVec 8) (round row : Nat) : State :=
  let s := s.modCore c (fun x => x.modStrm k (fun z => { z with st := .frozen, fault := some (kPEER, 0), walk := none }))
  s.edgeRecord c k kPEER code.toNat round row (e.edge.setWidth 64)

/-- ROUNDVOID is posted at an end (R232). [log entry 39, DEDUCED] -/
def State.postVoid (s : State) (c : CoreId) (k : StrmId) (e : Edge) (round : Nat) : State :=
  s.edgeRecord c k kROUNDVOID e.edge.toNat round e.row (BitVec.ofNat 64 round)

/-- The receiver voids a round: its half is discarded, VOID is sent, ROUNDVOID posted. -/
def State.voidRound (s : State) (c : CoreId) (k : StrmId) (round : Nat) : State :=
  match (s.core c).edge? k with
  | none => s
  | some e =>
    let s := s.postVoid c k e round
    (s.modCore c (fun x => x.setEdge k (e.discard round))).peerSend (s.tenantOf c) e 9 round []

/-! ## The sender (R231) -/

/-- The values of a cell's lanes in a format (R39 for the cell-scaled ones, by the scale in KEY[7:0]); none when it holds no numbers. A T3P5 cell's
1,280 trits are more than the 256 values of R53 and R231, and have none here: with QS its edge freezes with PEER, FMT beneath it. [log entry 40,
DESIGN CHOICE] -/
def cellVals? (tab : Vector (BitVec 32) 4) (f : Fmt) (key : Key) (p : Payload) : Option (List FVal) :=
  let c := key.toNat % 256
  if f = 12 ∨ f = 13 then
    some ((List.range 256).map (fun i =>
      if c = 255 then .nan else (decodeF (if f = 12 then e4m3 else e5m2) (lane 8 i p.toNat)).scale ((c : Int) - 127)))
  else
    let vs := (List.range (laneCount f)).map (fun i => decodeLane tab f (lane (laneBits f) i p.toNat))
    if vs.all Option.isSome then some (vs.filterMap id) else none

/-- Quantise a cell on send (R53): QS 1 E4M3S, 2 E5M2S; none when the VC's format holds no numbers. The flags that R53 would set have no
register here, since R49 names none for a peer edge: they are dropped. [log entry 40, DESIGN CHOICE] -/
def State.edgeQuant? (s : State) (c : CoreId) (qs : BitVec 2) (y : Cell) : Option Cell :=
  if qs = 0 then some y
  else
    (cellVals? (s.core c).me.cta (s.fmtOfVc c y.h.vc) y.h.key y.data).map (fun vs =>
      let q := quantise vs (qs == 2) 0
      { y with data := q.2.1, h := { y.h with key := BitVec.ofNat 16 (q.1 + y.h.key.toNat / 256 * 256) } })

/-- The payload of a ROUND DATA message with one cell. [log entry 37, DESIGN CHOICE] -/
def roundBytes (h : BitVec 64) (p : Payload) : List Byte := bytesOf 8 h.toNat ++ bytesOf 256 p.toNat

/-- Account for a cell that has left, and for the end of its round. -/
def Edge.left (e : Edge) (m slot : Nat) : Edge := if e.lastOf m then { e with sentAt := Sparse.set e.sentAt (m / e.n) slot } else e

/-- A cell of a voided round again, from the replay area: one cell a slot by the loader, the stream path of its place and the link (R14, R231, R232, R394). -/
def State.sendAgain (s : State) (c : CoreId) (k : StrmId) (e : Edge) (link : LinkId) (m : Nat) (rest : List Nat) : Out :=
  let y := (s.core c).strms[k]
  if !(s.core c).loaderFree y.loader s.slot || !s.pathsFree false (s.strmPlaces c k (e.place m) .read) then .next s
  else match s.strmTouch c k (e.place m) .read with
    | .absent => .fault .absentPhysical
    | .fault s code => .next (s.freezeStrm c k code (e.place m) false)
    | .ok s pa =>
      if s.hbmBad pa 256 then
        .next (((s.pathsUsed false [pa]).modCore c (fun x => x.loaderUsed y.loader s.slot)).freezeStrm c k kECC (e.place m) false)
      else
        let h : BitVec 64 := match Sparse.get? e.landed m with | some z => z.1 | none => 0
        let p : Payload := BitVec.ofNat 2048 (Memory.readN s.hbm pa 256)
        let s := ((s.softHbm pa 256).pathsUsed false [pa]).linkOutUsed link
        .next ((s.modCore c (fun x => (x.setEdge k ({ e with again := rest }.left m s.slot)).loaderUsed y.loader s.slot)).peerSend (s.tenantOf c) e 7 (m / e.n)
          (roundBytes h p))

/-- The oldest admitted cell into the replay area and out: one cell a slot by the storer, the stream path of its place and the link (R14, R231, R394). -/
def State.sendNew (s : State) (c : CoreId) (k : StrmId) (e : Edge) (link : LinkId) (cell : Cell) (rest : List Cell) : Out :=
  let y := (s.core c).strms[k]
  if !(s.core c).storerReady y.storer s.slot || !s.pathsFree true (s.strmPlaces c k (e.place e.sent) .write) then .next s
  else match s.edgeQuant? c e.qs cell with
    | none => .next (s.peerFault c k e kFMT (e.sent / e.n) (e.sent % e.n))
    | some q =>
      match s.strmTouch c k (e.place e.sent) .write with
      | .absent => .fault .absentPhysical
      | .fault s code => .next (s.freezeStrm c k code (e.place e.sent) true)
      | .ok s pa =>
        let s := ((s.hbmWrite { addr := pa, bytes := bytesOf 256 q.data.toNat }).pathsUsed true [pa]).linkOutUsed link
        let e' := { e with outq := rest, sent := e.sent + 1, landed := Sparse.set e.landed e.sent (q.h.word, 0) }
        .next (((s.modCore c (fun x => (x.setEdge k (e'.left e.sent s.slot)).storerUsed y.storer s.slot)).consume c cell).peerSend (s.tenantOf c) e 7
          (e.sent / e.n) (roundBytes q.h.word q.data))

/-- PEER_CELL_SEND: a cell of a voided round again, else the oldest admitted cell, one cell a slot on the tenant's link (R14); an edge whose tenant
has no queue freezes at its first cell (R367). -/
def execPeerCellSend (c : CoreId) (k : StrmId) (s : State) : Out :=
  let y := (s.core c).strms[k]
  match (s.core c).edge? k with
  | none => .next s
  | some e =>
    if y.st == .running && e.send && !y.cancel && !(e.again.isEmpty && e.outq.isEmpty) then
      match s.peerQueue? (s.tenantOf c) with
      | none => .next (s.peerFault c k e kPROT (e.again.headD e.sent / e.n) (e.again.headD e.sent % e.n))
      | some q =>
        if !s.linkOutFree q.link then .next s
        else match e.again, e.outq with
          | m :: rest, _ => s.sendAgain c k e q.link m rest
          | [], cell :: rest => s.sendNew c k e q.link cell rest
          | [], [] => .next s
    else .next s

/-- A sender rewinds to the start of a round: its cells already sent are sent again (R232). [log entry 38, DESIGN CHOICE] -/
def Edge.rewind (e : Edge) (r : Nat) : Edge :=
  let mine := (List.range (e.roundLen r)).map (fun i => e.first r + i)
  { (e.voided r) with
    again := e.again.filter (fun m => m / e.n != r) ++ mine.filter (fun m => decide (m < e.sent))
    sentAt := Sparse.erase e.sentAt r }

/-- A sender's round is voided: ROUNDVOID is posted, VOID goes out ahead of the cells that are sent again, which tells the receiver where they begin,
and the round starts anew (R232). [log entry 38, DESIGN CHOICE; log entry 39, DEDUCED] -/
def State.rewindRound (s : State) (c : CoreId) (k : StrmId) (e : Edge) (r : Nat) : State :=
  ((s.postVoid c k e r).modCore c (fun x => x.setEdge k (e.rewind r))).peerSend (s.tenantOf c) e 9 r []

/-- Rounds up to r are committed: their cells are forgotten, and the end is complete with TOTAL cells (R232). -/
def Edge.commitUpTo (e : Edge) (r : Nat) : Edge :=
  { e with
    committed := r, landed := e.landed.filter (fun y => decide (r ≤ y.1 / e.n)), again := e.again.filter (fun m => decide (r ≤ m / e.n))
    sentAt := e.sentAt.filter (fun y => decide (r ≤ y.1)), cellsDone := e.cellsOf r, row := 0
    rxq := e.rxq.filter (fun y => decide (r ≤ y.round)), await := e.await.filter (fun y => decide (r ≤ y)) }

/-- A stream slot's counters after a commit. -/
def Strm.edgeDone (y : Strm) (e : Edge) (slot : Nat) : Strm :=
  { y with cells := e.cellsDone, doneAt := if e.total ≠ 0 ∧ e.cellsDone = e.total ∧ y.doneAt.isNone then some slot else y.doneAt }

def Core.commitEdge (x : Core) (k : StrmId) (e : Edge) (slot : Nat) : Core :=
  (x.setEdge k e).modStrm k (fun y => y.edgeDone e slot)

/-- The oldest outstanding round whose last cell left 2^20 slots ago or more (R368). -/
def Edge.overdue? (e : Edge) (slot : Nat) : Option Nat := (e.sentAt.find? (fun y => decide (y.2 + 2 ^ 20 ≤ slot))).map (·.1)

/-- ROUND_TIMEOUT: no answer within 2^20 slots of a round's last cell: the round is voided and sent again (R368). [log entry 39, DEDUCED] -/
def execRoundTimeout (c : CoreId) (k : StrmId) (s : State) : Out :=
  match (s.core c).edge? k with
  | none => .next s
  | some e =>
    match e.overdue? s.slot with
    | some r =>
      if e.send && (s.core c).strms[k].live then
        .next (s.rewindRound c k e r)
      else .next s
    | none => .next s

/-! ## Datagrams (R365-R367) -/

/-- The longest payload of a datagram: a frame of 9,216 bytes (R364) without its Ethernet header and check sequence (18 bytes), IPv6 header
(40), UDP header (8) and Sluice header (32). [log entry 120, PRESUMED] -/
def maxPayload : Nat := 9216 - 18 - 40 - 8 - 32

/-- Whether a datagram is taken (R365): VER, TYPE and bytes 28-31; the upper bits of TEN and QUE are ignored (R4). A payload that no frame can
carry is none (R364). -/
def dgOk (m : Datagram) : Bool :=
  m.ver == 1 && decide (1 ≤ m.type.toNat) && decide (m.type.toNat ≤ 11) && m.resv == 0 && decide ((dgBody m).length ≤ maxPayload)

/-- The tenant queue that a datagram names: QUE[2:0]. -/
def dgQueue (m : Datagram) : Nat := m.que.toNat % 8

def dgTenant (m : Datagram) : Tenant := m.ten.setWidth 6

/-- A datagram that is discarded is counted (R365). -/
def State.dropDatagram (s : State) : State := { s with discards := { s.discards with datagrams := s.discards.datagrams + 1 } }

/-- DATAGRAM_DISCARD: a datagram with an illegal header (R365). -/
def execDatagramDiscard (m : Datagram) (s : State) : Out := .next (if dgOk m then s else s.dropDatagram)

/-- The queue of a link that a datagram comes by. -/
def State.rxQueue? (s : State) (link : LinkId) (m : Datagram) : Option LinkQ :=
  s.linkQs.find? (fun q => q.link == link && q.queue.val == dgQueue m && q.tenant == (dgTenant m))

/-- The receiver's next SEQ in a queue: one past the datagram taken or discarded. [log entry 36, DEDUCED] -/
def State.rxNext (s : State) (q : LinkQ) (m : Datagram) : State := { s with rxSeq := vset s.rxSeq q.at_ (m.seq.toNat + 1) }

/-- Whether a datagram is the next one of its queue (R367). -/
def State.inSeq (s : State) (q : LinkQ) (m : Datagram) : Bool := vget s.rxSeq q.at_ 0 == m.seq.toNat

/-- The cells of a ROUND DATA payload: 8 bytes of header and 256 bytes each. [log entry 37, DESIGN CHOICE] -/
def cellsOfBytes (bs : List Byte) (fuel : Nat) : List (BitVec 64 × Payload) :=
  match fuel with
  | 0 => []
  | n + 1 =>
    if bs.length < 264 then []
    else (BitVec.ofNat 64 (numOf (bs.take 8)), BitVec.ofNat 2048 (numOf ((bs.drop 8).take 256))) :: cellsOfBytes (bs.drop 264) n

/-! ## The receiver (R232) -/

/-- What landing or a row's write comes to. -/
inductive Landed where
  | ok (s : State)
  | fault (s : State) (code : BitVec 8)
  | absent

/-- Write bytes at a VA through a stream's extents. -/
def State.edgeWrite (s : State) (c : CoreId) (k : StrmId) (va : Nat) (bs : List Byte) : Landed :=
  match s.strmTouch c k va .write with
  | .absent => .absent
  | .fault s code => .fault s code
  | .ok s pa => .ok (s.hbmWrite { addr := pa, bytes := bs })

/-- Whether the next cell of the receive buffer can land in this slot: its link's port, the storer and the stream path of its place carry one cell a
slot (R14, R394). -/
def State.canLand (s : State) (c : CoreId) (k : StrmId) (e : Edge) : Bool :=
  match e.rxq with
  | [] => false
  | y :: _ => s.linkInFree y.link && (s.core c).storerReady ((s.core c).strms[k]).storer s.slot &&
    s.pathsFree true (s.strmPlaces c k (e.place (e.first y.round + e.landedOf y.round)) .write)

/-- The next cell of the receive buffer lands in its round's half, after those that have landed; a fault voids the round and freezes the end (R232). -/
def State.landNext (s : State) (c : CoreId) (k : StrmId) (e : Edge) : Out :=
  match e.rxq with
  | [] => .next s
  | y :: rest =>
    let m := e.first y.round + e.landedOf y.round
    let at_ := s.strmPlaces c k (e.place m) .write
    match s.edgeWrite c k (e.place m) (bytesOf 256 y.data.toNat) with
    | .absent => .fault .absentPhysical
    | .fault s code => .next ((s.voidRound c k y.round).peerFault c k e code y.round e.row)
    | .ok s => .next (((s.linkInUsed y.link).pathsUsed true at_).modCore c (fun x =>
        (x.setEdge k { e with landed := Sparse.set e.landed m (y.head, y.data), rxq := rest }).storerUsed ((x.strms[k]).storer) s.slot))

/-- ROUND DATA of a tenant that has no queue on the link: the stream that it is for freezes with PEER, PROT beneath it (R367). -/
def State.noQueue (s : State) (m : Datagram) : State :=
  match s.endsOf (dgTenant m) m.edge false with
  | [] => s.dropDatagram
  | (c, k) :: _ =>
    match (s.core c).edge? k with
    | none => s.dropDatagram
    | some e => if (s.core c).strms[k].st = .running then s.dropDatagram.peerFault c k e kPROT m.pos.toNat e.row else s.dropDatagram

/-- ROUND_DATA: cells of a round enter the receive buffer, and the first of it lands when it can, or the datagram is discarded: out of sequence,
which voids its round as a loss; of a round already committed, which is answered with COMMIT, also by an end that is complete; of one that waits to be
sent again; or beyond what the end gives credit for (R232, R367, R368). [log entry 37, DESIGN CHOICE; log entry 38, DESIGN CHOICE] -/
def execRoundData (link : LinkId) (m : Datagram) (s : State) : Out :=
  if !dgOk m || m.type != 7 then .next s.dropDatagram
  else match s.rxQueue? link m with
    | none => .next (s.noQueue m)
    | some q =>
      let r := m.pos.toNat
      let ends := s.endsOf (dgTenant m) m.edge false ++ s.endsWith (dgTenant m) m.edge false false
      let late := !s.inSeq q m
      let s := s.rxNext q m
      match ends with
      | [] => .next s.dropDatagram
      | (c, k) :: _ =>
        match (s.core c).edge? k with
        | none => .next s
        | some e =>
          let y := (s.core c).strms[k]
          if r < e.committed then .next (s.dropDatagram.peerSend (dgTenant m) e 8 r [])
          else if late then .next (s.dropDatagram.voidRound c k r)
          else if e.committed + 2 ≤ r ∨ y.live = false ∨ y.cancel ∨ e.await.contains r then .next s.dropDatagram
          else
            let e := e.receive r link (cellsOfBytes (dgBody m) 32)
            let s := s.modCore c (fun x => x.setEdge k e)
            if y.st == .running && s.canLand c k e then s.landNext c k e else .next s

/-- The writes of one row by the destination pattern (R232): its elements in order, then its scale; rows past the pattern's cells go on in dimension 3.
[log entry 155, DESIGN CHOICE] -/
def Edge.rowWrites (e : Edge) (m : Nat) (h : BitVec 64) (p : Payload) : List (Nat × List Byte) :=
  let per := patPer e.dap
  let n := patSize e.dap
  let els := (List.range per).flatMap (fun i =>
    let a := patAddr vaTop e.dap (m * per + i)
    if n ≤ 16 then [(a, payloadBytes p (n * i) n)]
    else (List.range 4).map (fun j => ((a + 64 * j) % vaTop, payloadBytes p (64 * j) 64)))
  els ++ (if patEsz e.dap = 6 then [((e.sbase + m) % vaTop, bytesOf 1 (getBits h 29 8))] else [])

/-- Write a list of byte strings, up to the first fault. -/
def State.edgeWrites (s : State) (c : CoreId) (k : StrmId) (l : List (Nat × List Byte)) : Landed :=
  match l with
  | [] => .ok s
  | w :: r => match s.edgeWrite c k w.1 w.2 with
    | .ok s => s.edgeWrites c k r
    | z => z

/-- A fault while round r commits voids it and freezes the end (R232). -/
def State.commitFault (s : State) (c : CoreId) (k : StrmId) (e : Edge) (code : BitVec 8) : State :=
  (s.voidRound c k e.committed).peerFault c k e code e.committed e.row

/-- The next row of a whole round is written: the loader reads its cell, the storer writes by the destination pattern, each one cell a slot over the
stream paths, also where a fault ends it (R14, R232, R394). -/
def State.commitRow (s : State) (c : CoreId) (k : StrmId) (e : Edge) : Out :=
  let y := (s.core c).strms[k]
  let m := e.first e.committed + e.row
  match s.strmTouch c k (e.place m) .read with
  | .absent => .fault .absentPhysical
  | .fault s code => .next (s.commitFault c k e code)
  | .ok s pa =>
    let read (s : State) : State := (s.pathsUsed false [pa]).modCore c (fun x => x.loaderUsed y.loader s.slot)
    if !s.pathsFree false [pa] then .next s
    else if s.hbmBad pa 256 then .next ((read s).commitFault c k e kECC)
    else
      let s := s.softHbm pa 256
      let h : BitVec 64 := match Sparse.get? e.landed m with | some z => z.1 | none => 0
      let row := e.rowWrites m h (BitVec.ofNat 2048 (Memory.readN s.hbm pa 256))
      let at_ := row.flatMap (fun w => s.strmPlaces c k w.1 .write)
      let wrote (s : State) : State := ((read s).pathsUsed true at_).modCore c (fun x => x.storerUsed y.storer s.slot)
      if !s.pathsFree true at_ then .next s
      else match s.edgeWrites c k row with
        | .absent => .fault .absentPhysical
        | .fault s code => .next ((wrote s).commitFault c k e code)
        | .ok s => .next ((wrote s).modCore c (fun x => x.setEdge k { e with row := e.row + 1 }))

/-- After a round's last row: CLOG is written and COMMIT is sent (R232). -/
def State.commitLog (s : State) (c : CoreId) (k : StrmId) (e : Edge) : Out :=
  let y := (s.core c).strms[k]
  let at_ := s.strmPlaces c k e.clog .write
  if !s.pathsFree true at_ then .next s
  else match s.edgeWrite c k e.clog (bytesOf 8 (e.committed + 1)) with
    | .absent => .fault .absentPhysical
    | .fault s code => .next (s.commitFault c k e code)
    | .ok s =>
      .next (((s.pathsUsed true at_).modCore c (fun x => (x.commitEdge k (e.commitUpTo (e.committed + 1)) s.slot).storerUsed y.storer s.slot)).peerSend
        (s.tenantOf c) e 8 e.committed [])

/-- ROUND_COMMIT: the next cell of the receive buffer lands, or the next row of a whole round is written, or, after the last, CLOG, and COMMIT is
sent (R232). [log entry 37, DESIGN CHOICE] -/
def execRoundCommit (c : CoreId) (k : StrmId) (s : State) : Out :=
  let y := (s.core c).strms[k]
  match (s.core c).edge? k with
  | none => .next s
  | some e =>
    if !(y.st == .running && !e.send && !y.cancel) then .next s
    else if s.canLand c k e then s.landNext c k e
    else if !e.whole e.committed || !(s.core c).loaderFree y.loader s.slot || !(s.core c).storerReady y.storer s.slot then .next s
    else if e.row < e.roundLen e.committed then s.commitRow c k e
    else s.commitLog c k e

/-- ROUND_VOID: a loss on the link voids the open round of a receiving end, unless its rows are being written (R232). -/
def execRoundVoid (c : CoreId) (k : StrmId) (s : State) : Out :=
  match (s.core c).edge? k with
  | none => .next s
  | some e =>
    .next (if (s.core c).strms[k].live && !e.send && e.row == 0 && !(e.landed.isEmpty && e.rxq.isEmpty) then s.voidRound c k e.committed else s)

/-! ## Answers (R231, R232, R368) -/

/-- A round is voided at the senders of an edge: it is sent again (R232). -/
def State.voidAtSenders (s : State) (m : Datagram) : State :=
  let r := m.pos.toNat
  (s.endsOf (dgTenant m) m.edge true).foldl (fun s y =>
    match (s.core y.1).edge? y.2 with
    | some e => if e.committed ≤ r then s.rewindRound y.1 y.2 e r else s
    | none => s) s

/-- The sender of an edge begins a round again: a receiver that has voided it takes its cells again, another one discards its half first. [log entry 38,
DESIGN CHOICE] -/
def State.voidAtReceivers (s : State) (m : Datagram) : State :=
  let r := m.pos.toNat
  (s.endsOf (dgTenant m) m.edge false).foldl (fun s y =>
    match (s.core y.1).edge? y.2 with
    | some e =>
      if e.await.contains r then s.modCore y.1 (fun x => x.setEdge y.2 { e with await := e.await.filter (fun z => z != r) })
      else if e.committed ≤ r then (s.postVoid y.1 y.2 e r).modCore y.1 (fun x => x.setEdge y.2 (e.restart r))
      else s
    | none => s) s

/-- A loss voids a round at the receivers of an edge (R232). -/
def State.lossAtReceivers (s : State) (m : Datagram) : State :=
  let r := m.pos.toNat
  (s.endsOf (dgTenant m) m.edge false).foldl (fun s y =>
    match (s.core y.1).edge? y.2 with
    | some e => if e.committed ≤ r then s.voidRound y.1 y.2 r else s
    | none => s) s

/-- The senders of an edge commit the rounds up to POS, once every cell of them has been sent. -/
def State.commitAtSenders (s : State) (m : Datagram) : State :=
  let r := m.pos.toNat
  (s.endsOf (dgTenant m) m.edge true).foldl (fun s y =>
    match (s.core y.1).edge? y.2 with
    | some e =>
      if e.committed ≤ r ∧ e.first r + e.roundLen r ≤ e.sent then
        s.modCore y.1 (fun x => x.commitEdge y.2 (e.commitUpTo (r + 1)) s.slot)
      else s
    | none => s) s

/-- An answer of a type arrives: in a queue of its tenant and in sequence it has the effect f; out of sequence it is discarded and its
round is voided as a loss (R367). [log entry 36, DEDUCED] -/
def State.linkReply (s : State) (link : LinkId) (m : Datagram) (type : Nat) (f : State → State) : State :=
  if !dgOk m || m.type.toNat != type then s.dropDatagram
  else match s.rxQueue? link m with
    | none => s.dropDatagram
    | some q =>
      let good := s.inSeq q m
      let s := s.rxNext q m
      if good then f s
      else if type = 10 then s.dropDatagram
      else if type = 9 then (s.dropDatagram.voidAtSenders m).lossAtReceivers m
      else s.dropDatagram.voidAtSenders m

/-- COMMIT: round POS is committed at the sender (R231, R368). -/
def execCommitMsg (link : LinkId) (m : Datagram) (s : State) : Out := .next (s.linkReply link m 8 (fun s => s.commitAtSenders m))

/-- VOID: the sender rewinds the round; at a receiver it marks where the round begins again. [log entry 38, DESIGN CHOICE] -/
def execVoidMsg (link : LinkId) (m : Datagram) (s : State) : Out :=
  .next (s.linkReply link m 9 (fun s => (s.voidAtSenders m).voidAtReceivers m))

/-- ACK: the SEQ of a message answered (R366); nothing of the module waits for it. -/
def execAckMsg (link : LinkId) (m : Datagram) (s : State) : Out := .next (s.linkReply link m 10 id)

/-! ## SEDGE (R230) -/

/-- A descriptor read at issue: ALIGN, a walk to wait for, or the thread parks on the read. -/
def State.descRead (s : State) (i : Instr) (va align : Nat) (what : Desc) : State :=
  if va % align ≠ 0 then s.accTrap kALIGN va .read
  else match s.translate s.cur.1 va .read with
    | none => s.parkMe (.walk (BitVec.ofNat 55 va) .read)
    | some pa => s.parkMe (.desc what pa ((encode i).getD 0))

def execSedge (n : BitVec 4) (t : BitVec 6) (s : State) : Out :=
  .next (s.descRead (.sedge n t) (vaOf (s.me.rd (regAfter n))).toNat 64 (.sedge (s.me.rd (regOf n)) t))

/-- The edge end of a descriptor, without its destination pattern. -/
def edgeOf (d : Nat) (entry : BitVec 8) : Edge := {
  peer := BitVec.ofNat 128 d, edge := BitVec.ofNat 32 (d / 2 ^ 128), rlog := d / 2 ^ 160 % 256, send := d / 2 ^ 168 % 2 == 0
  qs := BitVec.ofNat 2 (d / 2 ^ 170), total := d / 2 ^ 192 % 2 ^ 64, rarea := d / 2 ^ 256 % 2 ^ 55, clog := d / 2 ^ 320 % 2 ^ 55
  dap := 0, sbase := d / 2 ^ 448 % 2 ^ 55, entry := entry }

def dapVa (d : Nat) : Nat := d / 2 ^ 384 % 2 ^ 55

/-- The SEDGE thread's read is done: its checks, and then it waits for a slot, a loader and a storer (R230). [log entry 34, DEDUCED] -/
def State.sedgeRead (s : State) (c : CoreId) (t : Tid) (g : Word) (tag : BitVec 6) (pa word : Nat) : State :=
  let d := s.readOwn c pa 64
  let e := edgeOf d (BitVec.ofNat 8 g.toNat)
  let ill (k : Nat) : State := s.trapAt c t kILL (illEval word k) (s.thr c t).pc
  let align (va : Nat) (k : Kind) : State := s.trapAt c t kALIGN (accessEval va k) (s.thr c t).pc
  if e.rlog < 4 ∨ 12 < e.rlog ∨ e.qs = 3 then ill 3
  else if e.send ∧ rtMode (vget (s.core c).routes e.entry.toNat 0) ≠ 5 then ill 3
  else if e.rarea % 256 ≠ 0 then align e.rarea .write
  else if !e.send ∧ e.clog % 8 ≠ 0 then align e.clog .write
  else s.modThr c t (fun th => { th with pend := .edge (BitVec.ofNat 512 d) e.entry tag word })

/-- Read the 32 bytes of a destination pattern in the thread's space; none when a read fails. [log entry 34, DEDUCED] -/
def State.readDap (s : State) (c : CoreId) (va : Nat) : Except (Option (State × BitVec 8)) (State × Nat) :=
  match s.touch c va .read with
  | .absent => .error none
  | .fault s code => .error (some (s, code))
  | .ok s pa =>
    let last := (va + 31) % vaTop
    match s.touch c last .read with
    | .absent => .error none
    | .fault s code => .error (some (s, code))
    | .ok s pb =>
      let room := 65536 - va % 65536
      let v := if 32 ≤ room then s.readOwn c pa 32
        else s.readOwn c pa room + 256 ^ room * s.readOwn c (pb - (31 - room)) (32 - room)
      .ok (s, v)

/-- A parked SEDGE takes a slot, a loader and a storer; a receiver reads its destination pattern (R230). [log entry 34, DEDUCED] A BASE of that
pattern that is no multiple of its elements' alignment, for which R230 gives no fault, raises ALIGN of kind write. [log entry 146, DESIGN CHOICE] -/
def State.edgeTake (s : State) (c : CoreId) (t : Tid) (d : BitVec 512) (entry : BitVec 8) (tag : BitVec 6) (word : Nat) : Out :=
  let x := s.core c
  match x.freeStrm?, x.loaderIdle?, x.storerIdle? with
  | some k, some l, some q =>
    let e := edgeOf d.toNat entry
    let y : Strm := { kind := if e.send then .edgeSend else .edgeRecv, st := .running, tag := tag, loader := some l, storer := some q }
    let done (s : State) (e : Edge) : State :=
      (s.modCore c (fun x => (x.takeSlot k y).setEdge k e)).finish c t id
    if e.send then .next (done s e)
    else
      let va := dapVa d.toNat
      match s.readDap c va with
      | .error none => .fault .absentPhysical
      | .error (some (s, code)) => .next (s.trapAt c t code (accessEval va .read) (s.thr c t).pc)
      | .ok (s, v) =>
        let p : BitVec 256 := BitVec.ofNat 256 v
        if patEsz p = 7 ∨ patMode p ≠ 0 then .next (s.trapAt c t kILL (illEval word 3) (s.thr c t).pc)
        else if patBase p % min (patSize p) 64 ≠ 0 then .next (s.trapAt c t kALIGN (accessEval (patBase p) .write) (s.thr c t).pc)
        else .next (done s { e with dap := p })
  | _, _, _ => .next s

/-- BIND_SLOT_TAKEN: a parked binding form, SCFG, SEDGE or SSPLICE takes what it waits for (R213, R222, R226, R230). -/
def execBindSlotTaken (c : CoreId) (t : Tid) (s : State) : Out :=
  match (s.thr c t).st, (s.thr c t).pend with
  | .parked, .bind r own => .next (s.bindTake c t r own)
  | .parked, .scfg va slot tag => .next (s.scfgTake c t va slot tag)
  | .parked, .edge d entry tag word => s.edgeTake c t d entry tag word
  | .parked, .splice k page frame tag word => .next (s.spliceTake c t k page frame tag word)
  | _, _ => .next s

/-! ## SCANCEL (R228) -/

/-- The open rounds of an edge: at the sender those of which a cell has been sent and whose commit has not come, at the receiver those of which a cell
is there; two at most (R231). -/
def Edge.openRounds (e : Edge) : List Nat :=
  [e.committed, e.committed + 1].filter (fun r => if e.send then decide (e.cellsOf r < e.sent) else decide (0 < e.landedOf r + e.queuedOf r))

/-- A peer edge stops: what it has not sent is dropped, and its open rounds are voided (R228, R356). -/
def State.cancelEdge (s : State) (c : CoreId) (k : StrmId) : State :=
  match (s.core c).edge? k with
  | none => s
  | some e =>
    if e.send then
      let s := s.modCore c (fun x => x.setEdge k { e with outq := [], again := [] })
      e.openRounds.foldl (fun s r => (s.postVoid c k e r).peerSend (s.tenantOf c) e 9 r []) s
    else e.openRounds.foldl (fun s r => s.voidRound c k r) s

/-- Stop a stream (R228). -/
def State.cancel (s : State) (c : CoreId) (k : StrmId) : State := (s.modCore c (fun x => x.cancelStrm k)).cancelEdge c k

/-- SCANCEL: the lowest live slot with the tag stops, and the thread waits for it; with none, Gn is zero. [log entry 97, DEDUCED] -/
def execScancel (n : BitVec 4) (t : BitVec 6) (s : State) : Out :=
  let c := s.cur.1
  let x := s.core c
  .next (match (List.finRange 32).find? (fun k => x.strms[k].live && x.strms[k].tag == t) with
    | none => s.put (regOf n) 0
    | some k => (s.cancel c k).parkMe (.scancel (regOf n) k))

end Sys2Proof.Machine
end

