-- ==== Sys2Proof/Machine/Routes.lean ====
section
/-! DEFINITION. The RTE forms (R181, R200-R203) and the race units (R195-R197). -/

namespace Sys2Proof.Machine

/-! ## Route entries, groups, budgets -/

/-- RTSET: the entry image is read at the VA in Ga, 32-byte aligned (R200). -/
def execRtset (a : BitVec 5) (e : BitVec 8) (s : State) : Out :=
  .next (s.descRead (.rtset a e) (vaOf (s.me.rd a)).toNat 32 (.rtset e))

/-- A write that lands at the end of the slot. -/
def Core.later (x : Core) (l : Late) : Core := { x with late := x.late ++ [l] }

/-- The RTSET thread's read is done: the entry is written at the end of the slot (R200). -/
def State.rtsetRead (s : State) (c : CoreId) (t : Tid) (e : BitVec 8) (pa : Nat) : State :=
  (s.modCore c (fun x => x.later (.route e (BitVec.ofNat 256 (s.readOwn c pa 32))))).finish c t id

def execMcset (a b : BitVec 5) (g : BitVec 6) (s : State) : Out :=
  let mask := BitVec.ofNat 128 ((s.me.rd a).toNat + 2 ^ 64 * (s.me.rd b).toNat)
  .next ((s.modCore s.cur.1 (fun x => x.later (.group g mask))).skip)

/-- Whether a task other than the core's own, and still running, owns a crossbar group. -/
def State.xgroupForeign (s : State) (c : CoreId) (g : BitVec 6) : Bool :=
  match (vget s.xgroups[c.cluster] g.toNat {}).owner with
  | none => false
  | some id => (s.core c).task != some id && (s.taskById id).isSome

/-- MCSET.X: ILL for a bit of 208-223, PROT with kind write when another running task owns the group (R181). [log entry 122, DEDUCED] -/
def execMcsetX (a b : BitVec 5) (h : BitVec 1) (g : BitVec 6) (s : State) : Out :=
  let c := s.cur.1
  let lo := (s.me.rd a).toNat
  let hi := (s.me.rd b).toNat
  .next (
    if h = 1 ∧ hi / 2 ^ 16 % 2 ^ 16 ≠ 0 then s.ill (.mcsetX a b h g) 3
    else if s.xgroupForeign c g then s.accTrap kPROT g.toNat .write
    else
      let v : BitVec 128 := if h = 1 then BitVec.ofNat 128 (lo + 2 ^ 64 * (hi % 2 ^ 32)) else BitVec.ofNat 128 (lo + 2 ^ 64 * hi)
      (s.modCore c (fun x => x.later (.xgroup g (h == 1) v (x.task.getD 0)))).skip)

def execRacecfg (a : BitVec 5) (u : BitVec 1) (s : State) : Out :=
  let v := s.me.rd a
  .next ((s.modCore s.cur.1 (fun x => x.modRace (Fin.ofNat 2 u.toNat) (fun r => { r with cfg := v }))).skip)

def execLoopset (a : BitVec 5) (l : BitVec 4) (s : State) : Out :=
  .next ((s.modCore s.cur.1 (fun x => x.later (.budget (Fin.ofNat 16 l.toNat) ((s.me.rd a).setWidth 16)))).skip)

/-- Half h of a crossbar group, and its owner (R181). [log entry 124, DEDUCED] -/
def XGroup.write (y : XGroup) (h : Bool) (v : BitVec 128) (owner : TaskId) : XGroup :=
  { mask := setBits y.mask (if h then 128 else 0) (if h then 96 else 128) v.toNat, owner := (some owner : Option TaskId) }

/-- STEP on a unit that is not frozen (R342): a running one halts, a halted one acts for one slot or runs on. [log entry 89, DEDUCED] -/
def Core.stepUnit (x : Core) (e : Option ElemId) (run : Bool) : Core :=
  match e with
  | some e => x.modElem e (fun y =>
      if y.frozen.isSome then y
      else if run then { y with halted := false, credit := false }
      else if y.halted then { y with credit := true } else { y with halted := true })
  | none =>
    if run then { x with weirHalted := false, weirCredit := false }
    else if x.weirHalted then { x with weirCredit := true } else { x with weirHalted := true }

/-- Bytes of a value replaced from an offset. -/
def patch {n : Nat} (v : BitVec n) (off : Nat) (l : List Byte) : BitVec n := setBits v (8 * off) (8 * l.length) (numOf l)

/-- The 64-bit words of a cell that n bytes from an offset write whole: they get a new code (R258). -/
def wholeWords (off n : Nat) : List (Fin 32) := (List.finRange 32).filter (fun i => decide (off ≤ 8 * i.val ∧ 8 * i.val + 8 ≤ off + n))

/-- The bits of ESR that are not reserved (R117). -/
def esrBits : BitVec 32 := 0xEC7F

/-- SF0-SF3 as 8 bytes, and from them (R379). -/
def Elem.keys (e : Elem) : BitVec 64 := BitVec.ofNat 64 ((List.range 4).foldl (fun n i => n + (vget e.d i {}).key.toNat * 2 ^ (16 * i)) 0)
def Elem.setKeys (e : Elem) (v : BitVec 64) : Elem := { e with d := Vector.ofFn (fun i => { e.d[i] with key := BitVec.ofNat 16 (getBits v (16 * i.val) 16) }) }

/-- An element's register with bytes replaced, by the debug port's TGT: ST, the payload of D0-D3, SF0-SF3, P or ESR (R379). -/
def Elem.dbgWrite (e : Elem) (tgt off : Nat) (l : List Byte) : Elem :=
  if tgt = 0 then { e with st := BitVec.ofNat 6 (numOf l) }
  else if tgt ≤ 4 then { e with d := vmod e.d (tgt - 1) (fun r => { r with data := patch r.data off l }) }
  else if tgt = 5 then e.setKeys (patch e.keys off l)
  else if tgt = 6 then { e with p := BitVec.ofNat 2 (numOf l) }
  else if tgt = 7 then { e with esr := patch e.esr off l &&& esrBits }
  else e

/-- The head of a channel with bytes of its payload replaced (R379). -/
def Chan.dbgWrite (q : Chan) (off : Nat) (l : List Byte) : Chan :=
  { q with cells := match q.cells with | [] => [] | y :: r => { y with data := patch y.data off l } :: r }

/-- The debug port's write to an element lands at the end of the command's slot, after what fires in it (R122, R380): a head that left its
channel in the slot is written no more. [log entry 79, DEDUCED] -/
def State.dbgWrite (s : State) (c : CoreId) (e : ElemId) (tgt off : Nat) (l : List Byte) : State :=
  let ch := tgt - 8
  if tgt < 8 then
    (s.clearSpots (if 1 ≤ tgt ∧ tgt ≤ 4 then (wholeWords off l.length).map (fun i => .dreg c e (Fin.ofNat 4 (tgt - 1)) i) else [])).modCore c
      (fun x => x.modElem e (fun y => y.dbgWrite tgt off l))
  else if (((s.core c).egAt (48 + e.val)).chan ch).moved then s
  else (s.clearSpots ((wholeWords off l.length).map (fun i => .head c e (Fin.ofNat 4 ch) i))).modCore c (fun x =>
    x.modEg (48 + e.val) (fun g => g.modChan ch (fun q => q.dbgWrite off l)))

/-- The late writes of a core take effect, in order. A LOOPSET that raises a budget after its LOOP fault leaves the ports FROZEN until RESUME.
[log entry 144, DESIGN CHOICE] -/
def State.applyLate (s : State) (c : CoreId) : State :=
  let l := (s.core c).late
  if l.isEmpty then s
  else
    let s := s.modCore c (fun x => { x with late := [] })
    l.foldl (fun s w => match w with
      | .route e image => (s.clearSpots [.route c e]).modCore c (fun x => { x with
          routes := vset x.routes e.toNat image, rids := vset x.rids e.toNat (BitVec.ofNat 8 (getBits image 56 8)) })
      | .group g mask => s.modCore c (fun x => { x with mgroups := vset x.mgroups g.toNat mask })
      | .budget l b => s.modCore c (fun x => x.modLoop l.val (fun y => { y with budget := b }))
      | .code i v => (s.clearSpots [.shadow c (Fin.ofNat 4 i.toNat)]).modCore c (fun x => x.modMe (fun m => { m with cts := vset m.cts i.toNat v }))
      | .step e run => s.modCore c (fun x => x.stepUnit e run)
      | .gate g w => s.modCore c (fun x => { x with gates := x.gates.set g.val { x.gates[g] with arm := w } g.isLt })
      | .table b e i l => (s.clearSpots ((List.range l.length).map (fun k => .entry c e (Fin.ofNat 32 (i + k))))).modCore c (fun x =>
          x.modSlot b (fun y => { y with elems := vmod y.elems e.val (fun z => { z with
            table := (List.range l.length).foldl (fun v k => vset v (i + k) (l.getD k 0)) z.table }) }))
      | .trace v => s.modCore c (fun x => { x with trace := v })
      | .be t v => s.modThr c t (fun th => { th with be := v })
      | .elem e tgt off l => s.dbgWrite c e tgt off l
      | .ranges g t => s.modCore c (fun x => x.modStage g (fun y => { y with ranges := t }))
      | .xgroup g h v owner =>
        let l := vmod s.xgroups[c.cluster] g.toNat (fun y => y.write h v owner)
        { s with xgroups := s.xgroups.set c.cluster.val l c.cluster.isLt }) s

/-! ## Races (R195-R197) -/

def raceFmt (cfg : BitVec 64) : Fmt := BitVec.ofNat 4 (getBits cfg 0 4)
/-- K: 0 reads as 1, 9-15 as 8 (R202). -/
def raceK (cfg : BitVec 64) : Nat := let k := getBits cfg 4 4; if k = 0 then 1 else min k 8
def raceBase (cfg : BitVec 64) : Nat := getBits cfg 8 8
def raceOut (cfg : BitVec 64) : BitVec 8 := BitVec.ofNat 8 (getBits cfg 16 8)

/-- The 12-bit quantisation of a score (R196). -/
def raceQ (f : Fmt) (x : Nat) : Nat :=
  let w := laneBits f
  let u : Nat := match ffmt? f with
    | some _ =>
      let x := if x = 2 ^ (w - 1) then 0 else x
      if x / 2 ^ (w - 1) = 0 then x + 2 ^ (w - 1) else 2 ^ w - 1 - x
    | none => if f = 7 then x else x ^^^ 2 ^ (w - 1)
  let nan := match ffmt? f with
    | some ff => (match decodeF ff x with | .nan => true | _ => false)
    | none => false
  if nan then 0 else if 12 ≤ w then u / 2 ^ (w - 12) else u * 2 ^ (12 - w)

/-- The k best experts in order: the highest quantised score, ties to the lower number. -/
def raceChoose (qs : List (Nat × Nat)) (k : Nat) : List Nat :=
  match k with
  | 0 => []
  | k + 1 =>
    match qs.foldl (fun best y => match best with
      | none => some y
      | some z => if z.2 < y.2 then some y else some z) none with
    | none => []
    | some b => b.1 :: raceChoose (qs.filter (fun y => y.1 != b.1)) k

/-- The STEER payload of a finished race (R197). [log entry 48, DEDUCED] -/
def racePayload (cfg : BitVec 64) (scores : List Nat) : Payload :=
  let f := raceFmt cfg
  let qs := (List.range scores.length).map (fun i => (i, raceQ f (scores.getD i 0)))
  let es := raceChoose qs (min (raceK cfg) scores.length)
  let b0 := match es with | [] => 0 | e :: _ => (raceBase cfg + e) % 256
  let n := (List.range es.length).foldl (fun acc j =>
    let e := es.getD j 0
    acc + e * 2 ^ (32 + 16 * j) + scores.getD e 0 % 2 ^ 32 * 2 ^ (256 + 32 * j)) (b0 + 256 * es.length)
  BitVec.ofNat 2048 n

/-- The scores of a cell in its race's format. -/
def raceScores (f : Fmt) (p : Payload) : List Nat := (List.range (laneCount f)).map (fun i => lane (laneBits f) i p.toNat)

/-- A race ends in a slot: its STEER cell is due 24 slots later (R195). [log entry 48, DEDUCED] -/
def RaceUnit.finish (r : RaceUnit) (y : Race) (slot : Nat) : RaceUnit :=
  { r with cur := none, out := r.out ++ [(slot + 24, offerEntry (raceOut y.cfg) tSTEER y.key (racePayload y.cfg y.scores))] }

/-- Freeze a race unit on the head of its channel. -/
def State.freezeRace (s : State) (c : CoreId) (u : Fin 2) (kind : BitVec 8) (h : Header) : State :=
  let s := s.modCore c (fun x => x.modRace u (fun r => { r with frozen := some { kind := kind, arg := h.word } }))
  s.record c kind (unitId c 0 (116 + u.val)) (116 + u.val) (pos2 ((s.core c).races[u]).ops.toNat 0) h.word

/-- RACE_SCORE: the unit takes the head of its channel: a score cell, an EOR that ends the race, or a drain token, which ends it too and
goes on behind its STEER cell (R195). [log entry 48, DEDUCED] A head of class LVL, for which R195 names nothing, is a score cell.
[log entry 145, DESIGN CHOICE] -/
def execRaceScore (c : CoreId) (u : Fin 2) (s : State) : Out :=
  let x := s.core c
  let p := 116 + u.val
  let r := x.races[u]
  match x.head? s.slot p 0 with
  | none => .next s
  | some y =>
    if r.frozen.isSome || decide (s.slot < r.goAt) || ((x.egAt p).chan 0).moved then .next s
    else
      let tag := y.h.tag
      let race : Race := r.cur.getD { cfg := r.cfg, key := y.h.key, scores := [] }
      if tag = tSPL ∨ tag = tRDE ∨ tag = tSTEER ∨ tag = tCTRL then .next (s.freezeRace c u kPORT y.h)
      else if tag = tEOR then
        .next ((s.modCore c (fun x => x.modRace u (fun r => { (r.finish race s.slot) with ops := r.ops + 1 }))).popHead c p 0)
      else if tag = tDRN then
        .next ((s.modCore c (fun x => (x.modRace u (fun r =>
          let q := match r.cur with | some z => r.finish z s.slot | none => r
          let due := match q.out.getLast? with | some z => max z.1 (s.slot + 1) | none => s.slot + 1
          { q with out := q.out ++ [(due, offerEntry (raceOut race.cfg) tDRN 0 0)], passes := q.passes + 1 })).cross p)).popHead c p 0)
      else if raceFmt race.cfg = 0 ∨ 8 < (raceFmt race.cfg).toNat then .next (s.freezeRace c u kFMT y.h)
      else
        let z : Race := { race with scores := (race.scores ++ raceScores (raceFmt race.cfg) y.data).take 256 }
        .next ((s.modCore c (fun x => x.modRace u (fun r =>
          let q := if z.scores.length = 256 then r.finish z s.slot else { r with cur := some z }
          { q with ops := r.ops + 1 }))).popHead c p 0)

/-- RACE_END: what is due stands in the unit's output, in order. -/
def execRaceEnd (c : CoreId) (u : Fin 2) (s : State) : Out :=
  .next (s.modCore c (fun x =>
    match x.races[u].out with
    | [] => x
    | y :: rest =>
      if y.1 ≤ s.slot then (x.modRace u (fun r => { r with out := rest })).offer (116 + u.val) { y.2 with since := s.slot }
      else x))

end Sys2Proof.Machine
end

