-- ==== Sys2Proof/Machine/Me.lean ====
section
/-! DEFINITION. The matrix engine (R141-R165): its jobs, firings, drains, panels, preloads, steering tokens, pass boundary and adapter
lane. -/

namespace Sys2Proof.Machine

/-! ## Jobs (R145, R157-R164) -/

/-- Whether a thread already waits for a place among the jobs. -/
def Core.meWaiting (x : Core) : Bool :=
  x.waitq.any (fun t => match (x.thr t).st, (x.thr t).pend with | .parked, .meJob _ => true | _, _ => false)

/-- Queue a job, or park until one completes; jobs keep issue order (R145). -/
def State.meQueue (s : State) (j : MeJob) : State :=
  let c := s.cur.1
  let x := s.core c
  if 8 ≤ x.me.jobs.length ∨ x.meWaiting then (s.modCore c (fun x => x.enqueueWait s.cur.2)).parkMe (.meJob j)
  else (s.modCore c (fun x => x.modMe (fun m => { m with jobs := m.jobs ++ [j] }))).skip

/-- Change tile t. -/
def Me.modTile (m : Me) (t : Bool) (f : Tile → Tile) : Me := { m with tiles := vmod m.tiles t.toNat f }
def Me.tile (m : Me) (t : Bool) : Tile := vget m.tiles t.toNat {}
def Me.modPanel (m : Me) (b : Bool) (f : Panel → Panel) : Me := { m with pb := vmod m.pb b.toNat f }
def Me.panel (m : Me) (b : Bool) : Panel := vget m.pb b.toNat {}

def execMxmode (f : BitVec 4) (s : State) : Out :=
  .next ((s.modCore s.cur.1 (fun x => x.modMe (fun m => { m with mode := f }))).skip)

def execMxpanel (n : BitVec 1) (s : State) : Out :=
  .next ((s.modCore s.cur.1 (fun x => x.modMe (fun m => { m with keep := some (n == 1) }))).skip)

/-- MXRUN: copies MODE, binds a panel, sets the tile's format tag and RC, and queues the run; with n = 0 it sets RC_t to 0 and no more (R144,
R159). -/
def execMxrun (a : BitVec 5) (t m : BitVec 1) (ch : BitVec 2) (s : State) : Out :=
  let v := s.me.rd a
  let n := min (getBits v 0 9) 256
  let tile := t == 1
  let e := s.myCore.me
  let buf := match e.keep with | some b => b | none => e.cptr
  let j : MeJob := {
    kind := .run, tile := tile, rows := n, mode := e.mode, chain := ch, pass := m == 1, buf := buf, keep := e.keep.isSome
    kpanel := BitVec.ofNat 8 (getBits v 16 8), npanel := BitVec.ofNat 8 (getBits v 24 8), fmt := BitVec.ofNat 4 (getBits v 32 4)
    token := m == 1 && !v.getLsbD 36, route := if v.getLsbD 36 then some (BitVec.ofNat 8 (getBits v 40 8)) else none
    tag := if v.getLsbD 15 then some (BitVec.ofNat 6 (getBits v 9 6)) else none, since := s.slot + 1 }
  let s := s.modCore s.cur.1 (fun x => x.modMe (fun m =>
    if n = 0 then m.modTile tile (fun y => { y with rc := 0 })
    else
      let m := m.modTile tile (fun y => { y with isInt := m.mode == 6, rc := n })
      match m.keep with
      | some _ => { m with keep := none }
      | none => { m with cptr := !m.cptr }))
  .next (s.meQueue j)

/-- MXDRAIN: captures RC and queues the drain (R160). -/
def execMxdrain (a : BitVec 5) (d : BitVec 1) (f : BitVec 4) (t : BitVec 1) (s : State) : Out :=
  let v := s.me.rd a
  let tile := t == 1
  let j : MeJob := {
    kind := .drain, tile := tile, rows := (s.myCore.me.tile tile).rc, fmt := f, token := d == 0
    route := if d = 1 then some (BitVec.ofNat 8 (getBits v 0 8)) else none
    tag := if v.getLsbD 14 then some (BitVec.ofNat 6 (getBits v 8 6)) else none, since := s.slot + 1 }
  .next ((s.modCore s.cur.1 (fun x => x.modMe (fun m => m.modTile tile (fun y => { y with rc := 0 })))).meQueue j)

/-- MXZERO: clears 256 rows (R162). -/
def execMxzero (t : BitVec 1) (s : State) : Out :=
  let tile := t == 1
  let j : MeJob := { kind := .zero, tile := tile, rows := 256, since := s.slot + 1 }
  .next ((s.modCore s.cur.1 (fun x => x.modMe (fun m => m.modTile tile (fun y => { y with rc := 0 })))).meQueue j)

def execMxcode (a : BitVec 5) (i : BitVec 2) (s : State) : Out :=
  .next ((s.modCore s.cur.1 (fun x => x.later (.code i ((s.me.rd a).setWidth 32)))).skip)

/-- MXADP: the descriptor is read at the VA in Gb, 32-byte aligned (R161). -/
def execMxadp (a b : BitVec 5) (k : BitVec 4) (s : State) : Out :=
  .next (s.descRead (.mxadp a b k) (vaOf (s.me.rd b)).toNat 32 (.mxadp k (s.me.rd a)))

/-- ME_JOB_QUEUE_FREE: the oldest waiting thread's job is queued (R145). -/
def execMeJobQueueFree (c : CoreId) (t : Tid) (s : State) : Out :=
  let x := s.core c
  let first := x.waitq.find? (fun q => match (x.thr q).st, (x.thr q).pend with | .parked, .meJob _ => true | _, _ => false)
  match (s.thr c t).st, (s.thr c t).pend with
  | .parked, .meJob j =>
    if first = some t ∧ x.me.jobs.length < 8 then
      .next ((s.modCore c (fun x => (x.modMe (fun m => { m with jobs := m.jobs ++ [{ j with since := s.slot + 1 }] })).dequeueWait t)).finish c t id)
    else .next s
  | _, _ => .next s

/-! ## Paths and rows (R145, R146) -/

/-- Whether the engine does nothing in a slot: it is FROZEN, or was at the slot's start (R146, R113). [log entry 67, DEDUCED] -/
def Me.off (m : Me) (slot : Nat) : Bool := m.frozen.isSome || decide (slot < m.goAt)

def Me.unfinished (m : Me) (p : MeJob → Bool) : Option (Nat × MeJob) :=
  ((List.range m.jobs.length).zip m.jobs).find? (fun y => p y.2 && decide (y.2.done < y.2.rows))

/-- The oldest unfinished run. -/
def Me.run? (m : Me) : Option (Nat × MeJob) := m.unfinished (fun j => j.kind == .run)

def MeJob.drains (j : MeJob) : Bool := j.kind == .drain || (j.kind == .run && j.pass)

/-- The drain path's current job: a drain with no rows too, until it has acted. -/
def Me.drain? (m : Me) : Option (Nat × MeJob) :=
  ((List.range m.jobs.length).zip m.jobs).find? (fun y => y.2.drains && (decide (y.2.done < y.2.rows) || (y.2.kind == .drain && y.2.rows == 0)))

/-- Whether job number i may act on its next row: every earlier job on the tile has finished with the row, and the row has landed. -/
def Me.mayAct (m : Me) (i : Nat) (j : MeJob) (slot : Nat) : Bool :=
  decide (j.since ≤ slot) &&
  (m.jobs.take i).all (fun e => e.tile != j.tile || decide (j.done < e.done) || decide (e.rows ≤ j.done)) &&
  decide ((Sparse.getD (m.tile j.tile).rows j.done {}).ready ≤ slot)

def Me.modJob (m : Me) (i : Nat) (f : MeJob → MeJob) : Me :=
  { m with jobs := ((List.range m.jobs.length).zip m.jobs).map (fun y => if y.1 = i then f y.2 else y.2) }

/-- Whether each drain port's output buffer has a free place, the place of a cell admitted in this slot not counted (R146, R150). -/
def Core.mxdRoom (x : Core) : Bool := (List.range 8).all (fun k => decide ((x.ingAt (80 + k)).took.toNat < x.obufFree (80 + k)))

/-- Adapter entry of an id: none when the directory entry is invalid (R154). -/
def Me.adapter? (m : Me) (a : BitVec 6) : Option (BitVec 256) := Sparse.get? m.dir a.toNat
def adUbase (d : BitVec 256) : Nat := getBits d 0 55 / 256 * 256
def adVbase (d : BitVec 256) : Nat := getBits d 64 55 / 256 * 256
def adUstride (d : BitVec 256) : Nat := getBits d 128 32
def adVstride (d : BitVec 256) : Nat := getBits d 160 32
def adRank (d : BitVec 256) : Nat := min (getBits d 192 8) 64
def adFmt (d : BitVec 256) : FFmt := if d.getLsbD 200 then e5m2 else e4m3
def adLoader (d : BitVec 256) : Nat := getBits d 208 3
def adVc (d : BitVec 256) : BitVec 5 := BitVec.ofNat 5 (getBits d 216 5)

/-- The slot that serves an adapter. -/
def Me.slotOf? (m : Me) (a : BitVec 6) : Option (Fin 16) :=
  if a = 63 then none else (List.finRange 16).find? (fun i => m.slots[i].id == a)

/-- Lanes of a row in a mode: 128 of two bytes, or 256 of one. -/
def modeWide (f : BitVec 4) : Bool := f == 2 || f == 3

/-- Whether the oldest run needs the 64 cells of a U slice: its lanes have one byte (R155). -/
def Me.fullU (m : Me) : Bool := match m.run? with | some (_, j) => !modeWide j.mode | none => true

/-- Whether a row of an adapter can use its U slice for a K panel in a slot: no adapter, rank 0, or the slice was there at its start (R146). A slice
that a BF16 or FP16 run has fetched as 32 cells serves no run of 1-byte lanes, so that no prefetch changes a sum (R155, R269). [log entry 117,
DEDUCED] -/
def Me.hasU (m : Me) (slot : Nat) (a : BitVec 6) (p : BitVec 8) : Bool :=
  a == 63 || (match m.adapter? a with | some d => adRank d == 0 | none => false) ||
    (match m.slotOf? a with | some i => m.slots[i].u == some p && decide (m.slots[i].uAt ≤ slot) && !(m.fullU && m.slots[i].uHalf) | none => false)
def Me.hasV (m : Me) (slot : Nat) (a : BitVec 6) (p : BitVec 8) : Bool :=
  a == 63 || (match m.adapter? a with | some d => adRank d == 0 | none => false) ||
    (match m.slotOf? a with | some i => m.slots[i].v == some p && decide (m.slots[i].vAt ≤ slot) | none => false)

/-- The engine freezes at the head of a channel: the record names the oldest run and its next row. -/
def State.freezeMeRun (s : State) (c : CoreId) (kind : BitVec 8) (arg : BitVec 64) : State :=
  let m := (s.core c).me
  let job := match m.run? with | some z => z.1 | none => 0
  let tile := match m.run? with | some z => z.2.tile | none => false
  let row := match m.run? with | some z => z.2.done | none => 0
  s.freezeMe c kind job tile false row arg

/-- A head of a class that the port does not take: the engine freezes with PORT, and RESUME discards the cell (R142, R165). -/
def State.freezeMeCell (s : State) (c : CoreId) (p : Nat) (y : Cell) : State :=
  let s := s.freezeMeRun c kPORT y.h.word
  s.modCore c (fun x => x.modEg p (fun g => { g with badCell := some y }))

/-- The slices of an adapter's slot that a row reads: U, V; none of rank 0 (R154, R165). -/
def Me.sliceSpots (m : Me) (c : CoreId) (a : BitVec 6) (u v : Bool) : List Spot :=
  match m.slotOf? a, m.adapter? a with
  | some i, some d => if adRank d = 0 then [] else (if u then [.adSlot c i false] else []) ++ (if v then [.adSlot c i true] else [])
  | _, _ => []

/-- The places with ECC that the firing of a row reads: the row, its adapter vector where the chain goes on (R147: a FIRST or ONLY firing starts it at
0), and its slices: the V slice only where the row is drained by the same firing (R146, R165). -/
def Me.fireSpots (m : Me) (c : CoreId) (j : MeJob) (a : BitVec 6) : List Spot :=
  let n := Fin.ofNat 256 j.done
  accSpots c j.tile n ++ ((if a ≠ 63 ∧ j.chain ≠ 0 ∧ j.chain ≠ 3 then [.vecRow c j.tile n] else []) ++
    m.sliceSpots c a true (j.pass && (j.chain == 2 || j.chain == 3)))

/-- The places with ECC that the drain of a row reads: the row, and the adapter vector and V slice of one whose adapter is added (R150, R165). -/
def Me.drainSpots (m : Me) (c : CoreId) (tile : Bool) (row : Nat) (a : BitVec 6) (add : Bool) : List Spot :=
  let n := Fin.ofNat 256 row
  accSpots c tile n ++ (if add then .vecRow c tile n :: m.sliceSpots c a false true else [])

/-- The places that a firing writes anew without reading them: the adapter vector of a FIRST or ONLY firing (R147, R258). -/
def MeJob.freshSpots (j : MeJob) (c : CoreId) : List Spot :=
  if j.chain = 0 ∨ j.chain = 3 then [.vecRow c j.tile (Fin.ofNat 256 j.done)] else []

/-! ## Sums (R51, R147, R150) -/

def modeK (f : BitVec 4) : Nat := if modeWide f then 128 else 256
def modeW (f : BitVec 4) : Nat := if modeWide f then 16 else 8

/-- Element (k, n) of a panel. -/
def panelElem (cells : Array Payload) (f : BitVec 4) (k n : Nat) : Nat :=
  let off := if modeWide f then 1024 * k + 2 * n else 512 * k + n
  getBits (cells.getD (off / 256) 0) (8 * (off % 256)) (modeW f)

def Panel.array (p : Panel) : Array Payload := (Array.range 512).map (fun i => Sparse.getD p.cells i 0)

/-- The product of two elements in a mode (R45, R51). -/
def modeProduct (tab : Vector (BitVec 32) 4) (f : BitVec 4) (x y : Nat) : FVal :=
  if f = 9 then lnsProduct tab x y
  else match decodeLane tab f x, decodeLane tab f y with
    | some a, some b => (FVal.mul a b).1
    | _, _ => .nan

/-- Acc of R147: the exact sum of the products and the accumulator, rounded once; INT8 adds exactly and saturates. -/
def accNew (tab : Vector (BitVec 32) 4) (f : BitVec 4) (acc : Nat) (x : Payload) (b : Array Payload) (n : Nat) : Nat × Flags :=
  let w := modeW f
  let xs := List.range (modeK f)
  if f = 6 then
    let t := xs.foldl (fun (t : Int) k => t + sext 8 (lane 8 k x.toNat) * sext 8 (panelElem b f k n)) (sext 32 acc)
    let r := encodeInt (-2147483648) 2147483647 (.ofInt t) 0
    (wrap 32 r.1, r.2)
  else
    let v := sumExact 0 (decodeF fp32 acc :: xs.map (fun k => modeProduct tab f (lane w k x.toNat) (panelElem b f k n)))
    let e := encodeF fp32 v.1 0 false
    (e.1, e.2 ||| v.2)

/-- Byte i of a slice held in cells. -/
def sliceByte (cells : Sparse Payload) (i : Nat) : Nat := getBits (Sparse.getD cells (i / 256) 0) (8 * (i % 256)) 8

/-- The t update of a firing: t_j plus the sum over k of X(x, k) U[k][j], one rounding (R51, R147). -/
def tvNew (tab : Vector (BitVec 32) 4) (f : BitVec 4) (tv : Nat) (x : Payload) (ad : BitVec 256) (u : Sparse Payload) (j : Nat) : Nat × Flags :=
  let g := adFmt ad
  let r := adRank ad
  let ts := (List.range (modeK f)).map (fun k =>
    let uv := if j < r then decodeF g (sliceByte u (64 * k + j)) else .fin false 0 0
    (FVal.mul ((decodeLane tab f (lane (modeW f) k x.toNat)).getD .nan) uv).1)
  let v := sumExact 0 (decodeF fp32 (lane 32 j tv) :: ts)
  let e := encodeF fp32 v.1 0 false
  (e.1, e.2 ||| v.2)

/-- AddAdapter on a word: the sum over j of TV[j] V[j][n] added with one rounding (R150). [log entry 49, DEDUCED] -/
def addAdapter (isInt : Bool) (v tv : Nat) (ad : BitVec 256) (vs : Sparse Payload) (n : Nat) : Nat × Flags :=
  let g := adFmt ad
  let r := adRank ad
  let ts := (List.range 64).map (fun j =>
    let vv := if j < r then decodeF g (sliceByte vs (512 * j + n)) else .fin false 0 0
    (FVal.mul (decodeF fp32 (lane 32 j tv)) vv).1)
  if isInt then
    let q := sumExact 0 (FVal.ofInt (sext 32 v) :: ts)
    let e := encodeInt (-2147483648) 2147483647 q.1 0
    (wrap 32 e.1, e.2 ||| q.2)
  else
    let q := sumExact 0 (decodeF fp32 v :: ts)
    let e := encodeF fp32 q.1 0 false
    (e.1, e.2 ||| q.2)

/-- n values with flags, joined. -/
def joinFlags (l : List (Nat × Flags)) : Flags := l.foldl (fun f y => f ||| y.2) 0

/-- Convert 64 words of a tile to a target format (R151): payload, scale and flags. -/
def mxConvert (isInt : Bool) (fmt : BitVec 4) (ws : List Nat) : Payload × Nat × Flags :=
  let val (w : Nat) : FVal := if isInt then .ofInt (sext 32 w) else decodeF fp32 w
  if fmt = 0 then (ofLanes 32 64 (fun i => ws.getD i 0), 0, 0)
  else if fmt = 12 ∨ fmt = 13 then
    let q := quantise (ws.map val) (fmt == 13) 0
    (q.2.1, q.1, q.2.2)
  else
    let sat := fmt == 4 || fmt == 5
    let r := ws.map (fun w => encodeLane fmt (val w) 0 sat)
    (ofLanes (laneBits fmt) 64 (fun i => (r.getD i (0, 0)).1), 0, joinFlags r)

def mxFmtBad (f : BitVec 4) : Bool := f == 10 || f == 11 || f == 14 || f == 15

/-! ## Drain rows (R150) -/

/-- DrainRow of R150 on route e, for job i of the queue: the row's words with its adapter's term, converted and emitted as eight cells; the row
is then clear. -/
def Core.drainRow (x : Core) (slot i : Nat) (tile : Bool) (row : Nat) (fmt : BitVec 4) (e : BitVec 8) : Core :=
  let m := x.me
  let t := m.tile tile
  let r := Sparse.getD t.rows row {}
  let words := (List.range 512).map (fun n => (getBits r.acc (32 * n) 32, (0 : Flags)))
  let add := r.lp && r.aid != 63
  let ws := if add then
      match m.adapter? r.aid with
      | some ad =>
        let vs := match m.slotOf? r.aid with | some i => m.slots[i].vcells | none => []
        if adRank ad = 0 then words else (List.range 512).map (fun n => addAdapter t.isInt (words.getD n (0, 0)).1 r.tv.toNat ad vs n)
      | none => words
    else words
  let cells := (List.range 8).map (fun k => mxConvert t.isInt fmt (((ws.drop (64 * k)).take 64).map (fun y => y.1)))
  let flags := joinFlags ws ||| cells.foldl (fun f y => f ||| y.2.2) 0
  let key (k : Nat) : Key :=
    BitVec.ofNat 16 (row * 256 + (if fmt = 12 ∨ fmt = 13 then (cells.getD k (0, 0, 0)).2.1 else r.aid.toNat))
  let x := (List.range 8).foldl (fun x k => x.offer (80 + k)
    { offerEntry (BitVec.ofNat 8 (e.toNat + k)) tDATA (key k) (cells.getD k (0, 0, 0)).1 with since := slot + 1, row := some (i, tile, row) }) x
  x.modMe (fun m =>
    let m := m.modTile tile (fun t => { t with rows := Sparse.set t.rows row { r with
      acc := 0, lp := false, tv := if add then 0 else r.tv, ready := max r.ready (slot + 1) } })
    let m := match m.slotOf? r.aid with
      | some i => if add then { m with slots := vmod m.slots i.val (fun z => { z with used := slot }) } else m
      | none => m
    { (m.setFlags flags) with drained := m.drained + 1, drainAt := slot + 1 })

/-- A TOKEN job with a legal format reads its tile's token when it becomes the drain path's current job and the token is valid (R152, R160). -/
def Me.takeToken (m : Me) (slot : Nat) : Me :=
  match m.drain? with
  | some (i, j) =>
    if j.token && j.route.isNone && !mxFmtBad j.fmt && decide (0 < j.rows) && decide (j.since ≤ slot) &&
        decide ((m.tile j.tile).stkAt ≤ slot) then
      match (m.tile j.tile).stk with
      | some r => (m.modJob i (fun j => { j with route := some r })).modTile j.tile (fun t => { t with stk := none })
      | none => m
    else m
  | none => m

/-- ME_DRAIN_ROW: the drain path's current drain emits its next row (R145, R150). -/
def execMeDrainRow (c : CoreId) (s : State) : Out :=
  let s := s.modCore c (fun x => if x.me.off s.slot then x else x.modMe (fun m => m.takeToken s.slot))
  let x := s.core c
  let m := x.me
  if m.off s.slot then .next s
  else match m.drain? with
    | some (i, j) =>
      if j.kind != .drain || j.rows == 0 || !m.mayAct i j s.slot || decide (s.slot < m.drainAt) then .next s
      else if mxFmtBad j.fmt then .next (s.freezeMe c kFMT i j.tile true j.done 0)
      else match j.route with
        | none => .next s
        | some e =>
          let r := Sparse.getD (m.tile j.tile).rows j.done {}
          let need := r.lp && r.aid != 63
          let spots := m.drainSpots c j.tile j.done r.aid need
          if s.fatalAt spots then .next (s.freezeMe c kECC i j.tile true j.done (r.aid.setWidth 64))
          else if need && (m.adapter? r.aid).isNone then .next (s.freezeMe c kTABLE i j.tile true j.done (r.aid.setWidth 64))
          else if need && !m.hasV s.slot r.aid r.npi then .next s
          else if !x.mxdRoom then .next s
          else .next ((s.softAt spots (ErrCounts.countMe c)).modCore c (fun x => (x.drainRow s.slot i j.tile j.done j.fmt e).modMe (fun m =>
            m.modJob i (fun j => { j with done := j.done + 1, since := s.slot + 1 }))))
    | none => .next s

/-! ## Firing (R146, R147) -/

/-- Fire the head row into row m of the run's tile. -/
def Core.fireRow (x : Core) (slot : Nat) (i : Nat) (j : MeJob) (y : Cell) : Core :=
  let m := x.me
  let a : BitVec 6 := BitVec.ofNat 6 y.h.key.toNat
  let row := j.done
  let t := m.tile j.tile
  let r := Sparse.getD t.rows row {}
  let b := (m.panel j.buf).array
  let ws := (List.range 512).map (fun n => accNew m.cta j.mode (getBits r.acc (32 * n) 32) y.data b n)
  let tv0 : BitVec 2048 := if j.chain = 0 ∨ j.chain = 3 then 0 else r.tv
  let tv : BitVec 2048 × Flags :=
    match m.adapter? a, m.slotOf? a with
    | some ad, some k =>
      if a = 63 ∨ adRank ad = 0 then (tv0, 0)
      else
        let ts := (List.range 64).map (fun q => tvNew m.cta j.mode tv0.toNat y.data ad m.slots[k].ucells q)
        (BitVec.ofNat 2048 ((List.range 64).foldl (fun acc q => acc + (ts.getD q (0, 0)).1 % 2 ^ 32 * 2 ^ (32 * q)) 0), joinFlags ts)
    | _, _ => (tv0, 0)
  let acc := (List.range 512).foldl (fun acc n => acc + (ws.getD n (0, 0)).1 % 2 ^ 32 * 2 ^ (32 * n)) 0
  let last := j.chain = 2 ∨ j.chain = 3
  x.modMe (fun m =>
    let m := m.modTile j.tile (fun t => { t with rows := Sparse.set t.rows row {
      acc := BitVec.ofNat 16384 acc, tv := tv.1, aid := a, lp := decide last, npi := j.npanel, ready := slot + 2 } })
    let m := match m.slotOf? a with
      | some k => { m with slots := vmod m.slots k.val (fun z => { z with used := slot }) }
      | none => m
    { ((m.setFlags (joinFlags ws ||| tv.2)).modJob i (fun j => { j with done := row + 1 })) with fired := m.fired + 1 })

/-- ME_FIRE: the row at the head of the A channel fires when R146 allows; a cell of another class freezes the engine (R142). -/
def execMeFire (c : CoreId) (s : State) : Out :=
  let s := s.modCore c (fun x => if x.me.off s.slot then x else x.modMe (fun m => m.takeToken s.slot))
  let x := s.core c
  let m := x.me
  match x.head? s.slot 80 0 with
  | none => .next s
  | some y =>
    if m.off s.slot || ((x.egAt 80).chan 0).moved || y.h.tag == tDRN then .next s
    else if y.h.tag ≠ tDATA then .next (s.freezeMeCell c 80 y)
    else match m.run? with
      | none => .next s
      | some (i, j) =>
        let a : BitVec 6 := BitVec.ofNat 6 y.h.key.toNat
        let last := j.chain == 2 || j.chain == 3
        let cur := match m.drain? with | some z => z.1 == i | none => false
        let spots : List Spot := .panel c j.buf :: (m.fireSpots c j a ++ (if j.mode = 9 then codeSpots c else []))
        if !(m.panel j.buf).full || decide (s.slot < (m.panel j.buf).since) || !m.mayAct i j s.slot then .next s
        else if j.pass && !cur then .next s
        else if j.pass && mxFmtBad j.fmt then .next (s.freezeMe c kFMT i j.tile true j.done 0)
        else if s.fatalAt spots then .next (s.freezeMe c kECC i j.tile false j.done (a.setWidth 64))
        else if a ≠ 63 ∧ (m.adapter? a).isNone then .next (s.freezeMe c kTABLE i j.tile false j.done (a.setWidth 64))
        else if !m.hasU s.slot a j.kpanel || (j.pass && last && !m.hasV s.slot a j.npanel) then .next s
        else if j.pass then
          match j.route with
          | none => .next s
          | some e =>
            if !x.mxdRoom || decide (s.slot < m.drainAt) then .next s
            else .next ((((s.softAt spots (ErrCounts.countMe c)).clearSpots (j.freshSpots c)).modCore c (fun x =>
              (x.fireRow s.slot i j y).drainRow s.slot i j.tile j.done j.fmt e)).popHead c 80 0)
        else .next ((((s.softAt spots (ErrCounts.countMe c)).clearSpots (j.freshSpots c)).modCore c (fun x => x.fireRow s.slot i j y)).popHead c 80 0)

/-- ME_ZERO_ROW: an MXZERO clears its next row (R162). R145 gives no path for MXZERO jobs: an act clears one row of the first that may act,
so jobs on different tiles can each clear one in a clock, or not. [log entry 115, DESIGN CHOICE] -/
def execMeZeroRow (c : CoreId) (s : State) : Out :=
  let m := (s.core c).me
  match ((List.range m.jobs.length).zip m.jobs).find? (fun y => y.2.kind == .zero && decide (y.2.done < y.2.rows) && m.mayAct y.1 y.2 s.slot) with
  | some (i, j) =>
    if m.off s.slot then .next s
    else
      let n := Fin.ofNat 256 j.done
      .next ((s.clearSpots (.vecRow c j.tile n :: accSpots c j.tile n)).modCore c (fun x => x.modMe (fun m =>
        (m.modTile j.tile (fun t => { t with rows := Sparse.set t.rows j.done { ready := s.slot + 1 } })).modJob i (fun j =>
          { j with done := j.done + 1, since := s.slot + 1 }))))
  | none => .next s

/-- A fetch that is dropped asks for no more cells: those that it has read arrive for no slice. -/
def Fetch.drop (f : Fetch) : Fetch := { f with id := 63, total := f.asked }

/-- Drop the fetches that p names, by MXA port (true: MXC1): one whose cells have all arrived is gone. [log entry 50, DEDUCED] -/
def Me.dropFetches (m : Me) (p : Bool → Fetch → Bool) : Me :=
  let keep (v : Bool) (l : List Fetch) := l.filterMap (fun f => if p v f then (if f.asked = f.next then none else some f.drop) else some f)
  { m with fetchU := keep false m.fetchU, fetchV := keep true m.fetchV }

/-- A descriptor takes effect: the directory entry and the slots; an older fetch for the adapter or the slot is dropped (R161).
[log entry 51, DEDUCED] -/
def Me.setAdapter (m : Me) (slot : BitVec 4) (a : BitVec 6) (d : BitVec 256) : Me :=
  let m := m.dropFetches (fun _ f => f.id != 63 && (f.id == a || f.slot.val == slot.toNat))
  if a = 63 then { m with slots := vset m.slots slot.toNat {} }
  else
    let slots := m.slots.map (fun z => if z.id = a then {} else z)
    { m with dir := Sparse.set m.dir a.toNat d, slots := vset slots slot.toNat { id := a } }

/-- 64 raw words of a row (R148). -/
def Me.preload (m : Me) (tile : Bool) (row chunk : Nat) (data : Payload) : Me :=
  m.modTile tile (fun t =>
    let r := Sparse.getD t.rows row {}
    { t with rows := Sparse.set t.rows row { r with acc := setBits r.acc (2048 * chunk) 2048 data.toNat } })

/-- What the engine writes at the end of a slot, after the slot's firing and drain (R148, R161). -/
def Me.applyLate (m : Me) (slot : Nat) : Me :=
  let due (w : MeLate) : Bool := match w with | .preload n _ _ _ _ => decide (n ≤ slot) | .adapter _ _ _ => true
  (m.late.filter due).foldl (fun m w => match w with
    | .preload _ t r k d => m.preload t r k d
    | .adapter s a d => m.setAdapter s a d) { m with late := m.late.filter (fun w => !due w) }

/-- The parts of rows that the preloads of a slot write anew (R148, R258). -/
def Me.lateSpots (m : Me) (c : CoreId) (slot : Nat) : List Spot :=
  m.late.filterMap (fun w => match w with
    | .preload n t row k _ => if n ≤ slot then some (.accRow c t (Fin.ofNat 256 row) (Fin.ofNat 8 k)) else none
    | .adapter _ _ _ => none)

/-- Whether a job without rows acts in a slot: in its path's turn; a drain's format is legal (R145, R153). -/
def Me.emptyActs (m : Me) (slot : Nat) (i : Nat) (j : MeJob) : Bool :=
  let before (p : MeJob → Bool) : Bool := (m.jobs.take i).any (fun e => p e && decide (e.done < e.rows))
  decide (j.rows = 0) && decide (j.since ≤ slot) && !m.off slot &&
    (match j.kind with
      | .run => !before (fun e => e.kind == .run)
      | .drain => !before MeJob.drains && !mxFmtBad j.fmt
      | .zero => true)

/-- Whether a job leaves at the end of a slot: its last row is done, or it has no rows and acts. -/
def Me.leaves (m : Me) (slot : Nat) (i : Nat) (j : MeJob) : Bool :=
  (decide (j.rows ≤ j.done) && decide (j.rows ≠ 0)) || m.emptyActs slot i j

/-- The panel of a run that has fired its last row becomes EMPTY, unless it is kept (R144). -/
def Me.finished (m : Me) (j : MeJob) : Me :=
  if j.kind = .run ∧ j.rows ≠ 0 ∧ j.keep = false then m.modPanel j.buf (fun _ => {}) else m

/-- The rows that wait in the drain ports' buffers follow their jobs to their new places in the queue; one whose job leaves keeps its last (R165). -/
def Core.moveRows (x : Core) (place : Nat → Option Nat) : Core :=
  (List.range 8).foldl (fun x k => x.modIng (80 + k) (fun g => { g with obuf := g.obuf.map (fun o => match o.row, o.rowLeft with
    | some (i, t, n), false => (match place i with | some i => { o with row := some (i, t, n) } | none => { o with rowLeft := true })
    | _, _ => o) })) x

/-- Jobs leave at the end of a slot: their tags set in the next clock and their panels are EMPTY then (R144, R153). -/
def Core.meLeave (x : Core) (slot : Nat) : Core :=
  let idx := (List.range x.me.jobs.length).zip x.me.jobs
  let gone := (idx.filter (fun y => x.me.leaves slot y.1 y.2)).map (fun y => y.2)
  let stay := (idx.filter (fun y => !x.me.leaves slot y.1 y.2)).map (fun y => y.2)
  let x := gone.foldl (fun x j => match j.tag with | some t => x.tagSoon t | none => x) x
  let x := if gone.isEmpty then x else x.moveRows (fun i => match x.me.jobs[i]? with
    | some j => if x.me.leaves slot i j then none else some (((idx.take i).filter (fun y => !x.me.leaves slot y.1 y.2)).length)
    | none => none)
  x.modMe (fun m => gone.foldl Me.finished { m with jobs := stay })

/-- The end of a slot: late writes land, finished jobs leave, also of a frozen engine, and the drain path's new job checks its format and
reads its token (R144, R148, R151-R153, R161). -/
def State.meTick (s : State) (c : CoreId) : State :=
  if (s.core c).me.jobs.isEmpty && (s.core c).me.late.isEmpty then s
  else
    let s := (s.clearSpots ((s.core c).me.lateSpots c s.slot)).modCore c (fun x => (x.modMe (fun m => m.applyLate s.slot)).meLeave s.slot)
    if (s.core c).me.off s.slot then s
    else match (s.core c).me.drain? with
      | some (i, j) =>
        if mxFmtBad j.fmt ∧ j.since ≤ s.slot then s.freezeMe c kFMT i j.tile true j.done 0
        else s.modCore c (fun x => x.modMe (fun m => m.takeToken s.slot))
      | none => s

/-! ## Panels, preloads, tokens (R144, R148, R152) -/

/-- ME_PANEL_CELL: the head of MXBq goes to cell 4j + q of the filling panel. -/
def execMePanelCell (c : CoreId) (q : Fin 4) (s : State) : Out :=
  let x := s.core c
  let p := 82 + q.val
  match x.head? s.slot p 0 with
  | none => .next s
  | some y =>
    let m := x.me
    if m.off s.slot || ((x.egAt p).chan 0).moved || y.h.tag == tDRN then .next s
    else if y.h.tag ≠ tDATA then .next (s.freezeMeCell c p y)
    else
      let b := m.panel m.fptr
      let j := vget b.cnt q.val 0
      if b.full || decide (128 ≤ j) then .next s
      else
        let cells := Sparse.set b.cells (4 * j + q.val) y.data
        let cnt := vset b.cnt q.val (j + 1)
        let full := cnt.toList.foldl (fun n k => n + k) 0 == 512
        let s := s.modCore c (fun x => x.modMe (fun m =>
          let m := m.modPanel m.fptr (fun _ => { cells := cells, cnt := cnt, full := full, since := s.slot + 1 })
          if full then { m with fptr := !m.fptr } else m))
        let s := if b.cells.isEmpty then s.clearSpots [.panel c m.fptr] else s
        .next (s.popHead c p 0)

/-- ME_PRELOAD: a DATA head of MXC writes 64 words of a row in the clock after it is at the head (R148); a class that MXC does not take
freezes the engine. -/
def execMePreload (c : CoreId) (x : Fin 2) (s : State) : Out :=
  let k := s.core c
  let p := 86 + x.val
  match k.head? s.slot p 0 with
  | none => .next s
  | some y =>
    if k.me.off s.slot || ((k.egAt p).chan 0).moved || y.h.tag == tDRN || y.h.tag == tSTEER || y.h.tag == tCTRL then .next s
    else if y.h.tag ≠ tDATA then .next (s.freezeMeCell c p y)
    else
      let key := y.h.key.toNat
      let row := key / 256
      let chunk := key % 8
      let s := s.modCore c (fun k => k.modMe (fun m =>
        { m with late := m.late ++ [.preload (s.slot + 1) (decide (key / 128 % 2 = 1)) row chunk y.data] }))
      .next (s.popHead c p 0)

/-- ME_STEER_TOKEN: a STEER head of MXC sets a tile's token; a job that waits has read the token of an earlier slot before (R152). -/
def execMeSteerToken (c : CoreId) (x : Fin 2) (s : State) : Out :=
  let k := s.core c
  let p := 86 + x.val
  match k.head? s.slot p 0 with
  | none => .next s
  | some y =>
    if !k.me.off s.slot && !((k.egAt p).chan 0).moved && y.h.tag == tSTEER then
      .next ((s.modCore c (fun k => k.modMe (fun m => (m.takeToken s.slot).modTile (decide (y.h.key.toNat / 128 % 2 = 1)) (fun t =>
        { t with stk := some (BitVec.ofNat 8 (getBits y.data 0 8)), stkAt := s.slot + 1 })))).popHead c p 0)
    else .next s

/-- ME_DRN_DISCARD: a DRN at an MXB or MXC port is consumed and discarded (R142). -/
def execMeDrnDiscard (c : CoreId) (p : PortId) (s : State) : Out :=
  let x := s.core c
  match x.head? s.slot p.val 0 with
  | none => .next s
  | some y =>
    if 82 ≤ p.val ∧ p.val ≤ 87 ∧ y.h.tag = tDRN ∧ x.me.off s.slot = false ∧ ((x.egAt p.val).chan 0).moved = false then .next (s.popHead c p.val 0)
    else .next s

/-- ME_PASS_BOUNDARY: a DRN at the A head copies the shadow code table and goes out on the bound drain ports (R149). While a drain port's
buffer is full the whole step waits: the pop and the copy of CTS too, which R149 does not say. Bad parity in the shadow table freezes the engine, its
record naming the oldest run (R165, R258). [log entry 116, DESIGN CHOICE; log entry 140, DEDUCED] -/
def execMePassBoundary (c : CoreId) (s : State) : Out :=
  let x := s.core c
  match x.head? s.slot 80 0 with
  | none => .next s
  | some y =>
    if y.h.tag = tDRN ∧ x.me.off s.slot = false ∧ ((x.egAt 80).chan 0).moved = false ∧ x.mxdRoom then
      if s.fatalAt (shadowSpots c) then .next (s.freezeMeRun c kECC y.h.word) else
      let s := (s.clearSpots (codeSpots c)).modCore c (fun x => (x.modMe (fun m => { m with cta := m.cts, passes := m.passes + 1 })).cross 128)
      let s := (List.range 8).foldl (fun s k => match boundEntry? (vget (s.core c).cfg.portbind k 0) with
        | some e => s.modCore c (fun x => x.offer (80 + k) { offerEntry e tDRN 0 0 with since := s.slot + 1 })
        | none => s) s
      .next (s.popHead c 80 0)
    else .next s

/-! ## The adapter lane (R154-R156, R161) -/

/-- The MXADP thread's read is done: the directory entry and the slots change at the end of the slot (R161). [log entry 51, DEDUCED] -/
def State.mxadpRead (s : State) (c : CoreId) (t : Tid) (slot : BitVec 4) (id : Word) (pa : Nat) : State :=
  let w : MeLate := .adapter slot (id.setWidth 6) (BitVec.ofNat 256 (s.readOwn c pa 32))
  (s.modCore c (fun x => x.modMe (fun m => { m with late := m.late ++ [w] }))).finish c t (fun th => th)

/-- A slice that a row asks for: adapter, side (true for V), panel index, and whether it is a demand. -/
structure SliceNeed where
  id     : BitVec 6
  v      : Bool
  index  : BitVec 8
  demand : Bool
deriving DecidableEq, Repr

/-- The adapter ids of the rows in the A channel, in order. -/
def Core.rowIds (x : Core) : List (BitVec 6) :=
  (((x.egAt 80).chan 0).cells.filter (fun y => y.h.tag == tDATA)).map (fun y => BitVec.ofNat 6 y.h.key.toNat)

/-- The adapter id of the row at the head of the A channel; a DRN there hides the rows behind it. -/
def Core.headId? (x : Core) : Option (BitVec 6) :=
  match ((x.egAt 80).chan 0).cells with
  | y :: _ => if y.h.tag = tDATA then some (BitVec.ofNat 6 y.h.key.toNat) else none
  | [] => none

/-- The drain path's next row. -/
def Me.drainRow? (m : Me) : Option AccRow :=
  match m.drain? with
  | some (_, j) => if j.kind = .drain ∧ j.done < j.rows then some (Sparse.getD (m.tile j.tile).rows j.done {}) else none
  | none => none

/-- The slices that the firing row and the drain row of a clock use, x being the core at its start: the firing row's U slice, and its V slice where
the run is a LAST or ONLY PASS; the drain row's V slice (R146, R150, R156). True: a V slice. -/
def Core.busySlices (x : Core) : List (BitVec 6 × Bool) :=
  (match x.me.run?, x.headId? with
    | some (_, j), some a => (a, false) :: (if j.pass && (j.chain == 2 || j.chain == 3) then [(a, true)] else [])
    | _, _ => []) ++
  (match x.me.drainRow? with | some r => if r.lp && r.aid != 63 then [(r.aid, true)] else [] | none => [])

/-- The slices asked for, demands first: the head row's V slice is one where R146 asks for it, in a run that is the drain path's current job
(R156). [log entry 50, DEDUCED] -/
def Core.sliceNeeds (x : Core) : List SliceNeed :=
  let ids := x.rowIds
  let drain := match x.me.drainRow? with
    | some r => if r.lp && r.aid != 63 then [{ id := r.aid, v := true, index := r.npi, demand := true : SliceNeed }] else []
    | none => []
  match x.me.run? with
  | none => drain
  | some (i, j) =>
    let last := j.chain == 2 || j.chain == 3
    let cur := x.me.drain?.any (fun z => z.1 == i)
    let head := match x.headId? with
      | some a =>
        ({ id := a, v := false, index := j.kpanel, demand := true } : SliceNeed) ::
          (if j.pass && last && cur then [{ id := a, v := true, index := j.npanel, demand := true : SliceNeed }] else [])
      | none => []
    let ahead := ids.flatMap (fun a =>
      ({ id := a, v := false, index := j.kpanel, demand := false } : SliceNeed) ::
        (if last then [{ id := a, v := true, index := j.npanel, demand := false : SliceNeed }] else []))
    head ++ drain ++ ahead

/-- The fetches outstanding on MXC0, or on MXC1. -/
def Me.fetches (m : Me) (v : Bool) : List Fetch := if v then m.fetchV else m.fetchU
def Me.setFetches (m : Me) (v : Bool) (l : List Fetch) : Me := if v then { m with fetchV := l } else { m with fetchU := l }

/-- Whether a slice is there or on its way. -/
def Me.sliceMet (m : Me) (slot : Nat) (q : SliceNeed) : Bool :=
  (if q.v then m.hasV (slot + 1) q.id q.index else m.hasU (slot + 1) q.id q.index) ||
    (m.fetches q.v).any (fun f => f.id == q.id && f.index == q.index && (q.v || !m.fullU || decide (64 ≤ f.total)))

/-- The slot that a needed slice goes to: the adapter's own, or a victim by steps 2 and 3 of R156. A prefetch replaces no slice that the
firing or the drain row of the clock uses, and none that is still arriving; x0 is the core at the clock's start. A slot that is unassigned was used
before every other. [log entry 154, DESIGN CHOICE] -/
def Core.sliceSlot? (x0 x : Core) (q : SliceNeed) : Option (Fin 16) :=
  let m := x.me
  let busy := x0.busySlices.map (fun z => z.1)
  let rows := x.rowIds
  match m.slotOf? q.id with
  | some i =>
    let held := (if q.v then m.slots[i].v.isSome else m.slots[i].u.isSome) && x0.busySlices.contains (q.id, q.v)
    if !q.demand && (held || (m.fetches q.v).any (fun f => f.id == q.id && f.slot == i)) then none else some i
  | none =>
    let free := (List.finRange 16).filter (fun i => m.slots[i].id == 63 || !busy.contains m.slots[i].id)
    let quiet := free.filter (fun i => m.slots[i].id == 63 || !rows.contains m.slots[i].id)
    let lru (l : List (Fin 16)) : Option (Fin 16) := leastBy (fun i => if m.slots[i].id = 63 then 0 else m.slots[i].used + 1) l
    match lru quiet with
    | some i => some i
    | none => if q.demand then lru free else none

/-- What reading a cell for the engine comes to. -/
inductive GenRead where
  | ok (s : State) (v : Nat)
  | fault (s : State) (code : BitVec 8)
  | absent
  /-- a prefetch that would set A, or that faults: it is dropped (R249, R269) -/
  | dropped (s : State)

/-- The bytes of HBM at a VA that lie on its page, walking the tables in the core's tenant (R155); a prefetch changes no entry (R269). A frame
beyond HBM addresses nothing: PROT (R234). [log entry 32, DEDUCED] -/
def State.genPage (s : State) (c : CoreId) (va n : Nat) (demand : Bool) : GenRead :=
  let t := s.walked c va
  match s.walk c va .read with
  | .absent => if demand then .absent else .dropped t
  | .fault code _ => if demand then .fault t code else .dropped t
  | .leaf ea e changed level frame w x d =>
    if changed && !demand then .dropped t
    else
      let t := t.walkWrite ea e changed
      let pa := (xlatOf va level frame w x d (s.tenantOf c)).pa va
      if hbmTop ≤ pa then (if demand then .fault t kPROT else .dropped t)
      else if s.hbmBad pa n then (if demand then .fault t kECC else .dropped t)
      else .ok (t.softHbm pa n) (Memory.readN s.hbm pa n)

/-- The places that a read of n bytes at a VA takes: of its page and, where it runs on, of the next; none for one that its walk does not give. -/
def State.genPlaces (s : State) (c : CoreId) (va n : Nat) : List Nat :=
  let m := onPage va n
  (va :: (if m = n then [] else [(va + m) % vaTop])).filterMap (fun a => match s.walk c a .read with
    | .leaf _ _ _ level frame w x d => some ((xlatOf a level frame w x d (s.tenantOf c)).pa a)
    | _ => none)

/-- Read n bytes at a VA, each page by its own walk. -/
def State.genRead (s : State) (c : CoreId) (va n : Nat) (demand : Bool) : GenRead :=
  let m := onPage va n
  match s.genPage c va m demand with
  | .ok s v =>
    if m = n then .ok s v
    else match s.genPage c ((va + m) % vaTop) (n - m) demand with
      | .ok s r => .ok s (v + 256 ^ m * r)
      | z => z
  | z => z

/-- Whether a fetch of this slice still serves a row that waits for it. -/
def Core.demands (x : Core) (v : Bool) (f : Fetch) : Bool :=
  x.sliceNeeds.any (fun q => q.demand && q.v == v && q.id == f.id && q.index == f.index)

/-- The fetch whose cells are still to be read: the oldest of each port. -/
def Me.asking? (m : Me) (v : Bool) : Option (Nat × Fetch) :=
  ((List.range (m.fetches v).length).zip (m.fetches v)).find? (fun y => decide (y.2.asked < y.2.total))

/-- The next fetch of a port: a slice that a row asks for, that has a slot, and whose cells can arrive in request order: all that is
outstanding there comes by the same loader on the same VC (R155). x0 is the core at the slot's start. [log entry 50, DEDUCED] -/
def Core.newFetch? (x0 x : Core) (slot : Nat) (v : Bool) : Option Fetch :=
  let m := x.me
  if (m.asking? v).isSome then none
  else (x.sliceNeeds.filter (fun q => q.v == v && q.id != 63 && !m.sliceMet slot q)).findSome? (fun q =>
    match m.adapter? q.id, Core.sliceSlot? x0 x q with
    | some d, some i =>
      let l := Fin.ofNat 8 (adLoader d)
      if (m.fetches v).any (fun f => f.loader != l || f.vc != adVc d) then none
      else
        let wide := match m.run? with | some (_, j) => modeWide j.mode | none => false
        some {
          slot := i, id := q.id, index := q.index, loader := l, vc := adVc d
          va := (if v then adVbase d + q.index.toNat * adVstride d else adUbase d + q.index.toNat * adUstride d) % vaTop
          total := if v then 2 * adRank d else if wide then 32 else 64 : Fetch }
    | _, _ => none)

/-- A new fetch takes its slot: the slice it fills is not there until its last cell has arrived, and what older fetches still bring for that
place arrives for no slice, on both sides where the slot changes its adapter (R156); the slot's time of last use stays. [log entry 50, DEDUCED; log entry
154, DESIGN CHOICE] -/
def Me.beginFetch (m : Me) (v : Bool) (f : Fetch) : Me :=
  let z := m.slots[f.slot]
  let own := z.id == f.id
  let m := m.dropFetches (fun w g => g.slot == f.slot && g.id != 63 && (w == v || !own))
  let z : AdSlot := if own then z else { id := f.id, used := z.used }
  let z : AdSlot := if v then { z with v := none, vcells := [] } else { z with u := none, ucells := [] }
  ({ m with slots := m.slots.set f.slot.val z f.slot.isLt }).setFetches v (m.fetches v ++ [f])

/-- The loader of a fetch reads its next cell and offers it as a CTRL cell; a fault of a demand freezes that loader, and a prefetch that
cannot go on is dropped (R155, R269). -/
def State.fetchCell (s : State) (c : CoreId) (v : Bool) (i : Nat) (f : Fetch) : Out :=
  let x := s.core c
  let p := 108 + f.loader.val
  let a := (f.va + 256 * f.asked) % vaTop
  if (x.ingAt p).frozen.isSome || !x.loaderFree (some f.loader) s.slot || decide (16 ≤ (x.ingAt p).obuf.length) ||
      !s.pathsFree false (s.genPlaces c a 256) then .next s
  else match s.genRead c a 256 (x.demands v f) with
    | .absent => .fault .absentPhysical
    | .dropped t => .next ((t.pathsUsed false (s.genPlaces c a 256)).modCore c (fun x => (x.modMe (fun m =>
        m.setFetches v (if f.asked = f.next then (m.fetches v).eraseIdx i else (m.fetches v).set i f.drop))).loaderUsed (some f.loader) s.slot))
    | .fault t code =>
      let s := (t.pathsUsed false (s.genPlaces c a 256)).modCore c (fun x => (x.modIng p (fun g => { g with frozen := some { kind := code, arg := BitVec.ofNat 64 a } })).loaderUsed
        (some f.loader) s.slot)
      .next (s.record c code (unitId c 0 p) p (pos2 ((s.core c).ingAt p).admitted 0) (BitVec.ofNat 64 a))
    | .ok t w =>
      let port : BitVec 7 := if v then 87 else 86
      .next ((t.pathsUsed false (s.genPlaces c a 256)).modCore c (fun x => ((x.modMe (fun m => m.setFetches v ((m.fetches v).set i { f with asked := f.asked + 1 }))).loaderUsed
        (some f.loader) s.slot).offer p
          { cell := { h := { ep := port, vc := f.vc, tag := tCTRL }, data := BitVec.ofNat 2048 w }, since := s.slot + 1 }))

/-- The slices that a new fetch puts out of its slot, their errors with them: its own side, or both sides where the slot changes its adapter (R156,
R258). -/
def Me.lostSpots (m : Me) (c : CoreId) (v : Bool) (f : Fetch) : List Spot :=
  if m.slots[f.slot].id = f.id then [.adSlot c f.slot v] else [.adSlot c f.slot false, .adSlot c f.slot true]

/-- One port's part of ADAPTER_FETCH: the oldest fetch reads on, or a new one begins. -/
def State.fetchSide (s : State) (c : CoreId) (v : Bool) : Out :=
  match (s.core c).me.asking? v with
  | some (i, f) => s.fetchCell c v i f
  | none =>
    match Core.newFetch? (s.atStart.core c) (s.core c) s.slot v with
    | none => .next s
    | some f =>
      let m := (s.core c).me.beginFetch v f
      ((s.modCore c (fun x => x.modMe (fun _ => m))).clearSpots ((s.core c).me.lostSpots c v f)).fetchCell c v ((m.fetches v).length - 1) f

/-- ADAPTER_FETCH: the loaders of the fetches for MXC0 and MXC1 read one cell each (R155, R156, R394). [log entry 50, DEDUCED] -/
def execAdapterFetch (c : CoreId) (s : State) : Out :=
  if (s.core c).me.off s.slot then .next s
  else match s.fetchSide c false with
    | .next s => s.fetchSide c true
    | z => z

/-- ADAPTER_FACTOR_CELL: a CTRL head of MXC is the next cell of the oldest fetch on its port, or freezes the engine (R155). [log entry 51, DEDUCED] -/
def execAdapterFactorCell (c : CoreId) (x : Fin 2) (s : State) : Out :=
  let k := s.core c
  let p := 86 + x.val
  match k.head? s.slot p 0 with
  | none => .next s
  | some y =>
    if k.me.off s.slot || ((k.egAt p).chan 0).moved || y.h.tag != tCTRL then .next s
    else
      let isV := x.val == 1
      match k.me.fetches isV with
      | [] => .next (s.freezeMeCell c p y)
      | f :: rest =>
        let fin := f.total ≤ f.next + 1
        let f' := { f with next := f.next + 1 }
        let s := s.modCore c (fun k => k.modMe (fun m =>
          let z := m.slots[f.slot]
          let z : AdSlot :=
            if z.id ≠ f.id ∨ f.id = 63 then z
            else if isV then { z with
              vcells := Sparse.set (if f.next = 0 then [] else z.vcells) f.next y.data
              v := if fin then some f.index else if f.next = 0 then none else z.v, vAt := s.slot + 1 }
            else { z with
              ucells := Sparse.set (if f.next = 0 then [] else z.ucells) f.next y.data
              u := if fin then some f.index else if f.next = 0 then none else z.u, uAt := s.slot + 1, uHalf := decide (f.total < 64) }
          ({ m with slots := m.slots.set f.slot.val z f.slot.isLt }).setFetches isV (if fin then rest else f' :: rest)))
        .next (s.popHead c p 0)

/-! ## MXSTAT (R164) -/

def Panel.code (p : Panel) : Nat := if p.full then 2 else if p.cells.isEmpty then 0 else 1

/-- Whether the head row or the drain row waits on a slice. -/
def Core.rowWaits (x : Core) (slot : Nat) : Bool :=
  (match x.me.run?, x.headId? with
  | some (_, j), some a =>
    a != 63 && (x.me.adapter? a).isSome &&
      (!x.me.hasU slot a j.kpanel || (j.pass && (j.chain == 2 || j.chain == 3) && !x.me.hasV slot a j.npanel))
  | _, _ => false) ||
  (match x.me.drainRow? with
  | some r => r.lp && r.aid != 63 && (x.me.adapter? r.aid).isSome && !x.me.hasV slot r.aid r.npi
  | none => false)

/-- What MXSTAT reads of a core at the start of a slot. -/
def Core.mxstat (x : Core) (slot : Nat) (sel : Nat) : Word :=
  let m := x.me
  match sel with
  | 0 =>
    let run := match m.run? with | some (_, j) => (j.rows - j.done) * 2 ^ 5 + j.tile.toNat * 2 ^ 14 | none => 0
    let dr := match m.drain? with
      | some (_, j) => (j.rows - j.done) * 2 ^ 15 + j.tile.toNat * 2 ^ 24 + (j.token && j.route.isNone && j.rows != 0).toNat * 2 ^ 26
      | none => 0
    BitVec.ofNat 64 (m.jobs.length + m.frozen.isSome.toNat * 16 + run + dr + (x.rowWaits slot).toNat * 2 ^ 25)
  | 1 | 2 => m.flags.setWidth 64
  | 3 => m.fired
  | 4 => m.drained
  | 5 =>
    let fill := (m.panel m.fptr)
    BitVec.ofNat 64 ((m.panel false).code + 4 * (m.panel true).code + 16 * m.fptr.toNat + 32 * m.cptr.toNat + 64 * m.keep.isSome.toNat +
      128 * (m.keep.getD false).toNat + 256 * (if fill.full then 0 else fill.cells.length))
  | 6 => BitVec.ofNat 64 (m.dir.foldl (fun n y => n + 2 ^ y.1) 0)
  | 7 =>
    BitVec.ofNat 64 ((List.finRange 16).foldl (fun n i =>
      n + (m.slots[i].id != 63).toNat * 2 ^ i.val + m.slots[i].u.isSome.toNat * 2 ^ (16 + i.val) + m.slots[i].v.isSome.toNat * 2 ^ (32 + i.val)) 0)
  | 8 => m.cta[1] ++ m.cta[0]
  | 9 => m.cta[3] ++ m.cta[2]
  | 10 => m.cts[1] ++ m.cts[0]
  | 11 => m.cts[3] ++ m.cts[2]
  | _ => 0

def execMxstat (a : BitVec 5) (k : BitVec 4) (s : State) : Out :=
  let v := s.atStart.myCore.mxstat s.slot k.toNat
  .next ((s.modCore s.cur.1 (fun x =>
    if k = 2 then x.modMe (fun m => { m with flags := m.fresh }) else x)).put a v)

end Sys2Proof.Machine
end

