-- ==== Sys2Proof/Machine/ElemOps.lean ====
section
/-! DEFINITION. The 54 element operations (R132-R140): what each computes from its operands, and the firing that applies it. OXPIV and
OXEND act on the Oxbow's routine (R312, R313). -/

namespace Sys2Proof.Machine

/-! ## Shared shapes -/

/-- One result for DA and DB. -/
def OpOut.one (v : Val) (fl : Flags := 0) : OpOut := { ra := { v := v }, rb := { v := v }, flags := fl }

def isFlt (f : Fmt) : Bool := f == 1 || f == 2 || f == 3
def isIntF (f : Fmt) : Bool := f == 6 || f == 7 || f == 8

/-- The select whose format F is (R125, R361). [log entry 23, DEDUCED] -/
def OpIn.fmtField (i : OpIn) : Nat := if i.fa.isSome then 1 else if i.fb.isSome then 2 else 1

def fmtFault (n : Nat) : OpFault := { kind := kFMT, field := n }

/-- FMT unless F is accepted (R125). -/
def OpIn.need (i : OpIn) (ok : Fmt → Bool) (k : Except OpFault OpOut) : Except OpFault OpOut :=
  if ok i.f then k else .error (fmtFault i.fmtField)

/-- A result of format f with SA's key (R124). -/
def OpIn.res (i : OpIn) (f : Fmt) (r : Payload × Flags) : OpOut := OpOut.one { data := r.1, fmt := f, key := i.a.key } r.2

def OpIn.w (i : OpIn) : Nat := laneBits i.f
def OpIn.n (i : OpIn) : Nat := laneCount i.f

/-- A floating operation lane by lane, rounded once by RM (R133). -/
def OpIn.flt (i : OpIn) (g : FVal → FVal → FVal → FVal × Flags) : Except OpFault OpOut :=
  i.need isFlt (
    let ff := (ffmt? i.f).getD fp32
    let a := i.a.data.toNat
    let b := i.b.data.toNat
    let d := i.old.data.toNat
    .ok (i.res i.f (lanesF i.w i.n (fun j =>
      let x := g (decodeF ff (lane i.w j a)) (decodeF ff (lane i.w j b)) (decodeF ff (lane i.w j d))
      let y := encodeF ff x.1 i.rm false
      (y.1, x.2 ||| y.2)))))

/-- An operation on lane codes, without flags, of the formats accepted. -/
def OpIn.codes (i : OpIn) (ok : Fmt → Bool) (g : Nat → Nat → Nat) : Except OpFault OpOut :=
  i.need ok (
    let a := i.a.data.toNat
    let b := i.b.data.toNat
    .ok (i.res i.f (ofLanes i.w i.n (fun j => g (lane i.w j a) (lane i.w j b)), 0)))

/-- The integer that a lane code stands for in an integer format. -/
def intOf (f : Fmt) (x : Nat) : Int := if f = 7 then (x : Int) else sext (laneBits f) x

/-- An integer operation lane by lane, wrapping (R134). -/
def OpIn.ints (i : OpIn) (g : Int → Int → Int) : Except OpFault OpOut :=
  i.codes isIntF (fun x y => wrap i.w (g (intOf i.f x) (intOf i.f y)))

def allOnes (w : Nat) (b : Bool) : Nat := if b then 2 ^ w - 1 else 0

/-- An integer compare lane by lane (R134). -/
def OpIn.icmp (i : OpIn) (g : Int → Int → Bool) : Except OpFault OpOut :=
  i.codes isIntF (fun x y => allOnes i.w (g (intOf i.f x) (intOf i.f y)))

/-- A floating compare lane by lane (R133). -/
def OpIn.fcmp (i : OpIn) (g : FVal → FVal → Bool) : Except OpFault OpOut :=
  let ff := (ffmt? i.f).getD fp32
  i.codes isFlt (fun x y => allOnes i.w (g (decodeF ff x) (decodeF ff y)))

/-- A bitwise operation on whole payloads (R134). -/
def OpIn.bitw (i : OpIn) (g : Payload → Payload → Payload) : Except OpFault OpOut :=
  .ok (OpOut.one { data := g i.a.data i.b.data, fmt := i.a.fmt, key := i.a.key })

/-- One level of the pairwise tree (R50): adjacent results combined. -/
def treeLevel (g : FVal → FVal → FVal × Flags) (l : List FVal) : List FVal × Flags :=
  match l with
  | a :: b :: r =>
    let x := g a b
    let y := treeLevel g r
    (x.1 :: y.1, x.2 ||| y.2)
  | l => (l, 0)

/-- The pairwise tree over 2^k lanes (R50). -/
def treeFold (g : FVal → FVal → FVal × Flags) (k : Nat) (l : List FVal) : FVal × Flags :=
  match k with
  | 0 => (l.headD (.fin false 0 0), 0)
  | k + 1 =>
    let x := treeLevel g l
    let y := treeFold g k x.1
    (y.1, x.2 ||| y.2)

/-- FRED and FRMAX (R133): the tree's result in every lane. -/
def OpIn.tree (i : OpIn) (g : FFmt → FVal → FVal → FVal × Flags) : Except OpFault OpOut :=
  i.need isFlt (
    let ff := (ffmt? i.f).getD fp32
    let a := i.a.data.toNat
    let l := (List.range i.n).map (fun j => decodeF ff (lane i.w j a))
    let r := treeFold (g ff) (if i.f = 1 then 6 else 7) l
    let c := (encodeF ff r.1 i.rm false).1
    .ok (i.res i.f (ofLanes i.w i.n (fun _ => c), r.2)))

/-! ## Control (R132) -/

/-- NOP: no source, no destination; only ST. -/
def execElemNop (x : ElemAct) (s : State) : Out :=
  .next (s.fireOp x 0x00 (fun i => .ok (OpOut.one { data := 0, fmt := i.f, key := 0 })))

def execMov (x : ElemAct) (s : State) : Out := .next (s.fireOp x 0x01 (fun i => .ok (OpOut.one i.a)))

/-- PASS: each source to its own destination. -/
def execPass (x : ElemAct) (s : State) : Out :=
  .next (s.fireOp x 0x02 (fun i => .ok { ra := { v := i.a }, rb := { v := i.b } }))

def execKeyx (x : ElemAct) (s : State) : Out :=
  .next (s.fireOp x 0x03 (fun i => .ok (i.res 8 (ofLanes 32 64 (fun _ => i.a.key.toNat), 0))))

def execKeys (x : ElemAct) (s : State) : Out :=
  .next (s.fireOp x 0x04 (fun i => .ok (OpOut.one { i.a with key := BitVec.ofNat 16 i.scalB })))

/-- CNTDN: a predicate destination receives 1 when lane 0 of the result is 0. -/
def execCntdn (x : ElemAct) (s : State) : Out :=
  .next (s.fireOp x 0x05 (fun i => i.need isIntF (
    let a := i.a.data.toNat
    let d := ofLanes i.w i.n (fun j => wrap i.w (max (intOf i.f (lane i.w j a) - 1) 0))
    let r : Res := { v := { data := d, fmt := i.f, key := i.a.key }, pred := some (decide (lane i.w 0 d.toNat = 0)) }
    .ok { ra := r, rb := r })))

/-- Cut one key-range entry at v: the part below, and the part from v on for core t (R312, R314). -/
def cutRange (e : BitVec 64) (v : Nat) (t : CoreId) : List (BitVec 64) :=
  let lo := getBits e 0 16
  let hi := getBits e 16 17
  if hi ≤ v then [e]
  else if v ≤ lo then [setBits e 36 6 t.val]
  else [setBits e 16 17 v, setBits (setBits e 0 16 v) 36 6 t.val]

/-- The valid entries of a stage. -/
def Stage.valid (g : Stage) : List (BitVec 64) := g.ranges.toList.filter (fun e => e.getLsbD 63)

/-- Entries after a cut at v of every entry that names the source core; the others stay (R314). -/
def Stage.cut (g : Stage) (src : CoreId) (v : Nat) (t : CoreId) : List (BitVec 64) :=
  g.valid.flatMap (fun e => if rangeCore e = src then cutRange e v t else [e])

/-- Whether a pivot is accepted from an element (R312). -/
def State.pivotStage? (s : State) (c : CoreId) (e : ElemId) (v : Nat) : Option StageId :=
  match (s.core c).sourceStage? e (fun t => t == .splitting) with
  | none => none
  | some g =>
    let y := (s.core c).stages[g]
    if y.lead? = some e ∧ y.lo < v ∧ v < y.hi ∧ (y.valid.flatMap (fun r => cutRange r v c)).length ≤ 8 then some g else none

/-- OXPIV: the pivot of the running split routine (R312). -/
def execOxpiv (x : ElemAct) (s : State) : Out :=
  let c := s.fire.core
  let e := s.fire.elem
  let v := (s.opIn x (opUse 0x06)).scalA
  let g? := s.pivotStage? c e v
  let s' := s.fireOp x 0x06 (fun i =>
    .ok { ra := { v := i.a, pred := some g?.isSome }, rb := { v := i.a } })
  .next (match g? with
    | some g =>
      if (s'.core c).elems[e].frozen.isSome then s'
      else s'.modCore c (fun k => k.modStage g (fun y => { y with pivot := BitVec.ofNat 16 v }))
    | none => s')

/-- Whether OXEND ends a routine: in SPLITTING at the source, or in MERGING at the twin, with the Oxbow's SPL at C0's head (R313). -/
def State.endsRoutine (s : State) (c : CoreId) (e : ElemId) : Bool :=
  (s.routineOf c e).isSome &&
    (match (s.core c).head? s.slot (48 + e.val) 0 with | some y => y.m.spl && y.h.tag == tSPL | none => false)

/-- OXEND: the routine's SPL is popped and the element waits for the switch; elsewhere only ST changes (R313, R314). -/
def execOxend (x : ElemAct) (s : State) : Out :=
  let c := s.fire.core
  let e := s.fire.elem
  let ends := s.endsRoutine c e
  let s' := s.fireOp x 0x07 (fun i =>
    let r : Res := { v := { data := 0, fmt := i.f, key := 0 }, pred := some ends }
    .ok { ra := r, rb := r })
  .next (if ends && (s'.core c).elems[e].frozen.isNone then
      let s' := (s'.popElem c e 0).modCore c (fun k => k.modElem e (fun el => { el with ended := true, splSeen := false }))
      match s.routineOf c e with
      | some (k, g) => s'.modCore k (fun x => x.modStage g (fun y => { y with since := s.slot }))
      | none => s'
    else s')

/-! ## Floating point (R133) -/

def execFadd (x : ElemAct) (s : State) : Out := .next (s.fireOp x 0x10 (fun i => i.flt (fun a b _ => FVal.add i.rm a b)))
def execFsub (x : ElemAct) (s : State) : Out := .next (s.fireOp x 0x11 (fun i => i.flt (fun a b _ => FVal.add i.rm a b.neg)))
def execFmul (x : ElemAct) (s : State) : Out := .next (s.fireOp x 0x12 (fun i => i.flt (fun a b _ => FVal.mul a b)))

/-- a * b + d with one rounding; INV from the product too (R34). -/
def fmaLane (rm : Nat) (a b d : FVal) : FVal × Flags :=
  let p := FVal.mul a b
  let r := FVal.add rm p.1 d
  (r.1, p.2 ||| r.2)

def execFma (x : ElemAct) (s : State) : Out := .next (s.fireOp x 0x13 (fun i => i.flt (fun a b d => fmaLane i.rm a b d)))
def execFms (x : ElemAct) (s : State) : Out := .next (s.fireOp x 0x14 (fun i => i.flt (fun a b d => fmaLane i.rm a b d.neg)))
def execFmin (x : ElemAct) (s : State) : Out := .next (s.fireOp x 0x15 (fun i => i.flt (fun a b _ => (FVal.min a b, 0))))
def execFmax (x : ElemAct) (s : State) : Out := .next (s.fireOp x 0x16 (fun i => i.flt (fun a b _ => (FVal.max a b, 0))))

/-- The sign bit of each lane cleared or inverted; every other bit copied. -/
def execFabs (x : ElemAct) (s : State) : Out :=
  .next (s.fireOp x 0x17 (fun i => i.codes isFlt (fun a _ => a % 2 ^ (i.w - 1))))
def execFneg (x : ElemAct) (s : State) : Out :=
  .next (s.fireOp x 0x18 (fun i => i.codes isFlt (fun a _ => (a + 2 ^ (i.w - 1)) % 2 ^ i.w)))

/-- FSCL: a * 2^k, k the raw integer lane of SB clamped to -1,024..1,023. -/
def execFscl (x : ElemAct) (s : State) : Out :=
  .next (s.fireOp x 0x19 (fun i => i.need isFlt (
    let ff := (ffmt? i.f).getD fp32
    let a := i.a.data.toNat
    let b := i.b.data.toNat
    .ok (i.res i.f (lanesF i.w i.n (fun j =>
      let k := max (-1024) (min 1023 (sext i.w (lane i.w j b)))
      encodeF ff ((decodeF ff (lane i.w j a)).scale k) i.rm false))))))

/-- FRED: each addition of the tree rounds by RM (R50). -/
def execFred (x : ElemAct) (s : State) : Out :=
  .next (s.fireOp x 0x1A (fun i => i.tree (fun ff a b =>
    let r := FVal.add i.rm a b
    let y := encodeF ff r.1 i.rm false
    (decodeF ff y.1, r.2 ||| y.2))))
def execFrmax (x : ElemAct) (s : State) : Out := .next (s.fireOp x 0x1B (fun i => i.tree (fun _ a b => (FVal.max a b, 0))))

def execFcmpeq (x : ElemAct) (s : State) : Out := .next (s.fireOp x 0x1C (fun i => i.fcmp FVal.eq))
def execFcmplt (x : ElemAct) (s : State) : Out := .next (s.fireOp x 0x1D (fun i => i.fcmp FVal.lt))
def execFcmple (x : ElemAct) (s : State) : Out := .next (s.fireOp x 0x1E (fun i => i.fcmp (fun a b => a.lt b || a.eq b)))

/-- FSEL: lane by lane a when the old DA's lane has any bit set, else b; every format. -/
def execFsel (x : ElemAct) (s : State) : Out :=
  .next (s.fireOp x 0x1F (fun i =>
    let a := i.a.data.toNat
    let b := i.b.data.toNat
    let d := i.old.data.toNat
    .ok (i.res i.f (
      if i.f = 14 then (i.a.data &&& i.old.data) ||| (i.b.data &&& ~~~i.old.data)
      else ofLanes i.w i.n (fun j => if lane i.w j d = 0 then lane i.w j b else lane i.w j a), 0))))

/-! ## Integer (R134) -/

def execIadd (x : ElemAct) (s : State) : Out := .next (s.fireOp x 0x20 (fun i => i.ints (fun a b => a + b)))
def execIsub (x : ElemAct) (s : State) : Out := .next (s.fireOp x 0x21 (fun i => i.ints (fun a b => a - b)))
def execImul (x : ElemAct) (s : State) : Out := .next (s.fireOp x 0x22 (fun i => i.ints (fun a b => a * b)))

/-- [log entry 26, DEDUCED] -/
def isByteInt (f : Fmt) : Bool := f == 6 || f == 7

/-- IMAC4: four products a lane, each operand in its own format, added to DA read as INT32. [log entry 26, DEDUCED] -/
def execImac4 (x : ElemAct) (s : State) : Out :=
  .next (s.fireOp x 0x23 (fun i =>
    if !isByteInt i.a.fmt then .error (fmtFault i.fmtField)
    else if !isByteInt i.b.fmt then .error (fmtFault 2)
    else
      let a := i.a.data.toNat
      let b := i.b.data.toNat
      let d := i.old.data.toNat
      .ok (i.res 8 (ofLanes 32 64 (fun k =>
        wrap 32 ((List.range 4).foldl (fun acc j =>
          acc + intOf i.a.fmt (lane 8 (4 * k + j) a) * intOf i.b.fmt (lane 8 (4 * k + j) b)) (sext 32 (lane 32 k d)))), 0))))

/-- ASUB3: the ternary dot product of the whole cell, added to every lane of DA read as INT32. -/
def execAsub3 (x : ElemAct) (s : State) : Out :=
  .next (s.fireOp x 0x24 (fun i =>
    if i.a.fmt ≠ 6 then .error (fmtFault i.fmtField)
    else if !isByteInt i.b.fmt then .error (fmtFault 2)
    else
      let a := i.a.data.toNat
      let b := i.b.data.toNat
      let d := i.old.data.toNat
      let t := (List.range 256).foldl (fun acc j => acc + (sext 8 (lane 8 j a)).sign * intOf i.b.fmt (lane 8 j b)) (0 : Int)
      .ok (i.res 8 (ofLanes 32 64 (fun k => wrap 32 (sext 32 (lane 32 k d) + t)), 0))))

def execImin (x : ElemAct) (s : State) : Out := .next (s.fireOp x 0x25 (fun i => i.ints (fun a b => if a ≤ b then a else b)))
def execImax (x : ElemAct) (s : State) : Out := .next (s.fireOp x 0x26 (fun i => i.ints (fun a b => if a ≤ b then b else a)))
def execIshl (x : ElemAct) (s : State) : Out := .next (s.fireOp x 0x27 (fun i => i.codes isIntF (fun a b => a * 2 ^ (b % i.w))))
def execIshr (x : ElemAct) (s : State) : Out := .next (s.fireOp x 0x28 (fun i => i.codes isIntF (fun a b => a / 2 ^ (b % i.w))))

/-- ISAR: the top bit fills for INT32 and INT8, zero for UINT8. -/
def execIsar (x : ElemAct) (s : State) : Out :=
  .next (s.fireOp x 0x29 (fun i => i.codes isIntF (fun a b => wrap i.w (intOf i.f a / 2 ^ (b % i.w)))))

def execIand (x : ElemAct) (s : State) : Out := .next (s.fireOp x 0x2A (fun i => i.bitw (fun a b => a &&& b)))
def execIor (x : ElemAct) (s : State) : Out := .next (s.fireOp x 0x2B (fun i => i.bitw (fun a b => a ||| b)))
def execIxor (x : ElemAct) (s : State) : Out := .next (s.fireOp x 0x2C (fun i => i.bitw (fun a b => a ^^^ b)))
def execInot (x : ElemAct) (s : State) : Out := .next (s.fireOp x 0x2D (fun i => i.bitw (fun a _ => ~~~a)))
def execIcmpeq (x : ElemAct) (s : State) : Out := .next (s.fireOp x 0x2E (fun i => i.icmp (fun a b => decide (a = b))))
def execIcmplt (x : ElemAct) (s : State) : Out := .next (s.fireOp x 0x2F (fun i => i.icmp (fun a b => decide (a < b))))

/-! ## Conversion (R135-R139) -/

/-- The part rule of R135: g converts one source lane's code. -/
def OpIn.parts (i : OpIn) (t : Fmt) (g : Nat → Nat × Flags) : Except OpFault OpOut :=
  let p := i.scalB / 16 % 16
  let ns := i.n
  let nd := laneCount t
  let a := i.a.data.toNat
  if max (nd / ns) (ns / nd) ≤ p then .error (fmtFault 6)
  else if ns ≤ nd then
    let old := if i.oldD && i.old.fmt == t then i.old.data.toNat else 0
    .ok (i.res t (lanesF (laneBits t) nd (fun j =>
      if p * ns ≤ j ∧ j < p * ns + ns then g (lane i.w (j - p * ns) a) else (lane (laneBits t) j old, 0))))
  else .ok (i.res t (lanesF (laneBits t) nd (fun j => g (lane i.w (p * nd + j) a))))

/-- The target format of a conversion (R135). -/
def OpIn.target (i : OpIn) : Fmt := BitVec.ofNat 4 i.scalB

def isCvtF (f : Fmt) : Bool := decide (1 ≤ f.toNat ∧ f.toNat ≤ 9)

/-- One lane of CVT (R135). -/
def OpIn.cvtLane (i : OpIn) (t : Fmt) (x : Nat) : Nat × Flags :=
  if t = i.f then (x, 0)
  else match decodeLane i.tab i.f x with
    | some v => encodeLane t v i.rm i.sat
    | none => (0, 0)

def execCvt (x : ElemAct) (s : State) : Out :=
  .next (s.fireOp x 0x30 (fun i => i.need isCvtF (
    if isCvtF i.target then i.parts i.target (i.cvtLane i.target) else .error (fmtFault 6))))

def isScaledF (f : Fmt) : Bool := f == 12 || f == 13

/-- One lane of DQNT (R39, R135): the scale of SA's key, 127 for the unscaled formats, for ST and for LANE (R118). [log entry 24, DEDUCED;
log entry 113, DEDUCED] -/
def OpIn.dqntLane (i : OpIn) (t : Fmt) (x : Nat) : Nat × Flags :=
  let c := if isScaledF i.f && i.selA != 14 && i.selA != 15 then i.a.key.toNat % 256 else 127
  let v := if c = 255 then FVal.nan else (decodeF (if i.f = 4 ∨ i.f = 12 then e4m3 else e5m2) x).scale ((c : Int) - 127)
  encodeLane t v i.rm false

def execDqnt (x : ElemAct) (s : State) : Out :=
  .next (s.fireOp x 0x32 (fun i => i.need (fun f => f == 4 || f == 5 || isScaledF f) (
    if isFlt i.target then i.parts i.target (i.dqntLane i.target) else .error (fmtFault 6))))

def isFxPeer (f : Fmt) : Bool := isFlt f || isIntF f

/-- FXCVT: exactly one of source and target is FX128 (R42, R135). -/
def execFxcvt (x : ElemAct) (s : State) : Out :=
  .next (s.fireOp x 0x37 (fun i => i.need (fun f => f == 11 || isFxPeer f) (
    if (i.f = 11 ∧ isFxPeer i.target) ∨ (isFxPeer i.f ∧ i.target = 11) then
      i.parts i.target (fun c => match decodeLane i.tab i.f c with | some v => encodeLane i.target v i.rm false | none => (0, 0))
    else .error (fmtFault 6))))

/-- The lanes of a floating cell as exact values. -/
def fltLanes (f : Fmt) (p : Payload) : List FVal :=
  let ff := (ffmt? f).getD fp32
  let a := p.toNat
  (List.range (laneCount f)).map (fun j => decodeF ff (lane (laneBits f) j a))

/-- QNT8 (R136): SA's lanes, then SB's, then zeros, quantised by R53; SB is of a floating format or ZERO. An SA of K, ZERO, ST or LANE
reads in the format of a floating SB (R118, R125). [log entry 22, DEDUCED] -/
def execQnt8 (x : ElemAct) (s : State) : Out :=
  .next (s.fireOp x 0x31 (fun i => i.need isFlt (
    if i.fb.isNone && i.selB != 13 then .error (fmtFault 2)
    else
      let q := quantise (fltLanes i.f i.a.data ++ fltLanes i.f i.b.data) i.qf i.rm
      let key := BitVec.ofNat 16 (q.1 + i.a.key.toNat / 256 * 256)
      .ok (OpOut.one { data := q.2.1, fmt := (if i.qf then 13 else 12), key := key } q.2.2))))

/-- Whether a T3P5 byte of the window from trit t0 on, n trits, is illegal. -/
def illegalIn (p : Nat) (t0 n : Nat) : Bool :=
  (List.range n).any (fun i => decide (242 < lane 8 ((t0 + i) / 5) p))

/-- UNP3 (R137): 256 trits of the window into INT8. -/
def execUnp3 (x : ElemAct) (s : State) : Out :=
  .next (s.fireOp x 0x33 (fun i => i.need (fun f => f == 10) (
    let w := i.scalB % 8
    if 4 < w then .error (fmtFault 6)
    else
      let a := i.a.data.toNat
      let bad := illegalIn a (256 * w) 256
      if bad && i.ill3e then .error (fmtFault 6)
      else .ok (i.res 6 (ofLanes 8 256 (fun j => wrap 8 (tritAt a (256 * w + j))), if bad then fILL3 else 0)))))

/-- PK3 (R137): the signs of 256 INT8 lanes into the window; the other trits from an old DA tagged T3P5. -/
def execPk3 (x : ElemAct) (s : State) : Out :=
  .next (s.fireOp x 0x34 (fun i => i.need (fun f => f == 6) (
    let w := i.scalB % 8
    if 4 < w then .error (fmtFault 6)
    else
      let a := i.a.data.toNat
      let old := if i.oldD && i.old.fmt == 10 then i.old.data.toNat else 0
      .ok (i.res 10 (ofTrits (fun t =>
        if 256 * w ≤ t ∧ t < 256 * w + 256 then (sext 8 (lane 8 (t - 256 * w) a)).sign else tritAt old t), 0)))))

def isLns (f : Fmt) : Bool := f == 9

/-- One lane of LMUL (R138). -/
def lmulLane (x y : Nat) : Nat × Flags :=
  let s := lnsSign x != lnsSign y
  if lnsZero x || lnsZero y then (lnsByte s (-16), 0)
  else
    let l := lnsLog x + lnsLog y
    if 15 < l then (lnsByte s 15, fOVF) else if l < -15 then (lnsByte s (-16), fUNF) else (lnsByte s l, 0)

def execLmul (x : ElemAct) (s : State) : Out :=
  .next (s.fireOp x 0x35 (fun i => i.need isLns (
    let a := i.a.data.toNat
    let b := i.b.data.toNat
    .ok (i.res 9 (lanesF 8 256 (fun j => lmulLane (lane 8 j a) (lane 8 j b)))))))

/-- LACC (R138): four linear products a lane added exactly to DA read as FP32, one rounding. The terms are added to DA in the order j = 0 to 3, on which
INV rests where NaN and both infinities meet. [log entry 152, DESIGN CHOICE] -/
def execLacc (x : ElemAct) (s : State) : Out :=
  .next (s.fireOp x 0x36 (fun i => i.need isLns (
    let a := i.a.data.toNat
    let b := i.b.data.toNat
    let d := i.old.data.toNat
    .ok (i.res 1 (lanesF 32 64 (fun k =>
      let r := (List.range 4).foldl (fun (acc : FVal × Flags) j =>
        let y := FVal.add i.rm acc.1 (lnsProduct i.tab (lane 8 (4 * k + j) a) (lane 8 (4 * k + j) b))
        (y.1, acc.2 ||| y.2)) (decodeF fp32 (lane 32 k d), 0)
      let y := encodeF fp32 r.1 i.rm false
      (y.1, r.2 ||| y.2)))))))

def execFxadd (x : ElemAct) (s : State) : Out :=
  .next (s.fireOp x 0x38 (fun i => i.need (fun f => f == 11) (
    let a := i.a.data.toNat
    let b := i.b.data.toNat
    .ok (i.res 11 (lanesF 128 16 (fun j =>
      let r := fxAdd (lane 128 j a) (lane 128 j b)
      (r.1, if r.2 then fFXSAT else 0)))))))

/-- PERM (R139): byte j is the byte of SA that byte j of SB names. -/
def execPerm (x : ElemAct) (s : State) : Out :=
  .next (s.fireOp x 0x39 (fun i =>
    let a := i.a.data.toNat
    let b := i.b.data.toNat
    .ok (OpOut.one { i.a with data := ofLanes 8 256 (fun j => lane 8 (lane 8 j b) a) })))

/-- BCAST (R139): one lane of SA in every lane. -/
def execBcast (x : ElemAct) (s : State) : Out :=
  .next (s.fireOp x 0x3A (fun i =>
    let a := i.a.data.toNat
    let k := i.scalB
    let d := match i.f.toNat with
      | 14 => ofLanes 8 256 (fun _ => if i.a.data.getLsbD (k % 2048) then 255 else 0)
      | 10 => ofLanes 8 256 (fun _ => tritCode (tritAt a (k % 1280)) * 121)
      | _ => ofLanes i.w i.n (fun _ => lane i.w (k % i.n) a)
    .ok (OpOut.one { i.a with data := d })))

/-- CLAMP of one floating lane: exact, a NaN gives NaN. -/
def clampF (a b : FVal) : FVal :=
  match a, b with
  | .nan, _ => .nan
  | _, .nan => .nan
  | a, b => FVal.min (FVal.max a b.abs.neg) b.abs

/-- CLAMP (R139). -/
def execClamp (x : ElemAct) (s : State) : Out :=
  .next (s.fireOp x 0x3B (fun i =>
    if isFlt i.f then i.flt (fun a b _ => (clampF a b, 0))
    else i.ints (fun a b => min (max a (-(b.natAbs : Int))) b.natAbs)))

/-! ## Keyed (R140) -/

/-- KCMP: predicates receive below and equal; cells receive -1, 0 or +1 in every lane. -/
def execKcmp (x : ElemAct) (s : State) : Out :=
  .next (s.fireOp x 0x40 (fun i =>
    let a := i.a.key.toNat
    let b := i.b.key.toNat
    let v : Val := { data := ofLanes 32 64 (fun _ => if a < b then 2 ^ 32 - 1 else if a = b then 0 else 1), fmt := 8, key := i.a.key }
    .ok { ra := { v := v, pred := some (decide (a < b)) }, rb := { v := v, pred := some (decide (a = b)) } }))

/-- KSEL: the chosen head to DA and DB; only its channel pops. -/
def execKsel (x : ElemAct) (s : State) : Out :=
  .next (s.fireOp x 0x41 (fun i =>
    let fromA := decide (i.a.key.toNat ≤ i.b.key.toNat)
    let v := if fromA then i.a else i.b
    .ok { ra := { v := v }, rb := { v := v, pred := some (!fromA) }, flags := 0, popA := fromA, popB := (!fromA) }))

end Sys2Proof.Machine
end

