-- ==== Sys2Proof/Machine/Oxbow.lean ====
section
/-! DEFINITION. The Oxbow (R303-R324): declaring a stage, detection, cloning to a twin, the split routine and its switch, redirection and
the twin's hold, merge and release, and the OX instructions. -/

namespace Sys2Proof.Machine

/-! ## The declaration (R305-R307) -/

/-- The number of one bits among the low n. -/
def onesBelow (n x : Nat) : Nat := (List.range n).foldl (fun k i => k + (x.testBit i).toNat) 0

/-- The initial key-range entries of a record. -/
def Stage.initRanges (g : Stage) : Vector (BitVec 64) 8 := Vector.ofFn (fun i => BitVec.ofNat 64 (g.field (64 + 8 * i.val) 8))

/-- An initial entry keeps R307 and names the declaring core and a port of the stage. -/
def Stage.rangeOk (g : Stage) (c : CoreId) (e : BitVec 64) : Bool :=
  getBits e 49 14 == 0 && getBits e 33 3 == 0 &&
    (!e.getLsbD 63 ||
      (rangeCore e == c && isElemPort (rangePort e).toNat && g.hasElem (elemOfPort (rangePort e).toNat) &&
        decide (getBits e 0 16 < getBits e 16 17) && decide (getBits e 16 17 ≤ g.hi) && decide (g.lo ≤ getBits e 0 16)))

/-- Whether two valid entries hold a common key. -/
def rangesMeet (a b : BitVec 64) : Bool :=
  a.getLsbD 63 && b.getLsbD 63 && decide (getBits a 0 16 < getBits b 16 17) && decide (getBits b 0 16 < getBits a 16 17)

def rangesApart (l : List (BitVec 64)) : Bool :=
  match l with
  | [] => true
  | e :: r => r.all (fun y => !rangesMeet e y) && rangesApart r

/-- The index of a core in its gang: how many of the gang's cores are below it (R345). -/
def gangIndex (l : List CoreId) (c : CoreId) : Nat := (l.filter (fun k => decide (k.val < c.val))).length

/-- Whether a core is in the task's Oxbow reserve (R304, R345). -/
def Task.reserve (t : Task) (k : CoreId) : Bool := t.cores.contains k && t.lrec.oxres.getLsbD (gangIndex t.cores k)

/-- A candidate byte: bit 6 zero; a valid one is in the reserve and is not the declaring core. -/
def State.candOk (s : State) (c : CoreId) (b : Nat) : Bool :=
  b / 64 % 2 == 0 && (b / 128 == 0 ||
    (match s.taskOf c with
      | some t => t.reserve (Fin.ofNat 64 (b % 64)) && Fin.ofNat 64 (b % 64) != c
      | none => false))

/-- The checks of R306 on a record, the state of the stage apart. -/
def State.declOk (s : State) (c : CoreId) (g : Stage) : Bool :=
  decide (1 ≤ onesBelow 32 g.emask) && decide (onesBelow 32 g.emask ≤ 8) &&
  decide (g.field 10 1 < 32) && decide (g.field 11 1 < 32) && g.field 10 1 != g.field 11 1 &&
  decide (g.lo < g.hi) && decide (g.hi ≤ 65536) && decide (g.field 18 1 < 64) && decide (g.field 19 1 < 64) &&
  (g.ovd == 0 || g.ovw != 0) && (g.und == 0 || g.unw != 0) &&
  (List.range 4).all (fun i => s.candOk c (g.field (28 + i) 1)) &&
  decide (g.field 34 1 < 4) && decide (g.field 35 1 < 12) && g.field 36 1 / 16 % 8 == 0 && decide (g.field 37 1 < 128) &&
  g.field 38 26 == 0 && g.initRanges.toList.all (fun e => g.rangeOk c e) && rangesApart g.initRanges.toList

/-- OXDECL: the record is read at the VA in Ga (R306). -/
def execOxdecl (a : BitVec 5) (g : BitVec 3) (s : State) : Out :=
  .next (s.descRead (.oxdecl a g) (vaOf (s.me.rd a)).toNat 128 (.oxdecl g))

/-- The OXDECL thread's read is done: the checks, then the declaration; the table is new from the next slot (R306). -/
def State.oxdeclRead (s : State) (c : CoreId) (t : Tid) (n : BitVec 3) (pa word : Nat) : State :=
  let g : StageId := Fin.ofNat 8 n.toNat
  let old := (s.core c).stages[g]
  let y := { old with decl := BitVec.ofNat 1024 (s.readOwn c pa 128) }
  if s.declOk c y && (old.st == .none || old.st == .whole) then
    (s.modCore c (fun x => (x.modStage g (fun _ => { y with
      st := .whole, pivot := 0, ovTimer := 0, unTimer := 0, pin := false, mergeP := false, since := s.slot })).later
        (.ranges g y.initRanges))).finish c t id
  else s.trapAt c t kILL (illEval word 3) (s.thr c t).pc

/-! ## Depth and detection (R309) -/

/-- The cells of a stage's IVC for its element ports on one core: queued, matched and not landed, in channels, held. [log entry 126, DEDUCED] -/
def Core.depthOf (x : Core) (g : Stage) : Nat :=
  let mine (y : Cell) : Bool := y.h.vc == g.ivc
  let queued := x.ing.foldl (fun n q => n + (q.buf.filter (fun z =>
    mine z.cell && isElemPort z.cell.h.ep.toNat && g.hasElem (elemOfPort z.cell.h.ep.toNat))).length) 0
  g.elems.foldl (fun n e =>
    let p := x.egAt (48 + e.val)
    n + (p.flight.filter (fun z => mine z.2)).length + (p.hold.filter mine).length +
      (List.range 4).foldl (fun k i => k + ((p.chan i).cells.filter mine).length) 0) queued

/-- The depth of a stage: at its source, and in SPLIT at its twin too. -/
def State.depth (s : State) (c : CoreId) (g : StageId) : Nat :=
  let y := (s.core c).stages[g]
  (s.core c).depthOf y + (match y.st, y.twin with
    | .split, some k => (s.core k).depthOf y
    | _, _ => 0)

/-- An Oxbow record: the stage in DETAIL, the depth in ARG (R309, R361). [log entry 55, DEDUCED; log entry 56, DEDUCED] -/
def State.oxRecord (s : State) (c : CoreId) (g : StageId) (kind : BitVec 8) (toFw : Bool) : State :=
  let s := s.tickFresh
  s.record c kind (unitId c 9 g.val) g.val (Config.eventPos s.fresh) (BitVec.ofNat 64 (s.depth c g)) toFw

/-- The tag bit of a stage sets in the clock after its record (R319). -/
def State.oxTag (s : State) (c : CoreId) (g : StageId) : State :=
  match (s.core c).stages[g].tag? with
  | some t => s.modCore c (fun x => { x with oxTags := x.oxTags ++ [(s.slot, t)] })
  | none => s

/-- A stage enters a state: its timers restart (R309). -/
def Stage.enter (y : Stage) (st : OxState) (slot : Nat) : Stage :=
  { y with st := st, ovTimer := 0, unTimer := 0, since := slot, quietAt := none }

/-- Whether the Oxbow of a core works for its task: a task that has been killed is split and merged no more (R320, R356). -/
def State.oxRuns (s : State) (c : CoreId) : Bool :=
  match s.taskOf c with
  | some t => (match t.phase with
    | .running | .ending => true
    | .stopping _ at_ => at_ == s.slot
    | _ => false)
  | none => false

/-- Whether the twin holds no stage cell that is not consumed (R317). The rule does not name the core whose LOOP budget has nothing in flight: it
is the source core's. [log entry 137, DESIGN CHOICE] -/
def State.quiescent (s : State) (c : CoreId) (y : Stage) : Bool :=
  y.twinCells == 0 &&
    y.elems.all (fun e => ((s.core c).ingAt (48 + e.val)).ahead.all (fun o => o.cell.m.twin.isNone)) &&
    (match y.loop? with
      | some l => ((vget (s.core c).loops l.val {}).inflight == 0)
      | none => true)

/-- The timers of a core's stages at the end of a slot (R309, R322), and whether a returning one's twin is quiescent (R317). [log entry 126, DEDUCED] -/
def State.oxTimers (s : State) (c : CoreId) : State :=
  (List.finRange 8).foldl (fun s g =>
    let y := (s.core c).stages[g]
    if y.st = .returning then
      (if y.quietAt.isNone && s.quiescent c y then s.modCore c (fun x => x.modStage g (fun z => { z with quietAt := some s.slot })) else s)
    else if (y.st = .whole ∧ y.ovd ≠ 0) ∨ (y.st = .split ∧ y.und ≠ 0) then
      let d := s.depth c g
      let ov := decide (y.st = .whole ∧ y.ovd ≠ 0 ∧ y.ovd ≤ d) && !y.pin
      let un := decide (y.st = .split ∧ y.und ≠ 0 ∧ d ≤ y.und) && !y.pin
      s.modCore c (fun x => x.modStage g (fun z => { z with
        ovTimer := (if ov then min (z.ovTimer + 1) 65535 else 0), unTimer := (if un then min (z.unTimer + 1) 65535 else 0) }))
    else s) s

/-- OVERLOAD_DETECT: OVL is posted and the stage is ASKED (R309). -/
def execOverloadDetect (c : CoreId) (g : StageId) (s : State) : Out :=
  let y := (s.core c).stages[g]
  .next (if s.oxRuns c = true ∧ y.st = .whole ∧ y.ovd ≠ 0 ∧ y.pin = false ∧ y.ovw ≤ y.ovTimer then
      (s.oxRecord c g kOVL true).modCore c (fun x => x.modStage g (fun z => z.enter .asked s.slot))
    else s)

/-! ## Starting a clone (R304, R310, R318) -/

/-- Whether the Oxbow of a core has a stage that is being split, is split or is being merged. [log entry 64, DEDUCED] -/
def OxState.busy (st : OxState) : Bool := 3 ≤ (match st with
  | .none => 0 | .whole => 1 | .asked => 2 | .cloning => 3 | .splitting => 4 | .draining => 5 | .split => 6 | .returning => 7 | .merging => 8)

/-- Whether core k can be a twin: the twin of no stage, and the source of none that is split (R304). [log entry 64, DEDUCED] -/
def State.twinFree (s : State) (k : CoreId) : Bool :=
  (List.finRange 64).all (fun c => (s.core c).stages.toList.all (fun y => y.twin != some k)) &&
    (s.core k).stages.toList.all (fun y => !y.st.busy)

/-- The default pivot (R311). -/
def Stage.defaultPivot (y : Stage) : Nat := y.lo + (y.hi - y.lo) / 2

/-- The configuration slot that a clone writes at the twin: the active one, else slot 0, or slot 1 while slot 0 is LOADING (R310). -/
def Core.cloneSlot? (x : Core) : Option Bool :=
  match x.activeSlot? with
  | some b => some b
  | none => if x.slots[0].st ≠ .loading then some false else if x.slots[1].st ≠ .loading then some true else none

/-- Why a clone of the stage cannot begin (R309, R318). [log entry 60, DEDUCED] A core of which another stage is split is not split again: R318 has no
cause of its own for that, and the split fails as one without a candidate. [log entry 138, DESIGN CHOICE] -/
def State.cloneFail? (s : State) (c : CoreId) (y : Stage) : Option (BitVec 4) :=
  if (s.core c).stages.toList.any (fun z => z.st.busy) then some 1
  else match y.cands.find? (fun k => s.twinFree k) with
  | none => some 1
  | some k =>
    if 8 < (y.cut c y.defaultPivot k).length then some 2
    else if y.hi - y.lo = 1 then some 3
    else if (s.core k).cloneSlot?.isNone then some 4
    else none

/-- CLONING begins, or the split fails with OXFAIL and the stage is WHOLE (R310, R318). -/
def State.startClone (s : State) (c : CoreId) (g : StageId) : State :=
  let y := (s.core c).stages[g]
  match s.cloneFail? c y with
  | some r =>
    let s := s.modCore c (fun x => x.modStage g (fun z => { (z.enter .whole s.slot) with reason := r }))
    (s.oxRecord c g kOXFAIL true).oxTag c g
  | none =>
    s.modCore c (fun x => x.modStage g (fun z => { (z.enter .cloning s.slot) with twin := y.cands.find? (fun k => s.twinFree k) }))

/-- OXBOW_APPROVAL: the firmware's approval of an ASKED stage (R309); it counts for no other (R324). -/
def execOxbowApproval (c : CoreId) (g : StageId) (s : State) : Out :=
  .next (if s.oxRuns c = true ∧ (s.core c).stages[g].st = .asked then s.startClone c g else s)

/-- OXBOW_REFUSAL: the stage is WHOLE and its timer restarts (R309). -/
def execOxbowRefusal (c : CoreId) (g : StageId) (s : State) : Out :=
  .next (if s.oxRuns c = true ∧ (s.core c).stages[g].st = .asked then s.modCore c (fun x => x.modStage g (fun z => z.enter .whole s.slot)) else s)

/-! ## The clone (R310, R311) -/

/-- Zero a bank of the pool; its words get new codes. -/
def State.zeroBank (s : State) (c : CoreId) (b : Nat) : State :=
  let lo := sliceBase c + b * 65536
  { (s.poolMarks lo 65536) with pool := Memory.clear s.pool lo 65536 }

/-- The banks of a stage. -/
def Stage.bankList (y : Stage) : List Nat := (List.range 48).filter (fun b => y.banks.testBit b)

/-- A route entry whose destination words name core k. -/
def routeTo (r : BitVec 256) (k : CoreId) : BitVec 256 := (List.range 4).foldl (fun r i => setBits r (64 + 32 * i + 25) 6 k.val) r

/-- The VCs that an entry's valid destination words use. -/
def routeVcs (r : BitVec 256) : List Nat :=
  ((List.range 4).filter (fun i => (rtDest r i).getLsbD 31)).map (fun i => getBits (rtDest r i) 9 5)

/-- Write a route entry whole, with its RID counter (R200). -/
def Core.setRoute (x : Core) (e : BitVec 8) (r : BitVec 256) : Core :=
  { x with routes := vset x.routes e.toNat r, rids := vset x.rids e.toNat (BitVec.ofNat 8 (getBits r 56 8)) }

/-- The partner entries of a stage. [log entry 61, DEDUCED] -/
def Stage.partners (y : Stage) : List (BitVec 8) := y.pe0.toList ++ y.pe1.toList

/-- The route entries that a clone writes at the twin (R310). -/
def Core.cloneRoutes (x : Core) (y : Stage) : List (BitVec 8) := y.elems.flatMap (fun e => x.cfg.elems[e].boundOuts) ++ y.partners

/-- The VCs whose table entries a clone writes. -/
def Core.cloneVcs (x : Core) (y : Stage) : List Nat :=
  [y.ivc.toNat, y.rvc.toNat] ++ (x.cloneRoutes y).flatMap (fun e => routeVcs (vget x.routes e.toNat 0))

/-- The places with parity or error correction that a clone gives new contents at the twin (R258). -/
def Core.cloneSpots (x : Core) (y : Stage) (k : CoreId) : List Spot :=
  y.elems.flatMap (fun e => .kreg k e :: ((List.finRange 4).flatMap (fun n => dregSpots k e n) ++ (List.finRange 32).map (fun i => .entry k e i) ++
    (List.finRange 8).map (fun n => .literal k e n))) ++
    (x.cloneVcs y).map (fun v => .vct k (BitVec.ofNat 5 v)) ++ (x.cloneRoutes y).map (fun e => .route k e)

/-- The twin core with the stage's tables of the source core, its elements in their initial state (R310). [log entry 61, DEDUCED; log entry 63, DEDUCED] -/
def Core.cloneInto (t x : Core) (y : Stage) (b : Bool) : Core :=
  let src := x.cfg
  let entries := x.cloneRoutes y
  let vcs := x.cloneVcs y
  let t := if t.activeSlot?.isSome then t else t.modSlot b (fun _ => { st := .active })
  let t := t.modSlot b (fun g => { g with
    elems := y.elems.foldl (fun v e => v.set e.val src.elems[e] e.isLt) g.elems
    vct := vcs.foldl (fun v i => vset v i (vget src.vct i 0)) g.vct
    reply := y.bankList.foldl (fun v i => vset v i (vget src.reply i (Vector.replicate 32 0))) g.reply })
  let t := entries.foldl (fun t e => t.setRoute e (vget x.routes e.toNat 0)) t
  y.elems.foldl (fun t e => t.modElem e (fun el =>
    let g := src.elems[e]
    { el with
      st := g.initSt, d := Vector.replicate 4 {}, p := 0, esr := g.esrc.setWidth 32 &&& esrControl, k := g.k, kpend := none
      ended := false, splSeen := false })) t

/-- The SPL cell of a routine (R311, R317). The rule gives its key and payload only: its VC is the stage's IVC, so while it stands in C0 it
counts in the depth of R309. [log entry 135, DESIGN CHOICE] -/
def Stage.splCell (y : Stage) (k : CoreId) (mrg : Bool) (p slot : Nat) : Cell := {
  h := { ep := BitVec.ofNat 7 p, vc := y.ivc, tag := tSPL, key := y.pivot }
  data := BitVec.ofNat 2048 (y.lo + y.hi * 2 ^ 16 + k.val * 2 ^ 40 + mrg.toNat * 2 ^ 48)
  m := { spl := true, since := slot + 1 } }

/-- Offer an SPL to every element of a stage on a core. [log entry 62, DEDUCED] -/
def Core.offerSpl (x : Core) (y : Stage) (k : CoreId) (mrg : Bool) (slot : Nat) : Core :=
  y.elems.foldl (fun x e => (x.modEg (48 + e.val) (fun g => { g with splIn := some (y.splCell k mrg (48 + e.val) slot) })).modElem e
    (fun el => { el with ended := false, splSeen := false })) x

/-- CLONE_DONE: the twin is written, the pivot takes its default, and the source elements are offered their SPL (R310, R311). Where both slots of the
twin have come to be LOADING since the clone began, it waits until one is not. [log entry 149, DESIGN CHOICE] -/
def execCloneDone (c : CoreId) (g : StageId) (s : State) : Out :=
  let y := (s.core c).stages[g]
  match y.st, y.twin with
  | .cloning, some k =>
    if !s.oxRuns c then .next s
    else match (s.core k).cloneSlot? with
    | none => .next s
    | some b =>
      let x := s.core c
      let s := (s.clearSpots (x.cloneSpots y k)).modCore k (fun t => y.partners.foldl (fun t e => t.setRoute e (routeTo (vget x.routes e.toNat 0) c)) (t.cloneInto x y b))
      let s := y.bankList.foldl (fun s n => s.zeroBank k n) s
      let z : Stage := { (y.enter .splitting s.slot) with pivot := BitVec.ofNat 16 y.defaultPivot }
      .next (s.modCore c (fun x =>
        let x := y.partners.foldl (fun x e => { x with routes := vmod x.routes e.toNat (fun r => routeTo r k) }) x
        (x.modStage g (fun _ => z)).offerSpl z k false s.slot))
  | _, _ => .next s

/-! ## SPL at the head of C0 (R311) -/

/-- Whether a cell that was in a core before a waiting SPL is still on its way to channel C0 of a port. -/
def Core.splBehind (x : Core) (p : Nat) (y : Cell) : Bool :=
  let mine (z : Cell) : Bool := z.h.ep.toNat == p && decide (z.m.since ≤ y.m.since) && x.chanOf? p z.h == some 0
  let g := x.egAt p
  x.ing.toList.any (fun q => q.buf.any (fun z => mine z.cell) ||
    q.mcq.any (fun z => z.residue.getLsbD p && mine { z.cell with h := { z.cell.h with ep := BitVec.ofNat 7 p } })) ||
  g.flight.any (fun z => mine z.2) || g.hold.any mine || g.rdv.any (fun r => r.ops.any mine)

/-- The waiting SPLs of a core enter their channels at the end of a slot. [log entry 62, DEDUCED] -/
def Core.splEnter (x : Core) (slot : Nat) : Core :=
  (List.range 32).foldl (fun x e =>
    let p := 48 + e
    match (x.egAt p).splIn with
    | none => x
    | some y =>
      if x.splBehind p y || !x.roomNow p 0 y then x
      else (x.modEg p (fun g => { g with splIn := none })).pushChan slot p 0 y) x

/-- SPL_HEAD: the element fires nothing and takes the entry state of its routine (R311, R317). -/
def execSplHead (c : CoreId) (e : ElemId) (s : State) : Out :=
  if s.splWaiting c e && s.elemRuns c e then
    let mrg := match (s.core c).head? s.slot (48 + e.val) 0 with | some y => y.data.getLsbD 48 | none => false
    let st? := if mrg then
        (s.twinStage? c e (fun t => t == .merging)).map (fun z => ((s.core z.1).stages[z.2]).mergeSt)
      else ((s.core c).sourceStage? e (fun t => t == .splitting)).map (fun g => ((s.core c).stages[g]).splitSt)
    .next (s.modCore c (fun x => x.modElem e (fun el => { el with st := st?.getD el.st, splSeen := true, acted := some s.slot })))
  else .next s

/-! ## The switch (R314) -/

/-- A table of at most 8 entries. -/
def rangeTable (l : List (BitVec 64)) : Vector (BitVec 64) 8 := Vector.ofFn (fun i => l.getD i.val 0)

/-- Mark a cell that the switch counts. -/
def Cell.mark (y : Cell) : Cell := { y with m := { y.m with pend := true } }

/-- The switch counts the IVC cells for a source port that wait in queues, are on their way, stand in its channels or as operands in its rendezvous
buffer, or are still held after an earlier merge (R270, R314). [log entry 57, DEDUCED] -/
def Core.countPending (x : Core) (y : Stage) : Core :=
  let mine (z : Cell) : Bool := z.h.vc == y.ivc && isElemPort z.h.ep.toNat && y.hasElem (elemOfPort z.h.ep.toNat)
  let x := { x with ing := x.ing.map (fun q => { q with
    buf := q.buf.map (fun z => if mine z.cell then { z with cell := z.cell.mark } else z)
    mcq := q.mcq.map (fun m => if m.cell.h.vc == y.ivc && y.elems.any (fun e => m.residue.getLsbD (48 + e.val)) then
      { m with cell := m.cell.mark } else m) }) }
  y.elems.foldl (fun x e =>
    let p := 48 + e.val
    let queued := x.ing.foldl (fun n q => n + (q.buf.filter (fun z => z.cell.h.ep.toNat == p && z.cell.h.vc == y.ivc)).length +
      (q.mcq.filter (fun m => m.cell.h.vc == y.ivc && m.residue.getLsbD p)).length) 0
    x.modEg p (fun g =>
      let ivc (z : Cell) : Bool := z.h.vc == y.ivc
      let inCh := (List.range 4).foldl (fun n i => n + ((g.chan i).cells.filter ivc).length) 0
      { g with
        flight := g.flight.map (fun z => if ivc z.2 then (z.1, z.2.mark) else z)
        chans := g.chans.map (fun q => { q with cells := q.cells.map (fun z => if ivc z then z.mark else z) })
        hold := g.hold.map (fun z => if ivc z then z.mark else z)
        rdv := g.rdv.map (fun r => { r with ops := r.ops.map (fun z => if ivc z then z.mark else z) })
        pending := BitVec.ofNat 16 (queued + (g.flight.filter (fun z => ivc z.2)).length + (g.hold.filter ivc).length +
          g.rdv.foldl (fun n r => n + (r.ops.filter ivc).length) 0 + inCh) })) x

/-- At the end of the switch slot the pending counts are loaded: admissions of that slot are in them (R314, R324). -/
def Core.loadPending (x : Core) (slot : Nat) : Core :=
  (List.finRange 8).foldl (fun x g =>
    let y := x.stages[g]
    if y.st = .draining ∧ y.since = slot then x.countPending y else x) x

/-- A port's IVC cells enter its hold queue: at a twin every one, at a source those admitted after a slot (R316, R317). A hold of an earlier
merge that is still releasing goes on releasing the cells admitted before (R270). [log entry 58, DEDUCED] -/
def Egress.startHold (g : Egress) (vc : BitVec 5) (from_ : Nat) : Egress :=
  { g with holding := some vc, holdFrom := from_, holdOpen := false, holdOld := g.holdOpen || g.holdOld, rdeIn := none }

def Core.holdPorts (x : Core) (y : Stage) (from_ : Nat) : Core :=
  y.elems.foldl (fun x e => x.modEg (48 + e.val) (fun g => g.startHold y.ivc from_)) x

/-- OXBOW_SWITCH: after the last OXEND the table is cut at the pivot, new from the next slot, and the stage is DRAINING (R314). -/
def execOxbowSwitch (c : CoreId) (g : StageId) (s : State) : Out :=
  let y := (s.core c).stages[g]
  match y.st, y.twin with
  | .splitting, some k =>
    if s.oxRuns c = true ∧ y.since < s.slot ∧ y.elems.all (fun e => (s.core c).elems[e].ended) = true then
      let t := rangeTable (y.cut c y.pivot.toNat k)
      let s := s.modCore c (fun x =>
        let x := (x.modStage g (fun z => z.enter .draining s.slot)).later (.ranges g t)
        y.elems.foldl (fun x e => (x.modElem e (fun el => { el with ended := false })).modEg (48 + e.val)
          (fun q => { q with rdeSent := false })) x)
      .next (s.modCore k (fun x => x.holdPorts y 0))
    else .next s
  | _, _ => .next s

/-! ## Redirection (R315) -/

/-- The stage of an element that is in DRAINING, with the table of the next slot. -/
def Core.drainingStage? (x : Core) (e : ElemId) : Option (StageId × Stage) :=
  (x.sourceStage? e (fun t => t == .draining)).map (fun g => (g, x.stageSoon g))

/-- A cell on the redirect path: to the same port of the twin on RVC, by XNET (R315). -/
def Stage.redirect (y : Stage) (k : CoreId) (p : Nat) (z : Cell) : Cell := { z with
  h := { z.h with ep := BitVec.ofNat 7 (96 + y.xnet), vc := y.rvc, mc := 0 }
  far := some { core := k, port := BitVec.ofNat 7 p, vc := y.rvc, mc := 0 } }

/-- OXBOW_FORWARD: the head of a moved key goes ahead of the element's output buffer, once the routine's cells are consumed;
at the twin it enters its channel directly, an operand of a set too (R315, R316). -/
def execOxbowForward (c : CoreId) (e : ElemId) (s : State) : Out :=
  let x := s.core c
  let p := 48 + e.val
  match x.drainingStage? e with
  | none => .next s
  | some (g, y) =>
    match y.twin, (List.range 4).find? (fun ch => match x.head? s.slot p ch with
        | some z => z.h.vc == y.ivc && y.moved c z.h.key
        | none => false) with
    | some k, some ch =>
      match x.head? s.slot p ch with
      | none => .next s
      | some z =>
        if y.rtn = 0 ∧ s.oxRuns c = true then
          let f := { y.redirect k p z with m := { twin := some (c, g), fwd := true } }
          .next ((s.popHead c p ch).modCore c (fun x => x.modIng p (fun q => { q with ahead := q.ahead ++ [{ cell := f }] })))
        else .next s
    | _, _ => .next s

/-- Join an entry with one of a list that continues it on the same port and core. -/
def joinInto (l : List (BitVec 64)) (e : BitVec 64) : List (BitVec 64) :=
  match l with
  | [] => [e]
  | y :: r =>
    let same := rangePort y == rangePort e && rangeCore y == rangeCore e
    if same && getBits y 16 17 == getBits e 0 16 then joinInto r (setBits y 16 17 (getBits e 16 17))
    else if same && getBits e 16 17 == getBits y 0 16 then joinInto r (setBits y 0 16 (getBits e 0 16))
    else y :: joinInto r e

/-- The table with the twin's entries named for the source core, and adjacent entries with one port joined. [log entry 59, DEDUCED] -/
def Stage.switchBack (y : Stage) (c k : CoreId) : Vector (BitVec 64) 8 :=
  rangeTable ((y.valid.map (fun e => if rangeCore e = k then setBits e 36 6 c.val else e)).foldl joinInto [])

/-- A merge starts: the table is switched back, the source holds, and the stage is RETURNING (R317). -/
def State.startMerge (s : State) (c : CoreId) (g : StageId) : State :=
  let y := (s.core c).stages[g]
  match y.st, y.twin with
  | .split, some k =>
    s.modCore c (fun x =>
      ((x.modStage g (fun z => { (z.enter .returning s.slot) with mergeP := false })).later (.ranges g (y.switchBack c k))).holdPorts y (s.slot + 1))
  | _, _ => s

/-- RDE_INJECT: a source port with nothing pending sends its RDE behind the last forwarded cell; when all have, the stage is SPLIT,
SPLITDONE is posted, and a pending merge starts (R315, R321). -/
def execRdeInject (c : CoreId) (e : ElemId) (s : State) : Out :=
  let p := 48 + e.val
  match (s.core c).drainingStage? e with
  | none => .next s
  | some (g, y) =>
    let q := (s.core c).egAt p
    match y.twin with
    | none => .next s
    | some k =>
      if s.oxRuns c = true ∧ y.since < s.slot ∧ q.rdeSent = false ∧ q.pending = 0 ∧ y.rtn = 0 then
        let z : Cell := y.redirect k p { h := { tag := tRDE }, m := { spl := true, twin := some (c, g) } }
        let s := s.modCore c (fun x => (x.modIng p (fun i => { i with ahead := i.ahead ++ [{ cell := z }] })).modEg p
          (fun q => { q with rdeSent := true }))
        if y.elems.all (fun e => ((s.core c).egAt (48 + e.val)).rdeSent) then
          let s := s.modCore c (fun x => x.modStage g (fun z => { (z.enter .split s.slot) with splits := z.splits + 1 }))
          let s := (s.oxRecord c g kSPLITDONE false).oxTag c g
          .next (if y.mergeP then s.startMerge c g else s)
        else .next s
      else .next s

/-! ## The hold (R316) -/

/-- RDE_CONSUMED: the port consumes its RDE, and its hold queue releases from the next slot on (R186, R316, R317). -/
def execRdeConsumed (c : CoreId) (e : ElemId) (s : State) : Out :=
  let p := 48 + e.val
  .next (match ((s.core c).egAt p).rdeIn with
    | some y => (s.modCore c (fun x => x.modEg p (fun g =>
        { g with rdeIn := none, holdOpen := g.holding.isSome, holdAt := s.slot + 1 }))).consume c y
    | none => s)

/-- Whether a held cell belongs to the hold of an earlier merge (R270). -/
def Egress.oldCell (g : Egress) (y : Cell) : Bool := g.holdOld && decide (y.m.since ≤ g.holdFrom)

/-- The held cells in the order of their release, those of an earlier merge first; what is held for a merge that still runs stays
(R270, R316, R317). -/
def Egress.releasing (g : Egress) : List Cell :=
  g.hold.filter g.oldCell ++ (if g.holdOpen then g.hold.filter (fun y => !g.oldCell y) else [])

/-- A hold with nothing left to release and nothing on its way to it ends; one that only an earlier merge opened goes on holding. -/
def Egress.holdEnd (g : Egress) : Egress :=
  if g.flight.any (fun y => g.holds y.2 && (g.holdOpen || g.oldCell y.2)) then g
  else if g.holdOpen then { g with holding := none, holdOpen := false, holdOld := false }
  else { g with holdOld := false }

/-- HOLD_RELEASE: one held cell enters its channel, or the rendezvous buffer, a slot, where a cell of its class finds a place (R172, R183); when none is
left the hold ends (R316). -/
def execHoldRelease (c : CoreId) (e : ElemId) (s : State) : Out :=
  let p := 48 + e.val
  let x := s.core c
  let g := x.egAt p
  if (g.holdOpen || g.holdOld) && decide (g.holdAt ≤ s.slot) && g.frozen.isNone then
    match g.releasing with
    | [] => .next (s.modCore c (fun x => x.modEg p Egress.holdEnd))
    | y :: _ =>
      let r := g.hold.erase y
      if y.inSet then
        if !x.rdvTakes p y.h.rid then .next s else
        let s := s.modCore c (fun x => x.modEg p (fun g => { g with hold := r, holdAt := s.slot + 1 }))
        .next (s.rdvDeliver c p y)
      else
        match x.chanOf? p y.h with
        | none => .next s
        | some ch =>
          if !x.roomNow p ch y then .next s
          else .next (s.modCore c (fun x => (x.modEg p (fun g => { g with hold := r, holdAt := s.slot + 1 })).putCell s.slot p ch y))
  else .next s

/-! ## Merge and release (R317) -/

/-- UNDERLOAD_DETECT: the merge of a split stage starts (R309). -/
def execUnderloadDetect (c : CoreId) (g : StageId) (s : State) : Out :=
  let y := (s.core c).stages[g]
  .next (if s.oxRuns c = true ∧ y.st = .split ∧ y.und ≠ 0 ∧ y.pin = false ∧ y.unw ≤ y.unTimer then s.startMerge c g else s)

/-- MERGE_START: a stage with merge-pending starts its merge in the slot in which it is SPLIT (R317, R321). -/
def execMergeStart (c : CoreId) (g : StageId) (s : State) : Out :=
  .next (if s.oxRuns c && ((s.core c).stages[g]).mergeP then s.startMerge c g else s)

/-- TWIN_QUIESCENT: in a slot after the twin became quiescent its elements are offered the SPL of the merge, and the stage is MERGING
(R317). -/
def execTwinQuiescent (c : CoreId) (g : StageId) (s : State) : Out :=
  let y := (s.core c).stages[g]
  match y.st, y.twin with
  | .returning, some k =>
    if s.oxRuns c = true ∧ y.quietAt.any (fun q => decide (q < s.slot)) = true ∧ s.quiescent c y = true then
      let s := s.modCore c (fun x => x.modStage g (fun z => z.enter .merging s.slot))
      .next (s.modCore k (fun x => x.offerSpl y k true s.slot))
    else .next s
  | _, _ => .next s

/-- The twin's stage elements fire no more: EN 0 in every entry, ST 0 (R317). -/
def Core.clearTwin (x : Core) (y : Stage) : Core :=
  let x := match x.activeSlot? with
    | some b => x.modSlot b (fun g => { g with
        elems := y.elems.foldl (fun v e => vmod v e.val (fun z => { z with table := z.table.map (fun w => w &&& ~~~1#64) })) g.elems })
    | none => x
  y.elems.foldl (fun x e => (x.modElem e (fun el => { el with st := 0, ended := false, splSeen := false })).modEg (48 + e.val)
    (fun g => { g with holding := none, holdOpen := false, holdOld := false, splIn := none })) x

/-- MERGE_DONE: the twin's routine has ended and its cells are consumed; the source holds release and the stage is WHOLE (R317). -/
def execMergeDone (c : CoreId) (g : StageId) (s : State) : Out :=
  let y := (s.core c).stages[g]
  match y.st, y.twin with
  | .merging, some k =>
    if s.oxRuns c = true ∧ y.elems.all (fun e => (s.core k).elems[e].ended) = true ∧ y.rtn = 0 then
      let s := s.modCore k (fun x => x.clearTwin y)
      let s := y.bankList.foldl (fun s n => s.zeroBank k n) s
      let s := s.modCore c (fun x =>
        let x := x.modStage g (fun z => { (z.enter .whole s.slot) with twin := none, merges := z.merges + 1 })
        y.elems.foldl (fun x e => x.modEg (48 + e.val) (fun q => { q with holdOpen := q.holding.isSome, holdAt := s.slot })) x)
      .next ((s.oxRecord c g kMERGEDONE false).oxTag c g)
    else .next s
  | _, _ => .next s

/-- OXBOW_TAG_SET: a record is posted in the slot after its event, and its tag sets in the clock after that (R319, R362). -/
def execOxbowTagSet (c : CoreId) (s : State) : Out :=
  .next (s.modCore c (fun x =>
    let due := x.oxTags.filter (fun y => decide (y.1 + 2 ≤ s.slot))
    { (due.foldl (fun x y => x.tagNext y.2) x) with oxTags := x.oxTags.filter (fun y => !decide (y.1 + 2 ≤ s.slot)) }))

/-- The end of the task's last thread: a merge starts, or is set pending, on every stage that is split or on the way to it (R317). -/
def State.mergeAll (s : State) (c : CoreId) : State :=
  (List.finRange 8).foldl (fun s g =>
    let y := (s.core c).stages[g]
    if y.st = .cloning ∨ y.st = .splitting ∨ y.st = .draining then s.modCore c (fun x => x.modStage g (fun z => { z with mergeP := true }))
    else if y.st = .split then s.startMerge c g
    else s) s

/-! ## The OX instructions (R321-R323) -/

/-- The stage of a 3-bit field. -/
def stageOf (n : BitVec 3) : StageId := Fin.ofNat 8 n.toNat

/-- A form on a declared stage: ILL with cause 3 in NONE (R321, R322). -/
def State.onStage (s : State) (i : Instr) (g : BitVec 3) (f : State) : State :=
  if (s.myCore.stages[stageOf g]).st = .none then s.ill i 3 else f

def execOxsplit (g : BitVec 3) (s : State) : Out :=
  let st := (s.myCore.stages[stageOf g]).st
  .next (s.onStage (.oxsplit g) g ((if st = .whole ∨ st = .asked then s.startClone s.cur.1 (stageOf g) else s).skip))

def execOxmerge (g : BitVec 3) (s : State) : Out :=
  let st := (s.myCore.stages[stageOf g]).st
  .next (s.onStage (.oxmerge g) g ((
    if st = .cloning ∨ st = .splitting ∨ st = .draining then
      s.modCore s.cur.1 (fun x => x.modStage (stageOf g) (fun z => { z with mergeP := true }))
    else if st = .split then s.startMerge s.cur.1 (stageOf g)
    else s).skip))

def execOxpin (p : BitVec 1) (g : BitVec 3) (s : State) : Out :=
  .next (s.onStage (.oxpin p g) g ((s.modCore s.cur.1 (fun x => x.modStage (stageOf g) (fun z =>
    if p = 1 then { z with pin := true, ovTimer := 0, unTimer := 0 } else { z with pin := false }))).skip))

/-- The state codes of R308. -/
def OxState.code (st : OxState) : Nat :=
  match st with
  | .none => 0 | .whole => 1 | .asked => 2 | .cloning => 3 | .splitting => 4 | .draining => 5 | .split => 6 | .returning => 7 | .merging => 8

/-- The word of R323. -/
def State.oxWord (s : State) (c : CoreId) (g : StageId) : Word :=
  let y := (s.core c).stages[g]
  BitVec.ofNat 64 (y.st.code + 16 * y.pin.toNat + 32 * y.mergeP.toNat + 64 * (match y.twin with | some k => k.val | none => 0) +
    2 ^ 12 * y.pivot.toNat + 2 ^ 28 * min (s.depth c g) 65535 + 2 ^ 44 * y.splits.toNat + 2 ^ 52 * y.merges.toNat + 2 ^ 60 * y.reason.toNat)

def execOxqry (a : BitVec 5) (g : BitVec 3) (s : State) : Out := .next (s.put a (s.atStart.oxWord s.cur.1 (stageOf g)))

end Sys2Proof.Machine
end

