-- ==== Sys2Proof/Machine/Reedbed.lean ====
section
/-! DEFINITION. The Reedbed (R285-R302, R383): contexts, jobs on the load path and the run path, the transposers, evaluation, the layer
boundary and the pass boundary. -/

namespace Sys2Proof.Machine

/-! ## Contexts (R287, R288) -/

def RbCtx.hfield (x : RbCtx) (i n : Nat) : Nat := getBits x.hdr (8 * i) (8 * n)
def RbCtx.nl (x : RbCtx) : Nat := min (x.hfield 0 2) 1024
def RbCtx.batch (x : RbCtx) : Nat := let b := x.hfield 2 2; if b = 0 ∨ 2048 < b then 2048 else b
def RbCtx.nin (x : RbCtx) : Nat := min (x.hfield 4 2) 16384
def RbCtx.obase (x : RbCtx) (k : Nat) : Nat := x.hfield (8 + 4 * k) 2 % 2048
def RbCtx.onum (x : RbCtx) (k : Nat) : Nat := min (x.hfield (10 + 4 * k) 2) 2048
/-- LUT record r: its 32 bytes. -/
def RbCtx.record (x : RbCtx) (r : Nat) : Nat := getBits (Sparse.getD x.blocks (r / 8) 0) (256 * (r % 8)) 256

def Rb.ctx (b : Rb) (i : Fin 8) : RbCtx := b.ctxs[i]
def Rb.wire (b : Rb) (w : Nat) : Payload := Sparse.getD b.wires (w % 2048) 0
def Rb.setWire (b : Rb) (w : Nat) (v : Payload) : Rb := { b with wires := Sparse.set b.wires (w % 2048) v }

/-! ## Jobs (R294, R297-R300) -/

def Core.rbWaiters (x : Core) : List (Tid × RbJob) :=
  x.waitq.filterMap (fun t => match (x.thr t).st, (x.thr t).pend with | .parked, .rbJob j => some (t, j) | _, _ => none)

/-- Queue a job in issue order, or park until one completes. -/
def State.rbQueue (s : State) (kind : RbKind) (tag : Option (BitVec 6)) : State :=
  let c := s.cur.1
  let x := s.core c
  let j : RbJob := { kind := kind, tag := tag, seq := x.rb.nextSeq, since := s.slot + 1 }
  let s := s.modCore c (fun x => x.modRb (fun b => { b with nextSeq := b.nextSeq + 1 }))
  if 8 ≤ x.rb.jobs.length ∨ !x.rbWaiters.isEmpty then (s.modCore c (fun x => x.enqueueWait s.cur.2)).parkMe (.rbJob j)
  else (s.modCore c (fun x => x.modRb (fun b => { b with jobs := b.jobs ++ [j] }))).skip

/-- A job has completed: it leaves, and the oldest waiting thread's job takes its place. -/
def State.rbDone (s : State) (c : CoreId) (seq : Nat) : State :=
  let s := s.modCore c (fun x => x.modRb (fun b => { b with jobs := b.jobs.filter (fun j => j.seq != seq) }))
  match (s.core c).rbWaiters with
  | [] => s
  | (t, j) :: _ =>
    (s.modCore c (fun x => (x.modRb (fun b => { b with jobs := b.jobs ++ [{ j with since := s.slot + 1 }] })).dequeueWait t)).finish c t id

def tagWord (v : Word) (en lo : Nat) : Option (BitVec 6) := if v.getLsbD en then some (BitVec.ofNat 6 (getBits v lo 6)) else none

/-- RBLOAD: ILL for a count of 0 or above 129; the context is LOADING at issue (R297). -/
def execRbload (a : BitVec 5) (k : BitVec 3) (s : State) : Out :=
  let v := s.me.rd a
  let n := getBits v 0 8
  let ctx : Fin 8 := Fin.ofNat 8 k.toNat
  .next (
    if n = 0 ∨ 129 < n then s.ill (.rbload a k) 3
    else (s.modCore s.cur.1 (fun x => x.modRb (fun b => { b with states := b.states.set ctx.val .loading ctx.isLt }))).rbQueue
      (.load ctx n) (tagWord v 14 8))

/-- RBCTX: ILL for a context that is EMPTY with no load of it pending (R298). -/
def execRbctx (k : BitVec 3) (s : State) : Out :=
  let ctx : Fin 8 := Fin.ofNat 8 k.toNat
  .next (if s.myCore.rb.states[ctx] = .empty then s.ill (.rbctx k) 3 else s.rbQueue (.ctx ctx) none)

/-- Whether an RBCTX is pending. -/
def Core.rbctxPending (x : Core) : Bool :=
  let f (j : RbJob) : Bool := match j.kind with | .ctx _ => true | _ => false
  x.rb.jobs.any f || x.rbWaiters.any (fun y => f y.2)

/-- RBRUN: ILL when no context is active and no RBCTX is pending (R299). -/
def execRbrun (a : BitVec 5) (s : State) : Out :=
  let v := s.me.rd a
  .next (
    if s.myCore.rb.active.isNone ∧ s.myCore.rbctxPending = false then s.ill (.rbrun a) 3
    else s.rbQueue (.run (min (getBits v 0 12) 2048)) (tagWord v 18 12))

/-- RBXMODE: the mode word NP, KIND, PSEL (R291, R300). -/
def execRbxmode (n : BitVec 3) (k : BitVec 2) (p : BitVec 3) (s : State) : Out := .next (s.rbQueue (.mode (n ++ k ++ p)) none)

/-! ## Paths -/

/-- Whether the unit does nothing in a slot: it is FROZEN, or was at the slot's start (R113, R302). [log entry 67, DEDUCED] -/
def Rb.off (b : Rb) (slot : Nat) : Bool := b.frozen.isSome || decide (slot < b.goAt)

/-- The run path's current job. -/
def Rb.runJob? (b : Rb) : Option RbJob := b.jobs.find? (fun j => match j.kind with | .load _ _ => false | _ => true)
/-- The load path's current job. -/
def Rb.loadJob? (b : Rb) : Option RbJob := b.jobs.find? (fun j => match j.kind with | .load _ _ => true | _ => false)

/-- A cell of a class, or with a KEY, that the port does not take (R290): RESUME discards it. -/
def State.freezeRbCell (s : State) (c : CoreId) (p : Nat) (load : Bool) (y : Cell) : State :=
  (s.freezeRb c kPORT load 0 y.h.word).modCore c (fun x => x.modEg p (fun g => { g with badCell := some y }))

/-- The 64-bit words of a wire from word i on, n of them: each has its own code (R285). -/
def wireSpots (c : CoreId) (w i n : Nat) : List Spot := (List.range n).map (fun k => .wire c (32 * (w % 2048) + i + k))

/-- A read of the Reedbed corrects and counts the correctable errors that it meets (R258). -/
def State.rbReads (s : State) (c : CoreId) (l : List Spot) : State := s.softAt l (ErrCounts.countRb c)

/-! ## The load path (R297) -/

/-- A load cell's effect on a context. -/
def RbCtx.loadCell (x : RbCtx) (y : Cell) : RbCtx :=
  let k := y.h.key.toNat % 256
  if k = 0x80 then { x with hdr := y.data } else { x with blocks := Sparse.set x.blocks k y.data }

/-- What a load cell writes whole. -/
def loadSpots (c : CoreId) (ctx : Fin 8) (y : Cell) : List Spot :=
  let k := y.h.key.toNat % 256
  if k = 0x80 then [.context c ctx 1024] else (List.range 8).map (fun i => .context c ctx (8 * k + i))

/-- Take the heads of the RBTL ports from number q on, n ports, as the load wants them. [log entry 125, DEDUCED] -/
def State.rbTake (s : State) (c : CoreId) (q n : Nat) : State :=
  match n with
  | 0 => s
  | n + 1 =>
    let x := s.core c
    let p := 92 + q
    match x.head? s.slot p 0 with
    | none => s.rbTake c (q + 1) n
    | some y =>
      if ((x.egAt p).chan 0).moved || y.h.tag == tDRN then s.rbTake c (q + 1) n
      else if y.h.tag ≠ tDATA then s.freezeRbCell c p true y
      else match x.rb.load with
        | some (ctx, left + 1) =>
          if 0x80 < y.h.key.toNat % 256 then s.freezeRbCell c p true y
          else
            let s := (s.clearSpots (loadSpots c ctx y)).modCore c (fun x => x.modRb (fun b => { b with
              ctxs := b.ctxs.set ctx.val ((b.ctx ctx).loadCell y) ctx.isLt, load := some (ctx, left) }))
            (s.popHead c p 0).rbTake c (q + 1) n
        | _ => s.rbTake c (q + 1) n

/-- Start the load path's job when every RBCTX issued before it has taken effect; the active context gives a TABLE fault (R294, R297). -/
def State.rbStartLoad (s : State) (c : CoreId) : State :=
  let b := (s.core c).rb
  match b.load, b.loadJob? with
  | none, some j =>
    match j.kind with
    | .load ctx n =>
      let held := b.jobs.any (fun e => decide (e.seq < j.seq) && (match e.kind with | .ctx _ => true | _ => false))
      if held || decide (s.slot < j.since) then s
      else if b.active = some ctx then s.freezeRb c kTABLE true 0 0
      else s.modCore c (fun x => x.modRb (fun b => { b with load := some (ctx, n) }))
    | _ => s
  | _, _ => s

/-- RB_LOAD_CELL: the load path takes the DATA heads of this clock, lower port first. -/
def execRbLoadCell (c : CoreId) (s : State) : Out :=
  if (s.core c).rb.off s.slot then .next s
  else
    let s := s.rbStartLoad c
    .next (if (s.core c).rb.frozen.isSome then s else s.rbTake c 0 4)

/-- RB_LOAD_DONE: the last load cell is written; from the next clock the context is LOADED and the tag is set. -/
def execRbLoadDone (c : CoreId) (s : State) : Out :=
  let b := (s.core c).rb
  match b.load, b.loadJob? with
  | some (ctx, 0), some j =>
    if b.off s.slot then .next s
    else
      let s := s.modCore c (fun x =>
        let x := match j.tag with | some t => x.tagSoon t | none => x
        x.modRb (fun b => { b with
          load := none, states := b.states.set ctx.val .loaded ctx.isLt
          jobs := b.jobs.map (fun e => if e.kind = .ctx ctx then { e with since := max e.since (s.slot + 1) } else e) }))
      .next (s.rbDone c j.seq)
  | _, _ => .next s

/-! ## The run path: input (R292, R295) -/

def modeNp (m : BitVec 8) : Nat := getBits m 5 3 + 1
def modeKind (m : BitVec 8) : Nat := getBits m 3 2

/-- WriteInput of R292. -/
def Rb.writeInput (b : Rb) (port : Nat) (y : Cell) : Rb :=
  let m := vget b.modes port 0
  let k := y.h.key.toNat
  let base := k % 2048
  let j := k / 2048 % 8
  if modeKind m = 0 then b.setWire base y.data
  else
    (List.range (modeNp m)).foldl (fun b p =>
      let bits := (List.range 256).foldl (fun n i => n + getBits y.data (8 * i + p) 1 * 2 ^ i) 0
      b.setWire (base + p) (setBits (b.wire (base + p)) (256 * j) 256 bits)) b

/-- The wire words that an input cell writes whole (R292). -/
def inputSpots (c : CoreId) (m : BitVec 8) (y : Cell) : List Spot :=
  let k := y.h.key.toNat
  if modeKind m = 0 then wireSpots c k 0 32
  else (List.range (modeNp m)).flatMap (fun p => wireSpots c (k % 2048 + p) (4 * (k / 2048 % 8)) 4)

/-- Take the heads of the RBIN ports from number q on, n ports, while the run wants input; other classes freeze the unit at any time. [log entry 125, DEDUCED] -/
def State.rbInput (s : State) (c : CoreId) (q n : Nat) : State :=
  match n with
  | 0 => s
  | n + 1 =>
    let x := s.core c
    let p := 88 + q
    match x.head? s.slot p 0 with
    | none => s.rbInput c (q + 1) n
    | some y =>
      if ((x.egAt p).chan 0).moved || y.h.tag == tDRN then s.rbInput c (q + 1) n
      else if y.h.tag ≠ tDATA then s.freezeRbCell c p false y
      else match x.rb.phase with
        | .input (left + 1) =>
          let s := (s.clearSpots (inputSpots c (vget x.rb.modes q 0) y)).modCore c (fun x => x.modRb (fun b => { (b.writeInput q y) with
            phase := .input left, took := true, inCells := b.inCells + 1 }))
          (s.popHead c p 0).rbInput c (q + 1) n
        | _ => s.rbInput c (q + 1) n

/-- A run begins on the active context in the clock after the previous job has finished (R295, R299). -/
def Rb.startRun (b : Rb) (slot : Nat) : Rb :=
  match b.phase, b.runJob? with
  | .idle, some j =>
    match j.kind, b.active with
    | .run batch, some ctx =>
      if slot < j.since ∨ slot < b.since then b
      else
        let x := b.ctx ctx
        { b with
          phase := if x.nin = 0 then .eval 0 else .input x.nin, evalAt := 0, staged := []
          runCtx := ctx, batch := if batch = 0 then x.batch else batch, took := false }
    | _, _ => b
  | _, _ => b

/-- RB_INPUT: a run begins or goes on with its INPUT phase; EVAL follows in the next clock. The run reads its context's header as it
begins; a fault of that read comes before the run has begun. [log entry 131, DESIGN CHOICE] -/
def execRbInput (c : CoreId) (s : State) : Out :=
  let b := (s.core c).rb
  let r := b.startRun s.slot
  if b.off s.slot then .next s
  else if b.phase = .idle ∧ r.phase ≠ .idle ∧ s.fatalAt [.context c r.runCtx 1024] = true then .next (s.freezeRb c kECC false 0 0)
  else
    let s := s.modCore c (fun x => x.modRb (fun b => b.startRun s.slot))
    let s := s.rbInput c 0 4
    .next (s.modCore c (fun x => x.modRb (fun b => match b.phase with
      | .input 0 => { b with phase := .eval 0, since := s.slot + 1 }
      | _ => b)))

/-! ## Evaluation (R289) -/

/-- One record over lanes 256 g to 256 g + 255 of a batch. -/
def Rb.evalRecord (b : Rb) (rec : Nat) (g batch : Nat) : Rb :=
  let t := rec % 2 ^ 64
  let ins := (List.range 6).map (fun k =>
    let f := rec / 2 ^ (64 + 16 * k) % 2 ^ 16
    if f / 2 ^ 15 = 1 then 0 else getBits (b.wire (f % 2048)) (256 * g) 256)
  let out := rec / 2 ^ 160 % 2048
  let v := (List.range 256).foldl (fun n i =>
    if 256 * g + i < batch then
      let idx := (List.range 6).foldl (fun m k => m + ins.getD k 0 / 2 ^ i % 2 * 2 ^ k) 0
      n + t / 2 ^ idx % 2 * 2 ^ i
    else n) 0
  b.setWire out (setBits (b.wire out) (256 * g) 256 v)

/-- What record r of a context reads in lane group g of a run: itself, and of each used input wire the words of the group that hold lanes below the
batch size (R286). -/
def recordSpots (c : CoreId) (ctx : Fin 8) (r rec g batch : Nat) : List Spot :=
  .context c ctx r :: (List.range 6).flatMap (fun k =>
    let f := rec / 2 ^ (64 + 16 * k) % 2 ^ 16
    if f / 2 ^ 15 = 1 then [] else wireSpots c f (4 * g) (min 4 ((batch + 63) / 64 - 4 * g)))

/-- The wire that a record writes. -/
def recordOut (rec : Nat) : Nat := rec / 2 ^ 160 % 2048

/-- Of the places that a record reads, those that it reads from the wire buffer: not the wires that earlier records of the lane group have written, whose
values are held (R302). [log entry 119, DEDUCED] -/
def bufferReads (outs : List Nat) (l : List Spot) : List Spot :=
  l.filter (fun p => match p with | .wire _ n => !outs.contains (n / 32) | _ => true)

/-- The unit as the records already evaluated of a lane group leave it. [log entry 119, DEDUCED] -/
def Rb.worked (b : Rb) : Rb := b.staged.foldl (fun b y => b.setWire y.1 y.2) b

/-- The records of lane group g from r on, n of them, in order, on w, the unit as the earlier ones have left it; outs are the wires that they have
written. With the last record the group is written. The first that reads an uncorrectable word freezes the unit: nothing of the group is written,
what the earlier records gave is held, and RESUME goes on there (R302). [log entry 119, DEDUCED] -/
def State.rbEval (s : State) (c : CoreId) (g r n : Nat) (w : Rb) (outs : List Nat) : State :=
  match n with
  | 0 =>
    (s.clearSpots (outs.flatMap (fun o => wireSpots c o (4 * g) 4))).modCore c (fun x => x.modRb (fun b => { b with wires := w.wires, staged := [] }))
  | n + 1 =>
    let b := (s.core c).rb
    let rec_ := (b.ctx b.runCtx).record r
    let spots := bufferReads outs (recordSpots c b.runCtx r rec_ g b.batch)
    if s.fatalAt spots then
      (s.freezeRb c kECC false r 0).modCore c (fun x => x.modRb (fun b => { b with evalAt := r, staged := outs.map (fun o => (o, w.wire o)) }))
    else
      (s.rbReads c spots).rbEval c g (r + 1) n (w.evalRecord rec_ g b.batch)
        (if outs.contains (recordOut rec_) then outs else outs ++ [recordOut rec_])

/-- RB_EVAL_GROUP: one EVAL clock; after the eighth the outputs begin. -/
def execRbEvalGroup (c : CoreId) (s : State) : Out :=
  let b := (s.core c).rb
  match b.phase with
  | .eval g =>
    if b.off s.slot = true ∨ s.slot < b.since then .next s
    else
      let s := s.rbEval c g b.evalAt ((b.ctx b.runCtx).nl - b.evalAt) b.worked (b.staged.map (fun y => y.1))
      if (s.core c).rb.frozen.isSome then .next s
      else .next (s.modCore c (fun x => x.modRb (fun b =>
        { b with phase := if g = 7 then .output (Vector.replicate 4 0) else .eval (g + 1), evalAt := 0, since := s.slot + 1 })))
  | _ => .next s

/-! ## Output (R293) -/

/-- Cells that RBOUTk emits in a run. -/
def Rb.outTotal (b : Rb) (k : Nat) : Nat :=
  let x := b.ctx b.runCtx
  if modeKind (vget b.modes (4 + k) 0) = 0 then x.onum k else x.onum k * ((b.batch + 255) / 256)

/-- Cell i of RBOUTk: KEY and payload. -/
def Rb.outCell (b : Rb) (k i : Nat) : Key × Payload :=
  let x := b.ctx b.runCtx
  let m := vget b.modes (4 + k) 0
  if modeKind m = 0 then
    let w := (x.obase k + i) % 2048
    (BitVec.ofNat 16 w, BitVec.ofNat 2048 ((b.wire w).toNat % 2 ^ b.batch))
  else
    let nb := (b.batch + 255) / 256
    let f := i / nb
    let j := i % nb
    let np := modeNp m
    let base := (x.obase k + np * f) % 2048
    let byte (q : Nat) : Nat :=
      let t := 256 * j + q
      if b.batch ≤ t then 0
      else
        let u := (List.range np).foldl (fun n p => n + getBits (b.wire (base + p)) t 1 * 2 ^ p) 0
        if modeKind m = 2 ∧ u / 2 ^ (np - 1) % 2 = 1 then u + (2 ^ 8 - 2 ^ np) else u
    (BitVec.ofNat 16 (base + 2048 * j), ofLanes 8 256 byte)

/-- What cell i of RBOUTk reads: its context's header, and the words of its wires that hold lanes below the batch size. -/
def Rb.outSpots (b : Rb) (c : CoreId) (k i : Nat) : List Spot :=
  let x := b.ctx b.runCtx
  let m := vget b.modes (4 + k) 0
  let nb := (b.batch + 255) / 256
  .context c b.runCtx 1024 :: (
    if modeKind m = 0 then wireSpots c (x.obase k + i) 0 ((b.batch + 63) / 64)
    else (List.range (modeNp m)).flatMap (fun p =>
      wireSpots c (x.obase k + modeNp m * (i / nb) + p) (4 * (i % nb)) (min 4 ((b.batch + 63) / 64 - 4 * (i % nb)))))

/-- Ports RBOUTk from k on, n of them, put a cell each into their buffers; one that would read an uncorrectable word freezes the unit
(R293, R302). -/
def State.rbEmit (s : State) (c : CoreId) (k n : Nat) : State :=
  match n with
  | 0 => s
  | n + 1 =>
    let x := s.core c
    match x.rb.phase, boundEntry? (vget x.cfg.portbind (8 + k) 0) with
    | .output sent, some e =>
      let i := vget sent k 0
      if i < x.rb.outTotal k ∧ 0 < x.obufFree (88 + k) then
        let spots := x.rb.outSpots c k i
        if s.fatalAt spots then s.freezeRb c kECC false 0 0
        else
          let y := x.rb.outCell k i
          ((s.rbReads c spots).modCore c (fun x =>
            (x.modRb (fun b => { b with phase := .output (vset sent k (i + 1)), outCells := b.outCells + 1 })).offer (88 + k)
              { offerEntry e tDATA y.1 y.2 with since := s.slot + 1 })).rbEmit c (k + 1) n
      else s.rbEmit c (k + 1) n
    | _, _ => s.rbEmit c (k + 1) n

/-- The output ports of a run that have cells and no binding. -/
def Core.rbUnbound (x : Core) : Bool :=
  (List.range 4).any (fun k => decide (0 < (x.rb.ctx x.rb.runCtx).onum k) && (boundEntry? (vget x.cfg.portbind (8 + k) 0)).isNone)

/-- RB_OUTPUT: each port with cells left puts one into its output buffer; an unbound one freezes the unit before it emits. -/
def execRbOutput (c : CoreId) (s : State) : Out :=
  let x := s.core c
  match x.rb.phase with
  | .output sent =>
    if x.rb.off s.slot = true ∨ s.slot < x.rb.since then .next s
    else if (List.range 4).all (fun k => decide (x.rb.outTotal k ≤ vget sent k 0)) then .next s
    else if x.rbUnbound then .next (s.freezeRb c kPORT false 0 0)
    else .next ((s.rbEmit c 0 4).modCore c (fun x => x.modRb (fun b => { b with since := s.slot + 1 })))
  | _ => .next s

/-- RB_RUN_DONE: the run's last cells are in their buffers: its layer boundary; its tag sets in the next clock (R295). -/
def execRbRunDone (c : CoreId) (s : State) : Out :=
  let b := (s.core c).rb
  match b.phase, b.runJob? with
  | .output sent, some j =>
    if b.off s.slot = false ∧ (List.range 4).all (fun k => decide (b.outTotal k ≤ vget sent k 0)) then
      let s := s.modCore c (fun x =>
        let x := match j.tag with | some t => x.tagSoon t | none => x
        x.modRb (fun b => { b with phase := .idle, runs := b.runs + 1, since := s.slot + 1, runEnd := s.slot + 1, took := false }))
      .next (s.rbDone c j.seq)
    else .next s
  | _, _ => .next s

/-! ## Context switches and modes (R298, R300, R383) -/

/-- RB_CONTEXT_SWITCH: a current RBCTX takes effect in the first clock in which its context is LOADED by the loads issued before it; one issued after
it, which waits for it, does not hold it (R294, R298). -/
def execRbContextSwitch (c : CoreId) (s : State) : Out :=
  let b := (s.core c).rb
  match b.phase, b.runJob? with
  | .idle, some j =>
    match j.kind with
    | .ctx ctx =>
      let loads := b.jobs.any (fun e => decide (e.seq < j.seq) && (match e.kind with | .load k _ => k == ctx | _ => false))
      if b.off s.slot = true ∨ s.slot < j.since ∨ s.slot < b.since ∨ loads ∨ b.states[ctx] = .empty then .next s
      else .next ((s.modCore c (fun x => x.modRb (fun b => { b with active := some ctx, since := s.slot + 1 }))).rbDone c j.seq)
    | _ => .next s
  | _, _ => .next s

/-- RB_MODE_APPLY: a current mode change takes effect. -/
def execRbModeApply (c : CoreId) (s : State) : Out :=
  let b := (s.core c).rb
  match b.phase, b.runJob? with
  | .idle, some j =>
    match j.kind with
    | .mode w =>
      if b.off s.slot = true ∨ s.slot < j.since ∨ s.slot < b.since then .next s
      else .next ((s.modCore c (fun x => x.modRb (fun b => { b with modes := vset b.modes (w.toNat % 8) w, since := s.slot + 1 }))).rbDone c j.seq)
    | _ => .next s
  | _, _ => .next s

/-! ## Drain tokens (R296) -/

/-- The bound input ports: the RBIN ports that the active drain list names. -/
def Core.rbBound (x : Core) : List Nat :=
  ((x.cfg.drain.map (fun d => d.out.toNat)).filter (fun p => decide (88 ≤ p ∧ p ≤ 91))).eraseDups

/-- RB_PASS_BOUNDARY: the bound ports hold their tokens and no run has taken part of its input, evaluates or puts out, or did so until this clock
(R296). -/
def execRbPassBoundary (c : CoreId) (s : State) : Out :=
  let x := s.core c
  let ports := x.rbBound
  let heads := ports.all (fun p => !((x.egAt p).chan 0).moved && (match x.head? s.slot p 0 with | some y => y.h.tag == tDRN | none => false))
  let quiet := decide (x.rb.runEnd ≤ s.slot) && match x.rb.phase with | .idle => true | .input _ => !x.rb.took | _ => false
  let outs := (List.range 4).filterMap (fun k => (boundEntry? (vget x.cfg.portbind (8 + k) 0)).map (fun e => (k, e)))
  let room := outs.all (fun y => decide (0 < x.obufFree (88 + y.1)))
  if !x.rb.off s.slot && !ports.isEmpty && heads && quiet && room then
    let s := ports.foldl (fun s p => s.popHead c p 0) s
    .next (s.modCore c (fun x =>
      let x := outs.foldl (fun x y => x.offer (88 + y.1) { offerEntry y.2 tDRN 0 0 with since := s.slot + 1 }) x
      (x.modRb (fun b => { b with passes := b.passes + 1 })).cross 129))
  else .next s

/-- RB_DRN_DISCARD: a DRN at an RBTL port, or at an RBIN port that is not bound, is consumed and discarded. -/
def execRbDrnDiscard (c : CoreId) (p : PortId) (s : State) : Out :=
  let x := s.core c
  match x.head? s.slot p.val 0 with
  | none => .next s
  | some y =>
    let mine := (92 ≤ p.val && p.val ≤ 95) || (88 ≤ p.val && p.val ≤ 91 && !x.rbBound.contains p.val)
    if mine && y.h.tag == tDRN && !x.rb.off s.slot && !((x.egAt p.val).chan 0).moved then .next (s.popHead c p.val 0) else .next s

/-! ## RBSTAT (R301) -/

def CtxState.code (k : CtxState) : Nat := match k with | .empty => 0 | .loading => 1 | .loaded => 2

def Core.rbstat (x : Core) (sel : Nat) : Word :=
  let b := x.rb
  match sel with
  | 0 =>
    let left := match b.phase with | .input n => n | _ => 0
    BitVec.ofNat 64 (b.jobs.length + 16 * b.frozen.isSome.toNat + 32 * b.phaseCode +
      (match b.active with | some k => 2 ^ 7 * k.val + 2 ^ 10 | none => 0) + 2 ^ 11 * left +
      (match b.load with | some (k, _) => 2 ^ 26 + 2 ^ 27 * k.val | none => 0))
  | 1 => BitVec.ofNat 64 ((List.range 8).foldl (fun n i => n + (vget b.states i .empty).code * 4 ^ i) 0)
  | 2 => b.runs
  | 3 => b.inCells
  | 4 => b.outCells
  | 5 => BitVec.ofNat 64 ((List.range 8).foldl (fun n i => n + (vget b.modes i 0).toNat * 256 ^ i) 0)
  | _ => 0

def execRbstat (a : BitVec 5) (k : BitVec 4) (s : State) : Out := .next (s.put a (s.atStart.myCore.rbstat k.toNat))

end Sys2Proof.Machine
end

