-- ==== Sys2Proof/Machine/Ctl.lean ====
section
/-! DEFINITION. The controller forms that act on other units: TLBINV (R112, R225, R256), RESUME (R113), KILL (R114); and the end of a
descriptor read (R161, R200, R230, R306). -/

namespace Sys2Proof.Machine

/-! ## TLBINV -/

/-- Whether an entry translates a byte of a tenant's range. -/
def Xlat.meets (e : Xlat) (ten : Tenant) (lo hi : Nat) : Bool :=
  let size := if e.block then 2 ^ 29 else 2 ^ 16
  e.ten == ten && decide (e.no * size < hi ∧ lo < (e.no + 1) * size)

def Strm.meets (y : Strm) (ten : Tenant) (lo hi : Nat) : Bool := y.extents.any (fun e => e.meets ten lo hi)

/-- Change every core that runs a task of a tenant. -/
def State.onTenant (s : State) (ten : Tenant) (f : Core → Core) : State :=
  (List.finRange 64).foldl (fun s c =>
    match s.taskOf c with
    | some t => if t.lrec.tenant = ten then s.modCore c f else s
    | none => s) s

/-- A running generator with an extent in the range pauses (R225). [log entry 65, DEDUCED] -/
def Core.pauseStrms (x : Core) (ten : Tenant) (lo hi : Nat) : Core :=
  { x with strms := x.strms.map (fun y => if y.st = .running ∧ y.meets ten lo hi then { y with st := .paused } else y) }

/-- TLBINV: a controller form; an empty range completes at once, else the thread parks (R112). [log entry 65, DEDUCED] -/
def execTlbinv (d a b : BitVec 5) (s : State) : Out :=
  let ten : Tenant := (s.me.rd d).setWidth 6
  let lo := (vaOf (s.me.rd a)).toNat
  let n := (s.me.rd b).toNat
  let hi := min (lo + n) (2 ^ 55)
  .next (s.controller (.tlbinv d a b) (
    if n = 0 then s.skip
    else (s.onTenant ten (fun x => x.pauseStrms ten lo hi)).parkMe (.tlbinv ten lo hi)))

/-- The ranges that parked TLBINVs other than one thread's still wait for. -/
def State.otherInvs (s : State) (c : CoreId) (t : Tid) : List (Tenant × Nat × Nat) :=
  (List.finRange 64).flatMap (fun k => (List.finRange 16).filterMap (fun j =>
    if k = c ∧ j = t then none
    else match (s.thr k j).st, (s.thr k j).pend with
      | .parked, .tlbinv ten lo hi => some (ten, lo, hi)
      | _, _ => none))

/-- Whether a core has performed every store, AMO and stream write that an entry of the range translated: a page that the range meets, or
any page of a block whose entry the core holds and drops (R256). -/
def Core.invDone (x : Core) (ten : Tenant) (lo hi : Nat) : Bool :=
  let hit (va : Nat) : Bool :=
    decide (va / 2 ^ 16 * 2 ^ 16 < hi ∧ lo < (va / 2 ^ 16 + 1) * 2 ^ 16) || x.tlb.any (fun e => e.meets ten lo hi && e.meets ten va (va + 1))
  x.wbuf.all (fun b => !hit b.va) &&
    x.threads.toList.all (fun t => match t.pend with
      | .store va _ _ _ => !hit va
      | .amo _ _ false _ _ _ _ _ va => !hit va
      | _ => true) &&
    x.strms.toList.all (fun y => !(y.meets ten lo hi) || y.writes.isEmpty)

/-- A core drops the translations of the range; its paused generators run again unless another TLBINV holds them (R225). -/
def Core.dropXlat (x : Core) (ten : Tenant) (lo hi : Nat) (others : List (Tenant × Nat × Nat)) : Core :=
  { x with
    tlb := x.tlb.filter (fun e => !e.meets ten lo hi)
    splices := x.splices.map (fun z => { z with extents := z.extents.filter (fun e => !e.meets ten lo hi) })
    strms := x.strms.map (fun y =>
      let z := { y with extents := y.extents.filter (fun e => !e.meets ten lo hi) }
      if z.st = .paused ∧ others.all (fun o => !z.meets o.1 o.2.1 o.2.2) then { z with st := .running } else z) }

/-- TLBINV_COMPLETE: the thread's own stores and every access by the old entries are performed; the translations go (R112, R256). -/
def execTlbinvComplete (c : CoreId) (t : Tid) (s : State) : Out :=
  match (s.thr c t).st, (s.thr c t).pend with
  | .parked, .tlbinv ten lo hi =>
    let mine := (List.finRange 64).filter (fun k => match s.taskOf k with | some z => z.lrec.tenant == ten | none => false)
    if (s.core c).storesDone t && mine.all (fun k => (s.core k).invDone ten lo hi) then
      let others := s.otherInvs c t
      .next ((s.onTenant ten (fun x => x.dropXlat ten lo hi others)).finish c t id)
    else .next s
  | _, _ => .next s

/-! ## RESUME (R113) -/

/-- The unit's core and kind, and its index (R334). -/
def uidCore (u : Nat) : CoreId := Fin.ofNat 64 (u / 67108864)
def uidKind (u : Nat) : Nat := u / 4194304 % 16
def uidIndex (u : Nat) : Nat := u % 4194304

/-- How many bits of INDEX a KIND uses; it ignores the others (R334). -/
def uidBits (kind : Nat) : Nat :=
  match kind with
  | 0 => 7 | 1 => 0 | 2 => 0 | 3 => 4 | 4 => 5 | 5 => 19 | 6 => 9 | 7 => 4 | 8 => 4 | 9 => 3 | 10 => 8 | 11 => 0 | 12 => 5 | 13 => 8 | 14 => 0
  | _ => 22

/-- Whether two identifiers name one unit: core, KIND and the bits of INDEX that KIND uses (R334). -/
def sameUnit (u v : BitVec 32) : Bool :=
  uidCore u.toNat == uidCore v.toNat && uidKind u.toNat == uidKind v.toNat &&
    uidIndex u.toNat % 2 ^ uidBits (uidKind u.toNat) == uidIndex v.toNat % 2 ^ uidBits (uidKind v.toNat)

/-- Drop the cells that a frozen engine discards at RESUME: the heads of its ports that gave a PORT fault (R165, R302). A discarded load cell is none of its
load's cells. [log entry 159, DESIGN CHOICE] -/
def State.dropBad (s : State) (c : CoreId) (ports : List Nat) : State :=
  ports.foldl (fun s p =>
    match ((s.core c).egAt p).badCell with
    | some _ => (s.modCore c (fun x => x.modEg p (fun g => { g with badCell := none }))).popHead c (chanPort p) 0
    | none => s) s

/-- An ingress port goes on, from the next slot (R128, R198). [log entry 67, DEDUCED] -/
def Core.thaw (x : Core) (p : Nat) : Core := x.modIng p (fun g => if g.frozen.isSome then { g with frozen := none, took := true } else g)

/-- The ports of a unit go on with it. -/
def Core.thawAll (x : Core) (l : List Nat) : Core := l.foldl (fun x p => x.thaw p) x

/-- A port unit: its ingress side, its rendezvous buffer, and the element, bank or race unit on it (R184, R198). The unit acts from the next
slot (R128); what the Weir delivers to the port goes on at once. [log entry 67, DEDUCED] -/
def State.resumePort (s : State) (c : CoreId) (p : Nat) : State :=
  let g := (s.core c).egAt p
  let s := match g.frozen, g.badCell with
    | some _, some y => if isElemPort p then s.consume c y else s
    | _, _ => s
  s.modCore c (fun x =>
    let x := (x.thaw p).modEg p (fun g => if g.frozen.isSome then { g with
      frozen := none, badCell := none, rdvStall := 0
      pending := if (g.badCell.map (fun y => y.m.pend)).getD false && g.pending != 0 then g.pending - 1 else g.pending } else g)
    if isElemPort p then x.modElem (elemOfPort p) (fun e => if e.frozen.isSome then { e with frozen := none, acted := some s.slot } else e)
    else if isBankPort p then x.modBank p (fun b => if b.frozen.isSome then { b with frozen := none, served := true } else b)
    else if p = 116 ∨ p = 117 then x.modRace (Fin.ofNat 2 (p - 116)) (fun r => if r.frozen.isSome then { r with frozen := none, goAt := s.slot + 1 } else r)
    else x)

/-- A frozen stream restarts at the access that faulted (R227); a load whose image failed starts afresh (R222). Its loader or storer reads and
writes from the next slot on; a bank's generator at once. [log entry 67, DEDUCED] -/
def Core.resumeStrm (x : Core) (k : StrmId) (slot : Nat) : Core :=
  let y := x.strms[k]
  if y.st = .frozen then
    let x := if y.kind.isSource then x.thaw y.srcPort else x
    let cfg := match y.fault with | some (code, _) => code == kCFG | none => false
    let x := if cfg then x.modSlot y.cfgSlot (fun g => { g with st := .loading }) else x
    let fresh (n : Nat) : Nat := if cfg then 0 else n
    ((x.modStrm k (fun z => { z with
      st := .running, fault := none, cfgPhase := fresh z.cfgPhase, cfgAsked := fresh z.cfgAsked, img := if cfg then [] else z.img })).loaderUsed
        y.loader slot).storerUsed y.storer slot
  else x

/-- A loop budget and the ports that froze on it start afresh (R187). -/
def Core.resumeLoop (x : Core) (l : LoopId) : Core :=
  let x := (List.range 128).foldl (fun x p =>
    match (x.ingAt p).frozen with
    | some f => if f.kind = kLOOP ∧ ((x.ingAt p).waiting.map (fun w => w.loop)) = some l then x.thaw p else x
    | none => x) x
  x.modLoop l.val (fun b => { b with frozen := false, stall := 0 })

/-- A frozen thread is READY at its EPC. [log entry 67, DEDUCED] -/
def Thread.resume (t : Thread) (slot : Nat) : Thread := if t.st = .frozen then { (t.wake slot) with pc := t.epc } else t

/-- Unfreeze a unit; one that is not frozen stays as it is. The matrix engine and the Reedbed act from the next slot on. [log entry 66, DEDUCED; log
entry 67, DEDUCED] -/
def State.resumeUnit (s : State) (c : CoreId) (kind idx : Nat) : State :=
  match kind with
  | 0 => s.resumePort c (idx % 128)
  | 1 =>
    if (s.core c).me.frozen.isSome then
      (s.dropBad c [80, 82, 83, 84, 85, 86, 87]).modCore c (fun x =>
        (x.modMe (fun m => { m with frozen := none, goAt := s.slot + 1 })).thawAll [80, 81, 82, 83, 84, 85, 86, 87])
    else s
  | 2 =>
    if (s.core c).rb.frozen.isSome then
      (s.dropBad c [88, 89, 90, 91, 92, 93, 94, 95]).modCore c (fun x =>
        (x.modRb (fun b => { b with frozen := none, goAt := s.slot + 1 })).thawAll [88, 89, 90, 91])
    else s
  | 3 => s.modThr c (Fin.ofNat 16 idx) (fun t => t.resume s.slot)
  | 4 => s.modCore c (fun x => x.resumeStrm (Fin.ofNat 32 idx) s.slot)
  | 7 => s.modCore c (fun x => x.resumeLoop (Fin.ofNat 16 idx))
  | _ => s

/-- Whether a core serves a tenant other than the executing thread's. -/
def State.foreign (s : State) (c : CoreId) : Bool :=
  match s.taskOf c with
  | some t => t.lrec.tenant != s.tenantOf s.cur.1
  | none => false

/-- PROT of RESUME, KILL, STEP and WALK: EVAL holds Ga in bits 54:0, kind 0 (R113). -/
def State.unitProt (s : State) (a : BitVec 5) : State := s.accTrap kPROT (vaOf (s.me.rd a)).toNat .read

/-- Whether a task is being stopped. -/
def TaskPhase.stopped (p : TaskPhase) : Bool := match p with | .stopping _ _ | .ending | .ended => true | _ => false

/-- RESUME: a controller form (R113); a KILL of the unit's task prevails. [log entry 66, DEDUCED] -/
def execResume (a : BitVec 5) (s : State) : Out :=
  let u := (s.me.rd a).toNat % 2 ^ 32
  let c := uidCore u
  let gone := match s.taskOf c with | some t => t.phase.stopped | none => true
  .next (s.controller (.resume a) (
    if s.foreign c then s.unitProt a
    else if gone then s.skip
    else if uidKind u = 3 ∧ c = s.cur.1 ∧ Fin.ofNat 16 (uidIndex u) = s.cur.2 then s.skip
    else (s.resumeUnit c (uidKind u) (uidIndex u)).skip))

/-! ## KILL (R114) -/

/-- A task begins to stop, in the slot after (R356). -/
def State.stopTask (s : State) (id : TaskId) (kind : BitVec 8) : State :=
  s.modTask id (fun t => if t.phase.stopped then t else { t with phase := .stopping kind s.slot, clockEnd := s.slot })

/-- KILL: a controller form; no effect on a task that no longer runs, PROT on another tenant's (R114). [log entry 86, DEDUCED] -/
def execKill (a : BitVec 5) (s : State) : Out :=
  let id : TaskId := (s.me.rd a).setWidth 32
  .next (s.controller (.kill a) (
    match s.taskById id with
    | none => s.skip
    | some t =>
      if t.phase.stopped then s.skip
      else if t.lrec.tenant ≠ s.tenantOf s.cur.1 then s.unitProt a
      else (s.stopTask id 0).skip))

/-! ## Descriptor reads -/

/-- The bytes of a descriptor. -/
def Desc.size (d : Desc) : Nat := match d with | .rtset _ => 32 | .mxadp _ _ => 32 | .oxdecl _ => 128 | .sedge _ _ => 64

/-- DESCRIPTOR_READ_DONE: the read of a parked RTSET, MXADP, OXDECL or SEDGE completes and the instruction has its effect; an
uncorrectable error in what it read is a precise trap (R258). -/
def execDescriptorReadDone (c : CoreId) (t : Tid) (s : State) : Out :=
  match (s.thr c t).st, (s.thr c t).pend with
  | .parked, .desc what pa word =>
    if s.hbmBad pa what.size then .next (s.trapAt c t kECC (accessEval (pa / 64 * 64) .read) (s.thr c t).pc)
    else
      let s := s.softHbm pa what.size
      .next (match what with
      | .rtset e => s.rtsetRead c t e pa
      | .mxadp slot id => s.mxadpRead c t slot id pa
      | .oxdecl g => s.oxdeclRead c t g pa word
      | .sedge g tag => s.sedgeRead c t g tag pa word)
  | _, _ => .next s

end Sys2Proof.Machine
end

