-- ==== Sys2Proof/Machine/Counters.lean ====
section
/-! DEFINITION. Tags (R327, R328), groups and the other THR forms (R329-R333), unit identifiers and counts (R334-R337), deadline gates
(R338), trace records (R339), STEP and the in-flight table (R342, R343). -/

namespace Sys2Proof.Machine

/-! ## Tags (R328) -/

/-- The bits of TB that a mask selects. -/
def State.tagBits (s : State) (a : BitVec 5) : Word := s.myCore.tb &&& s.me.rd a

def execTwaitany (d a : BitVec 5) (s : State) : Out :=
  .next (if s.me.rd a = 0 then s.put d 0
    else if s.tagBits a ≠ 0 then s.put d (s.tagBits a) else s.parkMe (.tagAny d (s.me.rd a)))

def execTwaitall (a : BitVec 5) (s : State) : Out :=
  .next (if s.tagBits a = s.me.rd a then s.skip else s.parkMe (.tagAll (s.me.rd a)))

/-- The lowest set bit's number; 64 for none. -/
def lowBit (w : Word) : Nat := ((List.range 64).find? (fun i => w.getLsbD i)).getD 64

def execTffr (d a : BitVec 5) (s : State) : Out :=
  let w := s.tagBits a
  .next (if w = 0 then s.put d 64
    else (s.modCore s.cur.1 (fun x => { x with tbClr := x.tbClr ||| (1#64 <<< lowBit w) })).put d (BitVec.ofNat 64 (lowBit w)))

def execTclr (a : BitVec 5) (s : State) : Out :=
  let m := s.me.rd a
  .next ((s.modCore s.cur.1 (fun x => { x with tbClr := x.tbClr ||| m })).skip)

def execTtest (d : BitVec 3) (a : BitVec 5) (s : State) : Out := .next (s.putP d (s.tagBits a != 0))

/-- TAG_WAIT_SATISFIED: TB at the start of the slot meets the condition, and the thread is READY in the next one (R328). -/
def execTagWaitSatisfied (c : CoreId) (t : Tid) (s : State) : Out :=
  let tb := (s.core c).tb
  match (s.thr c t).st, (s.thr c t).pend with
  | .parked, .tagAny d m => .next (if tb &&& m ≠ 0 then s.finish c t (fun th => th.wr d (tb &&& m)) else s)
  | .parked, .tagAll m => .next (if tb &&& m = m then s.finish c t id else s)
  | _, _ => .next s

/-! ## Groups (R329-R332) -/

/-- A thread's module-wide number. -/
def threadNo (c : CoreId) (t : Tid) : Nat := c.val * 16 + t.val

def Group.word (g : Group) : Word :=
  BitVec.ofNat 64 (g.members.length % 2048 + 2 ^ 16 * (g.arrived.length % 2048) + 2 ^ 32 * g.phase.toNat)

/-- The open phase completes (R330). -/
def Group.close (g : Group) : Group := { g with arrived := [], phase := g.phase + 1 }
def Group.join (g : Group) (n : Nat) : Group := if g.members.contains n then g else { g with members := g.members ++ [n] }
/-- LEAVE of a member, with the completion that it may bring. -/
def Group.leave (g : Group) (n : Nat) : Group :=
  if g.members.contains n then
    let y := { g with members := g.members.filter (fun m => m != n), arrived := g.arrived.filter (fun m => m != n) }
    if y.members.isEmpty || y.arrived.length == y.members.length then y.close else y
  else g
/-- The arrival of a member that has not arrived in the open phase. [log entry 124, DEDUCED] -/
def Group.arrive (g : Group) (n : Nat) : Group :=
  if g.members.contains n && !g.arrived.contains n then
    let y := { g with arrived := g.arrived ++ [n] }
    if y.arrived.length == y.members.length then y.close else y
  else g

def Task.group (t : Task) (g : Nat) : Group := Sparse.getD t.groups g {}
def Task.setGroup (t : Task) (g : Nat) (y : Group) : Task := { t with groups := Sparse.set t.groups g y }

/-- Threads that wait for a phase of the task's groups that has completed are READY in the next slot (R330). -/
def State.wakeGroups (s : State) (id : TaskId) : State :=
  match s.taskById id with
  | none => s
  | some k =>
    k.cores.foldl (fun s c => (List.finRange 16).foldl (fun s t =>
      match (s.thr c t).st, (s.thr c t).pend with
      | .parked, .gwait g q => if (k.group g).phase = q then s else s.finish c t (fun th => th)
      | _, _ => s) s) s

/-- A thread that has left its groups is IDLE; with the task's last thread its split stages begin to merge (R317, R332). [log entry 91, DEDUCED] -/
def State.threadExit (s : State) (c : CoreId) (t : Tid) : State :=
  let s := s.modThr c t (fun th => { th with st := .idle, pend := .none, arm := none })
  match s.taskOf c with
  | none => s
  | some k =>
    if k.cores.all (fun c => (List.finRange 16).all (fun t => (s.thr c t).st == .idle)) then k.cores.foldl (fun s c => s.mergeAll c) s
    else s

/-- A group operation takes effect on the table of the thread's task (R331). -/
def State.groupOp (s : State) (c : CoreId) (t : Tid) (k : Task) (op : GroupOp) (g : Nat) (d : BitVec 5) : State :=
  let n := threadNo c t
  let id := k.lrec.id
  let y := k.group g
  match op with
  | .join =>
    let z := y.join n
    (s.modTask id (fun k => k.setGroup g z)).finish c t (fun th => th.wr d z.word)
  | .leave => ((s.modTask id (fun k => k.setGroup g (y.leave n))).wakeGroups id).finish c t (fun th => th)
  | .arrive =>
    ((s.modTask id (fun k => k.setGroup g (y.arrive n))).wakeGroups id).finish c t (fun th => { th with arm := some (g, y.phase) })
  | .gsize => s.finish c t (fun th => th.wr d y.word)
  | .exit =>
    let s := s.modTask id (fun k => { k with groups := k.groups.map (fun z => (z.1, z.2.leave n)) })
    (s.wakeGroups id).threadExit c t
  | .gwait =>
    let armed := match (s.thr c t).arm with | some (h, q) => if h = g then some q else none | none => none
    match armed with
    | some q =>
      let s := s.modThr c t (fun th => { th with arm := none })
      if y.phase = q then s.modThr c t (fun th => th.park (.gwait g q)) else s.finish c t (fun th => th)
    | none =>
      if y.members.contains n then
        let s := s.modThr c t (fun th => { th with arm := none, pend := .gwait g y.phase })
        (s.modTask id (fun k => k.setGroup g (y.arrive n))).wakeGroups id
      else s.modThr c t (fun th => th.park (.gwait g y.phase))

/-- GROUP_OP_APPLIED: the parked thread's operation reaches the table (R329); of a task that is being stopped, or whose watchdog is spent, none
does (R344). -/
def execGroupOpApplied (c : CoreId) (t : Tid) (s : State) : Out :=
  match (s.thr c t).st, (s.thr c t).pend with
  | .parked, .group op g d =>
    match s.taskOf c with
    | some k => .next (if k.phase.stopped || k.wdog = 0 then s else s.groupOp c t k op g d)
    | none => .next s
  | _, _ => .next s

/-- A group form at issue: ILL for a number above 255 (R329), else the thread parks. -/
def State.groupForm (s : State) (i : Instr) (op : GroupOp) (a d : BitVec 5) : State :=
  let g := (s.me.rd a).toNat
  if 255 < g then s.ill i 3 else s.parkMe (.group op g d)

def execJoin (d a : BitVec 5) (s : State) : Out := .next (s.groupForm (.join d a) .join a d)
def execLeave (a : BitVec 5) (s : State) : Out := .next (s.groupForm (.leave a) .leave a 0)
def execGwait (a : BitVec 5) (s : State) : Out := .next (s.groupForm (.gwait a) .gwait a 0)
def execGsize (d a : BitVec 5) (s : State) : Out := .next (s.groupForm (.gsize d a) .gsize a d)

/-- Whether the executing thread is a member of a group. [log entry 90, DEDUCED] -/
def State.member (s : State) (g : Nat) : Bool :=
  match s.taskOf s.cur.1 with
  | some k => (k.group g).members.contains (threadNo s.cur.1 s.cur.2)
  | none => false

/-- ARRIVE: ILL for a non-member (R331). [log entry 90, DEDUCED] -/
def execArrive (a : BitVec 5) (s : State) : Out :=
  .next (if (s.me.rd a).toNat ≤ 255 ∧ s.member (s.me.rd a).toNat = false then s.ill (.arrive a) 3
    else s.groupForm (.arrive a) .arrive a 0)

/-- EXIT: the thread leaves its groups at the table, then is IDLE; with no group it is IDLE at once (R332). [log entry 91, DEDUCED] -/
def execExit (s : State) : Out :=
  let n := threadNo s.cur.1 s.cur.2
  let inGroup := match s.taskOf s.cur.1 with | some k => k.groups.any (fun y => y.2.members.contains n) | none => false
  .next (if inGroup then s.parkMe (.group .exit 0 0) else s.threadExit s.cur.1 s.cur.2)

/-! ## The other THR forms (R333) -/

def execYield (s : State) : Out := .next (s.modMe (fun t => { t.next with yielded := some (s.slot + 1), readyAt := s.slot + 1 }))
def execSetrole (n : BitVec 2) (s : State) : Out := .next (s.modMe (fun t => { t.next with role := n }))

/-- The lowest core of a core's gang. -/
def State.gangLow (s : State) (c : CoreId) : Nat :=
  match s.taskOf c with | some k => k.cores.foldl (fun n y => min n y.val) c.val | none => c.val

def execTidOf (d : BitVec 5) (s : State) : Out :=
  let c := s.cur.1
  .next (s.put d (BitVec.ofNat 64 (threadNo c s.cur.2 + 2 ^ 16 * (16 * (c.val - s.gangLow c) + s.cur.2.val))))

/-! ## Counts (R334-R337) -/

def nodeOf (x : Core) (i : Nat) : Word := vget x.cfg.node i 0

/-- The node map entry of a unit (R274, R336). -/
def Core.nodeEntry (x : Core) (kind idx : Nat) : Word :=
  match kind with
  | 0 => nodeOf x (idx % 128)
  | 1 => nodeOf x 128
  | 2 => nodeOf x 129
  | 3 => nodeOf x 130
  | _ => 0

def TState.code (st : TState) : Nat := match st with | .idle => 0 | .ready => 1 | .busy => 2 | .parked => 3 | .frozen => 4

/-- Slots of a core since its launch. -/
def State.since (s : State) (c : CoreId) : Nat := s.slot - (s.core c).launchSlot

/-- EMPTY of a queue or channel: what the other two counts leave of the slots since launch (R337). [log entry 93, DEDUCED] -/
def emptyCount (since : Nat) (full moving : BitVec 32) : Word := ((BitVec.ofNat 32 since) - full - moving).setWidth 64

def isEnginePort (p : Nat) : Bool := 80 ≤ p && p ≤ 87
def isRbPort (p : Nat) : Bool := 88 ≤ p && p ≤ 95

/-- Whether the unit on a port, or the port, is FROZEN. -/
def Core.portFrozen (x : Core) (p : Nat) : Bool :=
  (x.ingAt p).frozen.isSome || (x.egAt p).frozen.isSome ||
    (isEnginePort p && x.me.frozen.isSome) || (isRbPort p && x.rb.frozen.isSome) ||
    (isElemPort p && (x.elems[elemOfPort p]).frozen.isSome) || (isBankPort p && (x.bankAt p).frozen.isSome) ||
    (p == 116 && (x.races[0]).frozen.isSome) || (p == 117 && (x.races[1]).frozen.isSome)

/-- The selectors of a port unit. -/
def Core.portCount (x : Core) (p sel : Nat) : Word :=
  match sel with
  | 1 => if isElemPort p then (x.elems[elemOfPort p]).firings else if isBankPort p then (x.bankAt p).ops
    else BitVec.ofNat 64 (x.ingAt p).admitted
  | 2 => (if isElemPort p then (x.elems[elemOfPort p]).passes else if isBankPort p then (x.bankAt p).passes
    else if p = 116 then (x.races[0]).passes else if p = 117 then (x.races[1]).passes
    else if isEnginePort p then x.me.passes else if isRbPort p then x.rb.passes else (x.egAt p).passes).setWidth 64
  | 3 => if p = 123 then BitVec.ofNat 64 x.dbgRefused else if (bucketCeiling p).isSome then x.spill p else 0
  | 4 =>
    let e := x.elems[elemOfPort p]
    BitVec.ofNat 64 ((if isElemPort p then e.st.toNat + 512 * e.halted.toNat else 0) + 256 * (x.portFrozen p).toNat)
  | _ => 0

/-- The selectors of a queue (R337); a reserved ingress port reads zero (R11). -/
def State.queueCount (s : State) (c : CoreId) (idx sel : Nat) : Word :=
  let x := s.core c
  let p := idx / 4096 % 128
  let g := x.ingAt p
  let ep := BitVec.ofNat 7 (idx / 32)
  let vc := BitVec.ofNat 5 idx
  let q := Sparse.getD g.qstat (qKey ep vc) {}
  if inReserved p then 0
  else match sel with
  | 1 => q.full.setWidth 64
  | 2 => emptyCount (s.since c) q.full q.moving
  | 3 => q.moving.setWidth 64
  | 4 =>
    let n := (g.buf.filter (fun y => y.cell.h.ep == ep && y.cell.h.vc == vc)).length
    BitVec.ofNat 64 (min q.age 65535 + 2 ^ 16 * (decide (x.agelim.toNat ≤ q.age)).toNat + 2 ^ 17 * (n % 512))
  | _ => 0

def State.chanCount (s : State) (c : CoreId) (idx sel : Nat) : Word :=
  let p := idx / 4 % 128
  let q := ((s.core c).egAt (chanPort p)).chan (idx % 4)
  match sel with
  | 1 => q.full.setWidth 64
  | 2 => emptyCount (s.since c) q.full q.moving
  | 3 => q.moving.setWidth 64
  | 4 => BitVec.ofNat 64 ((q.cells.length + (if idx % 4 = 0 then (s.core c).mailHeld p else 0)) % 16)
  | _ => 0

/-- An entry of the in-flight table (R343). -/
structure InFlight where
  unit : BitVec 32
  code : BitVec 8
  pos  : Word
deriving DecidableEq, Repr

def numbered {α : Type} (l : List α) : List (Nat × α) := (List.range l.length).zip l

/-- Whether a port stands in the in-flight table as a FROZEN unit of its own: the ports of a FROZEN matrix engine or Reedbed do not. -/
def Core.portListed (x : Core) (p : Nat) : Bool :=
  x.portFrozen p && !(isEnginePort p && x.me.frozen.isSome) && !(isRbPort p && x.rb.frozen.isSome)

/-- The in-flight table of a core: streams, ME jobs, Reedbed jobs, threads, frozen units; the INDEX bits of a job's unit identifier, which its KIND does not
use, hold the job's place in its queue. [log entry 85, DEDUCED] -/
def Core.inFlight (x : Core) (c : CoreId) : List InFlight :=
  let strms := ((List.finRange 32).filter (fun k => x.strms[k].live)).map (fun k =>
    ({ unit := unitId c 4 k.val, code := BitVec.ofNat 8 x.strms[k].st.code, pos := BitVec.ofNat 64 x.strms[k].cells } : InFlight))
  let mes := (numbered x.me.jobs).map (fun y => ({
    unit := unitId c 1 y.1, code := Config.inflightCode y.1
    pos := if y.2.kind = .run then BitVec.ofNat 64 y.2.done else Config.inflightPos y.1 } : InFlight))
  let rbs := (numbered x.rb.jobs).map (fun y => ({
    unit := unitId c 2 y.1, code := Config.inflightCode y.1
    pos := BitVec.ofNat 64 x.rb.phaseCode } : InFlight))
  let thrs := ((List.finRange 16).filter (fun t => let st := (x.thr t).st; st == .parked || st == .busy || st == .frozen)).map (fun t =>
    ({ unit := unitId c 3 t.val, code := BitVec.ofNat 8 (x.thr t).st.code, pos := (x.thr t).pc.setWidth 64 } : InFlight))
  let froz (u : BitVec 32) : InFlight := { unit := u, code := 4, pos := Config.inflightPos u.toNat }
  let ports := ((List.range 128).filter (fun p => x.portListed p)).map (fun p => froz (unitId c 0 p))
  let engines := (if x.me.frozen.isSome then [froz (unitId c 1 0)] else []) ++ (if x.rb.frozen.isSome then [froz (unitId c 2 0)] else [])
  let loops := ((List.finRange 16).filter (fun l => (vget x.loops l.val {}).frozen)).map (fun l => froz (unitId c 7 l.val))
  (strms ++ mes ++ rbs ++ thrs ++ ports ++ engines ++ loops).take 256

/-- The selectors of R336. [log entry 85, DEDUCED] -/
def State.nodeVal (s : State) (c : CoreId) (kind idx sel : Nat) : Word :=
  let x := s.core c
  if sel = 0 then x.nodeEntry kind idx
  else match kind with
  | 0 => x.portCount (idx % 128) sel
  | 1 => match sel with
    | 1 => x.me.fired | 2 => x.me.drained | 3 => x.me.passes.setWidth 64 | 4 => x.mxstat s.slot 0 | _ => 0
  | 2 => match sel with
    | 1 => x.rb.runs | 2 => x.rb.inCells | 3 => x.rb.outCells | 4 => x.rbstat 0 | _ => 0
  | 3 =>
    let t := x.thr (Fin.ofNat 16 idx)
    match sel with
    | 1 => t.issued | 2 => t.parkedClocks | 3 => BitVec.ofNat 64 t.st.code | 4 => t.pc.setWidth 64 | _ => 0
  | 4 =>
    let k : StrmId := Fin.ofNat 32 idx
    let y := x.strms[k]
    match sel with
    | 1 => BitVec.ofNat 64 y.elems | 2 => BitVec.ofNat 64 y.cells | 3 => y.word k y.st | _ => 0
  | 5 => s.queueCount c idx sel
  | 6 => s.chanCount c idx sel
  | 7 =>
    let l := vget x.loops (idx % 16) {}
    match sel with
    | 1 => BitVec.ofNat 64 l.inflight | 2 => l.budget.setWidth 64 | 3 => BitVec.ofNat 64 l.admitted | 4 => l.quiet.setWidth 64 | _ => 0
  | 8 =>
    let g := x.gates[Fin.ofNat 16 idx]
    match sel with | 1 => g.arm | 2 => g.fired.setWidth 64 | _ => 0
  | 9 => if sel = 1 then s.oxWord c (Fin.ofNat 8 idx) else 0
  | 10 => match s.taskOf c with
    | some k => if sel = 1 then (k.group (idx % 256)).word else 0
    | none => 0
  | 11 => match sel with
    | 1 => BitVec.ofNat 64 (s.clockOf c) | 2 => BitVec.ofNat 64 (s.wdogOf c) | 3 => x.passes.setWidth 64
    | 4 => match x.task with | some id => id.setWidth 64 | none => 0
    | _ => 0
  | 12 => if sel = 1 then vget x.wr (idx % 32) 0 else if sel = 3 then BitVec.ofNat 64 (x.inFlight c).length else 0
  | 13 =>
    let l := x.inFlight c
    match sel, l[idx % 256]? with
    | 1, some e => BitVec.ofNat 64 (e.unit.toNat + 2 ^ 32 * e.code.toNat)
    | 2, some e => e.pos
    | 3, _ => BitVec.ofNat 64 l.length
    | _, _ => 0
  | _ => 0

/-- The value that a NODE word asks for. -/
def State.nodeWord (s : State) (v : Word) : Word :=
  let u := v.toNat % 2 ^ 32
  s.nodeVal (uidCore u) (uidKind u) (uidIndex u) (getBits v 32 8)

/-- NODE (R335): at once for the issuing core, else the thread parks until the value returns. -/
def execNode (d a : BitVec 5) (s : State) : Out :=
  let v := s.me.rd a
  let u := v.toNat % 2 ^ 32
  let gang := match s.taskOf s.cur.1 with | some k => k.cores.contains (uidCore u) | none => uidCore u == s.cur.1
  .next (if uidKind u = 15 ∨ (s.me.cm = false ∧ gang = false) then s.ill (.node d a) 3
    else if uidCore u = s.cur.1 then s.put d (s.atStart.nodeWord v)
    else s.parkMe (.node d v))

def execNodeRemoteReturn (c : CoreId) (t : Tid) (s : State) : Out :=
  match (s.thr c t).st, (s.thr c t).pend with
  | .parked, .node d v => .next (s.finish c t (fun th => th.wr d (s.atStart.nodeWord v)))
  | _, _ => .next s

/-! ## Gates (R338) -/

def gateOf (g : BitVec 4) : GateId := Fin.ofNat 16 g.toNat

/-- GATESET: the arm word at the end of the slot; a word with neither EOR nor TE disarms, and the arm word then reads zero (R336, R338).
[log entry 150, DESIGN CHOICE] -/
def execGateset (a : BitVec 5) (g : BitVec 4) (s : State) : Out :=
  let v := s.me.rd a
  let w : Word := if v.getLsbD 63 || v.getLsbD 62 then v else 0
  .next (if v.getLsbD 63 && inReserved (getBits v 41 7) then s.ill (.gateset a g) 3
    else (s.modCore s.cur.1 (fun x => x.later (.gate (gateOf g) w))).skip)

/-- Whether an armed gate's deadline has come. -/
def State.gateDue (s : State) (w : Word) : Bool :=
  (w.getLsbD 63 || w.getLsbD 62) && decide ((getBits s.time 0 41 + 2 ^ 41 - getBits w 0 41) % 2 ^ 41 < 2 ^ 40)

/-- GATE_FIRE: the gate disarms, sets its tag, offers its EOR and posts GATE to a controller thread (R338). [log entry 55, DEDUCED] The
arm word of a gate that has fired or is disarmed reads zero. [log entry 150, DESIGN CHOICE] -/
def execGateFire (c : CoreId) (g : GateId) (s : State) : Out :=
  let y := (s.core c).gates[g]
  let w := y.arm
  if s.gateDue w then
    let s := s.modCore c (fun x => { x with gates := x.gates.set g.val { arm := 0, fired := y.fired + 1 } g.isLt })
    let s := if w.getLsbD 62 then s.tagSoon c (BitVec.ofNat 6 (getBits w 56 6)) else s
    let s := if w.getLsbD 63 then
        let o : Offer := { offerEntry (BitVec.ofNat 8 (getBits w 48 8)) tEOR (BitVec.ofNat 16 g.val) (s.time.setWidth 2048) with uni := true }
        s.modCore c (fun x => x.modIng (getBits w 41 7) (fun i => { i with ahead := i.ahead ++ [o] }))
      else s
    .next (if (s.core c).controller?.isSome then
        let s := s.tickFresh
        s.record c kGATE (unitId c 8 g.val) g.val (Config.eventPos s.fresh) s.time
      else s)
  else .next s

/-! ## Trace records (R339) -/

/-- The cell of a trace record, for the debug interface. [log entry 80, DEDUCED] -/
def State.traceCell (s : State) (c : CoreId) (t : Tid) (v : Word) : Cell :=
  { h := { ep := 123, tag := tDATA }
    data := BitVec.ofNat 2048 (s.time.toNat + 2 ^ 64 * (s.clockOf c) + 2 ^ 128 * ((s.core c).nodeEntry 3 t.val).toNat +
      2 ^ 192 * (unitId c 3 t.val).toNat + 2 ^ 256 * v.toNat) }

/-- [log entry 13, DESIGN CHOICE] -/
def execTrc (a : BitVec 5) (s : State) : Out :=
  let c := s.cur.1
  .next (if s.myCore.trace then
      let cell := s.traceCell c s.cur.2 (s.me.rd a)
      (s.modCore c (fun x => x.offer 123 { cell := cell, who := some s.cur.2 })).parkMe .trc
    else s.skip)

/-! ## STEP (R342) -/

/-- STEP: a controller form on an element or a Weir; it acts from the next slot. -/
def execStep (a : BitVec 5) (s : State) : Out :=
  let v := s.me.rd a
  let u := v.toNat % 2 ^ 32
  let c := uidCore u
  let p := uidIndex u % 128
  let elem := uidKind u == 0 && isElemPort p
  .next (s.controller (.step a) (
    if !elem && uidKind u != 14 then s.ill (.step a) 3
    else if s.foreign c then s.unitProt a
    else (s.modCore c (fun x => x.later (.step (if elem then some (elemOfPort p) else none) (v.getLsbD 32)))).skip))

end Sys2Proof.Machine
end

