-- ==== Sys2Proof/Machine/Walker.lean ====
section
/-! DEFINITION. The Sounding walker: the blocked-by link of a unit (R340) and WALK, which follows the links one a slot (R341). -/

namespace Sys2Proof.Machine

/-- A unit's blocked-by link: on to a unit with a reason for its register, or the end of the chain with its reason. -/
inductive Link where
  | to (u : BitVec 32) (reason : BitVec 4)
  | stop (reason : Nat)
deriving DecidableEq, Repr

def rFree : Nat := 0
def rFrozen : Nat := 1
def rHalted : Nat := 2
def rOwn : Nat := 3
def rLoop : Nat := 4
def rBucket : Nat := 5
def rClosed : Nat := 6
def rFull : Nat := 7
def rNeverFed : Nat := 8

/-- A link that waits on a condition of its own: a guard, a barrier, a tag. -/
def Link.own (u : BitVec 32) : Link := .to u 3

/-- The unit that owns a port: an engine, a bound stream, or the port unit itself. -/
def Core.portOwner (x : Core) (c : CoreId) (p : Nat) (sink : Bool) : BitVec 32 :=
  if isEnginePort p then unitId c 1 0
  else if isRbPort p then unitId c 2 0
  else if isStorePort p then
    match (List.finRange 32).find? (fun k =>
        let y := x.strms[k]
        y.live && (if sink then y.storer == some (Fin.ofNat 8 (p - 108)) else y.kind.isSource && y.srcPort == p)) with
    | some k => unitId c 4 k.val
    | none => unitId c 0 p
  else unitId c 0 p

/-- The port at which a copy's queue ends: its egress port, or the first full one of what stands at the front of the multicast queue. -/
def Core.fullPort (x : Core) (p : Nat) (y : Cell) : Nat :=
  if !y.isMcast then y.h.ep.toNat
  else match (x.ingAt p).mcq with
    | m :: _ => ((List.range 128).find? (fun q =>
        m.residue.getLsbD q && !x.space q { m.cell with h := { m.cell.h with ep := BitVec.ofNat 7 q } })).getD y.h.ep.toNat
    | [] => y.h.ep.toNat

/-- The copy at which the admission of all of them stops. -/
def Core.blockedCopy? (x : Core) (slot p : Nat) (cs : List Cell) : Option Cell :=
  match cs with
  | [] => none
  | y :: r => match x.admitCell slot p y with
    | .ok z => z.blockedCopy? slot p r
    | .error _ => some y

/-- The consumer of a copy's queue. [log entry 84, DEDUCED] -/
def State.consumerLink (s : State) (c : CoreId) (p : Nat) (y : Cell) : Link :=
  .to ((s.core c).portOwner c ((s.core c).fullPort p y) true) (Config.linkReason p)

/-- The link of a cell that cannot be admitted at a port (step 2). A peer edge consumes what its entry takes. -/
def State.offerLink? (s : State) (c : CoreId) (p : Nat) : Option Link :=
  let x := s.core c
  match (x.ingAt p).first? with
  | none => none
  | some o =>
    match x.resolve c o with
    | .copies cs _ =>
      match x.admitAll s.slot p cs with
      | .error .bucket => some (.stop rBucket)
      | .error (.loop _ _) => some (.stop rLoop)
      | .error .room => (x.blockedCopy? s.slot p cs).map (fun y => s.consumerLink c p y)
      | .ok _ => none
    | .peer k _ _ =>
      if (bucketCeiling p).isSome && decide ((x.ingAt p).bucket.level < 1024) then some (.stop rBucket)
      else match Sparse.get? x.edges k.val with
        | some ed => if ed.room then none else some (.to (unitId c 4 k.val) (Config.linkReason p))
        | none => none
    | .fault => none

/-- The consumer of the front of a full output buffer, whose cell itself can be admitted (R121). [log entry 84, DEDUCED] -/
def State.frontLink (s : State) (c : CoreId) (p : Nat) : Link :=
  match ((s.core c).ingAt p).first? with
  | none => .stop rFree
  | some o => match (s.core c).resolve c o with
    | .copies (y :: _) _ => s.consumerLink c p y
    | .peer k _ _ => .to (unitId c 4 k.val) (Config.linkReason p)
    | _ => .stop rFree

/-- The producer of an empty channel (step 4): the unit on the ingress port that last delivered into it. -/
def Core.producer (x : Core) (c : CoreId) (p ch : Nat) : Link :=
  match ((x.egAt (chanPort p)).chan ch).fed with
  | some q => .own (x.portOwner c q.val false)
  | none => .stop rNeverFed

/-- Whether a channel holds nothing that its unit can see. -/
def Core.emptyChan (x : Core) (slot p ch : Nat) : Bool := (x.head? slot (chanPort p) ch).isNone

/-- The link of an element without a guard that holds (steps 4 and 5). -/
def State.elemLink (s : State) (c : CoreId) (e : ElemId) : Link :=
  let x := s.core c
  let p := 48 + e.val
  let ent := (List.range 32).find? (fun i => stateMatch x.elems[e] (decodeTrigger (x.entryAt e i)))
  let chan := match ent with
    | none => none
    | some i => (List.range 4).find? (fun ch => (readySet (x.entryAt e i)).contains ch && x.emptyChan s.slot p ch)
  match chan with
  | some ch => x.producer c p ch
  | none =>
    match (x.egAt p).rdv with
    | r :: _ =>
      (match (List.range (r.opn.toNat + 1)).find? (fun i => r.ops.all (fun y => y.h.opx.toNat != i)) with
        | some i => x.producer c p i
        | none => .stop rOwn)
    | [] => .stop rOwn

/-- The link of a unit that waits for the first empty channel of some ports. -/
def State.inputLink (s : State) (c : CoreId) (ports : List Nat) : Link :=
  match ports.find? (fun p => (s.core c).emptyChan s.slot p 0) with
  | some p => (s.core c).producer c p 0
  | none => .stop rFree

/-- The link of a path of the Reedbed that takes DATA cells from some ports: to the first empty channel, or, behind drain tokens, to the first
of the ports: blocked by its inputs (R296). -/
def State.rbInLink (s : State) (c : CoreId) (ports : List Nat) : Link :=
  let head (p : Nat) : Option Cell := (s.core c).head? s.slot p 0
  if ports.any (fun p => (head p).any (fun y => y.h.tag != tDRN)) then .stop rFree
  else (s.core c).producer c ((ports.find? (fun p => (head p).isNone)).getD (ports.headD 0)) 0

/-- The first blocked offer of some ports. -/
def State.outputLink? (s : State) (c : CoreId) (ports : List Nat) : Option Link := ports.findSome? (fun p => s.offerLink? c p)

/-- Whether an element fires, crosses its pass boundary or takes the Oxbow's SPL in the slot. -/
def State.elemActs (s : State) (c : CoreId) (e : ElemId) : Bool :=
  (s.select c e).isSome || (s.elemRuns c e && (s.drainReady c e || s.splWaiting c e))

/-- Whether a bank serves a source, or a race unit takes its head, in the slot. -/
def Core.unitActs (x : Core) (c : CoreId) (slot p : Nat) : Bool :=
  if isBankPort p then (x.bankPick c slot p).isSome
  else if p = 116 ∨ p = 117 then
    let r := x.races[Fin.ofNat 2 (p - 116)]
    (x.head? slot p 0).isSome && decide (r.goAt ≤ slot)
  else false

/-- The link of a port unit. -/
def State.portLink (s : State) (c : CoreId) (p : Nat) : Link :=
  let x := s.core c
  if x.portFrozen p then .stop rFrozen
  else if isElemPort p ∧ (x.elems[elemOfPort p]).halted = true then .stop rHalted
  else if (isElemPort p && s.elemActs c (elemOfPort p)) || x.unitActs c s.slot p then .stop rFree
  else match s.offerLink? c p with
    | some l => l
    | none =>
      if isElemPort p then
        (if (List.range 32).any (fun i => s.guard c (elemOfPort p) i) then s.frontLink c p else s.elemLink c (elemOfPort p))
      else if isBankPort p ∨ p = 116 ∨ p = 117 then s.inputLink c [p]
      else .stop rFree

/-- Whether one of these acts, tried on the state, changes what view shows of it. -/
def State.actsOn {α : Type} [BEq α] (s : State) (view : State → α) (l : List Out) : Bool :=
  l.any (fun o => match o with | .next t => view t != view s | _ => false)

/-- Whether the matrix engine does anything in the slot: fires, drains or clears a row, takes a panel, preload, token, factor or drain cell, crosses
its boundary, or its adapter fetcher reads. -/
def State.meActs (s : State) (c : CoreId) : Bool :=
  s.actsOn (fun t => ((t.core c).me, (List.range 8).map (fun i => ((t.core c).egAt (80 + i)).chan 0 |>.cells.length)))
    ([execMeDrainRow c s, execMeFire c s, execMeZeroRow c s, execMePassBoundary c s, execAdapterFetch c s] ++
      (List.finRange 4).map (fun q => execMePanelCell c q s) ++
      (List.finRange 2).flatMap (fun x => [execMePreload c x s, execMeSteerToken c x s, execAdapterFactorCell c x s]) ++
      (List.range 6).map (fun i => execMeDrnDiscard c (Fin.ofNat 128 (82 + i)) s))

/-- Whether the drain path's current job, a drain or a PASS run, waits for its steering token (R152). -/
def Me.tokenWaits (m : Me) (slot : Nat) : Bool :=
  match m.drain? with
  | some (_, j) => j.token && j.route.isNone && !mxFmtBad j.fmt && decide (0 < j.rows) && decide (j.since ≤ slot)
  | none => false

/-- The link of the matrix engine: its outputs, then the lowest empty channel of what it waits for: rows, its panel, a slice or a steering token. -/
def State.meLink (s : State) (c : CoreId) : Link :=
  let x := s.core c
  let m := x.me
  if m.frozen.isSome then .stop rFrozen
  else if s.meActs c then .stop rFree
  else match s.outputLink? c ((List.range 8).map (fun i => 80 + i)) with
    | some l => l
    | none => match m.run? with
      | none => if x.rowWaits s.slot || m.tokenWaits s.slot then s.inputLink c [86, 87] else .stop rOwn
      | some (_, j) =>
        if x.emptyChan s.slot 80 0 then x.producer c 80 0
        else if !(m.panel j.buf).full then
          s.inputLink c (((List.range 4).filter (fun q => decide (vget (m.panel j.buf).cnt q 0 < 128))).map (fun q => 82 + q))
        else if x.rowWaits s.slot || m.tokenWaits s.slot then s.inputLink c [86, 87]
        else .stop rOwn

/-- Whether the Reedbed loads, evaluates, emits, or takes a cell, a job or a token in the slot. -/
def State.rbActs (s : State) (c : CoreId) : Bool :=
  s.actsOn (fun t => let b := (t.core c).rb; (b.phase, b.load, b.inCells, b.outCells, b.runs, b.passes, b.jobs.length))
    [execRbLoadCell c s, execRbLoadDone c s, execRbModeApply c s, execRbContextSwitch c s, execRbInput c s, execRbEvalGroup c s, execRbOutput c s,
    execRbRunDone c s, execRbPassBoundary c s]

/-- The link of the Reedbed: its outputs, then the inputs of its run or its load. -/
def State.rbLink (s : State) (c : CoreId) : Link :=
  let b := (s.core c).rb
  if b.frozen.isSome then .stop rFrozen
  else if s.rbActs c then .stop rFree
  else match s.outputLink? c [88, 89, 90, 91] with
    | some l => l
    | none => match b.phase with
      | .input _ => s.rbInLink c [88, 89, 90, 91]
      | .idle => if b.load.isSome then s.rbInLink c [92, 93, 94, 95] else .stop rOwn
      | _ => .stop rFree

/-- The lowest stream, ME job or Reedbed job whose tag is in a mask and has not set (step 6). -/
def Core.tagLink (x : Core) (c : CoreId) (m : Word) : Link :=
  let waits (t : BitVec 6) : Bool := m.getLsbD t.toNat && !x.tb.getLsbD t.toNat
  let opt (t : Option (BitVec 6)) : Bool := match t with | some t => waits t | none => false
  match (List.finRange 32).find? (fun k => x.strms[k].live && waits x.strms[k].tag) with
  | some k => .own (unitId c 4 k.val)
  | none =>
    if x.me.jobs.any (fun j => opt j.tag) then .own (unitId c 1 0)
    else if x.rb.jobs.any (fun j => opt j.tag) then .own (unitId c 2 0)
    else .stop rOwn

/-- The ports at which a thread's SDRAIN has tokens that are not admitted (R221). -/
def Core.drainPorts (x : Core) (t : Tid) : List Nat :=
  (List.range 128).filter (fun p => (x.ingAt p).obuf.any (fun o => o.who == some t) || x.pendDrn.any (fun y => y.1 == t && y.2.1.inp.toNat == p))

/-- The link of a thread. -/
def State.thrLink (s : State) (c : CoreId) (t : Tid) : Link :=
  let th := s.thr c t
  match th.st with
  | .frozen => .stop rFrozen
  | .parked =>
    match th.pend with
    | .tagAny _ m => (s.core c).tagLink c m
    | .tagAll m => (s.core c).tagLink c m
    | .gwait g _ =>
      match s.taskOf c with
      | none => .stop rOwn
      | some k =>
        let y := k.group g
        match leastBy id (y.members.filter (fun n => !y.arrived.contains n)) with
        | some n => .own (unitId (Fin.ofNat 64 (n / 16)) 3 (n % 16))
        | none => .stop rOwn
    | .scell _ _ _ => (s.offerLink? c (118 + t.val % 4)).getD (.stop rOwn)
    | .trc => (s.offerLink? c 123).getD (.stop rOwn)
    | .sdrain => (s.outputLink? c ((s.core c).drainPorts t)).getD (.stop rOwn)
    | _ => .stop rOwn
  | _ => .stop rFree

/-- Whether a stream slot does anything in the slot: its loader or its bank reads or hands on a cell, its storer takes one or performs a write, its
image, its descriptor or its edge moves on. -/
def State.strmActs (s : State) (c : CoreId) (k : StrmId) : Bool :=
  s.actsOn (fun t => ((t.core c).strms[k], (t.core c).edge? k))
    [execLoaderReadIssue c k s, execLoaderReadReturn c k s, execSinkCellConsume c k s, execSinkWritePerformed c k s, execPeerCellSend c k s,
      execRoundCommit c k s, execScfgCheckDone c k s, execScfgLoadDone c k s,
      (if (s.core c).strms[k].kind = .sread then
        execBankSreadRead c (Fin.ofNat 48 (s.core c).strms[k].srcPort) s else .next s)]

/-- The queue at whose head, or behind it, the last cell that a source stream has had admitted waits (R216, R340). -/
def State.strmQueue? (s : State) (c : CoreId) (k : StrmId) : Option (BitVec 32) :=
  let p := (s.core c).strms[k].srcPort
  (((s.core c).ingAt p).buf.find? (fun q => q.cell.m.strm.map (fun z => z.1) == some k)).map (fun q =>
    unitId c 5 (p * 4096 + q.cell.h.ep.toNat * 32 + q.cell.h.vc.toNat))

/-- The link of a stream slot; a source whose cells are all admitted goes on through the queue in which they stand. -/
def State.strmLink (s : State) (c : CoreId) (k : StrmId) : Link :=
  let y := (s.core c).strms[k]
  if y.st = .frozen then .stop rFrozen
  else if y.live = false then .stop rFree
  else if s.strmActs c k then .stop rFree
  else if y.st = .wait ∨ y.st = .paused ∨ y.walk.isSome then .stop rOwn
  else if y.kind.isSource then
    match s.offerLink? c y.srcPort with
    | some l => l
    | none =>
      if ((s.core c).ingAt y.srcPort).first?.isSome then .stop rFree
      else match s.strmQueue? c k with
        | some u => .to u (Config.linkReason y.srcPort)
        | none => .stop rFree
  else if y.kind = .edgeSend then (match Sparse.get? (s.core c).edges k.val with
    | some ed => if ed.room then .stop rFree else .stop rOwn
    | none => .stop rFree)
  else match y.storer with
    | some q => if y.kind.isSink then s.inputLink c [108 + q.val] else .stop rFree
    | none => .stop rFree

/-- The link of a queue's head (step 3). -/
def State.queueLink (s : State) (c : CoreId) (idx : Nat) : Link :=
  let x := s.core c
  let ep := BitVec.ofNat 7 (idx / 32)
  let vc := BitVec.ofNat 5 idx
  match (x.ingAt (idx / 4096 % 128)).buf.find? (fun q => q.cell.h.ep == ep && q.cell.h.vc == vc) with
  | some q => if x.space ep.toNat q.cell then .stop rFree else .to (x.portOwner c ep.toNat true) (Config.linkReason ep.toNat)
  | none => .stop rFree

/-- The blocked-by link of a unit (R340). [log entry 84, DEDUCED] -/
def State.linkOf (s : State) (u : Nat) : Link :=
  let c := uidCore u
  let idx := uidIndex u
  let x := s.core c
  match uidKind u with
  | 0 => s.portLink c (idx % 128)
  | 1 => s.meLink c
  | 2 => s.rbLink c
  | 3 => s.thrLink c (Fin.ofNat 16 idx)
  | 4 => s.strmLink c (Fin.ofNat 32 idx)
  | 5 => s.queueLink c idx
  | 7 => if (vget x.loops (idx % 16) {}).frozen then .stop rFrozen else .stop rFree
  | 14 => if x.weirHalted then .stop rHalted else .stop rFree
  | _ => .stop rFree

/-- Gd of a WALK. -/
def walkWord (reason count : Nat) (last : BitVec 32) : Word :=
  BitVec.ofNat 64 (last.toNat + 2 ^ 32 * count + 2 ^ 40 * reason)

/-- A walker register: the unit and the reason that led from it. -/
def Core.setWr (x : Core) (i : Nat) (u : BitVec 32) (reason : Nat) : Core :=
  { x with wr := vset x.wr i (BitVec.ofNat 64 (u.toNat + 2 ^ 32 * (reason % 16))) }

/-- Whether a core is outside the executing thread's tenant: another tenant's, or no task's. -/
def State.outside (s : State) (c : CoreId) : Bool := match s.taskOf c with | some _ => s.foreign c | none => c != s.cur.1

/-- WALK: a controller form; PROT for a start on a core outside the tenant, else the walk begins (R341). -/
def execWalk (d a : BitVec 5) (s : State) : Out :=
  let u : BitVec 32 := (s.me.rd a).setWidth 32
  .next (s.controller (.walk d a) (
    if s.outside (uidCore u.toNat) then s.unitProt a
    else (s.modCore s.cur.1 (fun x => x.setWr 0 u 0)).parkMe (.sounding d [u])))

/-- WALK_LINK: one link is read, as its slot began (R326); the walk goes on, or ends and the thread gets the word (R341). -/
def execWalkLink (c : CoreId) (t : Tid) (s : State) : Out :=
  match (s.thr c t).st, (s.thr c t).pend with
  | .parked, .sounding d (u :: rest) =>
    let n := rest.length + 1
    let stop (reason : Nat) : Out :=
      .next ((s.modCore c (fun x => x.setWr rest.length u reason)).finish c t (fun th => th.wr d (walkWord reason n u)))
    match s.atStart.linkOf u.toNat with
    | .stop reason => stop reason
    | .to v reason =>
      if (u :: rest).any (fun w => sameUnit w v) then stop rClosed
      else if 32 ≤ n then stop rFull
      else .next ((s.modCore c (fun x => (x.setWr rest.length u reason.toNat).setWr n v 0)).modThr c t (fun th =>
        { th with pend := .sounding d (v :: u :: rest) }))
  | _, _ => .next s

end Sys2Proof.Machine
end

