-- ==== Sys2Proof/Machine/Launch.lean ====
section
/-! DEFINITION. Gang launch: records and their checks (R345-R347), queues and placement (R348-R351), task graphs (R352), start and scrub
(R353, R354), the end of a task (R355, R356), the watchdog (R86), and the posting of fault records (R360-R362). -/

namespace Sys2Proof.Machine

/-! ## Records (R345-R347) -/

/-- Bytes i to i + n - 1 of a byte string as a number. -/
def byteField (bs : List Byte) (i n : Nat) : Nat := numOf ((bs.drop i).take n)

/-- GANG of a GSIZE code. -/
def gangCores (code : Nat) : Nat := 2 ^ code

/-- A fixed placement's cores, when they form a set of R17. -/
def fixedSet (n first : Nat) : Option (List CoreId) :=
  if n = 64 then (if first = 0 then some (List.finRange 64) else none)
  else if n = 32 then (if first % 16 = 0 then some ((List.range 32).map (fun i => Fin.ofNat 64 (first + i))) else none)
  else if first % n = 0 then some ((List.range n).map (fun i => Fin.ofNat 64 (first + i))) else none

/-- The placements of a size in the order of R349. -/
def placements (n : Nat) : List (List CoreId) :=
  ((List.range (64 / min n 16)).filterMap (fun k => fixedSet n (if n = 64 then 0 else k * min n 16))).eraseDups

/-- Who submits a record: a thread with its tenant and mode, or a host. -/
inductive Submitter where
  | thread (ten : Tenant) (cm : Bool)
  | host (h : Ipv6)
deriving DecidableEq, Repr

/-- Whether a host owns a tenant slot (R366). [log entry 98, DEDUCED] -/
def State.owns (s : State) (h : Ipv6) (t : Tenant) : Bool := Sparse.get? s.owners t.toNat == some h

/-- A record of 128 bytes, without its footprints and number. [log entry 127, DESIGN CHOICE] -/
def recordOf (bs : List Byte) (host : Option Ipv6) : LaunchRec := {
  cores := gangCores (byteField bs 0 1), place := if byteField bs 1 1 / 128 = 1 then some (byteField bs 1 1 % 64) else none
  tenant := BitVec.ofNat 6 (byteField bs 2 1), nthr := byteField bs 3 1, scrub := byteField bs 4 1 % 2 == 1
  ctlmask := BitVec.ofNat 16 (byteField bs 6 2), roles := BitVec.ofNat 32 (byteField bs 8 4)
  fring := if byteField bs 12 4 / 2 ^ 31 = 1 then some (BitVec.ofNat 22 (byteField bs 12 4)) else none
  limit := byteField bs 16 8, entry := BitVec.ofNat 55 (byteField bs 24 8), trapva := BitVec.ofNat 55 (byteField bs 32 8)
  image := BitVec.ofNat 55 (byteField bs 40 8), oxres := BitVec.ofNat 64 (byteField bs 56 8)
  args := Vector.ofFn (fun i => BitVec.ofNat 64 (byteField bs (64 + 8 * i.val) 8)), prints := [], id := 0, host := host }

/-- A code address of a record: bits 1:0 and 63:55 zero. -/
def codeVaOk (v : Nat) : Bool := v % 4 == 0 && decide (v < 2 ^ 55)

/-- Reason 1 on a record's own fields. -/
def recordOk (bs : List Byte) : Bool :=
  let f := byteField bs
  let ring := f 12 4
  decide (f 0 1 ≤ 6) && f 1 1 / 64 % 2 == 0 && decide (f 2 1 < 64) && decide (1 ≤ f 3 1) && decide (f 3 1 ≤ 16) && decide (f 4 1 < 2) &&
  decide (f 5 1 ≤ 8) && ring / 2 ^ 22 % 2 ^ 9 == 0 &&
  (decide (ring < 2 ^ 31) || (ring % 256 == 0 && decide (ring % 2 ^ 22 / 2 ^ 16 < 48))) &&
  decide (1 ≤ f 16 8) && decide (f 16 8 < 2 ^ 48) && codeVaOk (f 24 8) && codeVaOk (f 32 8) &&
  decide (f 40 8 < 2 ^ 55) && f 40 8 % 256 == 0 && (f 5 1 == 0 || (decide (f 48 8 < 2 ^ 55) && f 48 8 % 16 == 0))

/-- Reasons 1 to 5 in their order (R347); none when the record passes. -/
def State.recordReason (s : State) (bs : List Byte) (who : Submitter) : Option Nat :=
  let r := recordOf bs none
  if !recordOk bs then some 1
  else if (match r.place with | some c => (fixedSet r.cores c).isNone | none => false) then some 2
  else if (match who with
    | .thread t cm => !cm && r.tenant != t
    | .host h => !s.owns h r.tenant) then some 3
  else if (r.ctlmask ≠ 0 ∧ s.ctlRights.contains r.tenant = false) ∨ 2 ^ r.nthr ≤ r.ctlmask.toNat then some 4
  else if r.cores < 64 ∧ 2 ^ r.cores ≤ r.oxres.toNat then some 5
  else none

/-- A footprint of 16 bytes, when it keeps R346. -/
def printOf? (bs : List Byte) (i : Nat) : Option Footprint :=
  let base := byteField bs (16 * i) 8
  let w := byteField bs (16 * i + 8) 8
  let p : Footprint := { base := base, len := w % 2 ^ 48, kind := w / 2 ^ 56 % 4 }
  if base < 2 ^ 55 ∧ w / 2 ^ 48 % 2 ^ 8 = 0 ∧ w / 2 ^ 58 = 0 ∧ p.kind ≠ 0 ∧ 1 ≤ p.len then some p else none

/-- The footprints of an array, when all keep R346. -/
def printsOf? (bs : List Byte) (n : Nat) : Option (List Footprint) :=
  let l := (List.range n).map (fun i => printOf? bs i)
  if l.all Option.isSome then some (l.filterMap id) else none

/-- Put a checked record at the end of its queue and give it its TASKID. -/
def State.enqueue (s : State) (r : LaunchRec) : State :=
  let r := { r with id := s.nextTask }
  { s with nextTask := s.nextTask + 1, lq := vmod s.lq r.tenant.toNat (fun q => { q with recs := q.recs ++ [r] }) }

def State.queueLen (s : State) (t : Tenant) : Nat := ((vget s.lq t.toNat {}).recs).length

/-- The answer to a submission: the TASKID, or bit 63 and the reason in bits 39:32 (R333). -/
def launchAnswer (r : Except Nat TaskId) : Word :=
  match r with
  | .ok id => id.setWidth 64
  | .error k => BitVec.ofNat 64 (2 ^ 63 + k * 2 ^ 32)

/-- Queue a record with its footprints, or give the reason (checks 4 and 5 of R347). [log entry 5, DESIGN CHOICE] -/
def State.queueRecord (s : State) (r : LaunchRec) (prints : List Byte) (n : Nat) : State × Except Nat TaskId :=
  match printsOf? prints n with
  | none => (s, .error 1)
  | some l =>
    if 256 ≤ s.queueLen r.tenant then (s, .error 7)
    else (s.enqueue { r with prints := l }, .ok s.nextTask)

/-! ## LAUNCH (R333) -/

/-- LAUNCH: ALIGN, a walk, or the thread parks on the read of the record. -/
def execLaunch (d a : BitVec 5) (s : State) : Out :=
  let va := vaOf (s.me.rd a)
  .next (if va.toNat % 128 ≠ 0 then s.accTrap kALIGN va.toNat .read
    else match s.translate s.cur.1 va.toNat .read with
      | none => s.parkMe (.walk va .read)
      | some pa => s.parkMe (.launch d pa))

/-- The low n bytes of a number, lowest first, as the read of a record gives them. -/
def State.ownBytes (s : State) (c : CoreId) (pa n : Nat) : List Byte := bytesOf n (s.readOwn c pa n)

/-- Why a footprint array gives nothing: memory that does not exist, a walk that fails, or an uncorrectable error at a physical address; with
what the reads until then have corrected (R258). -/
inductive PrintsErr where
  | absent
  | walk (s : State)
  | bad (s : State) (pa : Nat)
deriving DecidableEq, Repr

/-- Read n footprints in a core's tenant space: each is 16-aligned and lies in one page. -/
def State.readPrints (s : State) (c : CoreId) (va n : Nat) : Except PrintsErr (State × List Byte) :=
  match n with
  | 0 => .ok (s, [])
  | n + 1 =>
    match s.touch c (va % 2 ^ 55) .read with
    | .absent => .error .absent
    | .fault s _ => .error (.walk s)
    | .ok s pa =>
      if s.hbmBad pa 16 then .error (.bad s pa)
      else
        let s := s.softHbm pa 16
        match s.readPrints c (va + 16) n with
        | .ok (t, r) => .ok (t, s.ownBytes c pa 16 ++ r)
        | .error e => .error e

/-- LAUNCH_RECORD_QUEUED: the record that a LAUNCH read is checked and queued or refused (R333, R347); an uncorrectable error in the
record or its footprints traps (R258). -/
def execLaunchRecordQueued (c : CoreId) (t : Tid) (s : State) : Out :=
  match (s.thr c t).st, (s.thr c t).pend with
  | .parked, .launch d pa =>
    if s.hbmBad pa 128 then .next (s.trapAt c t kECC (accessEval (pa / 64 * 64) .read) (s.thr c t).pc)
    else
      let s := s.softHbm pa 128
      let bs := s.ownBytes c pa 128
      let done (s : State) (r : Except Nat TaskId) : State := s.finish c t (fun th => th.wr d (launchAnswer r))
      match s.recordReason bs (.thread (s.tenantOf c) (s.thr c t).cm) with
      | some k => .next (done s (.error k))
      | none =>
        let n := byteField bs 5 1
        match s.readPrints c (byteField bs 48 8) n with
        | .error .absent => .fault .absentPhysical
        | .error (.walk s) => .next (done s (.error 6))
        | .error (.bad s pa) => .next (s.trapAt c t kECC (accessEval (pa / 64 * 64) .read) (s.thr c t).pc)
        | .ok (s, fp) =>
          let y := s.queueRecord (recordOf bs (Sparse.get? s.owners (byteField bs 2 1))) fp n
          .next (done y.1 y.2)
  | _, _ => .next s

/-! ## Host submissions (R347, R352, R366) -/

/-- A message in the host queue: its SEQ counts the earlier messages to the same place in the same queue (R365). [log entry 76, DEDUCED] -/
def State.sendNext (s : State) (dest : Dest) (type : Nat) (ten que : Nat) (pos : Nat) (payload : List Byte) : State :=
  let n := (s.outbox.filter (fun m => decide (m.dest = dest) && m.d.que.toNat == que % 8)).length
  s.send dest type ten que 0 n pos payload

/-- An answer to the host: the message type, the first TASKID in POS, and one word of R333 for each record. [log entry 75, DEDUCED] -/
def State.answer (s : State) (h : Ipv6) (m : Datagram) (l : List (Except Nat TaskId)) : State :=
  let pos := match l with | .ok id :: _ => id.toNat | _ => 0
  s.sendNext (.host h) m.type.toNat m.ten.toNat m.que.toNat pos (l.flatMap (fun r => bytesOf 8 (launchAnswer r).toNat))

/-- SUBMIT_LAUNCH: a record with its footprints in the payload (R347). [log entry 75, DEDUCED] -/
def execSubmitLaunch (h : Ipv6) (m : Datagram) (s : State) : Out :=
  .next (if !dgOk m || m.type != 3 then s.dropDatagram
    else if s.boot ≠ .running || !s.hostInFree h then s
    else
      let bs := (dgBody m).take 128
      State.hostInUsed (h := h) (n := m.payload.length) <| match (if s.owns h (dgTenant m) then s.recordReason bs (.host h) else some 3) with
      | some k => s.answer h m [.error k]
      | none =>
        let y := s.queueRecord (recordOf bs (some h)) ((dgBody m).drop 128) (byteField bs 5 1)
        y.1.answer h m [y.2])

/-- The translation of a host's access in a tenant's space: the walk with the tenant's own table (R366). [log entry 70, PRESUMED] -/
def State.tenantWalk (s : State) (ten : Tenant) (va : Nat) (k : Kind) : WalkRes :=
  walkFrom s.hbm s.ecc.hbm va k (Config.tenantTable ten).toNat 3

/-- A walk with a tenant's own table corrects what it reads (R258). -/
def State.tenantWalked (s : State) (ten : Tenant) (va : Nat) : State := s.walkSoft (Config.tenantTable ten).toNat va

/-- Read n bytes of a tenant's VA, a page at a time; the fault code when a walk fails or a word is bad, with what has been corrected until then. -/
def State.tenantRead (s : State) (ten : Tenant) (va n fuel : Nat) : Except (Option (State × BitVec 8)) (State × List Byte) :=
  match fuel with
  | 0 => .ok (s, [])
  | f + 1 =>
    if n = 0 then .ok (s, [])
    else
      let va := va % 2 ^ 55
      match s.tenantWalk ten va .read with
      | .absent => .error none
      | .fault code _ => .error (some (s.tenantWalked ten va, code))
      | .leaf ea e changed level frame w x d =>
        let k := min n (2 ^ 16 - va % 2 ^ 16)
        let pa := (xlatOf va level frame w x d ten).pa va
        let s := (s.tenantWalked ten va).walkWrite ea e changed
        if s.hbmBad pa k then .error (some (s, kECC))
        else
          let s := s.softHbm pa k
          match s.tenantRead ten (va + k) (n - k) f with
          | .ok (t, r) => .ok (t, Memory.readBytes s.hbm pa k ++ r)
          | .error e => .error e

/-- What reading a graph's records comes to: absent memory, a refusal, or the records with their footprints. [log entry 75, DEDUCED] -/
def State.graphRecords (s : State) (h : Ipv6) (ten : Tenant) (vas : List Nat) : Except (Option (State × Nat)) (State × List LaunchRec) :=
  match vas with
  | [] => .ok (s, [])
  | va :: rest =>
    if va % 128 ≠ 0 then .error (some (s, 1))
    else match s.tenantRead ten va 128 4 with
    | .error none => .error none
    | .error (some (s, _)) => .error (some (s, 6))
    | .ok (s, bs) =>
      match s.recordReason bs (.host h) with
      | some k => .error (some (s, k))
      | none =>
        let n := byteField bs 5 1
        match s.tenantRead ten (byteField bs 48 8) (16 * n) 4 with
        | .error none => .error none
        | .error (some (s, _)) => .error (some (s, 6))
        | .ok (s, fp) =>
          match printsOf? fp n with
          | none => .error (some (s, 1))
          | some l =>
            match s.graphRecords h ten rest with
            | .ok (t, rs) => .ok (t, { recordOf bs (some h) with prints := l } :: rs)
            | .error e => .error e

/-- The record VAs of a task graph: a count of at most 256, zeros, and the VAs (R352). [log entry 75, DEDUCED] -/
def State.graphVas (s : State) (ten : Tenant) (va : Nat) : Except (Option (State × Nat)) (State × List Nat) :=
  match s.tenantRead ten va 8 4 with
  | .error none => .error none
  | .error (some (s, _)) => .error (some (s, 6))
  | .ok (s, b) =>
    let n := byteField b 0 4
    if 256 < n ∨ byteField b 4 4 ≠ 0 then .error (some (s, 1))
    else match s.tenantRead ten (va + 8) (8 * n) 4 with
      | .error none => .error none
      | .error (some (s, _)) => .error (some (s, 6))
      | .ok (s, l) => .ok (s, (List.range n).map (fun i => byteField l (8 * i) 8 % 2 ^ 55))

/-- SUBMIT_GRAPH: a replay of the graph at VA POS, queued whole or refused whole (R352). [log entry 75, DEDUCED] -/
def execSubmitGraph (h : Ipv6) (m : Datagram) (s : State) : Out :=
  let ten := dgTenant m
  let refuse (s : State) (k : Nat) : Out := .next ((s.answer h m [.error k]).hostInUsed h m.payload.length)
  if !dgOk m || m.type != 4 then .next s.dropDatagram
  else if s.boot ≠ .running || !s.hostInFree h then .next s
  else if !s.owns h ten then refuse s 3
  else match s.graphVas ten m.pos.toNat with
    | .error none => .fault .absentPhysical
    | .error (some (s, k)) => refuse s k
    | .ok (s, vas) =>
      match s.graphRecords h ten vas with
      | .error none => .fault .absentPhysical
      | .error (some (s, k)) => refuse s k
      | .ok (s, rs) =>
        if 256 < s.queueLen ten + rs.length ∨ rs.any (fun r => r.tenant != ten) = true then
          refuse s (if rs.any (fun r => r.tenant != ten) then 3 else 7)
        else
          let first := s.nextTask
          let s := rs.foldl (fun s r => s.enqueue r) s
          .next ((s.answer h m ((List.range rs.length).map (fun i => .ok (first + BitVec.ofNat 32 i)))).hostInUsed h m.payload.length)

/-! ## Queues and placement (R348-R351) -/

/-- Whether two records are joined by a footprint edge (R267). -/
def Footprint.meets (a b : Footprint) : Bool :=
  (a.kind != 1 || b.kind != 1) && decide (a.base < b.base + b.len ∧ b.base < a.base + a.len)

def LaunchRec.edge (a b : LaunchRec) : Bool := a.prints.any (fun p => b.prints.any (fun q => p.meets q))

/-- Condition 1 of R349: every earlier record of the queue that an edge joins has ended, with its writes performed. -/
def State.edgesMet (s : State) (r : LaunchRec) : Bool :=
  s.tasks.all (fun t => t.lrec.tenant != r.tenant || !t.lrec.edge r)

def State.reserved (s : State) (c : CoreId) : Bool := match s.resv with | some v => v.cores.contains c | none => false

/-- Whether no task holds a core. -/
def State.coreFree (s : State) (c : CoreId) : Bool := (s.core c).task.isNone

/-- The sets that a record may take. -/
def LaunchRec.sets (r : LaunchRec) : List (List CoreId) :=
  match r.place with
  | some c => (fixedSet r.cores c).toList
  | none => placements r.cores

/-- Condition 2 of R349: the first set that is free and not reserved. -/
def State.placeFor? (s : State) (r : LaunchRec) : Option (List CoreId) :=
  r.sets.find? (fun l => l.all (fun c => s.coreFree c && !s.reserved c))

def LaunchQ.head? (q : LaunchQ) : Option LaunchRec := q.recs.head?

/-- The largest LIMIT of the tasks that run. A task that is still starting, or that is ending or being stopped, counts among them, which R26 does not
say. [log entry 141, DESIGN CHOICE] -/
def State.runningMax (s : State) : Nat := s.tasks.foldl (fun n t => max n t.lrec.limit) 0

/-- L_max of a head: of the tasks that ran when it became the head (R26). -/
def State.lmaxOf (s : State) (h : LaunchRec) : Nat := if h.headed then h.lmax else s.runningMax

/-- Condition 3 of R349: no head of another queue, all of which wait, has an L_max below the record's LIMIT (R351). [log entry 73, DEDUCED] -/
def State.limitOk (s : State) (q : Nat) (r : LaunchRec) : Bool :=
  (List.range 64).all (fun i => i == q ||
    (match (vget s.lq i {}).head? with
      | some h => decide (r.limit ≤ s.lmaxOf h)
      | none => true))

/-- The placement with which a head may start (R349). [log entry 74, DEDUCED] -/
def State.mayStart? (s : State) (q : Nat) (r : LaunchRec) : Option (List CoreId) :=
  if s.edgesMet r && s.limitOk q r then s.placeFor? r else none

/-! ## Start and scrub (R353, R354) -/

/-- The launch scrub of a core: what R354 names takes its value at launch; AGELIM, the buckets and CECNT are kept,
and the rotation of R89 starts afresh. [log entry 10, DESIGN CHOICE; log entry 70, PRESUMED] -/
def Core.scrub (x : Core) (id : TaskId) (ten : Tenant) (slot : Nat) : Core := { Core.reset with
  agelim := x.agelim, agelimNext := x.agelimNext
  ing := Vector.ofFn (fun p => { bucket := x.ing[p].bucket })
  banks := x.banks.map (fun b => { cecnt := b.cecnt })
  ptbase := (Config.tenantTable ten).setWidth 28, task := some id, prevTenant := some ten, launchSlot := slot }

/-- The banks are zeroed for a new tenant or a record with SCRUB (R354); those that hold what a killed task's twins left are zeroed in any
case (R320). -/
def State.scrubCore (s : State) (c : CoreId) (r : LaunchRec) : State :=
  let zero := r.scrub || (s.core c).prevTenant != some r.tenant
  let twins := (s.core c).twinBanks
  let s := s.modCore c (fun x => x.scrub r.id r.tenant s.slot)
  let s := { s with ecc := { s.ecc with spots := s.ecc.spots.filter (fun y => y.core != c), soft := s.ecc.soft.filter (fun y => y.core != c) } }
  ((List.range 48).filter (fun b => zero || twins.getLsbD b)).foldl (fun s b => s.zeroBank c b) s

/-- A record starts on a set of cores: it leaves its queue, a reservation of its ends (R350), and the cores are scrubbed. [log entry 74, DEDUCED] -/
def State.startGang (s : State) (q : Nat) (r : LaunchRec) (l : List CoreId) (deficit : Nat) : State :=
  let s := { s with
    resv := s.resv.filter (fun v => v.queue.toNat != q)
    lq := vmod s.lq q (fun y => { y with recs := y.recs.drop 1, def_ := deficit })
    tasks := s.tasks ++ [{ lrec := r, cores := l, phase := .starting, startAt := s.slot, first := none, wdog := r.limit, groups := [] }] }
  l.foldl (fun s c => s.scrubCore c r) s

/-- The pointer moves to the next queue. -/
def State.nextQueue (s : State) : State :=
  let p := s.lqPtr + 1
  { s with lqPtr := p, lq := vmod s.lq p.val (fun y => { y with fresh := true }) }

/-- A slot of the deficit round robin (R348). -/
def State.drr (s : State) : State :=
  let q := s.lqPtr.val
  let y := vget s.lq q {}
  let w := (vget s.weights q 1).toNat
  let d := if y.fresh then min (y.def_ + w) 511 else y.def_
  let s := { s with lq := vmod s.lq q (fun z => { z with def_ := d, fresh := false }) }
  match y.head? with
  | none => ({ s with lq := vmod s.lq q (fun z => { z with def_ := 0 }) }).nextQueue
  | some r =>
    match s.mayStart? q r with
    | some l => if r.cores ≤ d then s.startGang q r l (d - r.cores) else s.nextQueue
    | none => s.nextQueue

/-- A reserved gang's LIMIT counts in the L_max of every other waiting head (R351). -/
def State.raiseLmax (s : State) (q limit : Nat) : State :=
  { s with lq := Vector.ofFn (fun i =>
      let y := s.lq[i]
      if i.val = q then y
      else match y.recs with
        | h :: r => { y with recs := { h with lmax := max h.lmax limit } :: r }
        | [] => y) }

/-- GANG_START: the reserved gang when its cores are free, else the slot of the deficit round robin (R348, R350). [log entry 74, DEDUCED] -/
def execGangStart (s : State) : Out :=
  if s.boot ≠ .running then .next s
  else match s.resv with
    | some v =>
      match (vget s.lq v.queue.toNat {}).head? with
      | some r =>
        if s.edgesMet r && v.cores.all (fun c => s.coreFree c) then
          let q := v.queue.toNat
          .next ((s.startGang q r v.cores ((vget s.lq q {}).def_ - r.cores)).raiseLmax q r.limit)
        else .next s.drr
      | none => .next { s with resv := none }
    | none => .next s.drr

/-- The reservation that a head takes: its named set, or the set with the most free cores, the first among equals (R350). -/
def State.reserveSet? (s : State) (r : LaunchRec) : Option (List CoreId) :=
  leastBy (fun l => 64 - (l.filter (fun c => s.coreFree c)).length) r.sets

/-- LAUNCH_RESERVATION: the head that reached T_res first takes the module's reservation (R350). [log entry 74, DEDUCED] -/
def execLaunchReservation (s : State) : Out :=
  if s.resv.isSome ∨ s.boot ≠ .running then .next s
  else
    let due := (List.finRange 64).filterMap (fun q => match (s.lq[q]).head? with
      | some r => if s.tres ≤ r.waited then some (q, r) else none
      | none => none)
    match leastBy (fun (y : Fin 64 × LaunchRec) => 2 ^ 64 - y.2.waited) due with
    | none => .next s
    | some (q, r) =>
      .next { s with resv := (s.reserveSet? r).map (fun l => { queue := BitVec.ofNat 6 q.val, cores := l }) }

/-- The heads of the queues at the end of a slot: a new head takes its L_max; every head has waited one slot more (R26, R350). -/
def State.ageHeads (s : State) : State :=
  if s.lq.toList.all (fun y => y.recs.isEmpty) then s
  else
    let m := s.runningMax
    { s with lq := s.lq.map (fun y => match y.recs with
        | [] => y
        | h :: r => { y with recs := { h with
            lmax := (if h.headed then h.lmax else m), headed := true, waited := h.waited + 1 } :: r }) }

/-! ### The first image -/

/-- Map the pages of n bytes from va: page numbers with their physical pages. -/
def State.mapPages (s : State) (c : CoreId) (va n fuel : Nat) : Except (Option (State × BitVec 8)) (State × Sparse Nat) :=
  match fuel with
  | 0 => .ok (s, [])
  | f + 1 =>
    if n = 0 then .ok (s, [])
    else
      let va := va % 2 ^ 55
      match s.walk c va .read with
      | .absent => .error none
      | .fault code _ => .error (some (s.walked c va, code))
      | .leaf ea e changed level frame w x d =>
        let k := min n (2 ^ 16 - va % 2 ^ 16)
        let pa := (xlatOf va level frame w x d (s.tenantOf c)).pa va
        match ((s.walked c va).walkWrite ea e changed).mapPages c (va + k) (n - k) f with
        | .ok (t, m) => .ok (t, Sparse.set m (va / 2 ^ 16) (pa / 2 ^ 16))
        | .error e => .error e

/-- An image read through mapped pages. -/
def State.mappedImg (s : State) (m : Sparse Nat) (va : Nat) : Img := fun off n =>
  let a := (va + off) % 2 ^ 55
  match Sparse.get? m (a / 2 ^ 16) with
  | some p => Memory.readN s.hbm (p * 2 ^ 16 + a % 2 ^ 16) n
  | none => 0

/-- Write the words of an image's pool blocks. -/
def State.poolWrites (s : State) (l : List SysWrite) : State :=
  l.foldl (fun s w => { (s.poolMarks w.addr w.bytes.length) with pool := Memory.writeBytes s.pool w.addr w.bytes }) s

/-- The physical pieces of n bytes from va by mapped pages. -/
def mapPieces (m : Sparse Nat) (va n : Nat) : List (Nat × Nat) :=
  m.map (fun y =>
    let p := y.1 * 2 ^ 16
    let base := if p + 2 ^ 16 ≤ va then p + 2 ^ 55 else p
    let lo := max va base
    (y.2 * 2 ^ 16 + lo % 2 ^ 16, min (va + n) (base + 2 ^ 16) - lo))

/-- Load the first image on one core (R353): its kind of failure, or absent memory. [log entry 71, DEDUCED] -/
def State.firstImage (s : State) (c : CoreId) (va : Nat) : Except (Option (State × BitVec 8)) State :=
  match s.mapPages c va 16 2 with
  | .error none => .error none
  | .error (some (s, _)) => .error (some (s, kXLAT))
  | .ok (s, m) =>
    match imgLength? (s.mappedImg m va) with
    | none => .error (some (s, kCFG))
    | some n =>
      match s.mapPages c va n 258 with
      | .error none => .error none
      | .error (some (s, _)) => .error (some (s, kXLAT))
      | .ok (s, m) =>
        match imgCheck (s.mappedImg m va) with
        | none => .error (some (s, kCFG))
        | some l =>
          let rd := s.mappedImg m va
          let pieces := mapPieces m va n
          if pieces.any (fun y => s.hbmBad y.1 y.2) then .error (some (s, kCFG))
          else
            let s := pieces.foldl (fun s y => s.softHbm y.1 y.2) s
            let s := s.poolWrites (imgPool rd l c none)
            .ok (s.modCore c (fun x => (x.modSlot false (fun _ => { slotOfImg rd l with st := .loaded })).activate false))

/-- The first image on every core of a gang. [log entry 71, DEDUCED] -/
def State.firstImages (s : State) (l : List CoreId) (va : Nat) : Except (Option (State × BitVec 8)) State :=
  match l with
  | [] => .ok s
  | c :: r => match s.firstImage c va with
    | .ok s => s.firstImages r va
    | .error e => .error e

/-- A thread at the first issue (R18, R353). -/
def LaunchRec.thread (r : LaunchRec) (t : Tid) (slot : Nat) : Thread :=
  if t.val < r.nthr then { ({} : Thread) with
    st := .ready, pc := r.entry, readyAt := slot, role := BitVec.ofNat 2 (getBits r.roles (2 * t.val) 2), cm := r.ctlmask.getLsbD t.val
    g := Vector.ofFn (fun i => if 1 ≤ i.val ∧ i.val ≤ 8 then vget r.args (i.val - 1) 0 else 0) }
  else {}

/-- The node number of a unit in the map of its core's active slot (R274, R360). -/
def State.nodeNo (s : State) (u : BitVec 32) : Nat := ((s.core (uidCore u.toNat)).nodeEntry (uidKind u.toNat) (uidIndex u.toNat)).toNat % 2 ^ 32

/-- The 32 bytes of a record (R360). -/
def State.recordBytes (s : State) (r : FaultRec) : List Byte :=
  bytesOf 1 r.kind.toNat ++ bytesOf 1 r.ten.toNat ++ bytesOf 2 r.detail.toNat ++ bytesOf 4 r.unit.toNat ++ bytesOf 4 (s.nodeNo r.unit) ++
    bytesOf 4 r.time.toNat ++ bytesOf 8 r.pos.toNat ++ bytesOf 8 r.arg.toNat

/-- A record at the firmware, which sends it to the host that owns the tenant (R362, R366). -/
def State.toFirmware (s : State) (r : FaultRec) : State :=
  let bs := s.recordBytes r
  match Sparse.get? s.owners r.ten.toNat with
  | some h => s.sendNext (.host h) 5 r.ten.toNat 0 0 bs
  | none => s.sendNext .firmware 5 r.ten.toNat 0 0 bs

/-- The task record of a gang: TASKID in ARG, CLOCK in POS (R361). [log entry 69, DEDUCED] -/
def State.taskRecord (s : State) (t : Task) (kind : BitVec 8) : FaultRec :=
  let low := t.cores.foldl (fun n c => min n c.val) 63
  let clk := match t.first with | some f => t.clockEnd - f | none => 0
  { kind := kind, detail := 0, unit := unitId (Fin.ofNat 64 low) 11 0, pos := pos2 clk (clk / 2 ^ 32), arg := t.lrec.id.setWidth 64,
    time := s.time.setWidth 32, ten := t.lrec.tenant, at_ := s.slot }

/-- A core's twins go, without a merge; the launch scrub of the twin's next task removes their copies and zeroes their banks (R317, R320,
R356). [log entry 68, DEDUCED] -/
def State.dropTwins (s : State) (c : CoreId) : State :=
  (List.finRange 8).foldl (fun s g =>
    let y := (s.core c).stages[g]
    match y.twin with
    | none => s
    | some k =>
      let s := s.modCore k (fun x => { x with twinBanks := x.twinBanks ||| BitVec.ofNat 48 y.banks })
      s.modCore c (fun x => x.modStage g (fun z => { z with st := .none, twin := none }))) s

/-- The cores of a task fall free, with what it held of the crossbars; CLOCK and WDOG stay as they were until the next scrub (R356). -/
def State.freeCores (s : State) (t : Task) : State :=
  let s := (t.cores.foldl (fun s c => s.dropTwins c) s).leaveXbar t.lrec.id
  let s := t.cores.foldl (fun s c => s.modCore c (fun x => { x with task := none, lastTask := some (t.clock s.slot, t.wdog) })) s
  { s with tasks := s.tasks.filter (fun y => y.lrec.id != t.lrec.id) }

/-- FIRST_ISSUE: after the scrub and the first image, the threads of the gang are READY in one slot; an image that fails ends the task
before any issue, with a record to the firmware (R353). -/
def execFirstIssue (id : TaskId) (s : State) : Out :=
  match s.taskById id with
  | none => .next s
  | some t =>
    if t.phase = .starting ∧ t.startAt < s.slot then
      let loaded := if t.lrec.image = 0 then Except.ok s else s.firstImages t.cores t.lrec.image.toNat
      match loaded with
      | .error none => .fault .absentPhysical
      | .error (some (s, k)) => .next ((s.toFirmware (s.taskRecord { t with clockEnd := s.slot } k)).freeCores t)
      | .ok s =>
        let s := t.cores.foldl (fun s c => s.modCore c (fun x => { x with
          threads := Vector.ofFn (fun i => t.lrec.thread i (s.slot + 1)), launchSlot := s.slot + 1 })) s
        .next (s.modTask id (fun t => { t with phase := .running, first := some (s.slot + 1) }))
    else .next s

/-! ## The end of a task (R355, R356) -/

/-- Cells left in a core's queues, channels and mailboxes are discarded, and its units act no more (R242, R355); the job queues are empty (R285). The
configuration slots keep their states (R273), and so do the gates' words, the counters and what the engines hold (R356). [log entry 68, DEDUCED] -/
def Core.quiet (x : Core) : Core :=
  { (x.mapThr (fun _ t => { t with mailbox := [] })) with
    swap := none, pendDrn := [], late := [], direct := x.direct.filter (fun d => d.op != .load)
    ing := x.ing.map (fun g => { g with obuf := [], ahead := [], buf := [], mcq := [], waiting := none })
    eg := x.eg.map (fun g => { g with
      chans := g.chans.map (fun q => { q with cells := [] })
      rdv := [], rdvGone := [], flight := [], hold := [], holding := none, holdOpen := false, holdOld := false, splIn := none, rdeIn := none, badCell := none })
    me := { x.me with jobs := [], fetchU := [], fetchV := [], late := [] }
    rb := { x.rb with jobs := [] }
    races := x.races.map (fun r => { r with cur := none, out := [] })
    loops := x.loops.map (fun b => { b with inflight := 0 })
    mcLive := [] }

/-- Whether every write of a task's core has been performed, those of a splice among them. -/
def Core.writesDone (x : Core) : Bool :=
  x.wbuf.isEmpty && x.direct.isEmpty && x.splices.isEmpty && x.strms.toList.all (fun y => y.writes.isEmpty) && x.banks.toList.all (fun b => b.sys.isEmpty) &&
    x.threads.toList.all (fun t => match t.pend with | .amo _ _ _ _ _ _ _ _ _ => false | _ => true)

/-- Whether a core has nothing of its task left to do (R355). [log entry 68, DEDUCED] -/
def Core.workDone (x : Core) : Bool :=
  x.threads.toList.all (fun t => t.st == .idle) && x.strms.toList.all (fun y => !y.live) && x.me.jobs.isEmpty && x.rb.jobs.isEmpty &&
    x.stages.toList.all (fun y => !y.st.busy)

/-- A stage in ASKED goes with its task. -/
def Core.dropStages (x : Core) : Core := { x with stages := x.stages.map (fun y => if y.st = .asked then { y with st := .whole } else y) }

/-- The end record goes to the host (R355, R356). [log entry 69, DEDUCED] -/
def State.endRecord (s : State) (t : Task) : State :=
  let k : BitVec 8 := match t.phase with | .stopping k _ => k | _ => 0
  let bs := s.recordBytes (s.taskRecord t k)
  match (match Sparse.get? s.owners t.lrec.tenant.toNat with | some h => some h | none => t.lrec.host) with
  | some h => s.sendNext (.host h) 5 t.lrec.tenant.toNat 0 t.lrec.id.toNat bs
  | none => s.sendNext .firmware 5 t.lrec.tenant.toNat 0 t.lrec.id.toNat bs

/-- Whether every thread of a task's cores is IDLE. -/
def State.threadsIdle (s : State) (t : Task) : Bool :=
  t.cores.all (fun c => (s.core c).threads.toList.all (fun y => y.st == .idle))

/-- TASK_END: a task whose work is done ends, and its cores are freed once its writes are performed (R355); a stopped task's cores are
freed in the same way (R356). -/
def execTaskEnd (id : TaskId) (s : State) : Out :=
  match s.taskById id with
  | none => .next s
  | some t =>
    let s := if t.phase = .running ∧ t.cores.all (fun c => (s.core c).workDone) = true then
        let s := (t.cores.foldl (fun s c => s.modCore c (fun x => x.quiet.dropStages)) s).leaveXbar id
        s.modTask id (fun t => { t with phase := .ending, clockEnd := s.slot })
      else s
    match s.taskById id with
    | none => .next s
    | some t =>
      let fin := match t.phase with
        | .ending => true
        | .stopping _ n => decide (n < s.slot) && s.threadsIdle t
        | _ => false
      .next (if fin && t.cores.all (fun c => (s.core c).writesDone) then (s.endRecord t).freeCores t else s)

/-- A thread of a task that is stopped is IDLE from any state (R80); an AMO that it has issued is still to be performed. [log entry 68, DEDUCED] -/
def Thread.stop (t : Thread) : Thread :=
  { t with st := .idle, arm := none, pend := match t.pend with
    | .amo op w pool a b d cmp posted va => .amo op w pool a b d cmp posted va
    | _ => .none }

/-- The stores that threads of a stopped task wait to put into the write buffer. [log entry 68, DEDUCED] -/
def Core.parkedStores (x : Core) : List BufStore :=
  (List.finRange 16).filterMap (fun t => match (x.thr t).st, (x.thr t).pend with
    | .parked, .store va pa w v => some { t := t, va := va, pa := pa, w := w, v := v }
    | _, _ => none)

/-- A cancelled stream of a stopped task, whose admitted cells are gone. -/
def Strm.stopNow (y : Strm) : Strm := if y.live then { y with outLeft := [] } else y

/-- Stop every unit of a core (R356). [log entry 68, DEDUCED] -/
def State.stopCore (s : State) (c : CoreId) : State :=
  let s := (List.finRange 32).foldl (fun s k =>
    let y := (s.core c).strms[k]
    if y.live && !y.cancel then s.cancel c k else s) s
  s.modCore c (fun x =>
    let y := (x.mapThr (fun _ t => t.stop)).quiet
    { y with splices := [], strms := y.strms.map Strm.stopNow, faults := [], wbuf := x.wbuf ++ x.parkedStores, waitq := [] })

/-- TASK_STOP: in the slot after a KILL or WDOG every unit of the task is stopped, and its twins go (R320, R356). -/
def execTaskStop (id : TaskId) (s : State) : Out :=
  match s.taskById id with
  | none => .next s
  | some t =>
    match t.phase with
    | .stopping _ n => .next (if n < s.slot then (t.cores.foldl (fun s c => (s.stopCore c).dropTwins c) s).leaveXbar id else s)
    | _ => .next s

/-- WDOG_EXPIRE: the count is zero and the task is killed with WDOG (R86). -/
def execWdogExpire (id : TaskId) (s : State) : Out :=
  match s.taskById id with
  | none => .next s
  | some t => .next (if t.phase = .running ∧ t.wdog = 0 then s.stopTask id kWDOG else s)

/-! ## Posting records (R362) -/

/-- The next record of a core that is due: in the order of their slots, then by UNIT. -/
def Core.dueRecord? (x : Core) (slot : Nat) : Option FaultRec :=
  let due := x.faults.filter (fun r => decide (r.at_ < slot))
  match leastBy (fun (r : FaultRec) => r.at_) due with
  | none => none
  | some f => leastBy (fun (r : FaultRec) => r.unit.toNat) (due.filter (fun r => r.at_ == f.at_))

/-- The pool address of place i of a fault ring. [log entry 72, DEDUCED] -/
def ringPlace (c : CoreId) (ring : BitVec 22) (i : Fin 8) : Nat := sliceBase c + ring.toNat + 32 * i.val

/-- Whether a ring place is full: its KIND is not 0, or a record for it is on its way. -/
def State.ringFull (s : State) (c : CoreId) (a : Nat) : Bool :=
  Memory.get s.pool a != 0 || ((s.core c).bankAt (poolBank a)).sys.any (fun w => w.ring && w.addr == a)

/-- A record for the core's ring, by the system path of its bank (R238), when the core has a controller thread and a free place; else to the
firmware. The record is filled, NODE too, as it enters that path. [log entry 72, DEDUCED; log entry 156, DESIGN CHOICE] -/
def State.post (s : State) (c : CoreId) (r : FaultRec) : State :=
  let x := s.core c
  let ring := match s.taskOf c with | some t => t.lrec.fring | none => none
  match x.controller?, ring with
  | some _, some base =>
    let a := ringPlace c base x.ringNext
    if s.ringFull c a then s.toFirmware r
    else
      let w : SysWrite := { addr := a, bytes := s.recordBytes r, ring := true }
      s.modCore c (fun x => { (x.modBank (poolBank a) (fun b => { b with sys := b.sys ++ [w] })) with ringNext := x.ringNext + 1 })
  | _, _ => s.toFirmware r

/-- A record for the firmware too goes there beside the ring (R309). -/
def State.postBoth (s : State) (c : CoreId) (r : FaultRec) : State :=
  if r.toFw then
    let s := s.toFirmware r
    if (s.core c).controller?.isSome && (match s.taskOf c with | some t => t.lrec.fring.isSome | none => false) then s.post c { r with toFw := false } else s
  else s.post c r

/-- FAULT_RECORD_POST: the core's next due record is posted; a task that is being stopped posts none (R362). -/
def execFaultRecordPost (c : CoreId) (s : State) : Out :=
  let x := s.core c
  match x.dueRecord? s.slot with
  | none => .next s
  | some r =>
    let s := s.modCore c (fun x => { x with faults := x.faults.erase r })
    let dead := match s.taskOf c with | some t => (match t.phase with | .stopping _ _ => true | _ => false) | none => false
    .next (if dead then s else s.postBoth c r)

end Sys2Proof.Machine
end

