-- ==== Sys2Proof/Machine/HostIo.lean ====
section
/-! DEFINITION. What reaches the module from outside: the host's messages (R366, R372), the debug interface (R369, R379, R380), time
(R370), boot (R371), policy and its reset (R373, R393), thermal control (R373-R375), spares (R376) and the Ethernet ports (R364). -/

namespace Sys2Proof.Machine

/-! ## READ and WRITE (R366) -/

/-- A fault notice that answers a host's message: the kind, the tenant, and the message's POS in ARG. [log entry 77, DEDUCED] -/
def State.notice (s : State) (h : Ipv6) (m : Datagram) (kind : BitVec 8) : State :=
  let r : FaultRec := {
    kind := kind, detail := 0, unit := 0, pos := 0, arg := m.pos, time := s.time.setWidth 32, ten := dgTenant m, at_ := s.slot }
  s.sendNext (.host h) 5 m.ten.toNat m.que.toNat m.pos.toNat (s.recordBytes r)

/-- ACK: the SEQ of the message answered. -/
def State.ack (s : State) (h : Ipv6) (m : Datagram) : State :=
  s.sendNext (.host h) 10 m.ten.toNat m.que.toNat m.pos.toNat (bytesOf 8 m.seq.toNat)

/-- The bytes that answer a READ, in as many datagrams as their frames need (R364), each with the place of its first byte in POS. [log entry 120, PRESUMED] -/
def State.sendParts (s : State) (h : Ipv6) (ten que : Nat) (pos : Nat) (bs : List Byte) (n : Nat) : State :=
  match n with
  | 0 => s.sendNext (.host h) 1 ten que pos bs
  | n + 1 =>
    if bs.length ≤ maxPayload then s.sendNext (.host h) 1 ten que pos bs
    else (s.sendNext (.host h) 1 ten que pos (bs.take maxPayload)).sendParts h ten que (pos + maxPayload) (bs.drop maxPayload) n

/-- An answer to a READ of a message, from its POS on. -/
def State.readAnswer (s : State) (h : Ipv6) (m : Datagram) (bs : List Byte) : State :=
  s.sendParts h m.ten.toNat m.que.toNat m.pos.toNat bs (bs.length / maxPayload)

/-- SLUICE_READ: the bytes of the tenant's VA at POS, or a fault notice, once the host port has carried the messages before it (R14); in recovery only a
status answer (R371). [log entry 92, DEDUCED] -/
def execSluiceRead (h : Ipv6) (m : Datagram) (s : State) : Out :=
  if !dgOk m || m.type != 1 then .next s.dropDatagram
  else if s.boot = .off then .next s
  else if !s.hostInFree h || !s.hostOutFree h then .next s
  else if s.boot = .recovery then
    .next ((s.readAnswer h m Config.recoveryStatus).hostInUsed h m.payload.length)
  else if !s.owns h (dgTenant m) then .next ((s.notice h m kPROT).hostInUsed h m.payload.length)
  else
    let n := numOf (dgBody m)
    match s.tenantRead (dgTenant m) m.pos.toNat n (n / 2 ^ 16 + 2) with
    | .error none => .fault .absentPhysical
    | .error (some (s, code)) => .next ((s.notice h m code).hostInUsed h m.payload.length)
    | .ok (s, bs) => .next ((s.readAnswer h m bs).hostInUsed h m.payload.length)

/-- The physical pieces of n bytes of a tenant's VA for a write, every page walked first. [log entry 78, DEDUCED] -/
def State.tenantPieces (s : State) (ten : Tenant) (va n fuel : Nat) : Except (Option (State × BitVec 8)) (State × List (Nat × Nat)) :=
  match fuel with
  | 0 => .ok (s, [])
  | f + 1 =>
    if n = 0 then .ok (s, [])
    else
      let va := va % 2 ^ 55
      match s.tenantWalk ten va .write with
      | .absent => .error none
      | .fault code _ => .error (some (s.tenantWalked ten va, code))
      | .leaf ea e changed level frame w x d =>
        let k := min n (2 ^ 16 - va % 2 ^ 16)
        match ((s.tenantWalked ten va).walkWrite ea e changed).tenantPieces ten (va + k) (n - k) f with
        | .ok (t, r) => .ok (t, ((xlatOf va level frame w x d ten).pa va, k) :: r)
        | .error e => .error e

/-- Write bytes into pieces. -/
def State.writePieces (s : State) (l : List (Nat × Nat)) (bs : List Byte) : State :=
  match l with
  | [] => s
  | (pa, k) :: r => (s.hbmWrite { addr := pa, bytes := bs.take k }).writePieces r (bs.drop k)

/-- SLUICE_WRITE: the payload at VA POS of the tenant, answered with ACK, once the host port is free of the messages before it (R14, R366). [log entry 78, DEDUCED] -/
def execSluiceWrite (h : Ipv6) (m : Datagram) (s : State) : Out :=
  if !dgOk m || m.type != 2 then .next s.dropDatagram
  else if s.boot ≠ .running || !s.hostInFree h then .next s
  else if !s.owns h (dgTenant m) then .next ((s.notice h m kPROT).hostInUsed h m.payload.length)
  else
    let n := (dgBody m).length
    match s.tenantPieces (dgTenant m) m.pos.toNat n (n / 2 ^ 16 + 2) with
    | .error none => .fault .absentPhysical
    | .error (some (s, code)) => .next ((s.notice h m code).hostInUsed h m.payload.length)
    | .ok (s, l) => .next (((s.writePieces l (dgBody m)).ack h m).hostInUsed h m.payload.length)

/-- ATTESTATION_READ: a READ that the host port carries, the nonce in it; the answer is the nonce, the module digests, the fuse version and the repair map's
digest, signed (R14, R372). [log entry 99, DESIGN CHOICE; log entry 139, DESIGN CHOICE] -/
def execAttestationRead (h : Ipv6) (nonce : BitVec 256) (s : State) : Out :=
  let body := bytesOf 32 nonce.toNat ++ s.attest.modules.flatMap (fun d => bytesOf 32 d.toNat) ++ bytesOf 4 s.attest.fuse.toNat ++
    bytesOf 32 (Config.repairDigest s.repair).toNat
  let report := body ++ bytesOf 64 (Config.sm2Sign body).toNat
  .next (if s.boot = .running && s.hostInFree h && s.hostOutFree h then
      (s.sendParts h 0 0 0 report (report.length / maxPayload)).hostInUsed h 32
    else s)

/-! ## Time (R370) -/

/-- TIME follows the master: the servo's slew, at most 500 ppm either way (R370). -/
def State.follow (s : State) (ppm : Int) : State := { s with slew := max (-500) (min 500 ppm) }

/-- TIME_MESSAGE: the servo's slew, at most 500 ppm either way, once the host port is free of the messages before it (R14). In recovery no tenant has an
owner, and TIME is answered (R371). [log entry 4, DESIGN CHOICE; log entry 95, DEDUCED; log entry 139, DESIGN CHOICE] -/
def execTimeMessage (h : Ipv6) (m : Datagram) (ppm : Int) (s : State) : Out :=
  .next (if !dgOk m || m.type != 6 then s.dropDatagram
    else if s.boot = .off || !s.hostInFree h then s
    else (if s.boot = .running ∧ s.owns h (dgTenant m) = false then s.notice h m kPROT else s.follow ppm).hostInUsed h m.payload.length)

/-! ## The debug interface (R369) -/

/-- DEBUG_REQUEST: a host asks for a tenant's debug output, or withdraws that (R366). -/
def execDebugRequest (h : Ipv6) (m : Datagram) (s : State) : Out :=
  let ten := dgTenant m
  let rest := s.debugReq.filter (fun t => t != (ten, h))
  .next (if !dgOk m || m.type != 11 || m.len != 0 then s.dropDatagram
    else if s.boot ≠ .running || !s.hostInFree h then s
    else ((if !s.owns h ten then s.notice h m kPROT
      else if m.pos = 0 then { s with debugReq := rest ++ [(ten, h)] }.ack h m
      else if m.pos = 1 then { s with debugReq := rest }.ack h m
      else s.dropDatagram) : State).hostInUsed h 0)

/-- DEBUG_HOST_COMMAND: a command for a core, checked by the firmware and passed to DBG as a CTRL cell from MGMT (R369). [log entry 79, DEDUCED] -/
def execDebugHostCommand (h : Ipv6) (m : Datagram) (s : State) : Out :=
  .next (if !dgOk m || m.type != 11 || m.len == 0 then s.dropDatagram
    else if s.boot ≠ .running || !s.hostInFree h then s
    else
      let c : CoreId := Fin.ofNat 64 m.pos.toNat
      State.hostInUsed (h := h) (n := m.payload.length) <| match s.taskOf c with
      | none => s.notice h m kPROT
      | some t =>
        if m.pos.toNat < 64 ∧ s.owns h (dgTenant m) = true ∧ s.owns h t.lrec.tenant = true ∧
            t.cores.contains (uidCore (byteField (dgBody m) 0 4)) = true then
          let y : Cell := {
            h := { ep := 123, vc := 31, tag := tCTRL }, data := BitVec.ofNat 2048 (numOf ((dgBody m).take 256)), m := { mgmt := true } }
          s.modCore c (fun x => x.offer 122 { cell := y })
        else s.notice h m kPROT)

/-- The head of the DBG channel, once a slot. -/
def Core.dbgHead? (x : Core) (slot : Nat) : Option Cell :=
  if ((x.egAt 123).chan 0).moved then none else x.head? slot 123 0

/-- DEBUG_OUTPUT: a cell of another class than CTRL, or a trace record, goes to the host that owns the tenant and has asked, or is
discarded and counted (R369). -/
def execDebugOutput (c : CoreId) (s : State) : Out :=
  match (s.core c).dbgHead? s.slot with
  | none => .next s
  | some y =>
    if y.h.tag = tCTRL then .next s
    else
      let ten := s.tenantOf c
      let s := s.popHead c 123 0
      let s := if y.h.tag = tDRN then s.modCore c (fun x => (x.modEg 123 (fun g => { g with passes := g.passes + 1 })).cross 123) else s
      .next (match Sparse.get? s.owners ten.toNat with
        | some h =>
          if s.debugReq.contains (ten, h) then s.sendNext (.host h) 11 ten.toNat 0 c.val (roundBytes y.h.word y.data)
          else { s with discards := { s.discards with debugCells := s.discards.debugCells + 1 } }
        | none => { s with discards := { s.discards with debugCells := s.discards.debugCells + 1 } })

/-! ### Commands (R379, R380) -/

/-- A debug command. -/
structure DbgCmd where
  unit : Nat
  tgt  : Nat
  tagf : Nat
  off  : Nat
  cnt  : Nat
  data : List Byte
  net  : Bool
deriving DecidableEq, Repr

def dbgCmd (y : Cell) : DbgCmd :=
  let n := y.data.toNat
  let f (i k : Nat) : Nat := n / 2 ^ (8 * i) % 2 ^ (8 * k)
  { unit := f 0 4, tgt := f 4 1, tagf := f 5 1, off := f 6 2, cnt := f 8 2, data := bytesOf (min (f 8 2) 224) (f 32 224)
    net := isNetPort y.h.ip.toNat }

/-- The size of a target in bytes. -/
def dbgSize (tgt : Nat) : Nat :=
  if tgt = 5 then 8 else if tgt = 7 then 4 else if tgt = 0 ∨ tgt = 6 ∨ 13 ≤ tgt then 1 else 256

/-- Whether UNIT suits TGT (R379). -/
def DbgCmd.unitOk (k : DbgCmd) (c : CoreId) : Bool :=
  uidCore k.unit == c &&
    (if k.tgt ≤ 12 then uidKind k.unit == 0 && isElemPort (uidIndex k.unit % 128)
     else if k.tgt = 13 then uidKind k.unit == 14 else uidKind k.unit == 3)

def DbgCmd.elem (k : DbgCmd) : ElemId := elemOfPort (uidIndex k.unit % 128)

/-- Whether the unit refuses a command (R380). -/
def State.dbgRefuses (s : State) (c : CoreId) (k : DbgCmd) : Bool :=
  let x := s.core c
  decide (15 ≤ k.tgt) || decide (dbgSize k.tgt < k.off + k.cnt) || k.cnt == 0 || decide (224 < k.cnt) || !k.unitOk c || k.net ||
    (decide (8 ≤ k.tgt ∧ k.tgt ≤ 11) && (x.head? s.slot (48 + k.elem.val) (k.tgt - 8)).isNone) ||
    (decide (k.tgt ≤ 11) && !((x.elems[k.elem]).frozen.isSome || (x.elems[k.elem]).halted)) ||
    (k.tgt == 12 && (k.off % 8 != 0 || k.cnt % 8 != 0 || x.activeSlot?.isNone))

/-- A write to the command's element, which lands at the end of the slot: what fires in it reads the old value (R122). -/
def State.dbgElem (s : State) (c : CoreId) (k : DbgCmd) : State := s.modCore c (fun x => x.later (.elem k.elem k.tgt k.off k.data))

/-- A debug command of the targets that an event takes: performed or refused, and its tag sets in the next slot, so that the slot after that is
the first to find it (R111, R380). [log entry 79, DEDUCED] -/
def State.dbgRun (s : State) (c : CoreId) (tgts : Nat → Bool) (f : State → DbgCmd → State) : State :=
  match (s.core c).dbgHead? s.slot with
  | none => s
  | some y =>
    let k := dbgCmd y
    if y.h.tag = tCTRL ∧ tgts k.tgt = true then
      let s := if s.dbgRefuses c k then s.modCore c (fun x => { x with dbgRefused := x.dbgRefused + 1 }) else f s k
      let s := if k.tagf / 64 % 2 = 1 then s.tagSoon c (BitVec.ofNat 6 k.tagf) else s
      s.popHead c 123 0
    else s

/-- TGT 0: ST. A reserved TGT is refused here too. -/
def execDbgWriteSt (c : CoreId) (s : State) : Out :=
  .next (s.dbgRun c (fun t => t == 0 || decide (15 ≤ t)) (fun s k => s.dbgElem c k))

/-- TGT 1-4: the payload of D0-D3. -/
def execDbgWriteD (c : CoreId) (s : State) : Out :=
  .next (s.dbgRun c (fun t => decide (1 ≤ t ∧ t ≤ 4)) (fun s k => s.dbgElem c k))

/-- TGT 5: SF0-SF3 as 8 bytes. -/
def execDbgWriteSf (c : CoreId) (s : State) : Out :=
  .next (s.dbgRun c (fun t => t == 5) (fun s k => s.dbgElem c k))

/-- TGT 6: P0 and P1. -/
def execDbgWriteP (c : CoreId) (s : State) : Out :=
  .next (s.dbgRun c (fun t => t == 6) (fun s k => s.dbgElem c k))

/-- TGT 7: ESR. -/
def execDbgWriteEsr (c : CoreId) (s : State) : Out :=
  .next (s.dbgRun c (fun t => t == 7) (fun s k => s.dbgElem c k))

/-- TGT 8-11: the payload of a channel head. -/
def execDbgWriteHead (c : CoreId) (s : State) : Out :=
  .next (s.dbgRun c (fun t => decide (8 ≤ t ∧ t ≤ 11)) (fun s k => s.dbgElem c k))

/-- TGT 12: whole entries of the element's active table; a firing of this slot uses the old ones (R77). -/
def execDbgWriteTable (c : CoreId) (s : State) : Out :=
  .next (s.dbgRun c (fun t => t == 12) (fun s k =>
    s.modCore c (fun x => match x.activeSlot? with
      | none => x
      | some b => x.later (.table b k.elem (k.off / 8) ((List.range (k.cnt / 8)).map (fun i => BitVec.ofNat 64 (byteField k.data (8 * i) 8)))))))

/-- TGT 13: the core's trace enable, from the next slot (R369). [log entry 13, DESIGN CHOICE] -/
def execDbgTraceEnable (c : CoreId) (s : State) : Out :=
  .next (s.dbgRun c (fun t => t == 13) (fun s k => s.modCore c (fun x => x.later (.trace (numOf k.data % 2 == 1)))))

/-- TGT 14: STATUS.BE of a thread, from the next slot (R369). -/
def execDbgSetBe (c : CoreId) (s : State) : Out :=
  .next (s.dbgRun c (fun t => t == 14) (fun s k =>
    s.modCore c (fun x => x.later (.be (Fin.ofNat 16 (uidIndex k.unit)) (numOf k.data % 2 == 1)))))

/-! ## Ethernet (R364) -/

/-- FRAME_DISCARD: a frame of another EtherType, and flow control, are discarded and counted; a PTP frame is no other EtherType, and TIME follows the
master that it comes from, on any port (R364, R370). [log entry 4, DESIGN CHOICE] -/
def execFrameDiscard (port : EthPort) (f : Frame) (s : State) : Out :=
  let drop := match f with
    | .ipv6 | .ptp _ => false
    | .priorityFlow | .pause => true
    | .other t => t != 0x86DD && t != 0x88F7
  .next (if drop && decide (port.val < 26) then { s with discards := { s.discards with frames := s.discards.frames + 1 } }
    else match f with | .ptp ppm => (if s.boot = .off then s else s.follow ppm) | _ => s)

/-- Void the rounds of a receiving end that have come in part. -/
def State.voidPartial (s : State) (c : CoreId) (k : StrmId) : State :=
  match (s.core c).edge? k with
  | none => s
  | some e =>
    if e.send || !(s.core c).strms[k].live then s
    else ([e.committed, e.committed + 1].filter (fun r => decide (0 < e.landedOf r + e.queuedOf r ∧ e.landedOf r + e.queuedOf r < e.roundLen r))).foldl
      (fun s r => s.voidRound c k r) s

/-- The rounds in flight on a link are lost (R376). -/
def State.loseLink (s : State) (link : LinkId) : State :=
  (List.finRange 64).foldl (fun s c =>
    if (s.core c).edges.isEmpty || !s.linkQs.any (fun q => q.link == link && q.tenant == s.tenantOf c) then s
    else (List.finRange 32).foldl (fun s k => s.voidPartial c k) s) s

/-- LINK_LOSS: a link retrains and its datagrams in flight are lost (R376). -/
def execLinkLoss (link : LinkId) (s : State) : Out := .next (s.loseLink link)

/-! ## Heat (R373-R375): temperatures in units of 1/16 degree -/

/-- A THERM record, to the firmware: k in DETAIL, the temperature in ARG. [log entry 82, DEDUCED] -/
def State.therm (s : State) (k temp : Nat) : State :=
  let s := s.tickFresh
  let r : FaultRec := {
    kind := kTHERM, detail := BitVec.ofNat 16 k, unit := 0, pos := Config.eventPos s.fresh, arg := BitVec.ofNat 64 temp
    time := s.time.setWidth 32, ten := 0, at_ := s.slot }
  s.sendNext .firmware 5 0 0 0 (s.recordBytes r)

/-- The throttle level becomes k from the next slot, and a THERM record is posted (R374, R375). -/
def State.throttleTo (s : State) (k hot : Nat) : State := { s with throttleNext := some (Fin.ofNat 9 k) }.therm k hot

/-- THERMAL_READING: a reading every 2^20 slots; the hottest junction raises or lowers the throttle level, up to 8, and a record is posted where the level
changes (R375). [log entry 6, DESIGN CHOICE; log entry 82, DEDUCED; log entry 83, DESIGN CHOICE] -/
def execThermalReading (t0 t1 t2 t3 : Nat) (s : State) : Out :=
  let hot := max (max t0 t1) (max t2 t3)
  let k := s.throttle.val
  if s.slot < s.thermAt then .next s
  else
    let s := { s with thermAt := s.slot + 2 ^ 20 }
    .next (if 16 * s.alert ≤ hot ∧ k < 8 then s.throttleTo (k + 1) hot
      else if hot + 80 ≤ 16 * s.alert ∧ 0 < k then s.throttleTo (k - 1) hot
      else s)

/-- THERMAL_TRIP: at 105 degrees every bucket stops (R373). [log entry 83, DESIGN CHOICE] -/
def execThermalTrip (temp : Nat) (s : State) : Out := .next (if 16 * 105 ≤ temp then { s with tripped := true } else s)
/-- THERMAL_TRIP_CLEAR: below 100 degrees the rates are restored. -/
def execThermalTripClear (temp : Nat) (s : State) : Out := .next (if temp < 16 * 100 then { s with tripped := false } else s)

/-! ## Boot (R371) -/

/-- POWER_ON_BOOT: the first flash image whose signature holds starts; with none the module stays in recovery. [log entry 7, DEDUCED; log entry 99, DESIGN CHOICE] -/
def execPowerOnBoot (s : State) : Out :=
  .next (if s.boot ≠ .off then s
    else match bootImage? with
      | some _ => { s with boot := .running, attest := bootAttest }
      | none => { s with boot := .recovery })

/-- FIRMWARE_MODULE_LOAD: a further module runs when its signature holds. [log entry 99, DESIGN CHOICE] -/
def execFirmwareModuleLoad (image : List Byte) (s : State) : Out :=
  .next (if s.boot = .running ∧ Config.sm2Verify image = true then
      { s with attest := { s.attest with modules := s.attest.modules ++ [Config.sm3 image] } }
    else s)

/-! ## Policy (R373, R393) -/

/-- A core's settings at module reset. -/
def Core.policyReset (x : Core) : Core := { x with
  agelim := 256, agelimNext := none, spillSel := 108
  ing := Vector.ofFn (fun p => { x.ing[p] with bucket := Bucket.reset p.val }) }

/-- MODULE_RESET: the settings of R373 take the values of R393. -/
def execModuleReset (s : State) : Out :=
  .next { s with
    weights := Vector.replicate 64 1, tres := 2 ^ 32, alert := 95, ctlRights := [], owners := []
    cores := s.cores.map Core.policyReset }

/-- FIRMWARE_POLICY_SET: a setting within its hardware limit (R373), a weight of 0 taken as 1. [log entry 53, DEDUCED; log entry 160, DESIGN CHOICE] -/
def execFirmwarePolicySet (p : Policy) (s : State) : Out :=
  .next (match p with
    | .weight q w => { s with weights := vset s.weights q.toNat (if w = 0 then 1 else w) }
    | .tres n => { s with tres := min n (2 ^ 32) }
    | .alert t => { s with alert := min t 95 }
    | .grantControl t on =>
      let rest := s.ctlRights.filter (fun y => y != t)
      { s with ctlRights := if on then rest ++ [t] else rest }
    | .bindHost t h => { s with owners := match h with | some a => Sparse.set s.owners t.toNat a | none => Sparse.erase s.owners t.toNat }
    | .bindLink t link q =>
      let rest := s.linkQs.filter (fun y => !(y.tenant == t && y.link == link))
      { s with linkQs := match q with | some n => rest ++ [{ tenant := t, link := link, queue := n }] | none => rest }
    | .agelim c v => s.modCore c (fun x => { x with agelimNext := some (clampAgelim v.toNat) })
    | .spill c p r d => s.modCore c (fun x => x.modIng p.val (fun g => { g with bucket := g.bucket.write p.val r.toNat d.toNat }))
    | .stepTime ns => { s with timeStep := some ns })

/-! ## Spares (R376) -/

/-- The group of resources that share a spare, and how many spares it has. [log entry 8, DESIGN CHOICE; log entry 87, DEDUCED] -/
def resPool (r : Resource) : Nat × Nat × Nat :=
  match r with
  | .core c => (0, (CoreId.cluster c).val, 1)
  | .bank c _ => (1, c.val, 2)
  | .elem c _ => (2, c.val, 2)
  | .pseudoChannel k _ => (3, k.val, 1)
  | .lane l _ => (4, l.val, 1)

/-- Whether the moment allows the spare (R376). The HBM of stacks 4k to 4k + 3 is on die k (R234). -/
def State.spareMoment (s : State) (r : Resource) : Bool :=
  match r with
  | .core c | .bank c _ | .elem c _ => s.coreFree c
  | .pseudoChannel k _ => (List.finRange 64).all (fun c => (CoreId.cluster c).val != k.val / 4 || s.coreFree c)
  | .lane _ _ => true

/-- SPARE_BRING_IN: a logical resource moves to a spare; logical numbers and contents stay as they are (R8, R376). [log entry 8, DESIGN CHOICE] -/
def execSpareBringIn (r : Resource) (s : State) : Out :=
  let used := (s.repair.filter (fun y => ((resPool y.1).1, (resPool y.1).2.1) == ((resPool r).1, (resPool r).2.1))).length
  if s.spareMoment r && decide (used < (resPool r).2.2) then
    let s := { s with repair := s.repair ++ [(r, used)] }
    .next (match r with
      | .core c => s.modCore c (fun x => { x with prevTenant := none })
      | .lane l _ => s.loseLink l
      | _ => s)
  else .next s

end Sys2Proof.Machine
end

