-- ==== Sys2Proof/Machine/Dispatch.lean ====
section
/-! DEFINITION. exec: one arm for each constructor of Instr, each a direct call of its meaning. -/

namespace Sys2Proof.Machine

def exec (i : Instr) (s : State) : Host.Outcome State Fault Refusal :=
  match i with
  | .nop => Sys2Proof.Machine.execNop s
  | .trap imm => Sys2Proof.Machine.execTrap imm s
  | .eret => Sys2Proof.Machine.execEret s
  | .wfe => Sys2Proof.Machine.execWfe s
  | .fenceT => Sys2Proof.Machine.execFenceT s
  | .fenceC => Sys2Proof.Machine.execFenceC s
  | .fenceL => Sys2Proof.Machine.execFenceL s
  | .fenceD => Sys2Proof.Machine.execFenceD s
  | .fenceP => Sys2Proof.Machine.execFenceP s
  | .fenceS => Sys2Proof.Machine.execFenceS s
  | .mfs d v => Sys2Proof.Machine.execMfs d v s
  | .mts a v => Sys2Proof.Machine.execMts a v s
  | .mtsTime a => Sys2Proof.Machine.execMtsTime a s
  | .mtsAgelim a => Sys2Proof.Machine.execMtsAgelim a s
  | .mtsSpill a => Sys2Proof.Machine.execMtsSpill a s
  | .mtsWdog a => Sys2Proof.Machine.execMtsWdog a s
  | .tlbinv d a b => Sys2Proof.Machine.execTlbinv d a b s
  | .resume a => Sys2Proof.Machine.execResume a s
  | .kill a => Sys2Proof.Machine.execKill a s
  | .add d a b => Sys2Proof.Machine.execAdd d a b s
  | .sub d a b => Sys2Proof.Machine.execSub d a b s
  | .mul d a b => Sys2Proof.Machine.execMul d a b s
  | .mulh d a b => Sys2Proof.Machine.execMulh d a b s
  | .mulhu d a b => Sys2Proof.Machine.execMulhu d a b s
  | .div d a b => Sys2Proof.Machine.execDiv d a b s
  | .divu d a b => Sys2Proof.Machine.execDivu d a b s
  | .rem d a b => Sys2Proof.Machine.execRem d a b s
  | .remu d a b => Sys2Proof.Machine.execRemu d a b s
  | .and_ d a b => Sys2Proof.Machine.execAnd_ d a b s
  | .or_ d a b => Sys2Proof.Machine.execOr_ d a b s
  | .xor_ d a b => Sys2Proof.Machine.execXor_ d a b s
  | .andn d a b => Sys2Proof.Machine.execAndn d a b s
  | .shl d a b => Sys2Proof.Machine.execShl d a b s
  | .shr d a b => Sys2Proof.Machine.execShr d a b s
  | .sar d a b => Sys2Proof.Machine.execSar d a b s
  | .shli d a n h => Sys2Proof.Machine.execShli d a n h s
  | .shri d a n h => Sys2Proof.Machine.execShri d a n h s
  | .sari d a n h => Sys2Proof.Machine.execSari d a n h s
  | .min d a b => Sys2Proof.Machine.execMin d a b s
  | .max d a b => Sys2Proof.Machine.execMax d a b s
  | .minu d a b => Sys2Proof.Machine.execMinu d a b s
  | .maxu d a b => Sys2Proof.Machine.execMaxu d a b s
  | .clz d a => Sys2Proof.Machine.execClz d a s
  | .ctz d a => Sys2Proof.Machine.execCtz d a s
  | .popc d a => Sys2Proof.Machine.execPopc d a s
  | .sextb d a => Sys2Proof.Machine.execSextb d a s
  | .sexth d a => Sys2Proof.Machine.execSexth d a s
  | .sextw d a => Sys2Proof.Machine.execSextw d a s
  | .zextw d a => Sys2Proof.Machine.execZextw d a s
  | .ceq d a b => Sys2Proof.Machine.execCeq d a b s
  | .cne d a b => Sys2Proof.Machine.execCne d a b s
  | .clt d a b => Sys2Proof.Machine.execClt d a b s
  | .cltu d a b => Sys2Proof.Machine.execCltu d a b s
  | .cle d a b => Sys2Proof.Machine.execCle d a b s
  | .cleu d a b => Sys2Proof.Machine.execCleu d a b s
  | .pand d a b => Sys2Proof.Machine.execPand d a b s
  | .por d a b => Sys2Proof.Machine.execPor d a b s
  | .pxor d a b => Sys2Proof.Machine.execPxor d a b s
  | .pandn d a b => Sys2Proof.Machine.execPandn d a b s
  | .pnot d a => Sys2Proof.Machine.execPnot d a s
  | .pset d v => Sys2Proof.Machine.execPset d v s
  | .sel d a b p => Sys2Proof.Machine.execSel d a b p s
  | .pmovg d a => Sys2Proof.Machine.execPmovg d a s
  | .gmovp d a => Sys2Proof.Machine.execGmovp d a s
  | .addi d a imm => Sys2Proof.Machine.execAddi d a imm s
  | .andi d a imm => Sys2Proof.Machine.execAndi d a imm s
  | .ori d a imm => Sys2Proof.Machine.execOri d a imm s
  | .xori d a imm => Sys2Proof.Machine.execXori d a imm s
  | .li d imm => Sys2Proof.Machine.execLi d imm s
  | .lih d imm => Sys2Proof.Machine.execLih d imm s
  | .cmpiEq p a imm => Sys2Proof.Machine.execCmpiEq p a imm s
  | .cmpiNe p a imm => Sys2Proof.Machine.execCmpiNe p a imm s
  | .cmpiLt p a imm => Sys2Proof.Machine.execCmpiLt p a imm s
  | .cmpiLtu p a imm => Sys2Proof.Machine.execCmpiLtu p a imm s
  | .br p v o => Sys2Proof.Machine.execBr p v o s
  | .jmp o => Sys2Proof.Machine.execJmp o s
  | .call o => Sys2Proof.Machine.execCall o s
  | .jr a => Sys2Proof.Machine.execJr a s
  | .callr a => Sys2Proof.Machine.execCallr a s
  | .ret => Sys2Proof.Machine.execRet s
  | .ldb d a imm => Sys2Proof.Machine.execLdb d a imm s
  | .ldh d a imm => Sys2Proof.Machine.execLdh d a imm s
  | .ldw d a imm => Sys2Proof.Machine.execLdw d a imm s
  | .ldd d a imm => Sys2Proof.Machine.execLdd d a imm s
  | .ldbu d a imm => Sys2Proof.Machine.execLdbu d a imm s
  | .ldhu d a imm => Sys2Proof.Machine.execLdhu d a imm s
  | .ldwu d a imm => Sys2Proof.Machine.execLdwu d a imm s
  | .stb d a imm => Sys2Proof.Machine.execStb d a imm s
  | .sth d a imm => Sys2Proof.Machine.execSth d a imm s
  | .stw d a imm => Sys2Proof.Machine.execStw d a imm s
  | .std d a imm => Sys2Proof.Machine.execStd d a imm s
  | .ldp d a imm => Sys2Proof.Machine.execLdp d a imm s
  | .stp d a imm => Sys2Proof.Machine.execStp d a imm s
  | .aadd d a b v w => Sys2Proof.Machine.execAadd d a b v w s
  | .aand d a b v w => Sys2Proof.Machine.execAand d a b v w s
  | .aor d a b v w => Sys2Proof.Machine.execAor d a b v w s
  | .axor d a b v w => Sys2Proof.Machine.execAxor d a b v w s
  | .amin d a b v w => Sys2Proof.Machine.execAmin d a b v w s
  | .amax d a b v w => Sys2Proof.Machine.execAmax d a b v w s
  | .aminu d a b v w => Sys2Proof.Machine.execAminu d a b v w s
  | .amaxu d a b v w => Sys2Proof.Machine.execAmaxu d a b v w s
  | .axchg d a b v w => Sys2Proof.Machine.execAxchg d a b v w s
  | .acas d a b v w => Sys2Proof.Machine.execAcas d a b v w s
  | .fxaddAmo d a b v => Sys2Proof.Machine.execFxaddAmo d a b v s
  | .prefR a imm => Sys2Proof.Machine.execPrefR a imm s
  | .prefW a imm => Sys2Proof.Machine.execPrefW a imm s
  | .join d a => Sys2Proof.Machine.execJoin d a s
  | .leave a => Sys2Proof.Machine.execLeave a s
  | .arrive a => Sys2Proof.Machine.execArrive a s
  | .gwait a => Sys2Proof.Machine.execGwait a s
  | .gsize d a => Sys2Proof.Machine.execGsize d a s
  | .yield => Sys2Proof.Machine.execYield s
  | .exit => Sys2Proof.Machine.execExit s
  | .setrole n => Sys2Proof.Machine.execSetrole n s
  | .tidOf d => Sys2Proof.Machine.execTidOf d s
  | .launch d a => Sys2Proof.Machine.execLaunch d a s
  | .twaitany d a => Sys2Proof.Machine.execTwaitany d a s
  | .twaitall a => Sys2Proof.Machine.execTwaitall a s
  | .tffr d a => Sys2Proof.Machine.execTffr d a s
  | .tclr a => Sys2Proof.Machine.execTclr a s
  | .ttest d a => Sys2Proof.Machine.execTtest d a s
  | .apbase d a => Sys2Proof.Machine.execApbase d a s
  | .apdim d a b n => Sys2Proof.Machine.execApdim d a b n s
  | .apmode d a => Sys2Proof.Machine.execApmode d a s
  | .apidx d a => Sys2Proof.Machine.execApidx d a s
  | .apget d a n => Sys2Proof.Machine.execApget d a n s
  | .node d a => Sys2Proof.Machine.execNode d a s
  | .trc a => Sys2Proof.Machine.execTrc a s
  | .walk d a => Sys2Proof.Machine.execWalk d a s
  | .step a => Sys2Proof.Machine.execStep a s
  | .brk imm => Sys2Proof.Machine.execBrk imm s
  | .sload p a t v => Sys2Proof.Machine.execSload p a t v s
  | .sread p a t v => Sys2Proof.Machine.execSread p a t v s
  | .sstore p a t v => Sys2Proof.Machine.execSstore p a t v s
  | .sgather p a t v => Sys2Proof.Machine.execSgather p a t v s
  | .sscatter p a t v => Sys2Proof.Machine.execSscatter p a t v s
  | .scell p n c v => Sys2Proof.Machine.execScell p n c v s
  | .sbar n => Sys2Proof.Machine.execSbar n s
  | .sdrain c => Sys2Proof.Machine.execSdrain c s
  | .sedge n t => Sys2Proof.Machine.execSedge n t s
  | .sqry n t => Sys2Proof.Machine.execSqry n t s
  | .scfg n t c => Sys2Proof.Machine.execScfg n t c s
  | .sswap n c => Sys2Proof.Machine.execSswap n c s
  | .sarg p n => Sys2Proof.Machine.execSarg p n s
  | .ssplice n t => Sys2Proof.Machine.execSsplice n t s
  | .scancel n t => Sys2Proof.Machine.execScancel n t s
  | .mxmode f => Sys2Proof.Machine.execMxmode f s
  | .mxpanel n => Sys2Proof.Machine.execMxpanel n s
  | .mxrun a t m c => Sys2Proof.Machine.execMxrun a t m c s
  | .mxdrain a d f t => Sys2Proof.Machine.execMxdrain a d f t s
  | .mxzero t => Sys2Proof.Machine.execMxzero t s
  | .mxadp a b v => Sys2Proof.Machine.execMxadp a b v s
  | .mxcode a imm => Sys2Proof.Machine.execMxcode a imm s
  | .mxstat a v => Sys2Proof.Machine.execMxstat a v s
  | .rbload a c => Sys2Proof.Machine.execRbload a c s
  | .rbctx c => Sys2Proof.Machine.execRbctx c s
  | .rbrun a => Sys2Proof.Machine.execRbrun a s
  | .rbxmode n k p => Sys2Proof.Machine.execRbxmode n k p s
  | .rbstat a v => Sys2Proof.Machine.execRbstat a v s
  | .oxdecl a v => Sys2Proof.Machine.execOxdecl a v s
  | .oxsplit v => Sys2Proof.Machine.execOxsplit v s
  | .oxmerge v => Sys2Proof.Machine.execOxmerge v s
  | .oxpin p v => Sys2Proof.Machine.execOxpin p v s
  | .oxqry a v => Sys2Proof.Machine.execOxqry a v s
  | .rtset a e => Sys2Proof.Machine.execRtset a e s
  | .mcset a b g => Sys2Proof.Machine.execMcset a b g s
  | .mcsetX a b h g => Sys2Proof.Machine.execMcsetX a b h g s
  | .racecfg a u => Sys2Proof.Machine.execRacecfg a u s
  | .gateset a g => Sys2Proof.Machine.execGateset a g s
  | .loopset a l => Sys2Proof.Machine.execLoopset a l s
  | .elemNop x => Sys2Proof.Machine.execElemNop x s
  | .mov x => Sys2Proof.Machine.execMov x s
  | .pass x => Sys2Proof.Machine.execPass x s
  | .keyx x => Sys2Proof.Machine.execKeyx x s
  | .keys x => Sys2Proof.Machine.execKeys x s
  | .cntdn x => Sys2Proof.Machine.execCntdn x s
  | .oxpiv x => Sys2Proof.Machine.execOxpiv x s
  | .oxend x => Sys2Proof.Machine.execOxend x s
  | .fadd x => Sys2Proof.Machine.execFadd x s
  | .fsub x => Sys2Proof.Machine.execFsub x s
  | .fmul x => Sys2Proof.Machine.execFmul x s
  | .fma x => Sys2Proof.Machine.execFma x s
  | .fms x => Sys2Proof.Machine.execFms x s
  | .fmin x => Sys2Proof.Machine.execFmin x s
  | .fmax x => Sys2Proof.Machine.execFmax x s
  | .fabs x => Sys2Proof.Machine.execFabs x s
  | .fneg x => Sys2Proof.Machine.execFneg x s
  | .fscl x => Sys2Proof.Machine.execFscl x s
  | .fred x => Sys2Proof.Machine.execFred x s
  | .frmax x => Sys2Proof.Machine.execFrmax x s
  | .fcmpeq x => Sys2Proof.Machine.execFcmpeq x s
  | .fcmplt x => Sys2Proof.Machine.execFcmplt x s
  | .fcmple x => Sys2Proof.Machine.execFcmple x s
  | .fsel x => Sys2Proof.Machine.execFsel x s
  | .iadd x => Sys2Proof.Machine.execIadd x s
  | .isub x => Sys2Proof.Machine.execIsub x s
  | .imul x => Sys2Proof.Machine.execImul x s
  | .imac4 x => Sys2Proof.Machine.execImac4 x s
  | .asub3 x => Sys2Proof.Machine.execAsub3 x s
  | .imin x => Sys2Proof.Machine.execImin x s
  | .imax x => Sys2Proof.Machine.execImax x s
  | .ishl x => Sys2Proof.Machine.execIshl x s
  | .ishr x => Sys2Proof.Machine.execIshr x s
  | .isar x => Sys2Proof.Machine.execIsar x s
  | .iand x => Sys2Proof.Machine.execIand x s
  | .ior x => Sys2Proof.Machine.execIor x s
  | .ixor x => Sys2Proof.Machine.execIxor x s
  | .inot x => Sys2Proof.Machine.execInot x s
  | .icmpeq x => Sys2Proof.Machine.execIcmpeq x s
  | .icmplt x => Sys2Proof.Machine.execIcmplt x s
  | .cvt x => Sys2Proof.Machine.execCvt x s
  | .qnt8 x => Sys2Proof.Machine.execQnt8 x s
  | .dqnt x => Sys2Proof.Machine.execDqnt x s
  | .unp3 x => Sys2Proof.Machine.execUnp3 x s
  | .pk3 x => Sys2Proof.Machine.execPk3 x s
  | .lmul x => Sys2Proof.Machine.execLmul x s
  | .lacc x => Sys2Proof.Machine.execLacc x s
  | .fxcvt x => Sys2Proof.Machine.execFxcvt x s
  | .fxadd x => Sys2Proof.Machine.execFxadd x s
  | .perm x => Sys2Proof.Machine.execPerm x s
  | .bcast x => Sys2Proof.Machine.execBcast x s
  | .clamp x => Sys2Proof.Machine.execClamp x s
  | .kcmp x => Sys2Proof.Machine.execKcmp x s
  | .ksel x => Sys2Proof.Machine.execKsel x s
  | .illDecode w => Sys2Proof.Machine.execIllDecode w s
  | .fenceComplete c t => Sys2Proof.Machine.execFenceComplete c t s
  | .tlbinvComplete c t => Sys2Proof.Machine.execTlbinvComplete c t s
  | .multiclockDone c t => Sys2Proof.Machine.execMulticlockDone c t s
  | .dcacheLineFill c t => Sys2Proof.Machine.execDcacheLineFill c t s
  | .icacheLineFill c t => Sys2Proof.Machine.execIcacheLineFill c t s
  | .storePerformed c => Sys2Proof.Machine.execStorePerformed c s
  | .poolAccessDone c t => Sys2Proof.Machine.execPoolAccessDone c t s
  | .mailboxDelivery c q => Sys2Proof.Machine.execMailboxDelivery c q s
  | .amoPerformed c t => Sys2Proof.Machine.execAmoPerformed c t s
  | .pageWalk c who => Sys2Proof.Machine.execPageWalk c who s
  | .groupOpApplied c t => Sys2Proof.Machine.execGroupOpApplied c t s
  | .tagWaitSatisfied c t => Sys2Proof.Machine.execTagWaitSatisfied c t s
  | .nodeRemoteReturn c t => Sys2Proof.Machine.execNodeRemoteReturn c t s
  | .walkLink c t => Sys2Proof.Machine.execWalkLink c t s
  | .bindSlotTaken c t => Sys2Proof.Machine.execBindSlotTaken c t s
  | .drainTokenInject c p => Sys2Proof.Machine.execDrainTokenInject c p s
  | .scfgCheckDone c k => Sys2Proof.Machine.execScfgCheckDone c k s
  | .scfgLoadDone c k => Sys2Proof.Machine.execScfgLoadDone c k s
  | .spliceDone c k => Sys2Proof.Machine.execSpliceDone c k s
  | .streamRelease c k => Sys2Proof.Machine.execStreamRelease c k s
  | .loaderReadIssue c k => Sys2Proof.Machine.execLoaderReadIssue c k s
  | .loaderReadReturn c k => Sys2Proof.Machine.execLoaderReadReturn c k s
  | .sinkCellConsume c k => Sys2Proof.Machine.execSinkCellConsume c k s
  | .sinkWritePerformed c k => Sys2Proof.Machine.execSinkWritePerformed c k s
  | .streamComplete c k => Sys2Proof.Machine.execStreamComplete c k s
  | .meJobQueueFree c t => Sys2Proof.Machine.execMeJobQueueFree c t s
  | .meFire c => Sys2Proof.Machine.execMeFire c s
  | .meDrainRow c => Sys2Proof.Machine.execMeDrainRow c s
  | .meZeroRow c => Sys2Proof.Machine.execMeZeroRow c s
  | .mePanelCell c q => Sys2Proof.Machine.execMePanelCell c q s
  | .mePreload c x => Sys2Proof.Machine.execMePreload c x s
  | .meSteerToken c x => Sys2Proof.Machine.execMeSteerToken c x s
  | .mePassBoundary c => Sys2Proof.Machine.execMePassBoundary c s
  | .meDrnDiscard c p => Sys2Proof.Machine.execMeDrnDiscard c p s
  | .adapterFetch c => Sys2Proof.Machine.execAdapterFetch c s
  | .adapterFactorCell c x => Sys2Proof.Machine.execAdapterFactorCell c x s
  | .rbLoadCell c => Sys2Proof.Machine.execRbLoadCell c s
  | .rbLoadDone c => Sys2Proof.Machine.execRbLoadDone c s
  | .rbInput c => Sys2Proof.Machine.execRbInput c s
  | .rbEvalGroup c => Sys2Proof.Machine.execRbEvalGroup c s
  | .rbOutput c => Sys2Proof.Machine.execRbOutput c s
  | .rbRunDone c => Sys2Proof.Machine.execRbRunDone c s
  | .rbContextSwitch c => Sys2Proof.Machine.execRbContextSwitch c s
  | .rbModeApply c => Sys2Proof.Machine.execRbModeApply c s
  | .rbPassBoundary c => Sys2Proof.Machine.execRbPassBoundary c s
  | .rbDrnDiscard c p => Sys2Proof.Machine.execRbDrnDiscard c p s
  | .overloadDetect c v => Sys2Proof.Machine.execOverloadDetect c v s
  | .underloadDetect c v => Sys2Proof.Machine.execUnderloadDetect c v s
  | .oxbowApproval c v => Sys2Proof.Machine.execOxbowApproval c v s
  | .oxbowRefusal c v => Sys2Proof.Machine.execOxbowRefusal c v s
  | .cloneDone c v => Sys2Proof.Machine.execCloneDone c v s
  | .splHead c e => Sys2Proof.Machine.execSplHead c e s
  | .oxbowSwitch c v => Sys2Proof.Machine.execOxbowSwitch c v s
  | .oxbowForward c e => Sys2Proof.Machine.execOxbowForward c e s
  | .rdeInject c e => Sys2Proof.Machine.execRdeInject c e s
  | .rdeConsumed c e => Sys2Proof.Machine.execRdeConsumed c e s
  | .holdRelease c e => Sys2Proof.Machine.execHoldRelease c e s
  | .mergeStart c v => Sys2Proof.Machine.execMergeStart c v s
  | .twinQuiescent c v => Sys2Proof.Machine.execTwinQuiescent c v s
  | .mergeDone c v => Sys2Proof.Machine.execMergeDone c v s
  | .oxbowTagSet c => Sys2Proof.Machine.execOxbowTagSet c s
  | .descriptorReadDone c t => Sys2Proof.Machine.execDescriptorReadDone c t s
  | .elementDrain c e => Sys2Proof.Machine.execElementDrain c e s
  | .cellAdmit c p => Sys2Proof.Machine.execCellAdmit c p s
  | .weirMatch c => Sys2Proof.Machine.execWeirMatch c s
  | .cellDelivery c p => Sys2Proof.Machine.execCellDelivery c p s
  | .rdvSetRelease c e => Sys2Proof.Machine.execRdvSetRelease c e s
  | .rdvStallFault c e => Sys2Proof.Machine.execRdvStallFault c e s
  | .loopFault c l => Sys2Proof.Machine.execLoopFault c l s
  | .crossbarArrival c n => Sys2Proof.Machine.execCrossbarArrival c n s
  | .crossbarFanout c n => Sys2Proof.Machine.execCrossbarFanout c n s
  | .raceScore c u => Sys2Proof.Machine.execRaceScore c u s
  | .raceEnd c u => Sys2Proof.Machine.execRaceEnd c u s
  | .gateFire c g => Sys2Proof.Machine.execGateFire c g s
  | .bankWrite c b => Sys2Proof.Machine.execBankWrite c b s
  | .bankRead c b => Sys2Proof.Machine.execBankRead c b s
  | .bankAdd c b => Sys2Proof.Machine.execBankAdd c b s
  | .bankFxadd c b => Sys2Proof.Machine.execBankFxadd c b s
  | .bankMin c b => Sys2Proof.Machine.execBankMin c b s
  | .bankMax c b => Sys2Proof.Machine.execBankMax c b s
  | .bankTasb c b => Sys2Proof.Machine.execBankTasb c b s
  | .bankCas c b => Sys2Proof.Machine.execBankCas c b s
  | .bankXchg c b => Sys2Proof.Machine.execBankXchg c b s
  | .bankGather c b => Sys2Proof.Machine.execBankGather c b s
  | .bankScatter c b => Sys2Proof.Machine.execBankScatter c b s
  | .bankZero c b => Sys2Proof.Machine.execBankZero c b s
  | .bankOwn c b => Sys2Proof.Machine.execBankOwn c b s
  | .bankDrn c b => Sys2Proof.Machine.execBankDrn c b s
  | .bankSreadRead c b => Sys2Proof.Machine.execBankSreadRead c b s
  | .patrolRead w corrected => Sys2Proof.Machine.execPatrolRead w corrected s
  | .faultRecordPost c => Sys2Proof.Machine.execFaultRecordPost c s
  | .wdogExpire id => Sys2Proof.Machine.execWdogExpire id s
  | .taskStop id => Sys2Proof.Machine.execTaskStop id s
  | .launchReservation => Sys2Proof.Machine.execLaunchReservation s
  | .gangStart => Sys2Proof.Machine.execGangStart s
  | .firstIssue id => Sys2Proof.Machine.execFirstIssue id s
  | .taskEnd id => Sys2Proof.Machine.execTaskEnd id s
  | .sluiceRead h m => Sys2Proof.Machine.execSluiceRead h m s
  | .attestationRead h nonce => Sys2Proof.Machine.execAttestationRead h nonce s
  | .sluiceWrite h m => Sys2Proof.Machine.execSluiceWrite h m s
  | .submitLaunch h m => Sys2Proof.Machine.execSubmitLaunch h m s
  | .submitGraph h m => Sys2Proof.Machine.execSubmitGraph h m s
  | .timeMessage h m slewPpm => Sys2Proof.Machine.execTimeMessage h m slewPpm s
  | .roundData link m => Sys2Proof.Machine.execRoundData link m s
  | .roundCommit c k => Sys2Proof.Machine.execRoundCommit c k s
  | .roundVoid c k => Sys2Proof.Machine.execRoundVoid c k s
  | .peerCellSend c k => Sys2Proof.Machine.execPeerCellSend c k s
  | .commitMsg link m => Sys2Proof.Machine.execCommitMsg link m s
  | .voidMsg link m => Sys2Proof.Machine.execVoidMsg link m s
  | .roundTimeout c k => Sys2Proof.Machine.execRoundTimeout c k s
  | .ackMsg link m => Sys2Proof.Machine.execAckMsg link m s
  | .debugRequest h m => Sys2Proof.Machine.execDebugRequest h m s
  | .debugHostCommand h m => Sys2Proof.Machine.execDebugHostCommand h m s
  | .debugOutput c => Sys2Proof.Machine.execDebugOutput c s
  | .dbgWriteSt c => Sys2Proof.Machine.execDbgWriteSt c s
  | .dbgWriteD c => Sys2Proof.Machine.execDbgWriteD c s
  | .dbgWriteSf c => Sys2Proof.Machine.execDbgWriteSf c s
  | .dbgWriteP c => Sys2Proof.Machine.execDbgWriteP c s
  | .dbgWriteEsr c => Sys2Proof.Machine.execDbgWriteEsr c s
  | .dbgWriteHead c => Sys2Proof.Machine.execDbgWriteHead c s
  | .dbgWriteTable c => Sys2Proof.Machine.execDbgWriteTable c s
  | .dbgTraceEnable c => Sys2Proof.Machine.execDbgTraceEnable c s
  | .dbgSetBe c => Sys2Proof.Machine.execDbgSetBe c s
  | .frameDiscard port f => Sys2Proof.Machine.execFrameDiscard port f s
  | .linkLoss link => Sys2Proof.Machine.execLinkLoss link s
  | .thermalReading t0 t1 t2 t3 => Sys2Proof.Machine.execThermalReading t0 t1 t2 t3 s
  | .thermalTrip temp => Sys2Proof.Machine.execThermalTrip temp s
  | .thermalTripClear temp => Sys2Proof.Machine.execThermalTripClear temp s
  | .powerOnBoot => Sys2Proof.Machine.execPowerOnBoot s
  | .firmwareModuleLoad image => Sys2Proof.Machine.execFirmwareModuleLoad image s
  | .moduleReset => Sys2Proof.Machine.execModuleReset s
  | .spareBringIn r => Sys2Proof.Machine.execSpareBringIn r s
  | .regWrite c t sr v => Sys2Proof.Machine.execRegWrite c t sr v s
  | .tableFault => Sys2Proof.Machine.execTableFault s
  | .launchRecordQueued c t => Sys2Proof.Machine.execLaunchRecordQueued c t s
  | .firmwarePolicySet p => Sys2Proof.Machine.execFirmwarePolicySet p s
  | .datagramDiscard m => Sys2Proof.Machine.execDatagramDiscard m s

end Sys2Proof.Machine
end

