-- ==== Sys2Proof/Machine/EventRun.lean ====
section
/-! DEFINITION. An event of the schedule: the meaning that exec gives the instruction of the same name (Laws/Event.lean proves it). -/

namespace Sys2Proof.Machine

def runEvent (e : Event) (s : State) : Host.Outcome State Fault Refusal :=
  match e with
  | .illDecode w => execIllDecode w s
  | .fenceComplete c t => execFenceComplete c t s
  | .tlbinvComplete c t => execTlbinvComplete c t s
  | .multiclockDone c t => execMulticlockDone c t s
  | .dcacheLineFill c t => execDcacheLineFill c t s
  | .icacheLineFill c t => execIcacheLineFill c t s
  | .storePerformed c => execStorePerformed c s
  | .poolAccessDone c t => execPoolAccessDone c t s
  | .mailboxDelivery c q => execMailboxDelivery c q s
  | .amoPerformed c t => execAmoPerformed c t s
  | .pageWalk c who => execPageWalk c who s
  | .groupOpApplied c t => execGroupOpApplied c t s
  | .tagWaitSatisfied c t => execTagWaitSatisfied c t s
  | .nodeRemoteReturn c t => execNodeRemoteReturn c t s
  | .walkLink c t => execWalkLink c t s
  | .bindSlotTaken c t => execBindSlotTaken c t s
  | .drainTokenInject c p => execDrainTokenInject c p s
  | .scfgCheckDone c k => execScfgCheckDone c k s
  | .scfgLoadDone c k => execScfgLoadDone c k s
  | .spliceDone c k => execSpliceDone c k s
  | .streamRelease c k => execStreamRelease c k s
  | .loaderReadIssue c k => execLoaderReadIssue c k s
  | .loaderReadReturn c k => execLoaderReadReturn c k s
  | .sinkCellConsume c k => execSinkCellConsume c k s
  | .sinkWritePerformed c k => execSinkWritePerformed c k s
  | .streamComplete c k => execStreamComplete c k s
  | .meJobQueueFree c t => execMeJobQueueFree c t s
  | .meFire c => execMeFire c s
  | .meDrainRow c => execMeDrainRow c s
  | .meZeroRow c => execMeZeroRow c s
  | .mePanelCell c q => execMePanelCell c q s
  | .mePreload c x => execMePreload c x s
  | .meSteerToken c x => execMeSteerToken c x s
  | .mePassBoundary c => execMePassBoundary c s
  | .meDrnDiscard c p => execMeDrnDiscard c p s
  | .adapterFetch c => execAdapterFetch c s
  | .adapterFactorCell c x => execAdapterFactorCell c x s
  | .rbLoadCell c => execRbLoadCell c s
  | .rbLoadDone c => execRbLoadDone c s
  | .rbInput c => execRbInput c s
  | .rbEvalGroup c => execRbEvalGroup c s
  | .rbOutput c => execRbOutput c s
  | .rbRunDone c => execRbRunDone c s
  | .rbContextSwitch c => execRbContextSwitch c s
  | .rbModeApply c => execRbModeApply c s
  | .rbPassBoundary c => execRbPassBoundary c s
  | .rbDrnDiscard c p => execRbDrnDiscard c p s
  | .overloadDetect c v => execOverloadDetect c v s
  | .underloadDetect c v => execUnderloadDetect c v s
  | .oxbowApproval c v => execOxbowApproval c v s
  | .oxbowRefusal c v => execOxbowRefusal c v s
  | .cloneDone c v => execCloneDone c v s
  | .splHead c e => execSplHead c e s
  | .oxbowSwitch c v => execOxbowSwitch c v s
  | .oxbowForward c e => execOxbowForward c e s
  | .rdeInject c e => execRdeInject c e s
  | .rdeConsumed c e => execRdeConsumed c e s
  | .holdRelease c e => execHoldRelease c e s
  | .mergeStart c v => execMergeStart c v s
  | .twinQuiescent c v => execTwinQuiescent c v s
  | .mergeDone c v => execMergeDone c v s
  | .oxbowTagSet c => execOxbowTagSet c s
  | .descriptorReadDone c t => execDescriptorReadDone c t s
  | .elementDrain c e => execElementDrain c e s
  | .cellAdmit c p => execCellAdmit c p s
  | .weirMatch c => execWeirMatch c s
  | .cellDelivery c p => execCellDelivery c p s
  | .rdvSetRelease c e => execRdvSetRelease c e s
  | .rdvStallFault c e => execRdvStallFault c e s
  | .loopFault c l => execLoopFault c l s
  | .crossbarArrival c n => execCrossbarArrival c n s
  | .crossbarFanout c n => execCrossbarFanout c n s
  | .raceScore c u => execRaceScore c u s
  | .raceEnd c u => execRaceEnd c u s
  | .gateFire c g => execGateFire c g s
  | .bankWrite c b => execBankWrite c b s
  | .bankRead c b => execBankRead c b s
  | .bankAdd c b => execBankAdd c b s
  | .bankFxadd c b => execBankFxadd c b s
  | .bankMin c b => execBankMin c b s
  | .bankMax c b => execBankMax c b s
  | .bankTasb c b => execBankTasb c b s
  | .bankCas c b => execBankCas c b s
  | .bankXchg c b => execBankXchg c b s
  | .bankGather c b => execBankGather c b s
  | .bankScatter c b => execBankScatter c b s
  | .bankZero c b => execBankZero c b s
  | .bankOwn c b => execBankOwn c b s
  | .bankDrn c b => execBankDrn c b s
  | .bankSreadRead c b => execBankSreadRead c b s
  | .patrolRead w corrected => execPatrolRead w corrected s
  | .faultRecordPost c => execFaultRecordPost c s
  | .wdogExpire id => execWdogExpire id s
  | .taskStop id => execTaskStop id s
  | .launchReservation => execLaunchReservation s
  | .gangStart => execGangStart s
  | .firstIssue id => execFirstIssue id s
  | .taskEnd id => execTaskEnd id s
  | .sluiceRead h m => execSluiceRead h m s
  | .attestationRead h nonce => execAttestationRead h nonce s
  | .sluiceWrite h m => execSluiceWrite h m s
  | .submitLaunch h m => execSubmitLaunch h m s
  | .submitGraph h m => execSubmitGraph h m s
  | .timeMessage h m slewPpm => execTimeMessage h m slewPpm s
  | .roundData link m => execRoundData link m s
  | .roundCommit c k => execRoundCommit c k s
  | .roundVoid c k => execRoundVoid c k s
  | .peerCellSend c k => execPeerCellSend c k s
  | .commitMsg link m => execCommitMsg link m s
  | .voidMsg link m => execVoidMsg link m s
  | .roundTimeout c k => execRoundTimeout c k s
  | .ackMsg link m => execAckMsg link m s
  | .debugRequest h m => execDebugRequest h m s
  | .debugHostCommand h m => execDebugHostCommand h m s
  | .debugOutput c => execDebugOutput c s
  | .dbgWriteSt c => execDbgWriteSt c s
  | .dbgWriteD c => execDbgWriteD c s
  | .dbgWriteSf c => execDbgWriteSf c s
  | .dbgWriteP c => execDbgWriteP c s
  | .dbgWriteEsr c => execDbgWriteEsr c s
  | .dbgWriteHead c => execDbgWriteHead c s
  | .dbgWriteTable c => execDbgWriteTable c s
  | .dbgTraceEnable c => execDbgTraceEnable c s
  | .dbgSetBe c => execDbgSetBe c s
  | .frameDiscard port f => execFrameDiscard port f s
  | .linkLoss link => execLinkLoss link s
  | .thermalReading t0 t1 t2 t3 => execThermalReading t0 t1 t2 t3 s
  | .thermalTrip temp => execThermalTrip temp s
  | .thermalTripClear temp => execThermalTripClear temp s
  | .powerOnBoot => execPowerOnBoot s
  | .firmwareModuleLoad image => execFirmwareModuleLoad image s
  | .moduleReset => execModuleReset s
  | .spareBringIn r => execSpareBringIn r s
  | .regWrite c t sr v => execRegWrite c t sr v s
  | .tableFault => execTableFault s
  | .launchRecordQueued c t => execLaunchRecordQueued c t s
  | .firmwarePolicySet p => execFirmwarePolicySet p s
  | .datagramDiscard m => execDatagramDiscard m s

end Sys2Proof.Machine
end

