-- ==== Sys2Proof/Machine/Schedule.lean ====
section
/-! DEFINITION. The clock: which thread a sequencer issues (R89), which entry an element fires (R120), what every unit does by itself at
the end of a slot, the counts of a slot, and the acts of a slot when the schedule names none (log entry 1). -/

namespace Sys2Proof.Machine

/-! ## Issue (R89-R92) -/

/-- A READY thread's age (R89). -/
def Thread.age (t : Thread) (slot : Nat) : Nat := slot - t.readyAt

/-- Whether a thread may issue in this slot. -/
def Thread.canIssue (t : Thread) (slot : Nat) : Bool := t.st == .ready && decide (t.readyAt ≤ slot)

/-- The threads that compete in this slot: one that has yielded in the slot before only when no other is READY (R333). -/
def Core.candidates (x : Core) (slot : Nat) : List Tid :=
  let l := (List.finRange 16).filter (fun t => (x.thr t).canIssue slot)
  let m := l.filter (fun t => (x.thr t).yielded != some slot)
  if m.isEmpty then l else m

/-- The TIDs counted upwards from one past a thread (R89). -/
def tidsAfter (t : Tid) : List Tid := (List.finRange 16).map (fun i => t + 1 + i)

/-- The thread that issues (R89): the oldest URGENT one, or the next in rotation of the highest ROLE. [log entry 10, DESIGN CHOICE] -/
def Core.pickThread (x : Core) (slot : Nat) : Option Tid :=
  let l := x.candidates slot
  let age (t : Tid) : Nat := (x.thr t).age slot
  let urgent := l.filter (fun t => decide (x.agelim.toNat ≤ age t + 15))
  if urgent.isEmpty then
    let top := l.foldl (fun m t => max m (x.thr t).role.toNat) 0
    (tidsAfter (vget x.rrLast top 15)).find? (fun t => l.contains t && (x.thr t).role.toNat == top)
  else
    let oldest := urgent.foldl (fun m t => max m (age t)) 0
    urgent.find? (fun t => age t == oldest)

/-- Whether threads of a task issue in a slot: it runs, or is to be stopped after the slot, and its watchdog has not run out (R86, R114, R353). -/
def Task.issues (t : Task) (slot : Nat) : Bool :=
  t.wdog != 0 && (match t.phase with | .running => true | .stopping _ n => n == slot | _ => false)

/-- Whether a core's sequencer issues for its task. -/
def State.seqRuns (s : State) (c : CoreId) : Bool :=
  match s.taskOf c with
  | some t => t.issues s.slot
  | none => false

/-- The thread of a core that issues in this slot. -/
def State.issuer? (s : State) (c : CoreId) : Option Tid :=
  if s.seqRuns c && decide ((s.core c).issueAt ≤ s.slot) then (s.core c).pickThread s.slot else none

/-- A thread's issue is noted: the sequencer's slot is taken, and the thread's age restarts (R89). -/
def Core.tookIssue (x : Core) (t : Tid) (slot : Nat) : Core :=
  let role := (x.thr t).role.toNat
  { (x.modThr t (fun y => { y with readyAt := slot + 1 })) with
    rrLast := vset x.rrLast role t, issueAt := slot + 1 }

/-- An instruction that waits for a page walk has not been issued yet: the count of issued instructions leaves it out. [log entry 15, DEDUCED] -/
def Thread.countIssue (t : Thread) : Thread :=
  match t.st, t.pend with
  | .parked, .walk _ _ => t
  | _, _ => { t with issued := t.issued + 1 }

/-- The instruction word w of the issuing thread is decoded and executed; a word of no form is the event of R59. -/
def State.runWord (s : State) (w : Nat) : Out :=
  match decodeWord w with
  | .ok i => exec i s
  | .error _ => exec (.illDecode (BitVec.ofNat 32 w)) s

/-- The issuing thread's slot is taken, and its word is executed. -/
def State.issueWord (s : State) (c : CoreId) (t : Tid) (w : Nat) : Out :=
  match State.runWord { (s.modCore c (fun x => x.tookIssue t s.slot)) with cur := (c, t) } w with
  | .next s' => .next (s'.modThr c t Thread.countIssue)
  | .fault f => .fault f
  | .refused r => .refused r

/-- The thread that R89 chooses issues its word. One whose fetch misses parks, and another READY thread issues in its place (R91): n threads
at most are tried. -/
def State.issueFrom (s : State) (c : CoreId) (n : Nat) : Out :=
  match n with
  | 0 => .next s
  | n + 1 =>
    match s.issuer? c with
    | none => .next s
    | some t =>
      match s.fetch c t with
      | .walk => (s.modThr c t (fun y => y.park (.walk y.pc .execute))).issueFrom c n
      | .miss line => (s.modThr c t (fun y => y.park (.ifetch line))).issueFrom c n
      | .word w => s.issueWord c t w

/-- The sequencer of a core issues at most one word (R54, R91). -/
def State.issue (s : State) (c : CoreId) : Out := s.issueFrom c 16

/-! ## Firing (R119-R122) -/

/-- The action word w of the firing element is executed; a reserved encoding is the event of R77. -/
def State.runEntry (s : State) (w : Nat) : Out :=
  if entryLegal w then
    match decodeEntry w with
    | some i => exec i s
    | none => exec .tableFault s
  else exec .tableFault s

/-- An element evaluates its table, and the entry that R120 selects fires. -/
def State.fireElem (s : State) (c : CoreId) (e : ElemId) : Out :=
  match s.select c e with
  | none => .next s
  | some i => State.runEntry { s with fire := { core := c, elem := e, entry := i } } ((s.core c).entryAt e i.val)

/-- The core of whose matrix engine, Reedbed or gates an event is an act. -/
def engineOf? (e : Event) : Option CoreId :=
  match e with
  | .mePanelCell c _ | .meSteerToken c _ | .mePreload c _ | .adapterFactorCell c _ | .adapterFetch c | .meFire c | .meDrainRow c
  | .meZeroRow c | .mePassBoundary c | .meDrnDiscard c _ | .rbLoadCell c | .rbLoadDone c | .rbModeApply c | .rbContextSwitch c
  | .rbInput c | .rbEvalGroup c | .rbOutput c | .rbRunDone c | .rbPassBoundary c | .rbDrnDiscard c _ | .gateFire c _ => some c
  | _ => none

/-- Whether a core's units fire no more: its task has ended or has been stopped, or it has none (R355, R356). -/
def State.engineStopped (s : State) (c : CoreId) : Bool :=
  match s.taskOf c with
  | some t => (match t.phase with | .starting | .running => false | .stopping _ n => decide (n < s.slot) | _ => true)
  | none => true

/-- A soft error arises (R258). A line of a cache, which carries parity and is clean, is dropped; a lane's error is counted (R376).
[log entry 96, DEDUCED] -/
def State.upset (s : State) (u : Upset) : State :=
  match u with
  | .hbm w true => { s with ecc := { s.ecc with hbm := s.ecc.hbm ++ [w] } }
  | .hbm w false => { s with ecc := { s.ecc with hbmSoft := s.ecc.hbmSoft ++ [w] } }
  | .pool w true => { s with ecc := { s.ecc with pool := s.ecc.pool ++ [w] } }
  | .pool w false => { s with ecc := { s.ecc with poolSoft := s.ecc.poolSoft ++ [w] } }
  | .spot p true => { s with ecc := { s.ecc with spots := s.ecc.spots ++ [p] } }
  | .spot p false => { s with ecc := { s.ecc with soft := s.ecc.soft ++ [p] } }
  | .dline c no => s.modCore c (fun x => { x with dcache := x.dcache.filter (fun l => l.no != no) })
  | .iline c no => s.modCore c (fun x => { x with icache := x.icache.filter (fun l => l.no != no) })
  | .lane n => { s with errs := { s.errs with lane := Sparse.set s.errs.lane n (Sparse.getD s.errs.lane n 0 + 1) } }

/-- One act of a slot. [log entry 1, DESIGN CHOICE] -/
def State.act (s : State) (a : Act) : Out :=
  match a with
  | .issue c => s.issue c
  | .fire c e => if s.engineStopped c then .next s else s.fireElem c e
  | .ev e => if (engineOf? e).any (fun c => s.engineStopped c) then .next s else runEvent e s
  | .upset u => .next (s.upset u)

/-- A head age: 16 bits, saturating (R170). -/
def ageUp (n : Nat) : Nat := min 65535 (n + 1)

/-! ## The counts of a slot (R178, R184, R187, R188, R325, R337) -/

/-- A queue's counts: matched, waiting with or without space, or empty (R178, R337). [log entry 93, DEDUCED] -/
def QStat.tick (q : QStat) (head space : Bool) : QStat :=
  if q.moved then { q with moved := false, moving := q.moving + 1, age := 0 }
  else if head then { q with full := q.full + 1, age := if space then ageUp q.age else q.age }
  else { q with age := 0 }

/-- A channel's counts (R337); its freed places are reported from the next slot (R174). held: its delivered cells that keep their places in it
(R242). -/
def Chan.tick (q : Chan) (slot held : Nat) : Chan :=
  let head := decide (0 < held) || (match q.cells with | y :: _ => decide (y.m.since ≤ slot) | [] => false)
  { q with
    freed := 0, moved := false, put := 0
    moving := if q.moved then q.moving + 1 else q.moving
    full := if q.moved then q.full else if head then q.full + 1 else q.full }

/-- Whether the head of a multicast queue is the one of which a member was matched in this slot. -/
def Core.mcStayed (x : Core) (slot : Nat) (m : McEntry) : Bool :=
  (List.range 128).any (fun p => (x.egAt p).flight.any (fun y => y.1 == slot && y.2.m.copy == m.cell.m.copy))

/-- A multicast queue's head age; y is the core as the space reports saw it, at the start of the slot (R174, R178). [log entry 93, DEDUCED] -/
def Core.mcAgeTick (x y : Core) (slot : Nat) (g : Ingress) : Nat :=
  match g.mcq with
  | [] => 0
  | m :: _ =>
    if slot < m.cell.m.since then 0
    else if g.mcMoved then (if x.mcStayed slot m then ageUp g.mcAge else g.mcAge)
    else if (List.range 128).any (fun i => m.residue.getLsbD i &&
        y.space i { m.cell with h := { m.cell.h with ep := BitVec.ofNat 7 i } }) then ageUp g.mcAge
    else g.mcAge

/-- A bucket gains its effective rate (R188, R374). [log entry 6, DESIGN CHOICE; log entry 94, DEDUCED] -/
def Bucket.gain (b : Bucket) (k : Nat) (tripped : Bool) : Bucket :=
  { b with level := min (b.depth * 1024) (b.level + (if tripped then 0 else b.rate * (16 - k) / 16)) }

/-- The end of a slot: the gain of the old setting, then a written RATE and DEPTH (R188, R374). -/
def Bucket.tick (b : Bucket) (k : Nat) (tripped : Bool) : Bucket :=
  let y := b.gain k tripped
  match y.late with
  | some (r, d) => { rate := r, depth := d, level := min y.level (d * 1024) }
  | none => y

/-- The ingress ports of a core at the end of a slot; y is the core as the space reports saw it. -/
def Core.ingTick (x y : Core) (c : CoreId) (slot k : Nat) (tripped : Bool) : Core :=
  { x with ing := Vector.ofFn (fun p =>
      let g := x.ing[p]
      let heads := g.heads slot
      { g with
        qstat := g.qstat.map (fun z => match heads.find? (fun c => qKey c.h.ep c.h.vc == z.1) with
          | some c => (z.1, z.2.tick true (y.space c.h.ep.toNat c))
          | none => (z.1, z.2.tick false false))
        mcAge := x.mcAgeTick y slot g, mcMoved := false, took := false, came := false
        waiting := (if g.frozen.map (fun f => f.kind) = some kLOOP then g.waiting else x.waitsFor c p.val)
        bucket := g.bucket.tick k tripped }) }

/-- The egress ports of a core at the end of a slot. -/
def Core.egTick (x : Core) (slot : Nat) : Core :=
  { x with eg := Vector.ofFn (fun p =>
      let g := x.eg[p]
      { g with
        chans := Vector.ofFn (fun i => (g.chans[i]).tick slot (if i.val = 0 then x.mailHeld p.val else 0))
        rdvGone := []
        rdvStall := (if g.rdv.length = 32 ∧ g.frozen.isNone then g.rdvStall + 1 else 0) }) }

/-- A loop budget's stall and quiet counts (R187, R337). -/
def LoopB.tick (b : LoopB) (waits : Bool) : LoopB :=
  { b with
    stall := (if b.budget.toNat ≤ b.inflight ∧ waits = true ∧ b.consumed = false ∧ b.frozen = false then b.stall + 1 else 0)
    quiet := (if b.inflight ≠ 0 ∨ b.active = true then 0 else if b.quiet = BitVec.allOnes 32 then b.quiet else b.quiet + 1)
    freed := 0, active := false, consumed := false }

def Core.loopTick (x : Core) (c : CoreId) : Core :=
  let waited := (List.range 128).filterMap (fun p => (x.waitsFor c p).map (fun w => w.loop))
  { x with loops := Vector.ofFn (fun l => (x.loops[l]).tick (waited.contains l)) }

/-- The counts of a core at the end of a slot; y is the core at its start. -/
def Core.counts (x y : Core) (c : CoreId) (slot k : Nat) (tripped : Bool) : Core :=
  let x := x.loopTick c
  let x := (x.ingTick y c slot k tripped).egTick slot
  { (x.mapThr (fun _ t => if t.st = .parked then { t with parkedClocks := t.parkedClocks + 1 } else t)) with
    banks := x.banks.map (fun b => { b with served := false }) }

/-! ## The end of a slot -/

/-- The tag bits of a slot: cleared, then set; a bit that changes from 0 to 1 sets EV in every thread (R109, R327). [log entry 88, DEDUCED] -/
def Core.tagTick (x : Core) (slot : Nat) : Core :=
  let rose := x.tbNext &&& ~~~x.tb
  let x := { x with tb := (x.tb &&& ~~~x.tbClr) ||| x.tbNext, tbNext := x.tbSoon, tbSoon := 0, tbClr := 0 }
  if rose = 0 then x else x.mapThr (fun _ t => t.setEv slot)

/-- A STEP's credit lasts one slot (R342), as the note of the engine's new flags does (R164); a written AGELIM serves the next arbitration (R90). [log entry 89, DEDUCED] -/
def Core.settle (x : Core) : Core :=
  { x with
    elems := x.elems.map (fun e => { e with credit := false })
    me := { x.me with fresh := 0 }
    weirCredit := false
    agelim := x.agelimNext.getD x.agelim, agelimNext := none }

/-- The firmware takes the cell at MGMT's head; a DRN crosses the port's boundary (R10, R21). [log entry 81, DEDUCED] -/
def State.mgmtTake (s : State) (c : CoreId) : State :=
  match (s.core c).head? s.slot 122 0 with
  | none => s
  | some y =>
    (s.popHead c 122 0).modCore c (fun x =>
      if y.h.tag = tDRN then (x.modEg 122 (fun g => { g with passes := g.passes + 1 })).cross 122 else x)

/-- A core at the end of a slot: writes that land now, timers, units that act by themselves, the pass boundary, the counts. -/
def State.tickCore (s : State) (c : CoreId) : State :=
  let s := s.modCore c (fun x => (x.settle.loadPending s.slot))
  let s := s.applyLate c
  let s := s.oxTimers c
  let s := s.modCore c (fun x => x.splEnter s.slot)
  let s := s.meTick c
  let s := (List.range 12).foldl (fun s n => s.netForward c n) s
  let s := (List.finRange 8).foldl (fun s q => s.storeDrn c q) s
  let s := (List.range 48).foldl (fun s b => s.sysPath c b) s
  let s := s.mgmtTake c
  let was := s.core c
  let y := s.atStart.core c
  let s := s.modCore c (fun x => (((x.pruneMasks.pruneDrn).swapTick c).counts y c s.slot s.throttle.val s.tripped).tagTick s.slot)
  match was.swap with
  | some w => if (s.core c).swap.isSome then s else s.clearSpots ((s.core c).swapSpots c w.slot (was.activeSlot? == some w.slot))
  | none => s

/-- The units of timeFrac in a nanosecond: a slot is 50/47 ns, slewed in parts per million (R3, R370). [log entry 4, DESIGN CHOICE] -/
def nsUnit : Nat := 47000000

/-- TIME at the end of a slot, or where a step put it (R82, R370). [log entry 4, DESIGN CHOICE] -/
def State.timeTick (s : State) : State :=
  match s.timeStep with
  | some v => { s with time := v, timeFrac := 0, timeStep := none }
  | none =>
    let n := s.timeFrac + 50 * (1000000 + s.slew).toNat
    { s with time := s.time + BitVec.ofNat 64 (n / nsUnit), timeFrac := n % nsUnit }

/-- A running task's watchdog at the end of a slot: a written count takes effect, or it falls by one (R86). It holds LIMIT while the task starts, and
the slot of FIRST_ISSUE is the first at whose end it falls. [log entry 134, DESIGN CHOICE] -/
def Task.wdogTick (t : Task) : Task :=
  if t.phase = .running then { t with wdog := t.wdogNext.getD (t.wdog - 1), wdogNext := none } else t

/-- The watchdogs of the running tasks. -/
def State.wdogTick (s : State) : State := { s with tasks := s.tasks.map Task.wdogTick }

/-- A new throttle level takes effect (R374). -/
def State.throttleTick (s : State) : State := { s with throttle := s.throttleNext.getD s.throttle, throttleNext := none }

/-! ## The acts of a slot -/

def thrActs (c : CoreId) (t : Tid) : List Event :=
  [.fenceComplete c t, .tlbinvComplete c t, .multiclockDone c t, .dcacheLineFill c t, .icacheLineFill c t, .amoPerformed c t,
   .poolAccessDone c t, .pageWalk c (.thread t), .groupOpApplied c t, .tagWaitSatisfied c t, .nodeRemoteReturn c t, .walkLink c t,
   .bindSlotTaken c t, .meJobQueueFree c t, .descriptorReadDone c t, .launchRecordQueued c t]

def strmActs (c : CoreId) (k : StrmId) : List Event :=
  [.pageWalk c (.stream k), .streamRelease c k, .scfgLoadDone c k, .scfgCheckDone c k, .spliceDone c k, .loaderReadReturn c k,
   .loaderReadIssue c k, .sinkWritePerformed c k, .sinkCellConsume c k, .peerCellSend c k, .roundCommit c k, .roundTimeout c k,
   .streamComplete c k]

def meActs (c : CoreId) : List Event :=
  (List.finRange 4).map (fun q => .mePanelCell c q) ++
  (List.finRange 2).flatMap (fun x => [.meSteerToken c x, .mePreload c x, .adapterFactorCell c x]) ++
  [.adapterFetch c, .meFire c, .meDrainRow c, .meZeroRow c, .mePassBoundary c] ++
  [80, 81, 82, 83, 84, 85, 86, 87].map (fun p => .meDrnDiscard c p)

def rbActs (c : CoreId) : List Event :=
  [.rbLoadCell c, .rbLoadDone c, .rbModeApply c, .rbContextSwitch c, .rbInput c, .rbEvalGroup c, .rbOutput c, .rbRunDone c,
   .rbPassBoundary c] ++ [88, 89, 90, 91, 92, 93, 94, 95].map (fun p => .rbDrnDiscard c p)

def stageActs (c : CoreId) (g : StageId) : List Event :=
  [.overloadDetect c g, .underloadDetect c g, .cloneDone c g, .oxbowSwitch c g, .mergeStart c g, .twinQuiescent c g, .mergeDone c g]

def bankActs (c : CoreId) (b : BankId) : List Event :=
  [.bankDrn c b, .bankWrite c b, .bankRead c b, .bankAdd c b, .bankFxadd c b, .bankMin c b, .bankMax c b, .bankTasb c b, .bankCas c b,
   .bankXchg c b, .bankGather c b, .bankScatter c b, .bankZero c b, .bankOwn c b, .bankSreadRead c b]

def elemActs (c : CoreId) (e : ElemId) : List Act :=
  [.ev (.oxbowForward c e), .ev (.rdeInject c e), .ev (.holdRelease c e), .ev (.rdeConsumed c e), .ev (.splHead c e),
   .ev (.elementDrain c e), .fire c e, .ev (.rdvSetRelease c e), .ev (.rdvStallFault c e)]

def dbgActs (c : CoreId) : List Event :=
  [.dbgWriteSt c, .dbgWriteD c, .dbgWriteSf c, .dbgWriteP c, .dbgWriteEsr c, .dbgWriteHead c, .dbgWriteTable c, .dbgTraceEnable c,
   .dbgSetBe c, .debugOutput c]

def weirActs (c : CoreId) : List Event :=
  (List.finRange 128).map (fun p => .cellDelivery c p) ++ (List.finRange 128).map (fun p => .cellAdmit c p) ++ [.weirMatch c] ++
  (List.finRange 12).flatMap (fun n => [.crossbarArrival c n, .crossbarFanout c n]) ++ (List.finRange 16).map (fun l => .loopFault c l)

/-- The acts of a core that has had a task. -/
def coreActs (c : CoreId) : List Act :=
  ((List.finRange 16).flatMap (fun t => thrActs c t)).map .ev ++
  (.ev (.storePerformed c) :: (List.finRange 4).map (fun q => Act.ev (.mailboxDelivery c q))) ++
  ((List.finRange 32).flatMap (fun k => strmActs c k)).map .ev ++
  (List.finRange 128).map (fun p => Act.ev (.drainTokenInject c p)) ++
  ((List.finRange 8).flatMap (fun g => stageActs c g)).map .ev ++
  (List.finRange 32).flatMap (fun e => elemActs c e) ++
  (meActs c ++ rbActs c ++ (List.finRange 48).flatMap (fun b => bankActs c b)).map .ev ++
  ((List.finRange 2).flatMap (fun u => [Event.raceScore c u, Event.raceEnd c u]) ++ (List.finRange 16).map (fun g => Event.gateFire c g) ++
    dbgActs c ++ weirActs c ++ [Event.oxbowTagSet c]).map .ev

/-- The acts for a task. -/
def taskActs (id : TaskId) : List Event := [.wdogExpire id, .taskStop id, .taskEnd id, .firstIssue id]

/-- The acts of a slot that the schedule leaves open: every sequencer issues, then every unit of the cores that have had a task acts, then
the launch hardware. What only the outside brings (hosts, peers, firmware decisions, temperatures, soft errors) is not among them. [log entry 1, DESIGN CHOICE] -/
def State.defaultAgenda (s : State) : List Act :=
  let live := (List.finRange 64).filter (fun c => (s.core c).task.isSome || (s.core c).prevTenant.isSome)
  let due (c : CoreId) : Nat := ((s.core c).faults.filter (fun r => decide (r.at_ < s.slot))).length
  live.map .issue ++ live.flatMap coreActs ++ live.flatMap (fun c => List.replicate (due c) (Act.ev (.faultRecordPost c))) ++ (s.tasks.flatMap (fun t => taskActs t.lrec.id)).map .ev ++
    [.ev .launchReservation, .ev .gangStart]

/-- The next slot's acts: the head of the script, or the default. [log entry 1, DESIGN CHOICE] -/
def State.nextAgenda (s : State) : State :=
  match s.script with
  | a :: r => { s with agenda := a, script := r }
  | [] => { s with agenda := s.defaultAgenda }

/-- The end of a slot: every core's, then the rings', the module's watchdogs, heads, TIME and throttle level; then the next slot begins. -/
def State.tick (s : State) : State :=
  let s := ((List.finRange 64).foldl (fun s c => s.tickCore c) s).ringTick
  let s := ((s.wdogTick.ageHeads).timeTick).throttleTick
  ({ s with slot := s.slot + 1 } : State).mark.nextAgenda

end Sys2Proof.Machine
end

