-- ==== Sys2Proof/Machine/Step.lean ====
section
/-! DEFINITION. The step: the next act of the slot, or the end of the slot when none is left; and the state in which the next act runs a
given instruction. -/

namespace Sys2Proof.Machine

/-- One step (log entry 1): the first act of the agenda takes place; with none left the slot ends. -/
def step (s : State) : Host.Outcome State Fault Refusal :=
  match s.agenda with
  | [] => .next s.tick
  | a :: r => State.act { s with agenda := r } a

/-- The task that withFetchWord places on core 0. [log entry 14, DESIGN CHOICE] -/
def placedTask (s : State) : Task :=
  { lrec := {
      cores := 1, place := none, tenant := 0, nthr := 1, scrub := false, ctlmask := 0, roles := 0, fring := none, limit := 1, entry := 0,
      trapva := 0, image := 0, oxres := 0, args := Vector.replicate 8 0, prints := [], id := s.nextTask, host := none }
    cores := [0], phase := .running, startAt := s.slot, first := some s.slot, wdog := 1, groups := [] }

/-- The physical address at which withFetchWord places the word of a PC: page 0 of HBM. -/
def placedPa (pc : VA) : Nat := pc.toNat % 2 ^ 16

/-- Core 0 with a sequencer word where thread 0 of it fetches: its page translated, its line in the instruction cache, the thread READY
and no other one. [log entry 14, DESIGN CHOICE] -/
def Core.placeWord (x : Core) (line : Line) (ten : Tenant) (id : TaskId) (slot : Nat) : Core :=
  let pc := (x.thr 0).pc
  let y := x.mapThr (fun i t => if i = 0 then { t with st := .ready, pend := .none, readyAt := slot } else { t with readyAt := slot + 1 })
  { y with
    task := some id, issueAt := slot
    tlb := { block := false, no := pc.toNat / 2 ^ 16, frame := 0, w := true, x := true, dirty := true, ten := ten } :: x.tlb
    icache := line :: x.icache.filter (fun l => l.no != line.no) }

/-- Core 0 with an element entry: entry 0 of element 0 in an active slot, enabled and with no other condition. [log entry 14, DESIGN CHOICE] -/
def Core.placeEntry (x : Core) (w : Nat) (id : TaskId) : Core :=
  let e := BitVec.ofNat 64 (w / 2 ^ 32 * 2 ^ 32 + 0xE1)
  let b := x.activeSlot?.getD false
  let x := x.modSlot b (fun g => { g with
    st := .active, elems := vmod g.elems 0 (fun c => { c with table := vset c.table 0 e }) })
  { x.modElem 0 (fun el => { el with frozen := none, halted := false, acted := none }) with task := some id }

/-- s with the instruction of nbits bits w where the next step takes its instruction from: a sequencer word at the PC of thread 0 of core
0, or an element entry in the table of element 0, with the booted module, the task, the translation and the schedule that this takes (log entry 14). [log entry 14, DESIGN CHOICE] -/
def State.withFetchWord (s : State) (nbits w : Nat) : State :=
  let t := placedTask s
  let s := { s with tasks := t :: s.tasks, boot := .running }
  if nbits ≤ 32 then
    let pa := placedPa (s.thr 0 0).pc
    let s := { s with hbm := Memory.writeN s.hbm pa 4 (w % 2 ^ 32), agenda := [.issue 0] }
    (s.modCore 0 (fun x => x.placeWord { no := pa / 64, data := s.hbmLine (pa / 64) } t.lrec.tenant t.lrec.id s.slot)).mark
  else
    ({ (s.modCore 0 (fun x => x.placeEntry (w % 2 ^ 64) t.lrec.id)) with agenda := [.fire 0 0] } : State).mark

end Sys2Proof.Machine
end

