-- ==== Sys2Proof/Safety.lean ====
section
/-! DEFINITION. What counts as a safe run, the invariant of the model's data that every step keeps, and the terms
in which statements say what an instruction does and what it leaves unchanged. -/

namespace Sys2Proof.Machine

/-- n steps from s all answer a next state. -/
def Safe (n : Nat) (s : State) : Prop :=
  match n with
  | 0 => True
  | n + 1 => ∃ t, step s = .next t ∧ Safe n t

/-- Both memories are in canonical form (log entry 3). -/
def State.memWf (s : State) : Bool := Memory.wf s.hbm && Memory.wf s.pool

end Sys2Proof.Machine

/-! ## What a sequencer word leaves -/

namespace Sys2Proof.Claims

open Sys2Proof.Machine

/-- Every byte of HBM and of the pool reads as before. -/
def SameMem (s t : State) : Prop :=
  (∀ a, Memory.get t.hbm a = Memory.get s.hbm a) ∧ ∀ a, Memory.get t.pool a = Memory.get s.pool a

/-- Nothing but thread k of core c differs, and every byte of memory reads as before. -/
def OnlyThread (c : CoreId) (k : Tid) (s t : State) : Prop := t = s.setThr c k (t.thr c k) ∧ SameMem s t

/-- Nothing but the executing thread differs. -/
def OnlyMe (s t : State) : Prop := OnlyThread s.cur.1 s.cur.2 s t

/-- Nothing but core c differs, and every byte of memory reads as before. -/
def OnlyCore (c : CoreId) (s t : State) : Prop := t = s.setCore c (t.core c) ∧ SameMem s t

/-- Nothing but core c differs, apart from the marks and counts of the errors that an access corrects or clears (R258); every byte of memory reads as
before. -/
def OnlyCoreEcc (c : CoreId) (s t : State) : Prop := t = { (s.setCore c (t.core c)) with ecc := t.ecc, errs := t.errs } ∧ SameMem s t

/-- v into Gd (discarded for G0), on to the next word; predicates, flags, exception registers and everything else as before. -/
def Wrote (s t : State) (d : BitVec 5) (v : Word) : Prop :=
  OnlyMe s t ∧ (∀ r, t.me.rd r = if r = d ∧ d ≠ 0 then v else s.me.rd r) ∧ t.me.pc = s.me.pc + 4 ∧
    t.me = { s.me with g := t.me.g, pc := t.me.pc }

/-- v into Pd (discarded for P0), on to the next word; registers, flags and everything else as before. -/
def WroteP (s t : State) (d : BitVec 3) (v : Bool) : Prop :=
  OnlyMe s t ∧ (∀ p, t.me.rdP p = if p = d ∧ d ≠ 0 then v else s.me.rdP p) ∧ t.me.pc = s.me.pc + 4 ∧
    t.me = { s.me with p := t.me.p, pc := t.me.pc }

/-- The thread stays BUSY for n clocks with v for Gd; nothing else is visible (R92). -/
def Later (s t : State) (d : BitVec 5) (v : Word) (n : Nat) : Prop :=
  OnlyMe s t ∧ t.me = { s.me with st := .busy, pend := .result d v (s.slot + n) }

/-- The thread parks on p; nothing else changes. -/
def Parked (s t : State) (p : Pend) : Prop := OnlyMe s t ∧ t.me = { s.me with st := .parked, pend := p }

/-- On to the next word, and nothing else changes. -/
def Skipped (s t : State) : Prop := OnlyMe s t ∧ t.me = { s.me with pc := s.me.pc + 4 }

/-- PC becomes pc; with a link, G31 receives it; nothing else changes. -/
def Went (s t : State) (pc : VA) (link : Option Word) : Prop :=
  OnlyMe s t ∧ t.me.pc = pc ∧ (∀ r, t.me.rd r = if r = 31 then link.getD (s.me.rd 31) else s.me.rd r) ∧
    t.me = { s.me with g := t.me.g, pc := t.me.pc }

/-- i completes from s in a state of which R holds. -/
def Does (i : Instr) (s : State) (R : State → State → Prop) : Prop := ∃ t, exec i s = .next t ∧ R s t

/-- i issues, and ev, the event at which its unit answers the parked thread, ends it: R holds between the state before both and the one after. -/
def DoesBy (i ev : Instr) (s : State) (R : State → State → Prop) : Prop := ∃ u t, exec i s = .next u ∧ exec ev u = .next t ∧ R s t

/-- i issues, and the events e and f, in this order, end it. -/
def DoesVia (i e f : Instr) (s : State) (R : State → State → Prop) : Prop :=
  ∃ u v t, exec i s = .next u ∧ exec e u = .next v ∧ exec f v = .next t ∧ R s t

/-- The value that an AMO leaves in its w bytes: old is what stood there, b and cmp the operands from Gb and Gd (R247, R248). -/
def amoVal (op : AmoOp) (w old : Nat) (b cmp : Word) : Nat :=
  let signed (x : Nat) : Int := (BitVec.ofNat (8 * w) x).toInt
  match op with
  | .add => (old + b.toNat) % 2 ^ (8 * w)
  | .and => old &&& b.toNat
  | .or => old ||| b.toNat
  | .xor => old ^^^ b.toNat
  | .min => if signed old ≤ signed b.toNat then old else b.toNat
  | .max => if signed old ≤ signed b.toNat then b.toNat else old
  | .minu => min old b.toNat
  | .maxu => max old b.toNat
  | .xchg => b.toNat
  | .cas => if old = cmp.toNat then b.toNat else old
  | .fxadd => wrap 128 (max fxMin (min fxMax (sext 128 old + sext 64 b.toNat * 2 ^ 32)))

/-- What Gd receives of an AMO: the old value sign-extended, or FXADD's Q32.32 window (R247, R248). -/
def amoOld (op : AmoOp) (w old : Nat) : Word :=
  if op = .fxadd then BitVec.ofNat 64 (old / 2 ^ 32) else BitVec.ofInt 64 (BitVec.ofNat (8 * w) old).toInt

/-- Nothing but thread accesses waits at bank b of core c, and it has served no source in this slot: it performs the front one of them (R238). -/
def BankOpen (s : State) (c : CoreId) (b : Nat) : Prop :=
  ((s.core c).bankAt b).served = false ∧ ((s.core c).bankAt b).sys = [] ∧ (s.core c).bankRequest? s.slot b = none ∧
    (s.core c).bankGen? c b = none ∧ (s.core c).direct = []

/-- Ingress port p of core c admits cell y as its next one in this slot: it runs, has admitted none, holds no offer, its bucket has a token, and y
has a place, belongs to no loop, is not refused, and its VC has a good entry in the VC table (R173, R186, R188, R198, R258). -/
def PortOpen (s : State) (c : CoreId) (p : Nat) (y : Cell) : Prop :=
  let x := s.core c
  let g := x.ingAt p
  p < 128 ∧ inReserved p = false ∧ g.frozen = none ∧ g.took = false ∧ g.ahead = [] ∧ g.obuf = [] ∧ x.weirHalted = false ∧
    ((bucketCeiling p).isSome = true → 1024 ≤ g.bucket.level) ∧ y.h.mc = 0 ∧ x.refused y = false ∧ x.loopOf y = none ∧
    (placeOf g.buf y.h.vc (x.classOf y)).isSome = true ∧ s.fatalAt (vcSpots c [y]) = false

/-- Port p of core c has admitted one cell more, of header h apart from the IP and SEQ that admission gives it, and of data v (R166, R167). -/
def Admitted (s t : State) (c : CoreId) (p : Nat) (h : Header) (v : Payload) : Prop :=
  ∃ q : Queued, ((t.core c).ingAt p).buf = ((s.core c).ingAt p).buf ++ [q] ∧ q.cell.data = v ∧
    q.cell.h = { h with ip := BitVec.ofNat 7 p, seq := q.cell.h.seq } ∧ ((t.core c).ingAt p).obuf = []

/-- Thread k of core c completes the instruction it was parked in: f to its registers, then READY at the next word from the next slot. -/
def Finished (s t : State) (c : CoreId) (k : Tid) (f : Thread → Thread) : Prop :=
  t.thr c k = { (f (s.thr c k)) with pc := (f (s.thr c k)).pc + 4, st := .ready, pend := .none, readyAt := s.slot + 1 }

/-- The trap of R103 for thread k of core c, as this model holds it: the exception registers, then FROZEN with a record of R104, or the
handler. -/
def TookTrap (s t : State) (c : CoreId) (k : Tid) (code : BitVec 8) (eval : Word) (epc : VA) : Prop :=
  (t.thr c k).epc = epc ∧ (t.thr c k).ecause = code ∧ (t.thr c k).eval = eval ∧ (∀ r, (t.thr c k).rd r = (s.thr c k).rd r) ∧
  (t.thr c k).p = (s.thr c k).p ∧ SameMem s t ∧
  (∀ c' k', c' ≠ c ∨ k' ≠ k → t.thr c' k' = s.thr c' k') ∧
  (if (s.thr c k).cm = true ∧ (s.thr c k).exl = false ∧ code ≠ kECC then
    (t.thr c k).st = .ready ∧ (t.thr c k).exl = true ∧ (t.thr c k).pc = s.trapEntry c ∧ (t.core c).faults = (s.core c).faults
  else
    (t.thr c k).st = .frozen ∧ (t.thr c k).exl = (s.thr c k).exl ∧ (t.thr c k).pc = (s.thr c k).pc ∧
      ∃ r, (t.core c).faults = (s.core c).faults ++ [r] ∧ r.kind = code ∧ r.unit = unitId c 3 k.val ∧ r.arg = eval)

/-! ## What a firing leaves -/

/-- Nothing but the operation itself can stop the firing: legal fields, no error, bound outputs, and a second operand of the operation's
format where the operation asks for one (R76, R125, R131, R258, R276). -/
def ElemOk (s : State) (x : ElemAct) (op : Nat) : Prop :=
  let u := opUse op
  let c := s.fire.core
  let e := s.fire.elem
  x.legal = true ∧ actOk x u = true ∧ s.fireEcc? (u.mask x) op = none ∧
  (s.core c).unboundO e (u.mask x).da = false ∧ (s.core c).unboundO e (u.mask x).db = false ∧
  (u.b = true → u.rawB = false → ∀ g, s.srcFmt? c e (u.mask x).sb = some g → g = s.opFormat c e (u.mask x) u)

/-- The head of channel n of the firing element, as the firing clock sees it (R174). -/
def fireHead (s : State) (n : Nat) : Option Cell := (s.core s.fire.core).head? s.slot (48 + s.fire.elem.val) n

/-- Whether a firing pops channel n: a used source selects it in pop form (either of two that name it, R123), and the operation consumes what
a used source of that channel gives it: both sources, but for KSEL, which consumes the chosen one (R122, R140). -/
def pops (x : ElemAct) (u : OpUse) (o : OpOut) (n : Nat) : Bool :=
  let a := u.a && srcChan? x.sa == some n
  let b := u.b && srcChan? x.sb == some n
  (a && o.popA || b && o.popB) && (a && srcPops x.sa || b && srcPops x.sb)

/-- The class that TA gives every cell of a firing: that of SA's head, that of SB's head where the operation uses SB, or a class named (R72). -/
def cellTag (s : State) (x : ElemAct) (u : OpUse) : BitVec 3 :=
  let copy (sel : BitVec 5) : BitVec 3 := match (srcChan? sel).bind (fireHead s) with | some y => y.h.tag | none => tDATA
  match x.ta.toNat with
  | 0 => copy x.sa
  | 9 => if u.b then copy x.sb else tDATA
  | n => BitVec.ofNat 3 (n - 1)

/-- The cells that a firing emits, DA's first: the route entry bound to the O, the header (class and key, the rest zero) and the payload
(R122, R124). -/
def cellsOut (s : State) (x : ElemAct) (u : OpUse) (o : OpOut) : List (Via × Header × Payload) :=
  [(x.da, o.ra), (x.db, o.rb)].filterMap (fun p =>
    if 4 ≤ p.1.toNat ∧ p.1.toNat ≤ 7 then
      ((s.core s.fire.core).outEntry? s.fire.elem (p.1.toNat - 4)).map
        (fun en => (.entry en, { tag := cellTag s x u, key := p.2.v.key }, p.2.v.data))
    else none)

/-- What one firing does to its element (R122-R124): it pops the channels that the entry selects in pop form, a STEER head going to the
channel's steering register (R193); D registers and predicates come from the two results, DB's after DA's, the flags go into ESR, ST becomes NS,
one more firing is counted, and the cells of the O destinations stand at the end of the output buffer, for slots after this one. No byte of
memory, no thread, no other element and no other port of the core changes. -/
def Fired (op : Nat) (x : ElemAct) (o : OpOut) (s t : State) : Prop :=
  let c := s.fire.core
  let e := s.fire.elem
  let y := (opUse op).mask x
  let p := 48 + e.val
  let a := (s.core c).elems[e]
  let b := (t.core c).elems[e]
  let bit (r : Res) : Bool := r.pred.getD r.v.lane0
  b.st = s.nsOf ∧ b.esr = a.esr ||| o.flags.setWidth 32 ∧ b.firings = a.firings + 1 ∧ b.k = a.k ∧ b.frozen = a.frozen ∧
  (∀ n : Fin 4, b.d[n] = (if y.db.toNat = n.val then { data := o.rb.v.data, fmt := o.rb.v.fmt, key := o.rb.v.key }
    else if y.da.toNat = n.val then { data := o.ra.v.data, fmt := o.ra.v.fmt, key := o.ra.v.key } else a.d[n])) ∧
  (∀ n : Fin 2, b.p.getLsbD n.val = (if y.db.toNat = 8 + n.val then bit o.rb else if y.da.toNat = 8 + n.val then bit o.ra
    else a.p.getLsbD n.val)) ∧
  (∀ n : Fin 4, (((t.core c).egAt p).chan n.val).cells = if pops y (opUse op) o n.val && (fireHead s n.val).isSome then
    (((s.core c).egAt p).chan n.val).cells.tail else (((s.core c).egAt p).chan n.val).cells) ∧
  (∀ n : Fin 4, b.sg[n] = match fireHead s n.val with
    | some z => if pops y (opUse op) o n.val && z.h.tag == tSTEER then
        { k := BitVec.ofNat 4 (lane 8 1 z.data.toNat), idx := Vector.ofFn (fun j => BitVec.ofNat 8 (lane 16 (2 + j.val) z.data.toNat)) } else a.sg[n]
    | none => a.sg[n]) ∧
  (∃ l : List Offer, ((t.core c).ingAt p).obuf = ((s.core c).ingAt p).obuf ++ l ∧
    l.map (fun q => (q.via, q.cell.h, q.cell.data)) = cellsOut s y (opUse op) o ∧ ∀ q ∈ l, q.elem = some e ∧ q.since = s.slot + 1) ∧
  (∀ q, q ≠ p → (t.core c).egAt q = (s.core c).egAt q ∧ (t.core c).ingAt q = (s.core c).ingAt q) ∧
  (t.core c).faults = (s.core c).faults ∧ SameMem s t ∧ (∀ k, t.thr c k = s.thr c k) ∧
  ∀ f : ElemId, f ≠ e → (t.core c).elems[f] = (s.core c).elems[f]

/-- The element freezes with a kind: it consumes nothing, produces nothing and leaves ST, registers and flags as they were; one record is
posted (R77, R127, R361). -/
def FrozeElem (kind : BitVec 8) (s t : State) : Prop :=
  let c := s.fire.core
  let e := s.fire.elem
  SameMem s t ∧ (∃ f, f.kind = kind ∧ (t.core c).elems[e] = { (s.core c).elems[e] with frozen := some f }) ∧
  (t.core c).eg = (s.core c).eg ∧ (t.core c).ing = (s.core c).ing ∧ ∃ r, (t.core c).faults = (s.core c).faults ++ [r] ∧ r.kind = kind

/-- Neither result of a firing is a cell for a reserved port (R11, R127). -/
def PortsOk (s : State) (x : ElemAct) (op : Nat) (o : OpOut) : Prop :=
  s.emitsReserved ((opUse op).mask x).da o.ra = false ∧ s.emitsReserved ((opUse op).mask x).db o.rb = false

/-- The operation j of OP value op completes with out wherever its operands meet ok; it freezes its element with FMT where they do not, and with PORT
where a result would be a cell for a reserved port. -/
def Op (s : State) (x : ElemAct) (op : Nat) (j : ElemAct → Instr) (ok : OpIn → Bool) (out : OpIn → OpOut) : Prop :=
  let i := s.opIn ((opUse op).mask x) (opUse op)
  ElemOk s x op → (ok i = true → PortsOk s x op (out i) → Does (j x) s (Fired op x (out i))) ∧
    (ok i = true → ¬PortsOk s x op (out i) → Does (j x) s (FrozeElem kPORT)) ∧ (ok i = false → Does (j x) s (FrozeElem kFMT))

/-- Lane n of the two sources and of the old DA in the operation's format. -/
def la (i : OpIn) (n : Nat) : Nat := lane (laneBits i.f) n i.a.data.toNat
def lb (i : OpIn) (n : Nat) : Nat := lane (laneBits i.f) n i.b.data.toNat
def ld (i : OpIn) (n : Nat) : Nat := lane (laneBits i.f) n i.old.data.toNat

/-- A cell of lanes in the operation's format with SA's key. -/
def lanesOut (i : OpIn) (g : Nat → Nat) : OpOut :=
  OpOut.one { data := ofLanes (laneBits i.f) (laneCount i.f) g, fmt := i.f, key := i.a.key }

/-- A floating cell: each lane the exact value of g on the decoded lanes, rounded once by RM, with the flags of every lane (R33, R34, R133). -/
def floatOut (i : OpIn) (g : FVal → FVal → FVal → FVal × Flags) : OpOut :=
  let ff := (ffmt? i.f).getD fp32
  let r := lanesF (laneBits i.f) (laneCount i.f) (fun n =>
    let v := g (decodeF ff (la i n)) (decodeF ff (lb i n)) (decodeF ff (ld i n))
    let c := encodeF ff v.1 i.rm false
    (c.1, v.2 ||| c.2))
  OpOut.one { data := r.1, fmt := i.f, key := i.a.key } r.2

/-- An integer cell: each lane g of the lanes' integers, modulo 2^w (R134). -/
def intOut (i : OpIn) (g : Int → Int → Int) : OpOut :=
  lanesOut i (fun n => ((g (intOf i.f (la i n)) (intOf i.f (lb i n))) % 2 ^ laneBits i.f).toNat)

/-- A compare: all ones where g holds, zero elsewhere. -/
def maskOut (i : OpIn) (g : Nat → Nat → Bool) : OpOut :=
  lanesOut i (fun n => if g (la i n) (lb i n) then 2 ^ laneBits i.f - 1 else 0)

def fltOk (i : OpIn) : Bool := i.f == 1 || i.f == 2 || i.f == 3
def intOk (i : OpIn) : Bool := i.f == 6 || i.f == 7 || i.f == 8
def anyOk (_ : OpIn) : Bool := true

end Sys2Proof.Claims
end

