-- ==== Sys2Proof/Certificates/Slice0/Obligations.lean ====
section
/-! DEFINITION. The statements for the provers. -/

open Sys2Proof Sys2Proof.Machine Sys2Proof.Claims

/-! ## Decoding and encoding -/

/-- Every well-formed instruction that has a sequencer word decodes from that word (R56-R70). -/
def Obligations.WordRoundTrip : Prop :=
  ∀ i w, WellFormed i = true → encode i = some w → w < 2 ^ 32 ∧ decodeWord w = .ok i

/-- Every well-formed element operation decodes from the bits of its entry, whatever the trigger half holds (R71-R75). -/
def Obligations.EntryRoundTrip : Prop :=
  ∀ i w trig, WellFormed i = true → encodeAction i = some w → trig < 2 ^ 32 → decodeEntry (w + trig) = some i

/-- What the decoder answers is well-formed and encodes to the very word that was decoded, so that no bit of a word is passed over; a word that
it refuses is no instruction's; the reserved majors of R58 and the reserved function codes of SYS, ALU, CMP, PRED and STRM are refused (R56,
R58, R59, R62-R69). -/
def Obligations.DecodeSound : Prop :=
  ∀ w, w < 2 ^ 32 →
    (∀ i, decodeWord w = .ok i → WellFormed i = true ∧ encode i = some w) ∧
    (∀ e, decodeWord w = .error e → ∀ i, WellFormed i = true → encode i ≠ some w) ∧
    ([4, 5, 6, 7, 15, 20, 21, 22, 23, 31, 43, 44, 45, 46, 47, 53, 54, 55, 57, 58, 59, 60, 61, 62, 63].contains (w / 2 ^ 26) = true →
      decodeWord w = .error .reservedMajor) ∧
    (∀ fn, fn = w / 2 ^ 5 % 2 ^ 6 → (w / 2 ^ 26 = 0 ∧ 10 ≤ fn) ∨ (w / 2 ^ 26 = 1 ∧ 30 ≤ fn) ∨ (w / 2 ^ 26 = 2 ∧ 6 ≤ fn) ∨ (w / 2 ^ 26 = 3 ∧ 9 ≤ fn) →
      decodeWord w = .error .reservedFunction) ∧
    (w / 2 ^ 22 = 48 * 16 + 15 → decodeWord w = .error .reservedFunction)

/-- Words of the spec's own listings decode to the statements beside them (R69, R98, R99, R200, R211, R212, R246, R328, R332, R333; chapters 04 and 17). -/
def Obligations.SpecWordsDecode : Prop :=
  decodeWord 0x30A00123 = .ok (.li 5 0x123) ∧ decodeWord 0x34A04567 = .ok (.lih 5 0x4567) ∧ decodeWord 0x407FFFFF = .ok (.br 0 1 0x3FFFFF) ∧
  decodeWord 0xA8040040 = .ok (.apmode 0 4) ∧ decodeWord 0xA8012820 = .ok (.apdim 0 1 5 0) ∧
  decodeWord 0xC0B61806 = .ok (.sstore 108 3 0 6) ∧ decodeWord 0xA40C0020 = .ok (.twaitall 12) ∧ decodeWord 0xD00200E1 = .ok (.rtset 2 225) ∧
  decodeWord 0x928A0000 = .ok (.ldp 20 10 0) ∧ decodeWord 0xA00000C0 = .ok .exit ∧ decodeWord 0xC07E0023 = .ok (.sread 124 0 1 3)

/-! ## The step, reset and the invariant -/

/-- A sequencer word runs through the step: when a core's turn comes and the thread that R89 chooses has the line of its PC, the step
is exec of the decoded instruction, in the state where the core's issue slot is taken, followed by the count of issued instructions. -/
def Sys2Proof.Claims.StepIssuesDecoded : Prop :=
  ∀ (s : State) (c : CoreId) (r : List Act) (t : Tid) (w : Nat) (i : Instr),
    s.agenda = .issue c :: r → ({ s with agenda := r } : State).issuer? c = some t → ({ s with agenda := r } : State).fetch c t = .word w →
    decodeWord w = .ok i →
    step s = match exec i { (({ s with agenda := r } : State).modCore c (fun x => x.tookIssue t s.slot)) with cur := (c, t) } with
      | .next u => .next (u.modThr c t Thread.countIssue)
      | .fault f => .fault f
      | .refused q => .refused q

/-- A word of no form runs as the event of R59, with the word in EVAL. -/
def Sys2Proof.Claims.StepIllegalWord : Prop :=
  ∀ (s : State) (c : CoreId) (r : List Act) (t : Tid) (w : Nat) (e : DecodeError),
    s.agenda = .issue c :: r → ({ s with agenda := r } : State).issuer? c = some t → ({ s with agenda := r } : State).fetch c t = .word w →
    decodeWord w = .error e →
    let u : State := { (({ s with agenda := r } : State).modCore c (fun x => x.tookIssue t s.slot)) with cur := (c, t) }
    let v := u.trap kILL (illEval (BitVec.ofNat 32 w).toNat 0)
    exec (.illDecode (BitVec.ofNat 32 w)) u = .next v ∧ step s = .next (v.modThr c t Thread.countIssue) ∧
      TookTrap u v c t kILL (BitVec.ofNat 64 (BitVec.ofNat 32 w).toNat) (u.thr c t).pc

/-- An element's entry runs through the step: exec of the operation that the selected entry holds; an element of a core whose task no longer runs does
nothing (R355, R356). -/
def Sys2Proof.Claims.StepFiresEntry : Prop :=
  ∀ (s : State) (c : CoreId) (e : ElemId) (r : List Act) (n : Fin 32) (i : Instr),
    s.agenda = .fire c e :: r → ({ s with agenda := r } : State).select c e = some n → entryLegal ((s.core c).entryAt e n.val) = true →
    decodeEntry ((s.core c).entryAt e n.val) = some i →
    step s = if ({ s with agenda := r } : State).engineStopped c then .next { s with agenda := r }
      else exec i { s with agenda := r, fire := { core := c, elem := e, entry := n } }

/-- An event of the schedule runs as the instruction of the same name, for every event row of Instr; an act of an engine or a gate whose core's task no
longer runs does nothing (R355, R356). -/
def Sys2Proof.Claims.StepRunsEvent : Prop :=
  ∀ (s : State) (e : Event) (r : List Act) (i : Instr),
    s.agenda = .ev e :: r → i.event? = some e →
    step s = if (engineOf? e).any (fun c => ({ s with agenda := r } : State).engineStopped c) then .next { s with agenda := r }
      else exec i { s with agenda := r }

/-- A thread whose fetch misses parks, and the thread that R89 then chooses issues in its place in the same slot (R91). -/
def Sys2Proof.Claims.StepIssuesInPlace : Prop :=
  ∀ (s : State) (c : CoreId) (r : List Act) (t u : Tid) (line w : Nat) (i : Instr),
    let a : State := { s with agenda := r }
    let b := a.modThr c t (fun y => { y with st := .parked, pend := .ifetch line })
    s.agenda = .issue c :: r → a.issuer? c = some t → a.fetch c t = .miss line →
    (b.issuer? c = none → step s = .next b) ∧
    (b.issuer? c = some u → b.fetch c u = .word w → decodeWord w = .ok i →
      step s = match exec i { (b.modCore c (fun x => x.tookIssue u s.slot)) with cur := (c, u) } with
        | .next v => .next (v.modThr c u Thread.countIssue)
        | .fault f => .fault f
        | .refused q => .refused q)

/-- With no act left the slot ends: the slot's number rises by one. -/
def Sys2Proof.Claims.StepEndsSlot : Prop := ∀ s : State, s.agenda = [] → ∃ t, step s = .next t ∧ t.slot = s.slot + 1

/-- No step refuses: every instruction and every event has a meaning in every state. -/
def Sys2Proof.Claims.StepNeverRefuses : Prop := ∀ (s : State) (r : Refusal), step s ≠ .refused r

/-- Both memories keep their canonical form over every step, from every state. -/
def Obligations.StepKeepsMemory : Prop := ∀ s t : State, s.memWf = true → step s = .next t → t.memWf = true

/-- At reset both memories are in canonical form. -/
def Obligations.ResetMemory : Prop := State.reset.memWf = true

/-- What reset leaves, of the settings that the spec gives a reset value (R393). -/
def Obligations.ResetSettings : Prop :=
  (∀ q : Fin 64, State.reset.weights[q] = 1) ∧ (∀ c : CoreId, (State.reset.core c).agelim = 256) ∧
  (∀ (c : CoreId) (p rate depth : Nat), p < 128 → bucketCeiling p = some (rate, depth) →
    ((State.reset.core c).ingAt p).bucket = { rate := rate, depth := depth, level := depth * 1024 }) ∧
  State.reset.tres = 2 ^ 32 ∧ State.reset.alert = 95 ∧ State.reset.ctlRights = [] ∧ State.reset.owners = []

/-! ## The sequencer's registers -/

/-- G0 reads zero and P0 reads true whatever was written; a write to another register or predicate is what it then reads, and no other
one changes (R57, R79). -/
def Obligations.RegisterFile : Prop :=
  ∀ (t : Thread) (d r : BitVec 5) (v : Word) (p q : BitVec 3) (b : Bool),
    t.rd 0 = 0 ∧ t.rdP 0 = true ∧ (t.wr 0 v = t) ∧ (t.wrP 0 b = t) ∧
    (t.wr d v).rd r = (if r = d ∧ d ≠ 0 then v else t.rd r) ∧ (t.wr d v).rdP q = t.rdP q ∧
    (t.wrP p b).rdP q = (if q = p ∧ p ≠ 0 then b else t.rdP q) ∧ (t.wrP p b).rd r = t.rd r

/-- The one-clock three-register and two-register ALU forms: the result, the registers and predicates that stay, and all of memory (R93). -/
def Sys2Proof.Claims.AluResults : Prop :=
  ∀ (s : State) (d a b n : BitVec 5) (h : BitVec 1),
    let x := s.me.rd a
    let y := s.me.rd b
    let k := y.toNat % 64
    let m := h.toNat * 32 + n.toNat
    let W (i : Instr) (v : Word) : Prop := Does i s (fun s t => Wrote s t d v)
    W (.add d a b) (x + y) ∧ W (.sub d a b) (x - y) ∧ W (.and_ d a b) (x &&& y) ∧ W (.or_ d a b) (x ||| y) ∧ W (.xor_ d a b) (x ^^^ y) ∧
    W (.andn d a b) (x &&& ~~~y) ∧
    W (.shl d a b) (BitVec.ofNat 64 (x.toNat * 2 ^ k)) ∧ W (.shr d a b) (BitVec.ofNat 64 (x.toNat / 2 ^ k)) ∧
    W (.sar d a b) (BitVec.ofInt 64 (x.toInt / 2 ^ k)) ∧
    W (.shli d a n h) (BitVec.ofNat 64 (x.toNat * 2 ^ m)) ∧ W (.shri d a n h) (BitVec.ofNat 64 (x.toNat / 2 ^ m)) ∧
    W (.sari d a n h) (BitVec.ofInt 64 (x.toInt / 2 ^ m)) ∧
    W (.min d a b) (BitVec.ofInt 64 (min x.toInt y.toInt)) ∧ W (.max d a b) (BitVec.ofInt 64 (max x.toInt y.toInt)) ∧
    W (.minu d a b) (BitVec.ofNat 64 (min x.toNat y.toNat)) ∧ W (.maxu d a b) (BitVec.ofNat 64 (max x.toNat y.toNat)) ∧
    W (.sextb d a) (BitVec.ofInt 64 (x.setWidth 8).toInt) ∧ W (.sexth d a) (BitVec.ofInt 64 (x.setWidth 16).toInt) ∧
    W (.sextw d a) (BitVec.ofInt 64 (x.setWidth 32).toInt) ∧ W (.zextw d a) (BitVec.ofNat 64 (x.toNat % 2 ^ 32))

/-- The bit counts: CLZ counts the zeros above the highest one bit, CTZ those below the lowest, POPC the ones; 64 for no one bit (R93). -/
def Sys2Proof.Claims.BitCounts : Prop :=
  ∀ (s : State) (d a : BitVec 5),
    let x := s.me.rd a
    ∃ lz tz pc : Nat,
      Does (.clz d a) s (fun s t => Wrote s t d (BitVec.ofNat 64 lz)) ∧ Does (.ctz d a) s (fun s t => Wrote s t d (BitVec.ofNat 64 tz)) ∧
      Does (.popc d a) s (fun s t => Wrote s t d (BitVec.ofNat 64 pc)) ∧
      (x = 0 → lz = 64 ∧ tz = 64) ∧ (x ≠ 0 → lz < 64 ∧ x.getLsbD (63 - lz) = true ∧ ∀ i, 63 - lz < i → x.getLsbD i = false) ∧
      (x ≠ 0 → tz < 64 ∧ x.getLsbD tz = true ∧ ∀ i, i < tz → x.getLsbD i = false) ∧
      pc = ((List.range 64).filter (fun i => x.getLsbD i)).length

/-- Multiplication: BUSY for two clocks with the product (R92, R93). -/
def Sys2Proof.Claims.MulResults : Prop :=
  ∀ (s : State) (d a b : BitVec 5),
    let x := s.me.rd a
    let y := s.me.rd b
    Does (.mul d a b) s (fun s t => Later s t d (BitVec.ofNat 64 (x.toNat * y.toNat)) 2) ∧
    Does (.mulh d a b) s (fun s t => Later s t d (BitVec.ofInt 64 (x.toInt * y.toInt / 2 ^ 64)) 2) ∧
    Does (.mulhu d a b) s (fun s t => Later s t d (BitVec.ofNat 64 (x.toNat * y.toNat / 2 ^ 64)) 2)

/-- Division: each form completes, BUSY for its clocks with its result: the quotient toward zero and the remainder with the dividend's sign,
the two fixed cases, and the clocks of R92, 2 for a zero dividend. Completion is stated of DIV, REM, DIVU and REMU. -/
def Sys2Proof.Claims.Quotients : Prop :=
  ∀ (s : State) (d a b : BitVec 5),
    let x := s.me.rd a
    let y := s.me.rd b
    ∃ q r qu ru : Word, ∃ n nu : Nat,
      Does (.div d a b) s (fun s t => Later s t d q n) ∧ Does (.rem d a b) s (fun s t => Later s t d r n) ∧
      Does (.divu d a b) s (fun s t => Later s t d qu nu) ∧ Does (.remu d a b) s (fun s t => Later s t d ru nu) ∧
      (y = 0 → q = BitVec.allOnes 64 ∧ qu = BitVec.allOnes 64 ∧ r = x ∧ ru = x) ∧
      (x = BitVec.ofInt 64 (-(2 ^ 63)) → y = BitVec.allOnes 64 → q = x ∧ r = 0) ∧
      (y ≠ 0 → ¬(x = BitVec.ofInt 64 (-(2 ^ 63)) ∧ y = BitVec.allOnes 64) →
        x.toInt = q.toInt * y.toInt + r.toInt ∧ r.toInt.natAbs < y.toInt.natAbs ∧ (0 ≤ x.toInt → 0 ≤ r.toInt) ∧ (x.toInt ≤ 0 → r.toInt ≤ 0)) ∧
      (y ≠ 0 → x.toNat = qu.toNat * y.toNat + ru.toNat ∧ ru.toNat < y.toNat) ∧
      2 ≤ n ∧ n ≤ 66 ∧ 2 ≤ nu ∧ nu ≤ 66 ∧ (x.toInt.natAbs < 2 ^ (n - 2)) ∧ (x ≠ 0 → 2 ^ (n - 3) ≤ x.toInt.natAbs) ∧
      (x.toNat < 2 ^ (nu - 2)) ∧ (x ≠ 0 → 2 ^ (nu - 3) ≤ x.toNat) ∧ (x = 0 → n = 2 ∧ nu = 2)

/-- Each division completes for every state and operands, with the value and the clocks written out: the quotient of the integers truncated
toward zero or all ones, the remainder or the dividend, after 2 clocks and one for each significant bit of the dividend's magnitude (R92, R94). -/
def Sys2Proof.Claims.DivCompletes : Prop :=
  ∀ (s : State) (d a b : BitVec 5),
    let x := s.me.rd a
    let y := s.me.rd b
    let size (n : Nat) : Nat := if n = 0 then 0 else n.log2 + 1
    let D (i : Instr) (v : Word) (n : Nat) : Prop := Does i s (fun s t => Later s t d v (2 + n))
    D (.div d a b) (if y = 0 then BitVec.allOnes 64 else BitVec.ofInt 64 (x.toInt.tdiv y.toInt)) (size x.toInt.natAbs) ∧
    D (.rem d a b) (if y = 0 then x else BitVec.ofInt 64 (x.toInt.tmod y.toInt)) (size x.toInt.natAbs) ∧
    D (.divu d a b) (if y = 0 then BitVec.allOnes 64 else BitVec.ofNat 64 (x.toNat / y.toNat)) (size x.toNat) ∧
    D (.remu d a b) (if y = 0 then x else BitVec.ofNat 64 (x.toNat % y.toNat)) (size x.toNat)

/-- The end of a BUSY count: the result is in place and the thread READY at the next word; before that slot nothing changes (R92). -/
def Sys2Proof.Claims.BusyEnds : Prop :=
  ∀ (s : State) (c : CoreId) (k : Tid) (d : BitVec 5) (v : Word) (last : Nat),
    (s.thr c k).st = .busy → (s.thr c k).pend = .result d v last →
    (last ≤ s.slot → ∃ t, exec (.multiclockDone c k) s = .next t ∧ OnlyThread c k s t ∧ Finished s t c k (fun th => th.wr d v)) ∧
    (s.slot < last → exec (.multiclockDone c k) s = .next s)

/-- CMP: the words, the six relations, and no other effect (R95). -/
def Obligations.CompareRegisters : Prop :=
  ∀ (s : State) (d : BitVec 3) (a b : BitVec 5),
    let x := s.me.rd a
    let y := s.me.rd b
    let word (fn : Nat) : Nat := 0x08000000 + fn * 0x20 + d.toNat * 2 ^ 21 + a.toNat * 2 ^ 16 + b.toNat * 2 ^ 11
    let W (fn : Nat) (i : Instr) (v : Bool) : Prop := decodeWord (word fn) = .ok i ∧ Does i s (fun s t => WroteP s t d v)
    W 0 (.ceq d a b) (decide (x = y)) ∧ W 1 (.cne d a b) (decide (x ≠ y)) ∧ W 2 (.clt d a b) (decide (x.toInt < y.toInt)) ∧
    W 3 (.cltu d a b) (decide (x.toNat < y.toNat)) ∧ W 4 (.cle d a b) (decide (x.toInt ≤ y.toInt)) ∧
    W 5 (.cleu d a b) (decide (x.toNat ≤ y.toNat))

/-- CMPI: the words, the sign-extended immediate and the four relations (R96). -/
def Obligations.CompareImmediate : Prop :=
  ∀ (s : State) (p : BitVec 3) (a : BitVec 5) (i : BitVec 16),
    let x := s.me.rd a
    let y : Word := i.signExtend 64
    let word (c : Nat) : Nat := 0x38000000 + (4 * p.toNat + c) * 2 ^ 21 + a.toNat * 2 ^ 16 + i.toNat
    let W (c : Nat) (j : Instr) (v : Bool) : Prop := decodeWord (word c) = .ok j ∧ Does j s (fun s t => WroteP s t p v)
    W 0 (.cmpiEq p a i) (decide (x = y)) ∧ W 1 (.cmpiNe p a i) (decide (x ≠ y)) ∧ W 2 (.cmpiLt p a i) (decide (x.toInt < y.toInt)) ∧
    W 3 (.cmpiLtu p a i) (decide (x.toNat < y.toNat))

/-- The predicate forms, and SEL and the moves between predicates and registers: their words and their results (R97). -/
def Obligations.PredicateForms : Prop :=
  ∀ (s : State) (d a b : BitVec 3) (gd ga gb : BitVec 5) (v : BitVec 1),
    let x := s.me.rdP a
    let y := s.me.rdP b
    let word (fn d a b sub : Nat) : Nat := 0x0C000000 + fn * 0x20 + d * 2 ^ 21 + a * 2 ^ 16 + b * 2 ^ 11 + sub
    let P (w : Nat) (i : Instr) (v : Bool) : Prop := decodeWord w = .ok i ∧ Does i s (fun s t => WroteP s t d v)
    let G (w : Nat) (i : Instr) (v : Word) : Prop := decodeWord w = .ok i ∧ Does i s (fun s t => Wrote s t gd v)
    P (word 0 d.toNat a.toNat b.toNat 0) (.pand d a b) (x && y) ∧ P (word 1 d.toNat a.toNat b.toNat 0) (.por d a b) (x || y) ∧
    P (word 2 d.toNat a.toNat b.toNat 0) (.pxor d a b) (x ^^ y) ∧ P (word 3 d.toNat a.toNat b.toNat 0) (.pandn d a b) (x && !y) ∧
    P (word 4 d.toNat a.toNat 0 0) (.pnot d a) (!x) ∧ P (word 5 d.toNat 0 0 v.toNat) (.pset d v) (decide (v = 1)) ∧
    G (word 6 gd.toNat ga.toNat gb.toNat a.toNat) (.sel gd ga gb a) (if x then s.me.rd ga else s.me.rd gb) ∧
    P (word 7 d.toNat ga.toNat 0 0) (.pmovg d ga) (decide (s.me.rd ga ≠ 0)) ∧
    G (word 8 gd.toNat a.toNat 0 0) (.gmovp gd a) (if x then 1 else 0) ∧ s.me.rdP 0 = true

/-- The immediate forms: their words and their results; LIH reads Gd before it writes it (R98). -/
def Obligations.ImmediateForms : Prop :=
  ∀ (s : State) (d a : BitVec 5) (i : BitVec 16),
    let x := s.me.rd a
    let word (base : Nat) (a : Nat) : Nat := base + d.toNat * 2 ^ 21 + a * 2 ^ 16 + i.toNat
    let W (w : Nat) (j : Instr) (v : Word) : Prop := decodeWord w = .ok j ∧ Does j s (fun s t => Wrote s t d v)
    W (word 0x20000000 a.toNat) (.addi d a i) (BitVec.ofInt 64 (x.toInt + i.toInt)) ∧
    W (word 0x24000000 a.toNat) (.andi d a i) (x &&& BitVec.ofNat 64 i.toNat) ∧
    W (word 0x28000000 a.toNat) (.ori d a i) (x ||| BitVec.ofNat 64 i.toNat) ∧
    W (word 0x2C000000 a.toNat) (.xori d a i) (x ^^^ BitVec.ofNat 64 i.toNat) ∧
    W (word 0x30000000 0) (.li d i) (BitVec.ofInt 64 i.toInt) ∧
    W (word 0x34000000 0) (.lih d i) (BitVec.ofNat 64 ((s.me.rd d).toNat % 2 ^ 48 * 2 ^ 16 + i.toNat))

/-- BR, JMP and CALL: their words, the target relative to the word's own VA modulo 2^55, and the link (R99). -/
def Obligations.Branches : Prop :=
  ∀ (s : State) (p : BitVec 3) (v : BitVec 1) (o : BitVec 22) (j : BitVec 26),
    let pc := s.me.pc.toNat
    let dest (k : Int) : VA := BitVec.ofInt 55 (pc + 4 * k)
    decodeWord (0x40000000 + p.toNat * 2 ^ 23 + v.toNat * 2 ^ 22 + o.toNat) = .ok (.br p v o) ∧
    decodeWord (0x44000000 + j.toNat) = .ok (.jmp j) ∧ decodeWord (0x48000000 + j.toNat) = .ok (.call j) ∧
    Does (.br p v o) s (fun s t => Went s t (if s.me.rdP p = decide (v = 1) then dest o.toInt else dest 1) none) ∧
    Does (.jmp j) s (fun s t => Went s t (dest j.toInt) none) ∧
    Does (.call j) s (fun s t => Went s t (dest j.toInt) (some (BitVec.ofNat 64 (pc + 4)))) ∧
    (pc % 4 = 0 → ∀ k : Int, (dest k).toNat % 4 = 0)

/-- JR, CALLR and RET: the target from the register's low 55 bits, the link after the read, and ALIGN with no register changed for a
target that is not a multiple of 4 (R100). -/
def Obligations.RegisterJumps : Prop :=
  ∀ (s : State) (a : BitVec 5),
    let link : Word := BitVec.ofNat 64 (s.me.pc.toNat + 4)
    let J (i : Instr) (v : Word) (l : Option Word) : Prop :=
      (v.toNat % 4 = 0 → Does i s (fun s t => Went s t (v.setWidth 55) l)) ∧
      (v.toNat % 4 ≠ 0 → Does i s (fun s t =>
        TookTrap s t s.cur.1 s.cur.2 kALIGN (BitVec.ofNat 64 (v.toNat % 2 ^ 55 + 2 * 2 ^ 56)) s.me.pc))
    decodeWord (0x4C000000 + a.toNat * 2 ^ 16) = .ok (.jr a) ∧ decodeWord (0x4C000020 + a.toNat * 2 ^ 16) = .ok (.callr a) ∧
    decodeWord 0x4C000040 = .ok .ret ∧ J (.jr a) (s.me.rd a) none ∧ J (.callr a) (s.me.rd a) (some link) ∧ J .ret (s.me.rd 31) none

/-! ## Traps and the system forms -/

/-- Trap entry: the exception registers, then FROZEN with one record or the handler, by mode, EXL and code (R103, R104). -/
def Obligations.TrapEntry : Prop :=
  ∀ (s : State) (c : CoreId) (k : Tid) (code : BitVec 8) (eval : Word) (epc : VA),
    TookTrap s (s.trapAt c k code eval epc) c k code eval epc

/-- TRAP and BRK trap with the next word in EPC and the immediate in EVAL; BRK without BE goes on (R103, R106). -/
def Sys2Proof.Claims.TrapWords : Prop :=
  ∀ (s : State) (i : BitVec 10),
    let T (j : Instr) (eval : Nat) : Prop :=
      Does j s (fun s t => TookTrap s t s.cur.1 s.cur.2 kTRAPI (BitVec.ofNat 64 eval) (s.me.pc + 4))
    T (.trap i) i.toNat ∧ (s.me.be = true → T (.brk i) (i.toNat + 2 ^ 10)) ∧ (s.me.be = false → Does (.brk i) s Skipped)

/-- ERET in controller mode: PC from EPC and EXL 0 in one step, and nothing else; in task mode ILL with cause 1 (R60, R83, R107). -/
def Sys2Proof.Claims.Eret : Prop :=
  ∀ s : State,
    (s.me.cm = true → Does .eret s (fun s t => OnlyMe s t ∧ t.me = { s.me with pc := s.me.epc, exl := false })) ∧
    (s.me.cm = false → Does .eret s (fun s t => TookTrap s t s.cur.1 s.cur.2 kILL (BitVec.ofNat 64 (0x40 + 2 ^ 32)) s.me.pc))

/-- NOP changes nothing but PC; its word is zero (R108). -/
def Obligations.NopOnlyPc : Prop := decodeWord 0 = .ok .nop ∧ ∀ s : State, Does .nop s Skipped

/-- An illegal word traps with ILL, the word and cause 0 in EVAL (R59, R60, R105). -/
def Sys2Proof.Claims.IllegalWord : Prop :=
  ∀ (s : State) (w : BitVec 32), Does (.illDecode w) s (fun s t => TookTrap s t s.cur.1 s.cur.2 kILL (BitVec.ofNat 64 w.toNat) s.me.pc)

/-- WFE goes on at once when EV is 1 and clears it, and parks when EV is 0; FENCE.T goes on; the other fences park, P with the rounds
that stand whole; and YIELD and SETROLE (R109, R110, R250, R333). -/
def Sys2Proof.Claims.WaitForms : Prop :=
  ∀ (s : State) (n : BitVec 2),
    (s.me.ev = true → Does .wfe s (fun s t => OnlyMe s t ∧ t.me = { s.me with pc := s.me.pc + 4, ev := false })) ∧
    (s.me.ev = false → Does .wfe s (fun s t => Parked s t .wfe)) ∧
    Does .fenceT s Skipped ∧ Does .fenceC s (fun s t => Parked s t (.fence .c [])) ∧ Does .fenceL s (fun s t => Parked s t (.fence .l [])) ∧
    Does .fenceD s (fun s t => Parked s t (.fence .d [])) ∧ Does .fenceS s (fun s t => Parked s t (.fence .s [])) ∧
    Does .fenceP s (fun s t => Parked s t (.fence .p s.myCore.wholeRounds)) ∧
    Does .yield s (fun s t => OnlyMe s t ∧ t.me = { s.me with pc := s.me.pc + 4, yielded := some (s.slot + 1), readyAt := s.slot + 1 }) ∧
    Does (.setrole n) s (fun s t => OnlyMe s t ∧ t.me = { s.me with pc := s.me.pc + 4, role := n })

/-- The end of a FENCE: its thread goes on once the scope's ordering holds, S and P with every data-cache line dropped; memory does not
change (R110, R250). -/
def Sys2Proof.Claims.FenceEnds : Prop :=
  ∀ (s : State) (c : CoreId) (k : Tid) (sc : Scope) (l : List (Nat × Nat × Nat)),
    (s.thr c k).st = .parked → (s.thr c k).pend = .fence sc l →
    ((s.core c).fenceMet c k sc l = true →
      ∃ t, exec (.fenceComplete c k) s = .next t ∧ OnlyCore c s t ∧ Finished s t c k id ∧
        (t.core c).dcache = (if sc = .s ∨ sc = .p then [] else (s.core c).dcache)) ∧
    ((s.core c).fenceMet c k sc l = false → exec (.fenceComplete c k) s = .next s)

/-- The fences complete in their issue slot where the scope's ordering holds already: FENCE.C, .L, .D and .S, and FENCE.P with the rounds that stand whole;
S and P with every data-cache line dropped (R110, R250). Completion is stated of FENCE.C, FENCE.L, FENCE.D, FENCE.S, FENCE.P and FENCE_COMPLETE. -/
def Sys2Proof.Claims.FencesComplete : Prop :=
  ∀ s : State,
    let c := s.cur.1
    let k := s.cur.2
    let x := s.myCore
    let F (i : Instr) (sc : Scope) (l : List (Nat × Nat × Nat)) : Prop := x.fenceMet c k sc l = true →
      DoesBy i (.fenceComplete c k) s (fun s t => OnlyCore c s t ∧ Finished s t c k id ∧ (t.core c).dcache = if sc = .s ∨ sc = .p then [] else x.dcache)
    F .fenceC .c [] ∧ F .fenceL .l [] ∧ F .fenceD .d [] ∧ F .fenceS .s [] ∧ F .fenceP .p x.wholeRounds

/-- MFS: Gd receives the register, SPILL with the bucket as it stood at the slot's start and CLOCK standing from the task's end; a core whose task is gone
shows the last task's CLOCK and WDOG; a reserved number is ILL 0, a controller register in task mode ILL 1 (R63, R82, R111, R326, R355, R356).
The model's own choice, and no rule of the spec: CLOCK and TASKID of a task that has ended (log entry 68, DEDUCED); which values stand at the slot's
start (log entry 93, DEDUCED). -/
def Obligations.ReadSpecial : Prop :=
  ∀ (s : State) (d r : BitVec 5),
    let T (cause : Nat) : Prop := Does (.mfs d r) s (fun s t =>
      TookTrap s t s.cur.1 s.cur.2 kILL (BitVec.ofNat 64 (0xA0 + d.toNat * 2 ^ 21 + r.toNat * 2 ^ 11 + cause * 2 ^ 32)) s.me.pc)
    let W (v : Word) : Prop := Does (.mfs d r) s (fun s t => Wrote s t d v)
    let x := s.myCore
    (sregListed r = false → T 0) ∧ (16 ≤ r.toNat ∧ r.toNat ≤ 19 → s.me.cm = false → T 1) ∧
    (r = 0 → W (BitVec.ofNat 64 s.cur.2.val)) ∧ (r = 1 → W (BitVec.ofNat 64 (s.cur.1.val % 16))) ∧
    (r = 2 → W (BitVec.ofNat 64 (s.cur.1.val / 16))) ∧ (r = 5 → W (s.me.role.setWidth 64)) ∧ (r = 7 → W s.time) ∧ (r = 8 → W x.tb) ∧
    (r = 9 → W (BitVec.ofNat 64 (s.me.cm.toNat + 2 * s.me.exl.toNat + 4 * s.me.ev.toNat + 8 * s.me.be.toNat + 16 * s.me.fxsat.toNat))) ∧
    (r = 10 → W (s.me.epc.setWidth 64)) ∧ (r = 11 → W (s.me.ecause.setWidth 64)) ∧ (r = 12 → W s.me.eval) ∧
    (r = 16 → s.me.cm = true → W (x.agelim.setWidth 64)) ∧
    (r = 17 → s.me.cm = true → W (BitVec.ofNat 64 (x.ptbase.toNat * 2 ^ 16))) ∧
    (∀ t, s.taskOf s.cur.1 = some t → (r = 3 → x.task = some t.lrec.id → W (t.lrec.id.setWidth 64)) ∧ (r = 4 → W (t.lrec.tenant.setWidth 64)) ∧
      (r = 6 → ∀ f, t.first = some f → W (BitVec.ofNat 64
        ((if t.phase = .starting ∨ t.phase = .running then s.slot else min s.slot t.clockEnd) - f))) ∧
      (r = 6 → t.first = none → W 0) ∧ (r = 19 → s.me.cm = true → W (BitVec.ofNat 64 t.wdog))) ∧
    (∀ cl wd, s.taskOf s.cur.1 = none → x.lastTask = some (cl, wd) →
      (r = 6 → W (BitVec.ofNat 64 cl)) ∧ (r = 19 → s.me.cm = true → W (BitVec.ofNat 64 wd))) ∧
    (r = 18 → s.me.cm = true → W ((s.atStart.core s.cur.1).spill x.spillSel.toNat))

/-- MTS of the registers without a row of their own: what is written, STATUS by mode, and the ILL causes (R60, R63, R82, R84, R111). -/
def Sys2Proof.Claims.WriteRegisters : Prop :=
  ∀ (s : State) (a r : BitVec 5),
    let v := s.me.rd a
    let T (cause : Nat) : Prop := Does (.mts a r) s (fun s t =>
      TookTrap s t s.cur.1 s.cur.2 kILL (BitVec.ofNat 64 (0xC0 + a.toNat * 2 ^ 16 + r.toNat * 2 ^ 11 + cause * 2 ^ 32)) s.me.pc)
    let M (th : Thread) : Prop := Does (.mts a r) s (fun s t => OnlyMe s t ∧ t.me = { th with pc := s.me.pc + 4 })
    (sregListed r = false → T 0) ∧ (r.toNat ≤ 4 ∨ r = 6 ∨ r = 8 → T 2) ∧
    (r = 5 ∨ r = 10 ∨ r = 11 ∨ r = 12 → s.me.cm = false → T 2) ∧ (r = 17 → s.me.cm = false → T 1) ∧
    (r = 5 → s.me.cm = true → M { s.me with role := v.setWidth 2 }) ∧
    (r = 9 → s.me.cm = true → M { s.me with fxsat := v.getLsbD 4, be := v.getLsbD 3, exl := v.getLsbD 1 }) ∧
    (r = 9 → s.me.cm = false → M { s.me with fxsat := v.getLsbD 4 }) ∧
    (r = 10 → s.me.cm = true → M { s.me with epc := v.setWidth 55 &&& ~~~3 }) ∧
    (r = 11 → s.me.cm = true → M { s.me with ecause := v.setWidth 8 }) ∧
    (r = 12 → s.me.cm = true → M { s.me with eval := v &&& 0x037FFFFFFFFFFFFF }) ∧
    (r = 17 → s.me.cm = true → Does (.mts a r) s (fun s t => OnlyCore s.cur.1 s t ∧
      (t.core s.cur.1).ptbase = BitVec.ofNat 28 (v.toNat / 2 ^ 16) ∧ t.me = { s.me with pc := s.me.pc + 4 }))

/-- MTS TIME, AGELIM, SPILL and WDOG in controller mode, and their ILL causes in task mode; a written bucket and watchdog count from the next
slot, and a running task's watchdog falls by one a slot (R60, R82, R85, R86, R90, R188). -/
def Sys2Proof.Claims.WriteWindows : Prop :=
  ∀ (s : State) (a : BitVec 5),
    let v := s.me.rd a
    let T (i : Instr) (r cause : Nat) : Prop := Does i s (fun s t =>
      TookTrap s t s.cur.1 s.cur.2 kILL (BitVec.ofNat 64 (0xC0 + a.toNat * 2 ^ 16 + r * 2 ^ 11 + cause * 2 ^ 32)) s.me.pc)
    (s.me.cm = false → T (.mtsTime a) 7 2 ∧ T (.mtsAgelim a) 16 1 ∧ T (.mtsSpill a) 18 1 ∧ T (.mtsWdog a) 19 1) ∧
    (s.me.cm = true →
      Does (.mtsTime a) s (fun s t => t.timeStep = some v ∧ t.me = { s.me with pc := s.me.pc + 4 } ∧ SameMem s t) ∧
      Does (.mtsAgelim a) s (fun s t => OnlyCore s.cur.1 s t ∧
        (t.core s.cur.1).agelimNext = some (BitVec.ofNat 16 (max 16 (v.toNat % 2 ^ 16))) ∧ t.me = { s.me with pc := s.me.pc + 4 }) ∧
      Does (.mtsSpill a) s (fun s t => OnlyCore s.cur.1 s t ∧ (t.core s.cur.1).spillSel = v.setWidth 7 ∧
        t.me = { s.me with pc := s.me.pc + 4 } ∧
        (∀ rc dc, bucketCeiling (v.toNat % 128) = some (rc, dc) →
          ((t.core s.cur.1).ingAt (v.toNat % 128)).bucket = { ((s.core s.cur.1).ingAt (v.toNat % 128)).bucket with
            late := some (min (v.toNat / 2 ^ 8 % 2 ^ 11) rc, min (max (v.toNat / 2 ^ 32 % 2 ^ 16) 1) dc) })) ∧
      (∀ k, s.taskOf s.cur.1 = some k →
        Does (.mtsWdog a) s (fun s t => t.me = { s.me with pc := s.me.pc + 4 } ∧ SameMem s t ∧
          ∀ k', t.taskOf s.cur.1 = some k' → k'.wdog = k.wdog ∧ k'.wdogNext = some (min v.toNat k'.lrec.limit)))) ∧
    (∀ (z : Task) (n : Nat), z.phase = .running → z.wdogNext = some n → (z.wdogTick).wdog = n) ∧
    (∀ z : Task, z.phase = .running → z.wdogNext = none → (z.wdogTick).wdog = z.wdog - 1) ∧
    ∀ (b : Bucket) (r d k : Nat) (trip : Bool), b.late = some (r, d) → (b.tick k trip).rate = r ∧ (b.tick k trip).depth = d

/-- An event's own write of a special register (R4, R82). -/
def Sys2Proof.Claims.RegisterEvent : Prop :=
  ∀ (s : State) (c : CoreId) (k : Tid) (v : Word),
    Does (.regWrite c k 11 v) s (fun s t => OnlyThread c k s t ∧ t.thr c k = { s.thr c k with ecause := v.setWidth 8 }) ∧
    Does (.regWrite c k 10 v) s (fun s t => OnlyThread c k s t ∧ t.thr c k = { s.thr c k with epc := v.setWidth 55 &&& ~~~3 }) ∧
    Does (.regWrite c k 17 v) s (fun s t => OnlyCore c s t ∧ (t.core c).ptbase = BitVec.ofNat 28 (v.toNat / 2 ^ 16))

/-! ## Memory instructions -/

/-- The w-byte load at Ga + Sext(imm16): ALIGN, a walk, a line fill, or the value extended to 64 bits; memory does not change (R91, R105,
R244, R245).
The model's own choice, and no rule of the spec: that the thread waits parked for a walk or a fill (log entry 15, DEDUCED). -/
def Obligations.Loads : Prop :=
  ∀ (s : State) (d a : BitVec 5) (i : BitVec 16),
    let va := (s.me.rd a + i.signExtend 64).toNat % 2 ^ 55
    let L (j : Instr) (w : Nat) (sx : Bool) : Prop :=
      (va % w ≠ 0 → Does j s (fun s t => TookTrap s t s.cur.1 s.cur.2 kALIGN (BitVec.ofNat 64 va) s.me.pc)) ∧
      (va % w = 0 → s.translate s.cur.1 va .read = none → Does j s (fun s t => Parked s t (.walk (BitVec.ofNat 55 va) .read))) ∧
      (∀ pa, va % w = 0 → s.translate s.cur.1 va .read = some pa →
        (∀ v, s.myCore.loadBytes? pa w = some v →
          Does j s (fun s t => Wrote s t d (if sx then BitVec.ofInt 64 (BitVec.ofNat (8 * w) v).toInt else BitVec.ofNat 64 v))) ∧
        (s.myCore.loadBytes? pa w = none → Does j s (fun s t => Parked s t (.load pa w sx d true))))
    L (.ldb d a i) 1 true ∧ L (.ldh d a i) 2 true ∧ L (.ldw d a i) 4 true ∧ L (.ldd d a i) 8 false ∧ L (.ldbu d a i) 1 false ∧
    L (.ldhu d a i) 2 false ∧ L (.ldwu d a i) 4 false

/-- The w-byte store at Ga + Sext(imm16): ALIGN, a walk, a full buffer, or the low w bytes of Gd in the write buffer; no byte of HBM or
the pool changes at issue (R105, R244, R245).
The model's own choice, and no rule of the spec: that the thread waits parked for a walk (log entry 15, DEDUCED); the order in which the waiting
threads get a freed place (log entry 18, DESIGN CHOICE). -/
def Obligations.Stores : Prop :=
  ∀ (s : State) (d a : BitVec 5) (i : BitVec 16),
    let va := (s.me.rd a + i.signExtend 64).toNat % 2 ^ 55
    let S (j : Instr) (w : Nat) : Prop :=
      let v : Word := BitVec.ofNat 64 ((s.me.rd d).toNat % 2 ^ (8 * w))
      (va % w ≠ 0 → Does j s (fun s t => TookTrap s t s.cur.1 s.cur.2 kALIGN (BitVec.ofNat 64 (va + 2 ^ 56)) s.me.pc)) ∧
      (va % w = 0 → s.translate s.cur.1 va .write = none → Does j s (fun s t => Parked s t (.walk (BitVec.ofNat 55 va) .write))) ∧
      (∀ pa, va % w = 0 → s.translate s.cur.1 va .write = some pa →
        (s.myCore.wbuf.length < 8 → Does j s (fun s t => OnlyCore s.cur.1 s t ∧ t.me = { s.me with pc := s.me.pc + 4 } ∧
          t.myCore.wbuf = s.myCore.wbuf ++ [{ t := s.cur.2, va := va, pa := pa, w := w, v := v }])) ∧
        (8 ≤ s.myCore.wbuf.length → Does j s (fun s t => OnlyCore s.cur.1 s t ∧
          t.me = { s.me with st := .parked, pend := .store va pa w v } ∧ t.myCore.wbuf = s.myCore.wbuf ∧
          t.myCore.waitq = s.myCore.waitq ++ [s.cur.2])))
    S (.stb d a i) 1 ∧ S (.sth d a i) 2 ∧ S (.stw d a i) 4 ∧ S (.std d a i) 8

/-- A buffered store is performed: its bytes, little-endian, at its own physical address, and no other byte of memory; it leaves the
buffer, in order (R2, R245).
The model's own choice, and no rule of the spec: which waiting thread gets the freed place (log entry 18, DESIGN CHOICE). -/
def Obligations.StorePerformed : Prop :=
  ∀ (s : State) (c : CoreId) (b : BufStore) (r : List BufStore),
    (s.core c).wbuf = b :: r → s.memWf = true →
    ∃ t, exec (.storePerformed c) s = .next t ∧
      (∀ a, Memory.get t.hbm a = if b.pa ≤ a ∧ a < b.pa + b.w then BitVec.ofNat 8 (b.v.toNat / 256 ^ (a - b.pa)) else Memory.get s.hbm a) ∧
      t.pool = s.pool ∧ (∀ k, k ≠ c → t.core k = s.core k) ∧
      ((s.core c).storeWaiter? = none → (t.core c).wbuf = r) ∧
      (∀ k va pa w v, (s.core c).storeWaiter? = some (k, va, pa, w, v) →
        (t.core c).wbuf = r ++ [{ t := k, va := va, pa := pa, w := w, v := v }] ∧ (t.thr c k).st = .ready)

/-- A data-cache line fill, in a slot after that of the miss: the parked load completes with the bytes of HBM, the core's buffered stores over them; memory does not
change; an error in the line is a precise ECC trap (R91, R245, R258). -/
def Sys2Proof.Claims.DataFill : Prop :=
  ∀ (s : State) (c : CoreId) (k : Tid) (pa w : Nat) (sx keep : Bool) (d : BitVec 5),
    (s.thr c k).st = .parked → (s.thr c k).pend = .load pa w sx d keep → (s.core c).loadBytes? pa w = none →
    (w = 1 ∨ w = 2 ∨ w = 4 ∨ w = 8) → pa % w = 0 →
    (s.slot < (s.thr c k).readyAt → exec (.dcacheLineFill c k) s = .next s) ∧ ((s.thr c k).readyAt ≤ s.slot →
    (s.lineBad (pa / 64) = true → ∃ t, exec (.dcacheLineFill c k) s = .next t ∧
      TookTrap s t c k kECC (accessEval (pa / 64 * 64) .read) (s.thr c k).pc) ∧
    (s.lineBad (pa / 64) = false → ∃ t v, exec (.dcacheLineFill c k) s = .next t ∧ SameMem s t ∧
      Finished s t c k (fun th => th.wr d (extend w sx v)) ∧
      ∀ i, i < w → v / 256 ^ i % 256 = (match bufByte? (s.core c).wbuf (pa + i) with
        | some b => b
        | none => (Memory.get s.hbm (pa + i)).toNat)))

/-- An instruction-cache line fill: the parked thread is READY at the same word, and the line holds the bytes of HBM (R91, R236). -/
def Sys2Proof.Claims.FetchFill : Prop :=
  ∀ (s : State) (c : CoreId) (k : Tid) (line : Nat),
    (s.thr c k).st = .parked → (s.thr c k).pend = .ifetch line →
    (s.lineBad line = true → ∃ t, exec (.icacheLineFill c k) s = .next t ∧
      TookTrap s t c k kECC (accessEval (64 * line) .execute) (s.thr c k).pc) ∧
    (s.lineBad line = false → ∃ t, exec (.icacheLineFill c k) s = .next t ∧ SameMem s t ∧
      t.thr c k = { s.thr c k with st := .ready, pend := .none, readyAt := s.slot + 1 } ∧
      ∃ l, findLine (t.core c).icache line = some l ∧ l.data = BitVec.ofNat 512 (Memory.readN s.hbm (64 * line) 64))

/-- A thread's page walk: a leaf enters the TLB and the thread issues again, with no byte of memory changed outside the 8 bytes of the
leaf; a fault is its trap; a table beyond HBM stops the model under its own name (R234, R253, R254, log entry 9). -/
def Sys2Proof.Claims.ThreadWalk : Prop :=
  ∀ (s : State) (c : CoreId) (k : Tid) (va : VA) (kd : Kind),
    (s.thr c k).st = .parked → (s.thr c k).pend = .walk va kd →
    (∀ ea e ch level frame w x d, s.walk c va.toNat kd = .leaf ea e ch level frame w x d →
      ∃ t, exec (.pageWalk c (.thread k)) s = .next t ∧
        t.thr c k = { s.thr c k with st := .ready, pend := .none, readyAt := s.slot + 1 } ∧ t.pool = s.pool ∧
        (∀ a, ¬(ea ≤ a ∧ a < ea + 8 ∧ ch = true) → Memory.get t.hbm a = Memory.get s.hbm a) ∧
        (t.core c).tlb = tlbFill (s.core c).tlb (xlatOf va.toNat level frame w x d (s.tenantOf c)) s.fresh) ∧
    (∀ code ea, s.walk c va.toNat kd = .fault code ea → ∃ t, exec (.pageWalk c (.thread k)) s = .next t ∧
      TookTrap s t c k code (accessEval (if code = kECC then ea / 64 * 64 else va.toNat) kd) (s.thr c k).pc) ∧
    (s.walk c va.toNat kd = .absent → exec (.pageWalk c (.thread k)) s = .fault .absentPhysical)

/-- LDP and STP: ALIGN, then PROT for another core's slice or an absent bank; an access to a bank goes to the bank, in order; the status
window answers at once; the mailbox window answers or parks (R105, R237, R241, R242, R246). -/
def Sys2Proof.Claims.PoolIssue : Prop :=
  ∀ (s : State) (d a : BitVec 5) (i : BitVec 16),
    let p := (s.me.rd a + i.signExtend 64).toNat % 2 ^ 28
    let v := s.me.rd d
    let mine := p / 2 ^ 22 = s.cur.1.val
    let T (j : Instr) (code : BitVec 8) (k : Nat) : Prop :=
      Does j s (fun s t => TookTrap s t s.cur.1 s.cur.2 code (BitVec.ofNat 64 (p + k * 2 ^ 56)) s.me.pc)
    (p % 8 ≠ 0 → T (.ldp d a i) kALIGN 0 ∧ T (.stp d a i) kALIGN 1) ∧
    (p % 8 = 0 → ¬mine ∨ (48 ≤ p / 2 ^ 16 % 64 ∧ p / 2 ^ 16 % 64 ≤ 61) → T (.ldp d a i) kPROT 0 ∧ T (.stp d a i) kPROT 1) ∧
    (p % 8 = 0 → mine → p / 2 ^ 16 % 64 < 48 →
      Does (.ldp d a i) s (fun s t => OnlyCore s.cur.1 s t ∧ t.me = { s.me with st := .parked, pend := .ldp d } ∧
        t.myCore.direct = s.myCore.direct ++ [{ t := s.cur.2, addr := p, op := .load }]) ∧
      Does (.stp d a i) s (fun s t => OnlyCore s.cur.1 s t ∧ t.me = { s.me with pc := s.me.pc + 4 } ∧
        t.myCore.direct = s.myCore.direct ++ [{ t := s.cur.2, addr := p, op := .store v }])) ∧
    (p % 8 = 0 → mine → p / 2 ^ 16 % 64 = 63 → p % 2 ^ 16 / 8 < 48 →
      let b := s.myCore.bankAt (p % 2 ^ 16 / 8)
      Does (.ldp d a i) s (fun s t => Wrote s t d (BitVec.ofNat 64 (b.fxsat.toNat + 2 ^ 8 * b.owner.toNat + 2 ^ 32 * b.cecnt.toNat))) ∧
      Does (.stp d a i) s (fun s t => OnlyCore s.cur.1 s t ∧ t.me = { s.me with pc := s.me.pc + 4 } ∧
        t.myCore.bankAt (p % 2 ^ 16 / 8) = { b with fxsat := v.getLsbD 0 })) ∧
    (p % 8 = 0 → mine → p / 2 ^ 16 % 64 = 62 →
      (s.me.mailbox = [] → p % 2 ^ 16 ≤ 0x100 → Does (.ldp d a i) s (fun s t => Parked s t (.mailbox d (p % 2 ^ 16)))) ∧
      (∀ x r, s.me.mailbox = x :: r →
        (p % 2 ^ 16 < 0x100 → Does (.ldp d a i) s (fun s t => Wrote s t d (BitVec.ofNat 64 (x.data.toNat / 2 ^ (8 * (p % 2 ^ 16)))))) ∧
        (p % 2 ^ 16 = 0x100 → Does (.ldp d a i) s (fun s t => Wrote s t d x.h.word)) ∧
        (p % 2 ^ 16 = 0x200 → Does (.stp d a i) s (fun s t => t.me.mailbox = r ∧ SameMem s t ∧ t.me.pc = s.me.pc + 4))))

/-- A bank performs a thread's direct access: a store writes its 8 bytes of the pool and no other byte, a load completes with them
(R238, R246, R258). -/
def Sys2Proof.Claims.PoolAccess : Prop :=
  ∀ (s : State) (c : CoreId) (k : Tid) (x : Direct),
    (s.core c).directOf? c s.slot k = some x → s.memWf = true →
    (∀ v, x.op = .store v → ∃ t, exec (.poolAccessDone c k) s = .next t ∧ t.hbm = s.hbm ∧
      ∀ a, Memory.get t.pool a = if x.addr ≤ a ∧ a < x.addr + 8 then BitVec.ofNat 8 (v.toNat / 256 ^ (a - x.addr)) else Memory.get s.pool a) ∧
    (∀ d, x.op = .load → (s.thr c k).st = .parked → (s.thr c k).pend = .ldp d → s.poolBad x.addr 8 = false →
      ∃ t, exec (.poolAccessDone c k) s = .next t ∧ SameMem s t ∧
        Finished s t c k (fun th => th.wr d (BitVec.ofNat 64 (Memory.readN s.pool x.addr 8)))) ∧
    (∀ d, x.op = .load → (s.thr c k).st = .parked → (s.thr c k).pend = .ldp d → s.poolBad x.addr 8 = true →
      ∃ t, exec (.poolAccessDone c k) s = .next t ∧ (t.thr c k).ecause = kECC ∧ (t.thr c k).st = .frozen)

/-- An AMO at issue, in pool space and in VA space: ALIGN, PROT, a walk, or the thread parks with its operands (R105, R247, R248).
The model's own choice, and no rule of the spec: that the thread waits parked for a walk (log entry 15, DEDUCED). -/
def Obligations.AtomicIssue : Prop :=
  ∀ (s : State) (d a b : BitVec 5) (wide : BitVec 1),
    let A (j : BitVec 1 → Instr) (op : AmoOp) (w ow : Nat) : Prop :=
      let bv : Word := BitVec.ofNat 64 ((s.me.rd b).toNat % 2 ^ (8 * ow))
      let cv : Word := BitVec.ofNat 64 ((s.me.rd d).toNat % 2 ^ (8 * ow))
      let va := (s.me.rd a).toNat % 2 ^ 55
      let p := (s.me.rd a).toNat % 2 ^ 28
      (va % w ≠ 0 → Does (j 0) s (fun s t => TookTrap s t s.cur.1 s.cur.2 kALIGN (BitVec.ofNat 64 (va + 2 ^ 56)) s.me.pc)) ∧
      (va % w = 0 → s.translate s.cur.1 va .write = none → Does (j 0) s (fun s t => Parked s t (.walk (BitVec.ofNat 55 va) .write))) ∧
      (∀ pa, va % w = 0 → s.translate s.cur.1 va .write = some pa →
        Does (j 0) s (fun s t => Parked s t (.amo op w false pa bv d cv false va))) ∧
      (p % w ≠ 0 → Does (j 1) s (fun s t => TookTrap s t s.cur.1 s.cur.2 kALIGN (BitVec.ofNat 64 (p + 2 ^ 56)) s.me.pc)) ∧
      (p % w = 0 → p / 2 ^ 22 ≠ s.cur.1.val ∨ 48 ≤ p / 2 ^ 16 % 64 →
        Does (j 1) s (fun s t => TookTrap s t s.cur.1 s.cur.2 kPROT (BitVec.ofNat 64 (p + 2 ^ 56)) s.me.pc)) ∧
      (p % w = 0 → p / 2 ^ 22 = s.cur.1.val → p / 2 ^ 16 % 64 < 48 →
        Does (j 1) s (fun s t => Parked s t (.amo op w true p bv d cv false 0)))
    let W (j : BitVec 1 → Instr) (op : AmoOp) : Prop := A j op (if wide = 1 then 8 else 4) (if wide = 1 then 8 else 4)
    W (fun sp => .aadd d a b sp wide) .add ∧ W (fun sp => .aand d a b sp wide) .and ∧ W (fun sp => .aor d a b sp wide) .or ∧
    W (fun sp => .axor d a b sp wide) .xor ∧ W (fun sp => .amin d a b sp wide) .min ∧ W (fun sp => .amax d a b sp wide) .max ∧
    W (fun sp => .aminu d a b sp wide) .minu ∧ W (fun sp => .amaxu d a b sp wide) .maxu ∧ W (fun sp => .axchg d a b sp wide) .xchg ∧
    W (fun sp => .acas d a b sp wide) .cas ∧ A (fun sp => .fxaddAmo d a b sp) .fxadd 16 8

/-- An AMO performed, at the HBM controller or at its bank: the w bytes take the operation's value, every other byte stays, Gd receives the old
value, sign-extended, or FXADD's Q32.32 window, with FXSAT set when the lane saturates; the line of a VA leaves the data cache (R247, R248). -/
def Sys2Proof.Claims.AtomicDone : Prop :=
  ∀ (s : State) (c : CoreId) (k : Tid) (op : AmoOp) (w pa va : Nat) (b cmp : Word) (d : BitVec 5) (pool : Bool),
    let old := Memory.readN (if pool then s.pool else s.hbm) pa w
    let sum : Int := sext 128 old + sext 64 b.toNat * 2 ^ 32
    let new := amoVal op w old b cmp
    let Ends (t : State) : Prop :=
      (∀ r, (t.thr c k).rd r = if r = d ∧ d ≠ 0 then amoOld op w old else (s.thr c k).rd r) ∧ (t.thr c k).st = .ready ∧ (t.thr c k).pc = (s.thr c k).pc + 4 ∧
        (t.thr c k).fxsat = ((s.thr c k).fxsat || decide (op = .fxadd ∧ (sum < fxMin ∨ fxMax < sum)))
    (s.thr c k).st = .parked → (s.thr c k).pend = .amo op w pool pa b d cmp pool va → s.memWf = true →
    ((op = .fxadd ∧ w = 16) ∨ (op ≠ .fxadd ∧ (w = 4 ∨ w = 8))) →
    (pool = false → (s.core c).storesDone k = true → (s.core c).direct.all (fun y => y.t != k) = true → s.hbmBad pa w = false →
      ∃ t, exec (.amoPerformed c k) s = .next t ∧ t.pool = s.pool ∧ Ends t ∧ (∀ l ∈ (t.core c).dcache, l.no ≠ pa / 64) ∧
        ∀ a, Memory.get t.hbm a = if pa ≤ a ∧ a < pa + w then BitVec.ofNat 8 (new / 256 ^ (a - pa)) else Memory.get s.hbm a) ∧
    (∀ x, pool = true → (s.core c).directOf? c s.slot k = some x → x.addr = pa → s.poolBad pa w = false →
      ∃ t, exec (.amoPerformed c k) s = .next t ∧ t.hbm = s.hbm ∧ Ends t ∧
        ∀ a, Memory.get t.pool a = if pa ≤ a ∧ a < pa + w then BitVec.ofNat 8 (new / 256 ^ (a - pa)) else Memory.get s.pool a)

/-- The AMO forms complete: once the thread's stores are performed, on VA space at the HBM controller, on the pool at a bank where nothing else
waits; the w bytes take the operation's value, Gd the old one (R247, R248). Completion is stated of AADD, AAND, AOR, AXOR, AMIN, AMAX, AMINU, AMAXU,
AXCHG, ACAS, the AMO form FXADD, and AMO_PERFORMED. -/
def Sys2Proof.Claims.AtomicCompletes : Prop :=
  ∀ (s : State) (d a b : BitVec 5) (wide : BitVec 1),
    let c := s.cur.1
    let k := s.cur.2
    let va := (s.me.rd a).toNat % 2 ^ 55
    let p := (s.me.rd a).toNat % 2 ^ 28
    let A (j : BitVec 1 → Instr) (op : AmoOp) (w ow : Nat) : Prop :=
      let new (m : Memory) (at_ : Nat) : Nat := amoVal op w (Memory.readN m at_ w) (BitVec.ofNat 64 ((s.me.rd b).toNat % 2 ^ (8 * ow)))
        (BitVec.ofNat 64 ((s.me.rd d).toNat % 2 ^ (8 * ow)))
      let Ends (m m' : Memory) (at_ : Nat) (t : State) : Prop :=
        (∀ r, (t.thr c k).rd r = if r = d ∧ d ≠ 0 then amoOld op w (Memory.readN m at_ w) else s.me.rd r) ∧ (t.thr c k).st = .ready ∧
          (t.thr c k).pc = s.me.pc + 4 ∧
          ∀ q, Memory.get m' q = if at_ ≤ q ∧ q < at_ + w then BitVec.ofNat 8 (new m at_ / 256 ^ (q - at_)) else Memory.get m q
      s.memWf = true → s.myCore.storesDone k = true →
      (∀ pa, va % w = 0 → s.translate c va .write = some pa → s.myCore.direct = [] → s.hbmBad pa w = false →
        DoesBy (j 0) (.amoPerformed c k) s (fun s t => t.pool = s.pool ∧ Ends s.hbm t.hbm pa t)) ∧
      (p % w = 0 → p / 2 ^ 22 = c.val → p / 2 ^ 16 % 64 < 48 → BankOpen s c (p / 2 ^ 16 % 64) → s.poolBad p w = false →
        DoesVia (j 1) (.amoPerformed c k) (.amoPerformed c k) s (fun s t => t.hbm = s.hbm ∧ Ends s.pool t.pool p t))
    let W (j : BitVec 1 → Instr) (op : AmoOp) : Prop := A j op (if wide = 1 then 8 else 4) (if wide = 1 then 8 else 4)
    W (fun sp => .aadd d a b sp wide) .add ∧ W (fun sp => .aand d a b sp wide) .and ∧ W (fun sp => .aor d a b sp wide) .or ∧
    W (fun sp => .axor d a b sp wide) .xor ∧ W (fun sp => .amin d a b sp wide) .min ∧ W (fun sp => .amax d a b sp wide) .max ∧
    W (fun sp => .aminu d a b sp wide) .minu ∧ W (fun sp => .amaxu d a b sp wide) .maxu ∧ W (fun sp => .axchg d a b sp wide) .xchg ∧
    W (fun sp => .acas d a b sp wide) .cas ∧ A (fun sp => .fxaddAmo d a b sp) .fxadd 16 8

/-- LDP of a bank where nothing else waits completes with the 8 bytes (R238, R246). Completion is stated of LDP and POOL_ACCESS_DONE. -/
def Sys2Proof.Claims.PoolCompletes : Prop :=
  ∀ (s : State) (d a : BitVec 5) (i : BitVec 16),
    let p := (s.me.rd a + i.signExtend 64).toNat % 2 ^ 28
    p % 8 = 0 → p / 2 ^ 22 = s.cur.1.val → p / 2 ^ 16 % 64 < 48 → BankOpen s s.cur.1 (p / 2 ^ 16 % 64) → s.poolBad p 8 = false →
    DoesBy (.ldp d a i) (.poolAccessDone s.cur.1 s.cur.2) s (fun s t => SameMem s t ∧
      Finished s t s.cur.1 s.cur.2 (fun th => th.wr d (BitVec.ofNat 64 (Memory.readN s.pool p 8))))

/-- A prefetch goes on to the next word and changes no register, no byte of memory and no page-table entry, whether or not it fills
(R249; whether it fills is free, log entry 2). -/
def Sys2Proof.Claims.Prefetch : Prop :=
  ∀ (s : State) (a : BitVec 5) (i : BitVec 16),
    Does (.prefR a i) s (fun s t => SameMem s t ∧ t.me = { s.me with pc := s.me.pc + 4 } ∧ t.myCore.icache = s.myCore.icache) ∧
    Does (.prefW a i) s (fun s t => SameMem s t ∧ t.me = { s.me with pc := s.me.pc + 4 } ∧ t.myCore.icache = s.myCore.icache ∧
      t.myCore.dcache = s.myCore.dcache)

/-! ## Threads, groups, tags -/

/-- The group forms at issue: ILL for a number above 255, ARRIVE also for a non-member, else the thread parks for the table (R329,
R331); EXIT of a member parks, of a thread in no group is IDLE at once (R332); TID (R333). -/
def Sys2Proof.Claims.GroupForms : Prop :=
  ∀ (s : State) (d a : BitVec 5),
    let g := (s.me.rd a).toNat
    let G (j : Instr) (op : GroupOp) (d : BitVec 5) : Prop :=
      (255 < g → Does j s (fun s t => t.me.ecause = kILL ∧ SameMem s t)) ∧ (g ≤ 255 → Does j s (fun s t => Parked s t (.group op g d)))
    G (.join d a) .join d ∧ G (.leave a) .leave 0 ∧ G (.gwait a) .gwait 0 ∧ G (.gsize d a) .gsize d ∧
    (g ≤ 255 → s.member g = true → Does (.arrive a) s (fun s t => Parked s t (.group .arrive g 0))) ∧
    (g ≤ 255 → s.member g = false → Does (.arrive a) s (fun _ t => t.me.ecause = kILL)) ∧
    (∀ k, s.taskOf s.cur.1 = some k → k.groups = [] → Does .exit s (fun s t => t.me.st = .idle ∧ SameMem s t)) ∧
    (∀ k, s.taskOf s.cur.1 = some k → k.groups.any (fun y => y.2.members.contains (threadNo s.cur.1 s.cur.2)) = true →
      Does .exit s (fun s t => Parked s t (.group .exit 0 0))) ∧
    (∀ k (low : CoreId), s.taskOf s.cur.1 = some k → s.cur.1 ∈ k.cores → low ∈ k.cores → (∀ j ∈ k.cores, low ≤ j) →
      Does (.tidOf d) s (fun s t => Wrote s t d
        (BitVec.ofNat 64 (s.cur.1.val * 16 + s.cur.2.val + 2 ^ 16 * (16 * (s.cur.1.val - low.val) + s.cur.2.val)))))

/-- A group operation reaches the table: JOIN, ARRIVE and GSIZE with their results, the phase that completes when every member has arrived; every
thread that waits for the completed phase is READY at its next word from the next slot, and one that waits for an open phase stays parked; of a
task that is being stopped, or whose watchdog is spent, no operation reaches it (R329-R331, R344). -/
def Sys2Proof.Claims.GroupApplied : Prop :=
  ∀ (s : State) (c : CoreId) (k : Tid) (z : Task) (g : Nat) (d : BitVec 5),
    let n := c.val * 16 + k.val
    let y := z.group g
    (s.thr c k).st = .parked → s.taskOf c = some z → z.phase = .running → z.wdog ≠ 0 → y.members.length < 2048 →
    ((s.thr c k).pend = .group .gsize g d → ∃ t, exec (.groupOpApplied c k) s = .next t ∧ OnlyThread c k s t ∧
      Finished s t c k (fun th => th.wr d y.word)) ∧
    ((s.thr c k).pend = .group .join g d → n ∉ y.members → ∃ t, exec (.groupOpApplied c k) s = .next t ∧ SameMem s t ∧
      Finished s t c k (fun th => th.wr d { y with members := y.members ++ [n] }.word) ∧
      ∀ z', t.taskOf c = some z' → (z'.group g).members = y.members ++ [n] ∧ (z'.group g).phase = y.phase) ∧
    ((s.thr c k).pend = .group .arrive g d → n ∈ y.members → n ∉ y.arrived → ∃ t, exec (.groupOpApplied c k) s = .next t ∧
      SameMem s t ∧ (t.thr c k).arm = some (g, y.phase) ∧ (t.thr c k).pc = (s.thr c k).pc + 4 ∧
      ∀ z', t.taskOf c = some z' →
        (z'.group g).phase = (if y.arrived.length + 1 = y.members.length then y.phase + 1 else y.phase) ∧
        (z'.group g).arrived = (if y.arrived.length + 1 = y.members.length then [] else y.arrived ++ [n])) ∧
    ((s.thr c k).pend = .group .arrive g d → n ∈ y.members → n ∉ y.arrived → ∃ t, exec (.groupOpApplied c k) s = .next t ∧
      ∀ j ∈ z.cores, ∀ i : Tid, j ≠ c ∨ i ≠ k → (s.thr j i).st = .parked → (s.thr j i).pend = .gwait g y.phase →
        (y.arrived.length + 1 = y.members.length → Finished s t j i id) ∧
        (y.arrived.length + 1 ≠ y.members.length → t.thr j i = s.thr j i))

/-- Of a task that is being stopped, or whose watchdog is spent, no group operation reaches the table (R344). -/
def Sys2Proof.Claims.GroupStopped : Prop :=
  ∀ (s : State) (c : CoreId) (k : Tid) (z : Task) (op : GroupOp) (g : Nat) (d : BitVec 5),
    (s.thr c k).st = .parked → (s.thr c k).pend = .group op g d → s.taskOf c = some z → z.phase.stopped = true ∨ z.wdog = 0 →
    exec (.groupOpApplied c k) s = .next s

/-- What LEAVE, GWAIT and EXIT do at the table: the member goes from the group and from its arrivals, which may complete the phase; a member's
GWAIT arrives and waits for the open phase, or goes on when it was the last; a thread armed by ARRIVE waits for that phase or goes on; EXIT
leaves every group and is IDLE (R330-R332). -/
def Sys2Proof.Claims.GroupLeaves : Prop :=
  ∀ (s : State) (c : CoreId) (k : Tid) (z : Task) (g : Nat) (d : BitVec 5),
    let n := c.val * 16 + k.val
    let y := z.group g
    let Left (a b : Group) : Prop :=
      let m := a.members.filter (fun i => i != n)
      let r := a.arrived.filter (fun i => i != n)
      b.members = m ∧ (m = [] ∨ r.length = m.length → b.arrived = [] ∧ b.phase = a.phase + 1) ∧
        (¬(m = [] ∨ r.length = m.length) → b.arrived = r ∧ b.phase = a.phase)
    let last : Prop := y.arrived.length + 1 = y.members.length
    (s.thr c k).st = .parked → s.taskOf c = some z → z.phase = .running → z.wdog ≠ 0 → c ∈ z.cores →
    ((s.thr c k).pend = .group .leave g d → ∃ t, exec (.groupOpApplied c k) s = .next t ∧ SameMem s t ∧ Finished s t c k id ∧
      ∀ z', t.taskOf c = some z' → (n ∈ y.members → Left y (z'.group g)) ∧ (n ∉ y.members → z'.group g = y)) ∧
    ((s.thr c k).pend = .group .gwait g d → (s.thr c k).arm = none → n ∈ y.members → n ∉ y.arrived →
      ∃ t, exec (.groupOpApplied c k) s = .next t ∧ SameMem s t ∧
        (last → Finished s t c k id) ∧ (¬last → t.thr c k = { s.thr c k with pend := .gwait g y.phase }) ∧
        ∀ z', t.taskOf c = some z' → (z'.group g).phase = (if last then y.phase + 1 else y.phase) ∧
          (z'.group g).arrived = (if last then [] else y.arrived ++ [n])) ∧
    ((s.thr c k).pend = .group .gwait g d → (s.thr c k).arm = some (g, y.phase) → ∃ t, exec (.groupOpApplied c k) s = .next t ∧
      OnlyThread c k s t ∧ t.thr c k = { s.thr c k with arm := none, pend := .gwait g y.phase }) ∧
    (∀ q, (s.thr c k).pend = .group .gwait g d → (s.thr c k).arm = some (g, q) → q ≠ y.phase → ∃ t, exec (.groupOpApplied c k) s = .next t ∧
      OnlyThread c k s t ∧ Finished s t c k (fun th => { th with arm := none })) ∧
    ((s.thr c k).pend = .group .gwait g d → (s.thr c k).arm = none → n ∉ y.members → ∃ t, exec (.groupOpApplied c k) s = .next t ∧
      OnlyThread c k s t ∧ t.thr c k = { s.thr c k with pend := .gwait g y.phase }) ∧
    ((s.thr c k).pend = .group .exit g d → ∃ t, exec (.groupOpApplied c k) s = .next t ∧ SameMem s t ∧ (t.thr c k).st = .idle ∧
      ∀ z', t.taskOf c = some z' → ∀ h, n ∈ (z.group h).members → Left (z.group h) (z'.group h))

/-- The group forms complete at the table of a task that runs: JOIN and GSIZE with the group's word, LEAVE, ARRIVE, the GWAIT of the last member to
arrive and that of a thread whose armed phase is over, and EXIT, whose thread is IDLE (R329-R333). Completion is stated of JOIN, LEAVE, ARRIVE, GWAIT,
GSIZE, EXIT and GROUP_OP_APPLIED. -/
def Sys2Proof.Claims.GroupCompletes : Prop :=
  ∀ (s : State) (d a : BitVec 5) (z : Task),
    let c := s.cur.1
    let k := s.cur.2
    let g := (s.me.rd a).toNat
    let n := c.val * 16 + k.val
    let y := z.group g
    let By (i : Instr) (R : State → Prop) : Prop := DoesBy i (.groupOpApplied c k) s (fun s t => SameMem s t ∧ R t)
    s.taskOf c = some z → z.phase = .running → z.wdog ≠ 0 → c ∈ z.cores →
    (g ≤ 255 →
      By (.gsize d a) (fun t => Finished s t c k (fun th => th.wr d y.word)) ∧
      (n ∉ y.members → By (.join d a) (fun t => Finished s t c k (fun th => th.wr d { y with members := y.members ++ [n] }.word) ∧
        ∀ z', t.taskOf c = some z' → (z'.group g).members = y.members ++ [n])) ∧
      By (.leave a) (fun t => Finished s t c k id ∧ ∀ z', t.taskOf c = some z' → (z'.group g).members = y.members.filter (fun i => i != n)) ∧
      (n ∈ y.members → n ∉ y.arrived → By (.arrive a) (fun t => Finished s t c k (fun th => { th with arm := some (g, y.phase) }) ∧
        ∀ z', t.taskOf c = some z' → (z'.group g).phase = if y.arrived.length + 1 = y.members.length then y.phase + 1 else y.phase)) ∧
      (s.me.arm = none → n ∈ y.members → n ∉ y.arrived → y.arrived.length + 1 = y.members.length →
        By (.gwait a) (fun t => Finished s t c k id ∧ ∀ z', t.taskOf c = some z' → (z'.group g).phase = y.phase + 1)) ∧
      (∀ q, s.me.arm = some (g, q) → q ≠ y.phase → By (.gwait a) (fun t => Finished s t c k (fun th => { th with arm := none })))) ∧
    (∀ h, n ∈ (z.group h).members → By .exit (fun t => (t.thr c k).st = .idle ∧
      ∀ z', t.taskOf c = some z' → (z'.group h).members = (z.group h).members.filter (fun i => i != n))) ∧
    ((∀ e ∈ z.groups, n ∉ e.2.members) → Does .exit s (fun s t => (t.thr c k).st = .idle ∧ SameMem s t)) ∧
    ∀ low : CoreId, low ∈ z.cores → (∀ j ∈ z.cores, low ≤ j) → Does (.tidOf d) s (fun s t => Wrote s t d
      (BitVec.ofNat 64 (n + 2 ^ 16 * (16 * (c.val - low.val) + k.val))))

/-- The tag forms: TWAITANY and TWAITALL go on or park, TTEST and TFFR read, TFFR and TCLR clear at the end of the slot (R327, R328). -/
def Sys2Proof.Claims.TagForms : Prop :=
  ∀ (s : State) (d a : BitVec 5) (p : BitVec 3),
    let m := s.me.rd a
    let hit := s.myCore.tb &&& m
    (m = 0 → Does (.twaitany d a) s (fun s t => Wrote s t d 0)) ∧
    (hit ≠ 0 → Does (.twaitany d a) s (fun s t => Wrote s t d hit)) ∧
    (m ≠ 0 → hit = 0 → Does (.twaitany d a) s (fun s t => Parked s t (.tagAny d m))) ∧
    (hit = m → Does (.twaitall a) s Skipped) ∧ (hit ≠ m → Does (.twaitall a) s (fun s t => Parked s t (.tagAll m))) ∧
    Does (.ttest p a) s (fun s t => WroteP s t p (decide (hit ≠ 0))) ∧
    (hit = 0 → Does (.tffr d a) s (fun s t => Wrote s t d 64)) ∧
    (∀ n, n < 64 → hit.getLsbD n = true → (∀ i, i < n → hit.getLsbD i = false) →
      Does (.tffr d a) s (fun s t => OnlyCore s.cur.1 s t ∧ t.myCore.tbClr = s.myCore.tbClr ||| BitVec.ofNat 64 (2 ^ n) ∧
        t.myCore.tb = s.myCore.tb ∧ t.me.rd d = (if d = 0 then 0 else BitVec.ofNat 64 n) ∧ t.me.pc = s.me.pc + 4)) ∧
    Does (.tclr a) s (fun s t => OnlyCore s.cur.1 s t ∧ t.myCore.tbClr = s.myCore.tbClr ||| m ∧ t.myCore.tb = s.myCore.tb ∧
      t.me = { s.me with pc := s.me.pc + 4 })

/-- A parked tag wait ends when TB meets its mask, with the bits that were set for TWAITANY, and not before (R328). -/
def Sys2Proof.Claims.TagWaitEnds : Prop :=
  ∀ (s : State) (c : CoreId) (k : Tid) (d : BitVec 5) (m : Word),
    let tb := (s.core c).tb
    (s.thr c k).st = .parked →
    ((s.thr c k).pend = .tagAny d m → tb &&& m ≠ 0 → ∃ t, exec (.tagWaitSatisfied c k) s = .next t ∧ OnlyThread c k s t ∧
      Finished s t c k (fun th => th.wr d (tb &&& m))) ∧
    ((s.thr c k).pend = .tagAny d m → tb &&& m = 0 → exec (.tagWaitSatisfied c k) s = .next s) ∧
    ((s.thr c k).pend = .tagAll m → tb &&& m = m → ∃ t, exec (.tagWaitSatisfied c k) s = .next t ∧ OnlyThread c k s t ∧
      Finished s t c k id) ∧
    ((s.thr c k).pend = .tagAll m → tb &&& m ≠ m → exec (.tagWaitSatisfied c k) s = .next s)

/-! ## Controller forms on other units -/

/-- TLBINV, RESUME, KILL, STEP and WALK: ILL 1 in task mode; PROT for another tenant's unit; else their effect (R112-R114, R341, R342). -/
def Sys2Proof.Claims.ControllerIssue : Prop :=
  ∀ (s : State) (d a b : BitVec 5) (k : Task),
    let u := (s.me.rd a).toNat % 2 ^ 32
    let c : CoreId := Fin.ofNat 64 (u / 2 ^ 26)
    let X (j : Instr) : Prop := s.me.cm = false → Does j s (fun s t => t.me.ecause = kILL ∧ t.me.eval.toNat / 2 ^ 32 = 1 ∧ SameMem s t)
    let F (j : Instr) : Prop := s.me.cm = true → s.taskOf c = some k → k.lrec.tenant ≠ s.tenantOf s.cur.1 →
      Does j s (fun s t => TookTrap s t s.cur.1 s.cur.2 kPROT (BitVec.ofNat 64 ((s.me.rd a).toNat % 2 ^ 55)) s.me.pc)
    X (.tlbinv d a b) ∧ X (.resume a) ∧ X (.kill a) ∧ X (.step a) ∧ X (.walk d a) ∧ F (.resume a) ∧ F (.walk d a) ∧
    (s.me.cm = true → s.me.rd b = 0 → Does (.tlbinv d a b) s Skipped) ∧
    (s.me.cm = true → s.me.rd b ≠ 0 → Does (.tlbinv d a b) s (fun s t => SameMem s t ∧ t.me.st = .parked ∧
      t.me.pend = .tlbinv ((s.me.rd d).setWidth 6) ((s.me.rd a).toNat % 2 ^ 55)
        (min ((s.me.rd a).toNat % 2 ^ 55 + (s.me.rd b).toNat) (2 ^ 55)))) ∧
    (s.me.cm = true → s.taskOf c = some k → k.lrec.tenant = s.tenantOf s.cur.1 → k.phase = .running →
      (u / 2 ^ 22 % 16 = 3 → c ≠ s.cur.1 → (s.thr c (Fin.ofNat 16 (u % 2 ^ 22))).st = .frozen →
        Does (.resume a) s (fun s t => t.me = { s.me with pc := s.me.pc + 4 } ∧ SameMem s t ∧
          t.thr c (Fin.ofNat 16 (u % 2 ^ 22)) = { s.thr c (Fin.ofNat 16 (u % 2 ^ 22)) with
            st := .ready, pend := .none, readyAt := s.slot + 1, pc := (s.thr c (Fin.ofNat 16 (u % 2 ^ 22))).epc })) ∧
      (u / 2 ^ 22 % 16 ≠ 0 ∨ u % 2 ^ 7 < 48 ∨ 79 < u % 2 ^ 7 → u / 2 ^ 22 % 16 ≠ 14 → Does (.step a) s (fun s t =>
        t.me.ecause = kILL ∧ t.me.eval.toNat / 2 ^ 32 = 3 ∧ SameMem s t)) ∧
      (u / 2 ^ 22 % 16 = 0 → 48 ≤ u % 2 ^ 7 → u % 2 ^ 7 ≤ 79 → Does (.step a) s (fun s t => t.me = { s.me with pc := s.me.pc + 4 } ∧ SameMem s t ∧
        (t.core c).late = (s.core c).late ++ [.step (some (elemOfPort (u % 2 ^ 7))) ((s.me.rd a).getLsbD 32)])) ∧
      (u / 2 ^ 22 % 16 = 14 → Does (.step a) s (fun s t => t.me = { s.me with pc := s.me.pc + 4 } ∧ SameMem s t ∧
        (t.core c).late = (s.core c).late ++ [.step none ((s.me.rd a).getLsbD 32)])) ∧
      Does (.walk d a) s (fun s t => t.me = { s.me with st := .parked, pend := .sounding d [(s.me.rd a).setWidth 32] } ∧ SameMem s t)) ∧
    (s.me.cm = true → s.taskById ((s.me.rd a).setWidth 32) = some k → k.phase = .running → k.lrec.tenant = s.tenantOf s.cur.1 →
      Does (.kill a) s (fun s t => t.me = { s.me with pc := s.me.pc + 4 } ∧ SameMem s t ∧
        ∀ k', t.taskById ((s.me.rd a).setWidth 32) = some k' → k'.phase = .stopping 0 s.slot)) ∧
    (s.me.cm = true → s.taskById ((s.me.rd a).setWidth 32) = none → Does (.kill a) s Skipped)

/-- The end of a TLBINV: with its own stores and every access by the old entries performed, the thread goes on, and no core of the
tenant holds a translation of a byte of the range (R112, R256). -/
def Sys2Proof.Claims.InvalidateEnds : Prop :=
  ∀ (s : State) (c : CoreId) (k : Tid) (ten : Tenant) (lo hi : Nat),
    (s.thr c k).st = .parked → (s.thr c k).pend = .tlbinv ten lo hi → (s.core c).storesDone k = true →
    (∀ j z, s.taskOf j = some z → z.lrec.tenant = ten → (s.core j).invDone ten lo hi = true) →
    ∃ t, exec (.tlbinvComplete c k) s = .next t ∧ SameMem s t ∧ (t.thr c k).st = .ready ∧ (t.thr c k).pc = (s.thr c k).pc + 4 ∧
      ∀ j z, s.taskOf j = some z → z.lrec.tenant = ten →
        (∀ e ∈ (t.core j).tlb, e.meets ten lo hi = false) ∧ (∀ y ∈ (t.core j).splices, ∀ e ∈ y.extents, e.meets ten lo hi = false) ∧ ∀ q : StrmId, ∀ e ∈ ((t.core j).strms[q]).extents, e.meets ten lo hi = false

/-- The parked controller forms complete: TLBINV once its thread's stores and every access by the old translations are performed, with no
translation of the range left in the tenant's cores; WALK from a unit that nothing blocks, with that unit and one link (R112, R256, R341). RESUME, STEP and
KILL complete as they issue. Completion is stated of TLBINV, TLBINV_COMPLETE, WALK, WALK_LINK, RESUME, STEP and KILL. -/
def Sys2Proof.Claims.ControllerCompletes : Prop :=
  ∀ (s : State) (d a b : BitVec 5) (z : Task) (reason : Nat),
    let c := s.cur.1
    let k := s.cur.2
    let ten : Tenant := (s.me.rd d).setWidth 6
    let lo := (s.me.rd a).toNat % 2 ^ 55
    let hi := min (lo + (s.me.rd b).toNat) (2 ^ 55)
    let u : BitVec 32 := (s.me.rd a).setWidth 32
    let uc : CoreId := Fin.ofNat 64 (u.toNat / 2 ^ 26)
    let i : Tid := Fin.ofNat 16 (u.toNat % 2 ^ 22)
    s.me.cm = true →
    (s.me.rd b ≠ 0 → s.myCore.storesDone k = true → (∀ j y, s.taskOf j = some y → y.lrec.tenant = ten → (s.core j).invDone ten lo hi = true) →
      DoesBy (.tlbinv d a b) (.tlbinvComplete c k) s (fun s t => SameMem s t ∧ Finished s t c k id ∧
        ∀ j y, s.taskOf j = some y → y.lrec.tenant = ten → ∀ e ∈ (t.core j).tlb, e.meets ten lo hi = false)) ∧
    (s.taskOf uc = some z → z.lrec.tenant = s.tenantOf c →
      (s.atStart.linkOf u.toNat = .stop reason → DoesBy (.walk d a) (.walkLink c k) s (fun s t => OnlyCore c s t ∧
        Finished s t c k (fun th => th.wr d (BitVec.ofNat 64 (u.toNat + 2 ^ 32 + 2 ^ 40 * reason))))) ∧
      (z.phase = .running → u.toNat / 2 ^ 22 % 16 = 3 → uc ≠ c ∨ i ≠ k → (s.thr uc i).st = .frozen → Does (.resume a) s (fun s t =>
        SameMem s t ∧ t.me = { s.me with pc := s.me.pc + 4 } ∧
          t.thr uc i = { s.thr uc i with st := .ready, pend := .none, readyAt := s.slot + 1, pc := (s.thr uc i).epc })) ∧
      (u.toNat / 2 ^ 22 % 16 = 14 → Does (.step a) s (fun s t => SameMem s t ∧ t.me = { s.me with pc := s.me.pc + 4 } ∧
        (t.core uc).late = (s.core uc).late ++ [.step none ((s.me.rd a).getLsbD 32)]))) ∧
    (s.taskById u = some z → z.phase = .running → z.lrec.tenant = s.tenantOf c → Does (.kill a) s (fun s t => SameMem s t ∧
      t.me = { s.me with pc := s.me.pc + 4 } ∧ ∀ y, t.taskById u = some y → y.phase = .stopping 0 s.slot))

/-- NODE: ILL 3 outside the gang in task mode or for a reserved kind; else at once on the own core, as the slot began, or parked until the
value returns (R326, R335); WALK follows one link a slot, noting each unit and reason, and ends with its word: at a unit that nothing blocks, at
one that is in the chain, or after 32 (R341). Completion is stated of NODE, NODE_REMOTE_RETURN and WALK_LINK. -/
def Sys2Proof.Claims.NodeAndWalk : Prop :=
  ∀ (s : State) (d a : BitVec 5) (c : CoreId) (k : Tid) (v : Word) (u x : BitVec 32) (l : List (BitVec 32)) (reason : Nat) (r : BitVec 4) (z : Task),
    let w := s.me.rd a
    let uc : CoreId := Fin.ofNat 64 (w.toNat % 2 ^ 32 / 2 ^ 26)
    let ill : Prop := Does (.node d a) s (fun s t => t.me.ecause = kILL ∧ t.me.eval.toNat / 2 ^ 32 = 3 ∧ SameMem s t)
    let open_ : Prop := w.toNat / 2 ^ 22 % 16 ≠ 15 ∧ (s.me.cm = true ∨ z.cores.contains uc = true)
    let ends (reason : Nat) : Prop := ∃ t, exec (.walkLink c k) s = .next t ∧ OnlyCore c s t ∧
      Finished s t c k (fun th => th.wr d (BitVec.ofNat 64 (u.toNat + 2 ^ 32 * (l.length + 1) + 2 ^ 40 * reason)))
    (w.toNat / 2 ^ 22 % 16 = 15 → ill) ∧
    (s.taskOf s.cur.1 = some z → s.me.cm = false → z.cores.contains uc = false → ill) ∧
    (s.taskOf s.cur.1 = some z → open_ → uc = s.cur.1 → Does (.node d a) s (fun s t => Wrote s t d (s.atStart.nodeWord w))) ∧
    (s.taskOf s.cur.1 = some z → open_ → uc ≠ s.cur.1 → Does (.node d a) s (fun s t => Parked s t (.node d w)) ∧
      DoesBy (.node d a) (.nodeRemoteReturn s.cur.1 s.cur.2) s (fun s t => Finished s t s.cur.1 s.cur.2 (fun th => th.wr d (s.atStart.nodeWord w)))) ∧
    ((s.thr c k).st = .parked → (s.thr c k).pend = .node d v → ∃ t, exec (.nodeRemoteReturn c k) s = .next t ∧ OnlyThread c k s t ∧
      Finished s t c k (fun th => th.wr d (s.atStart.nodeWord v))) ∧
    ((s.thr c k).st = .parked → (s.thr c k).pend = .sounding d (u :: l) →
      (s.atStart.linkOf u.toNat = .stop reason → ends reason) ∧
      (s.atStart.linkOf u.toNat = .to x r → (u :: l).any (fun w => sameUnit w x) = true → ends 6) ∧
      (s.atStart.linkOf u.toNat = .to x r → (u :: l).any (fun w => sameUnit w x) = false → l.length = 31 → ends 7) ∧
      (s.atStart.linkOf u.toNat = .to x r → (u :: l).any (fun w => sameUnit w x) = false → l.length < 31 → ∃ t, exec (.walkLink c k) s = .next t ∧
        OnlyCore c s t ∧ t.thr c k = { s.thr c k with pend := .sounding d (x :: u :: l) } ∧
        vget (t.core c).wr l.length 0 = BitVec.ofNat 64 (u.toNat + 2 ^ 32 * r.toNat) ∧
        vget (t.core c).wr (l.length + 1) 0 = BitVec.ofNat 64 x.toNat))

/-- GATESET, TRC and an armed gate whose deadline has come: it disarms, its tag sets in the slot after, its EOR goes ahead of the port's other
cells, and a controller thread gets its GATE record (R338, R339). Completion is stated of GATESET, TRC and GATE_FIRE. -/
def Sys2Proof.Claims.GatesAndTraces : Prop :=
  ∀ (s : State) (a : BitVec 5) (g : BitVec 4) (c : CoreId) (n : GateId),
    let w := s.me.rd a
    let y := (s.core c).gates[n]
    (w.getLsbD 63 = true → inReserved (w.toNat / 2 ^ 41 % 2 ^ 7) = true → Does (.gateset a g) s (fun s t => t.me.ecause = kILL ∧
      t.me.eval.toNat / 2 ^ 32 = 3 ∧ SameMem s t)) ∧
    (w.getLsbD 63 = false ∨ inReserved (w.toNat / 2 ^ 41 % 2 ^ 7) = false → Does (.gateset a g) s (fun s t => OnlyCore s.cur.1 s t ∧
      t.me = { s.me with pc := s.me.pc + 4 } ∧
      t.myCore.late = s.myCore.late ++ [.gate (Fin.ofNat 16 g.toNat) (if w.getLsbD 63 = true ∨ w.getLsbD 62 = true then w else 0)])) ∧
    (s.myCore.trace = false → Does (.trc a) s Skipped) ∧
    (s.myCore.trace = true → Does (.trc a) s (fun s t => SameMem s t ∧ t.me = { s.me with st := .parked, pend := .trc } ∧
      ∃ o, (t.myCore.ingAt 123).obuf = (s.myCore.ingAt 123).obuf ++ [o] ∧ o.who = some s.cur.2 ∧ o.cell.h.ep = 123 ∧
        o.cell.data = BitVec.ofNat 2048 (s.time.toNat + 2 ^ 64 * s.clockOf s.cur.1 + 2 ^ 128 * (s.myCore.nodeEntry 3 s.cur.2.val).toNat +
          2 ^ 192 * (unitId s.cur.1 3 s.cur.2.val).toNat + 2 ^ 256 * w.toNat))) ∧
    (let z := s.traceCell s.cur.1 s.cur.2 w
     s.myCore.trace = true → PortOpen s s.cur.1 123 z → DoesBy (.trc a) (.cellAdmit s.cur.1 123) s (fun s t => SameMem s t ∧
      Finished s t s.cur.1 s.cur.2 id ∧ Admitted s t s.cur.1 123 z.h z.data)) ∧
    (s.gateDue y.arm = true → ∃ t, exec (.gateFire c n) s = .next t ∧ SameMem s t ∧ (t.core c).gates[n].arm = 0 ∧
      (t.core c).gates[n].fired = y.fired + 1 ∧
      (t.core c).tbSoon = (if y.arm.getLsbD 62 then (s.core c).tbSoon ||| (1#64 <<< (getBits y.arm 56 6)) else (s.core c).tbSoon) ∧
      (y.arm.getLsbD 63 = true → ∃ o, ((t.core c).ingAt (getBits y.arm 41 7)).ahead = ((s.core c).ingAt (getBits y.arm 41 7)).ahead ++ [o] ∧
        o.via = .entry (BitVec.ofNat 8 (getBits y.arm 48 8)) ∧ o.cell.h.tag = tEOR ∧ o.cell.h.key = BitVec.ofNat 16 n.val ∧
        o.cell.data = s.time.setWidth 2048) ∧
      ((s.core c).controller?.isSome = true → ∃ r, (t.core c).faults = (s.core c).faults ++ [r] ∧ r.kind = kGATE ∧ r.unit = unitId c 8 n.val) ∧
      ((s.core c).controller? = none → (t.core c).faults = (s.core c).faults)) ∧
    (s.gateDue y.arm = false → exec (.gateFire c n) s = .next s)

/-! ## Streams -/

/-- The APS forms write their fields of the pattern register and APGET reads a quarter; APDIM is ILL 3 for a count or stride that its
field does not hold (R205, R211). -/
def Obligations.PatternForms : Prop :=
  ∀ (s : State) (n m : BitVec 4) (d a b : BitVec 5) (k : BitVec 2),
    let x := s.me.rd a
    let y := s.me.rd b
    let A (j : Instr) (f : BitVec 256 → Prop) : Prop := Does j s (fun s t => OnlyMe s t ∧ t.me = { s.me with pc := s.me.pc + 4, ap := t.me.ap } ∧
      f (t.me.rdAP n) ∧ ∀ q, q ≠ n → t.me.rdAP q = s.me.rdAP q)
    A (.apbase n a) (fun p => patBase p = x.toNat % 2 ^ 55 ∧ p.toNat / 2 ^ 55 = (s.me.rdAP n).toNat / 2 ^ 55) ∧
    A (.apmode n a) (fun p => patEsz p = x.toNat % 8 ∧ patMode p = x.toNat / 8 % 4 ∧ (patAux p).toNat = x.toNat / 2 ^ 8 % 16 ∧
      patBase p = patBase (s.me.rdAP n) ∧ p.toNat / 2 ^ 64 = (s.me.rdAP n).toNat / 2 ^ 64) ∧
    A (.apidx n a) (fun p => patMode p = 1 ∧ (patAux p).toNat = x.toNat % 16 ∧ patEsz p = patEsz (s.me.rdAP n) ∧
      patBase p = patBase (s.me.rdAP n) ∧ p.toNat / 2 ^ 64 = (s.me.rdAP n).toNat / 2 ^ 64) ∧
    (x.toNat < 2 ^ 20 → -(2 ^ 27) ≤ y.toInt → y.toInt < 2 ^ 27 → A (.apdim n a b k) (fun p =>
      patCount p k.toNat = x.toNat ∧ patStride p k.toNat = y.toInt ∧ p.toNat % 2 ^ 64 = (s.me.rdAP n).toNat % 2 ^ 64 ∧
      ∀ q : Nat, q < 4 → q ≠ k.toNat → patCount p q = patCount (s.me.rdAP n) q ∧ patStride p q = patStride (s.me.rdAP n) q)) ∧
    (2 ^ 20 ≤ x.toNat ∨ y.toInt < -(2 ^ 27) ∨ 2 ^ 27 ≤ y.toInt → Does (.apdim n a b k) s (fun s t =>
      t.me.ecause = kILL ∧ t.me.eval.toNat / 2 ^ 32 = 3 ∧ ∀ q, t.me.rdAP q = s.me.rdAP q)) ∧
    Does (.apget d m k) s (fun s t => Wrote s t d (BitVec.ofNat 64 ((s.me.rdAP m).toNat / 2 ^ (64 * k.toNat))))

/-- The stream-binding forms at issue: ILL 3 before ALIGN, SREAD's PROT after them, else the thread parks for a slot and a unit with the
pattern as it stood (R212-R214). -/
def Sys2Proof.Claims.BindIssue : Prop :=
  ∀ (s : State) (p : BitVec 7) (a : BitVec 4) (tag : BitVec 6) (v : BitVec 5),
    let pat := s.me.rdAP a
    let aux := s.me.rdAP (patAux pat)
    let B (j : Instr) (fn : Nat) (far : Bool) (own : Option Bool) : Prop :=
      (bindIll fn p.toNat pat aux = true → Does j s (fun s t => t.me.ecause = kILL ∧ t.me.eval.toNat / 2 ^ 32 = 3 ∧ SameMem s t)) ∧
      (∀ x, bindIll fn p.toNat pat aux = false → bindMisaligned? pat aux = some x →
        Does j s (fun s t => t.me.ecause = kALIGN ∧ SameMem s t)) ∧
      (bindIll fn p.toNat pat aux = false → bindMisaligned? pat aux = none → far = true →
        Does j s (fun s t => t.me.ecause = kPROT ∧ SameMem s t)) ∧
      (bindIll fn p.toNat pat aux = false → bindMisaligned? pat aux = none → far = false →
        Does j s (fun s t => Parked s t (.bind { fn := BitVec.ofNat 4 fn, port := p, pat := pat, aux := aux, tag := tag, vc := v } own)))
    let a28 := patBase pat % 2 ^ 28
    B (.sload p a tag v) 0 false none ∧
    B (.sread p a tag v) 1 (decide (a28 / 2 ^ 22 ≠ s.cur.1.val ∨ 48 ≤ a28 / 2 ^ 16 % 64)) s.myCore.ownSlot? ∧
    B (.sstore p a tag v) 2 false none ∧ B (.sgather p a tag v) 3 false none ∧ B (.sscatter p a tag v) 4 false none

/-- A parked binding form takes the lowest free slot and its unit: the slot holds the stream, with the pattern, port, VC, tag, unit and bank slot
of the form and the thread's barrier mask less the streams that have finished; it runs at once when nothing holds it, else it waits, and the
instruction completes; with no slot nothing changes. So does SEDGE, in both directions of a peer edge, SCFG, and an SSPLICE that waits for a storer
(R204, R212-R214, R220, R222, R226, R230, R243). Completion is stated of BIND_SLOT_TAKEN. -/
def Sys2Proof.Claims.BindTakes : Prop :=
  ∀ (s : State) (c : CoreId) (k : Tid) (r : BindReq) (own : Option Bool),
    let x := s.core c
    (s.thr c k).st = .parked →
    (∀ q u, (s.thr c k).pend = .bind r own → x.freeStrm? = some q → x.bindUnit? r = some u →
      ∃ t, exec (.bindSlotTaken c k) s = .next t ∧ OnlyCore c s t ∧ Finished s t c k (fun th => { th with barMask := 0 }) ∧
        let z := (t.core c).strms[q]
        z.kind = kindOfFn r.fn ∧ z.pat = r.pat ∧ z.aux = r.aux ∧ z.port = r.port ∧ z.vc = r.vc ∧ z.tag = r.tag ∧ z.own = own ∧
        z.loader = u.1 ∧ z.storer = u.2 ∧ z.cells = 0 ∧ z.elems = 0 ∧ z.ncells = streamCells r.pat r.aux ∧
        (∀ i : StrmId, z.mask.getLsbD i.val = ((s.thr c k).barMask.getLsbD i.val && !(x.strms[i]).finished)) ∧
        (z.mask ≠ 0 → z.st = .wait) ∧ (z.mask = 0 → z.kind ≠ .sread ∨ own = none → z.st = .running) ∧
        (∀ b, z.mask = 0 → z.kind = .sread → own = some b → x.swap = none →
          z.st = if (x.bankAt (patBase r.pat / 2 ^ 16 % 64)).owner = b then .running else .wait)) ∧
    (∀ d entry tag w q l z, (s.thr c k).pend = .edge d entry tag w → x.freeStrm? = some q → x.loaderIdle? = some l → x.storerIdle? = some z →
      (edgeOf d.toNat entry).send = true →
      ∃ t, exec (.bindSlotTaken c k) s = .next t ∧ OnlyCore c s t ∧ Finished s t c k id ∧
        (t.core c).edge? q = some (edgeOf d.toNat entry) ∧ ((t.core c).strms[q]).kind = .edgeSend ∧ ((t.core c).strms[q]).st = .running ∧
        ((t.core c).strms[q]).tag = tag ∧ ((t.core c).strms[q]).loader = some l ∧ ((t.core c).strms[q]).storer = some z) ∧
    (∀ d entry tag w q l z u v, (s.thr c k).pend = .edge d entry tag w → x.freeStrm? = some q → x.loaderIdle? = some l → x.storerIdle? = some z →
      (edgeOf d.toNat entry).send = false → s.readDap c (d.toNat / 2 ^ 384 % 2 ^ 55) = .ok (u, v) →
      (patEsz (BitVec.ofNat 256 v) ≠ 7 → patMode (BitVec.ofNat 256 v) = 0 →
        patBase (BitVec.ofNat 256 v) % min (patSize (BitVec.ofNat 256 v)) 64 = 0 → ∃ t, exec (.bindSlotTaken c k) s = .next t ∧
          Finished s t c k id ∧ (t.core c).edge? q = some { edgeOf d.toNat entry with dap := BitVec.ofNat 256 v } ∧
          ((t.core c).strms[q]).kind = .edgeRecv ∧ ((t.core c).strms[q]).st = .running) ∧
      (patEsz (BitVec.ofNat 256 v) = 7 ∨ patMode (BitVec.ofNat 256 v) ≠ 0 → ∃ t, exec (.bindSlotTaken c k) s = .next t ∧
        (t.thr c k).ecause = kILL ∧ (t.thr c k).eval = illEval w 3)) ∧
    (∀ va slot tag q l, (s.thr c k).pend = .scfg va slot tag → x.freeStrm? = some q → x.loaderIdle? = some l →
      ∃ t, exec (.bindSlotTaken c k) s = .next t ∧ OnlyCore c s t ∧ Finished s t c k (fun th => { th with barMask := 0 }) ∧
        ((t.core c).strms[q]).kind = .scfg ∧ ((t.core c).strms[q]).cfgVa = va.toNat ∧ ((t.core c).strms[q]).cfgSlot = slot ∧
        ((t.core c).strms[q]).tag = tag ∧ ((t.core c).strms[q]).loader = some l) ∧
    (∀ n page frame tag w q, (s.thr c k).pend = .splice n page frame tag w →
      ((x.strms[n]).spliceable = true → x.storerIdle? = some q → ∃ t, exec (.bindSlotTaken c k) s = .next t ∧ OnlyCore c s t ∧
        Finished s t c k id ∧ (t.core c).splices = x.splices ++ [{ strm := n, page := page, frame := frame, tag := tag, storer := q }]) ∧
      ((x.strms[n]).spliceable = true → x.storerIdle? = none → exec (.bindSlotTaken c k) s = .next s) ∧
      ((x.strms[n]).spliceable = false → ∃ t, exec (.bindSlotTaken c k) s = .next t ∧ TookTrap s t c k kILL (illEval w 3) (s.thr c k).pc)) ∧
    ((s.thr c k).pend = .bind r own → x.freeStrm? = none → exec (.bindSlotTaken c k) s = .next s)

/-- SBAR, SARG, SQRY of the slot's start and SCANCEL, also with no such stream (R220, R224, R228, R229, R326). -/
def Sys2Proof.Claims.StreamRegisters : Prop :=
  ∀ (s : State) (n : BitVec 4) (p : BitVec 7) (tag : BitVec 6),
    let v := s.me.rd (n.setWidth 5)
    let m := s.atStart.myCore
    Does (.sbar n) s (fun s t => OnlyMe s t ∧ t.me = { s.me with pc := s.me.pc + 4, barMask := v.setWidth 32 }) ∧
    Does (.sarg p n) s (fun s t => OnlyCore s.cur.1 s t ∧ t.me = { s.me with pc := s.me.pc + 4 } ∧
      (t.myCore.elems[elemOfPort p.toNat]).kpend = some v) ∧
    (∀ q : StrmId, (m.strms[q]).st ≠ .free → (m.strms[q]).tag = tag →
      (∀ r : StrmId, r < q → (m.strms[r]).st = .free ∨ (m.strms[r]).tag ≠ tag) →
      Does (.sqry n tag) s (fun s t => Wrote s t (n.setWidth 5)
        (BitVec.ofNat 64 ((m.strms[q]).cells % 2 ^ 48 * 2 ^ 16 + (m.strms[q]).st.code * 32 + q.val)))) ∧
    ((∀ q : StrmId, (m.strms[q]).st = .free ∨ (m.strms[q]).tag ≠ tag) →
      Does (.sqry n tag) s (fun s t => Wrote s t (n.setWidth 5) 0)) ∧
    ((∀ q : StrmId, (s.myCore.strms[q]).live = false ∨ (s.myCore.strms[q]).tag ≠ tag) →
      Does (.scancel n tag) s (fun s t => Wrote s t (n.setWidth 5) 0)) ∧
    (∀ q : StrmId, (s.myCore.strms[q]).live = true → (s.myCore.strms[q]).tag = tag →
      (∀ r : StrmId, r < q → (s.myCore.strms[r]).live = false ∨ (s.myCore.strms[r]).tag ≠ tag) →
      Does (.scancel n tag) s (fun s t => t.me.st = .parked ∧ t.me.pend = .scancel (n.setWidth 5) q ∧ SameMem s t))

/-- SCELL, SDRAIN, SCFG, SSWAP, SSPLICE and SEDGE at issue (R199, R221-R223, R226, R230).
The model's own choice, and no rule of the spec: SSPLICE parked while no storer is idle (log entry 32, DEDUCED); the order of SCFG's and SCELL's
checks (log entry 122, DEDUCED); SCFG into a slot that is LOADING (log entry 46, DEDUCED); SEDGE's checks and their order (log entry 34, DEDUCED). -/
def Obligations.StreamControl : Prop :=
  ∀ (s : State) (p : BitVec 7) (n : BitVec 4) (k : BitVec 3) (v : BitVec 5) (tag : BitVec 6) (b : BitVec 1),
    let x := s.me.rd (n.setWidth 5)
    let y := s.me.rd (n.setWidth 5 + 1)
    let a := x.toNat % 2 ^ 28
    let va := x.toNat % 2 ^ 55
    let slot := decide (b = 1)
    let T (j : Instr) (code : BitVec 8) : Prop := Does j s (fun s t => t.me.ecause = code ∧ t.me.epc = s.me.pc ∧ SameMem s t)
    (p = 123 → s.me.cm = false → T (.scell p n k v) kILL) ∧ (p ≠ 123 → a % 256 ≠ 0 → T (.scell p n k v) kALIGN) ∧
    (p ≠ 123 → a % 256 = 0 → a / 2 ^ 22 ≠ s.cur.1.val ∨ 48 ≤ a / 2 ^ 16 % 64 → T (.scell p n k v) kPROT) ∧
    (p ≠ 123 → a % 256 = 0 → a / 2 ^ 22 = s.cur.1.val → a / 2 ^ 16 % 64 < 48 → Does (.scell p n k v) s (fun s t =>
      SameMem s t ∧ t.me.st = .parked ∧ ∃ o, (t.myCore.ingAt (118 + s.cur.2.val % 4)).obuf = (s.myCore.ingAt (118 + s.cur.2.val % 4)).obuf ++ [o] ∧
        o.cell.h.ep = p ∧ o.cell.h.vc = v ∧ o.cell.h.tag = k ∧ o.cell.h.key = BitVec.ofNat 16 (y.toNat / 2 ^ 29) ∧ o.who = some s.cur.2)) ∧
    ((s.myCore.slotAt slot).st ≠ .loaded → (s.myCore.slotAt slot).st ≠ .active → Does (.sdrain b) s Skipped) ∧
    ((s.myCore.slotAt slot).st ≠ .loaded ∨ (s.myCore.slotAt slot).drain = [] → (s.myCore.slotAt slot).st ≠ .active ∨ (s.myCore.slotAt slot).drain = [] →
      Does (.sdrain b) s Skipped) ∧
    ((s.myCore.slotAt slot).st = .loaded ∨ (s.myCore.slotAt slot).st = .active → (s.myCore.slotAt slot).drain ≠ [] → Does (.sdrain b) s (fun s t =>
      SameMem s t ∧ t.me = { s.me with st := .parked, pend := .sdrain } ∧
      ((∀ d ∈ (s.myCore.slotAt slot).drain, s.myCore.ahead d = []) → ∀ p : PortId, (t.myCore.ingAt p.val).obuf = (s.myCore.ingAt p.val).obuf ++
        ((s.myCore.slotAt slot).drain.filter (fun d => d.inp.toNat == p.val)).map (fun d =>
          { cell := { h := { ep := d.out, vc := d.vc, tag := tDRN } }, who := some s.cur.2 })))) ∧
    (va % 256 ≠ 0 → T (.scfg n tag b) kALIGN) ∧ (va % 256 = 0 → s.myCore.activeSlot? = some slot → T (.scfg n tag b) kILL) ∧
    (va % 256 = 0 → s.myCore.activeSlot? ≠ some slot → s.myCore.swap = none → Does (.scfg n tag b) s (fun s t => OnlyCore s.cur.1 s t ∧
      t.me = { s.me with st := .parked, pend := .scfg (BitVec.ofNat 55 va) slot tag } ∧ (t.myCore.slotAt slot).st = .loading)) ∧
    (∀ w, va % 256 = 0 → s.myCore.activeSlot? ≠ some slot → s.myCore.swap = some w →
      (w.slot = slot → T (.scfg n tag b) kILL) ∧ (w.slot ≠ slot → Does (.scfg n tag b) s (fun s t => OnlyCore s.cur.1 s t ∧
        t.me = { s.me with st := .parked, pend := .scfg (BitVec.ofNat 55 va) slot tag } ∧ (t.myCore.slotAt slot).st = .loading))) ∧
    ((s.myCore.slotAt slot).st = .empty → T (.sswap n b) kILL) ∧
    ((s.myCore.slotAt slot).st = .loaded → Does (.sswap n b) s (fun s t => OnlyCore s.cur.1 s t ∧ t.me = { s.me with pc := s.me.pc + 4 } ∧
      t.myCore.swap = some { slot := slot, count := x.toNat })) ∧
    (s.me.cm = false → T (.ssplice n tag) kILL) ∧
    (s.me.cm = true → (s.myCore.strms[(Fin.ofNat 32 (x.toNat % 32) : StrmId)]).spliceable = false → T (.ssplice n tag) kILL) ∧
    (∀ q, s.me.cm = true → (s.myCore.strms[(Fin.ofNat 32 (x.toNat % 32) : StrmId)]).spliceable = true → s.myCore.storerIdle? = some q →
      Does (.ssplice n tag) s (fun s t => OnlyCore s.cur.1 s t ∧ t.me = { s.me with pc := s.me.pc + 4 } ∧
        t.myCore.splices = s.myCore.splices ++
          [{ strm := Fin.ofNat 32 (x.toNat % 32), page := x.toNat / 2 ^ 16 % 2 ^ 39, frame := y.toNat / 2 ^ 16 % 2 ^ 28, tag := tag, storer := q }])) ∧
    (s.me.cm = true → (s.myCore.strms[(Fin.ofNat 32 (x.toNat % 32) : StrmId)]).spliceable = true → s.myCore.storerIdle? = none →
      Does (.ssplice n tag) s (fun s t => OnlyMe s t ∧ t.me.st = .parked ∧ ∃ w, t.me.pend =
        Pend.splice (Fin.ofNat 32 (x.toNat % 32)) (x.toNat / 2 ^ 16 % 2 ^ 39) (y.toNat / 2 ^ 16 % 2 ^ 28) tag w)) ∧
    (y.toNat % 64 ≠ 0 → T (.sedge n tag) kALIGN) ∧
    (s.translate s.cur.1 (y.toNat % 2 ^ 55) .read = none → y.toNat % 64 = 0 → Does (.sedge n tag) s (fun s t =>
      Parked s t (.walk (y.setWidth 55) .read))) ∧
    (∀ pa, s.translate s.cur.1 (y.toNat % 2 ^ 55) .read = some pa → y.toNat % 64 = 0 → Does (.sedge n tag) s (fun s t =>
      OnlyMe s t ∧ t.me.st = .parked ∧ ∃ w, t.me.pend = .desc (.sedge x tag) pa w))

/-- A held stream runs once its mask is empty, and an SREAD once its bank's token is its slot's and no swap of that slot is pending; a stream's
completion sets its tag and frees its slot, and a cancelled one gives its thread the position; the drain tokens that wait for a port are offered
there, in their order, once the streams ahead of them have offered their last cells (R214, R218, R220, R221, R228, R243). Completion is stated of
STREAM_RELEASE, STREAM_COMPLETE and DRAIN_TOKEN_INJECT. -/
def Sys2Proof.Claims.StreamLife : Prop :=
  ∀ (s : State) (c : CoreId) (k : StrmId) (p : PortId),
    let x := s.core c
    let y := x.strms[k]
    let Runs : Prop := ∃ t, exec (.streamRelease c k) s = .next t ∧ OnlyCore c s t ∧ ((t.core c).strms[k]).st = .running
    let tokens := x.pendDrn.map (fun q => (q.1, q.2.1, q.2.2.filter (fun i => !(x.strms[i]).allOffered)))
    let here (q : Tid × Drain × List StrmId) : Bool := q.2.1.inp.toNat == p.val && q.2.2.isEmpty
    (y.st = .wait → y.mask = 0 → y.kind ≠ .sread ∨ y.own = none → Runs) ∧
    (∀ b, y.st = .wait → y.mask = 0 → y.kind = .sread → y.own = some b →
      ((x.bankAt (patBase y.pat / 2 ^ 16 % 64)).owner = b → (∀ w, x.swap = some w → w.slot ≠ b) → Runs) ∧
      ((x.bankAt (patBase y.pat / 2 ^ 16 % 64)).owner ≠ b → exec (.streamRelease c k) s = .next s) ∧
      (∀ w, x.swap = some w → w.slot = b → exec (.streamRelease c k) s = .next s)) ∧
    (y.st ≠ .wait → exec (.streamRelease c k) s = .next s) ∧
    (∀ d z, y.live = true → y.doneAt = some d → d < s.slot → s.taskOf c = some z → z.phase = .running →
      ∃ t, exec (.streamComplete c k) s = .next t ∧ SameMem s t ∧ ((t.core c).strms[k]).st = .done ∧
        (t.core c).tbNext = x.tbNext ||| (1#64 <<< y.tag.toNat)) ∧
    (∀ (j : Tid) (d : BitVec 5), y.live = true → y.cancel = true → y.outLeft = [] → y.writes = [] → (s.thr c j).st = .parked →
      (s.thr c j).pend = .scancel d k → ∃ t, exec (.streamComplete c k) s = .next t ∧ SameMem s t ∧ ((t.core c).strms[k]).st = .done ∧
        Finished s t c j (fun th => th.wr d (BitVec.ofNat 64 (y.cells % 2 ^ 48 * 2 ^ 16 + 5 * 32 + k.val)))) ∧
    (∀ d, y.live = true → y.cancel = false → y.doneAt = some d → s.slot ≤ d → exec (.streamComplete c k) s = .next s) ∧
    ∃ t, exec (.drainTokenInject c p) s = .next t ∧ OnlyCore c s t ∧ (t.core c).pendDrn = tokens.filter (fun q => !here q) ∧
      ((t.core c).ingAt p.val).obuf = (x.ingAt p.val).obuf ++ (tokens.filter here).map (fun q =>
        { cell := { h := { ep := q.2.1.out, vc := q.2.1.vc, tag := tDRN } }, who := some q.1 })

/-- A loader with credit reads one cell a slot over the stream paths of its stacks, and returns it into its output buffer; a storer takes the head of
its channel, one a slot, and issues its writes over the paths, each of which then lands in HBM and nowhere else (R14, R210, R215, R216, R218, R394). -/
def Sys2Proof.Claims.LoadersAndStorers : Prop :=
  ∀ (s : State) (c : CoreId) (k : StrmId),
    let x := s.core c
    let y := x.strms[k]
    (∀ q r, y.inflight = q :: r → y.live = true → y.cancel = false → q.m.since ≤ s.slot → (x.ingAt y.srcPort).obuf.length < 16 →
      y.srcPort < 128 → ∃ t, exec (.loaderReadReturn c k) s = .next t ∧ OnlyCore c s t ∧ ((t.core c).strms[k]).inflight = r ∧
        ((t.core c).ingAt y.srcPort).obuf = (x.ingAt y.srcPort).obuf ++ [y.offerOf k s.slot q]) ∧
    (y.st = .running → y.kind = .sload ∨ y.kind = .sgather → y.cancel = false → y.walk = none → y.asked < y.ncells → (x.ingAt y.srcPort).frozen = none →
      0 < x.credit c k → x.loaderFree y.loader s.slot = true → s.pathsFree false (s.cellPas c y) = true → x.splicesOf k = [] →
      ∃ t, exec (.loaderReadIssue c k) s = .next t ∧ SameMem s t ∧
        (∀ z cell, s.nextCell c k y = (z, .ok cell) → ((t.core c).strms[k]).inflight = z.inflight ++ [cell] ∧
          ((t.core c).strms[k]).asked = z.asked)) ∧
    (∀ w r, y.writes = w :: r → s.memWf = true → ∃ t, exec (.sinkWritePerformed c k) s = .next t ∧ t.pool = s.pool ∧ ((t.core c).strms[k]).writes = r ∧
      ∀ a, Memory.get t.hbm a = (if w.addr ≤ a then (w.bytes[a - w.addr]?).getD (Memory.get s.hbm a) else Memory.get s.hbm a)) ∧
    (∀ q cell z l, y.storer = some q → x.head? s.slot (108 + q.val) 0 = some cell → y.st = .running → y.kind = .sstore →
      y.cancel = false → y.walk = none → y.cells < y.ncells → ((x.egAt (108 + q.val)).chan 0).moved = false → cell.h.vc = y.vc →
      cell.h.tag ≠ tDRN → s.emptyCell c y cell.data (y.upTo y.cells - y.elems) = (z, none) →
      s.keyWrites c z z.cells cell.h.key = .ok l → x.storerReady (some q) s.slot = true →
      s.pathsFree true (((z.writes ++ l).drop y.writes.length).map (fun w => w.addr)) = true →
      ∃ t, exec (.sinkCellConsume c k) s = .next t ∧ SameMem s t ∧ ((t.core c).strms[k]).cells = z.cells + 1 ∧
        ((t.core c).strms[k]).writes = z.writes ++ l)

/-- A generator's own page walk patches its extent, or freezes the stream once the writes of its earlier elements are performed; while the storer
or a stream path is taken in the slot, so that those writes cannot be issued, it waits (R14, R215, R227, R394). -/
def Sys2Proof.Claims.StreamWalk : Prop :=
  ∀ (s : State) (c : CoreId) (k : StrmId) (va : VA) (kd : Kind),
    ((s.core c).strms[k]).st = .running → ((s.core c).strms[k]).walk = some (va, kd) →
    (∀ ea e ch level frame w x d, s.walk c va.toNat kd = .leaf ea e ch level frame w x d →
      ∃ t, exec (.pageWalk c (.stream k)) s = .next t ∧ t.pool = s.pool ∧ ((t.core c).strms[k]).walk = none ∧
        xlatOf va.toNat level frame w x d (s.tenantOf c) ∈ ((t.core c).strms[k]).extents) ∧
    (∀ code ea, s.walk c va.toNat kd = .fault code ea → (s.walked c va.toNat).sinkWaits c k = true → exec (.pageWalk c (.stream k)) s = .next s) ∧
    (∀ code ea, s.walk c va.toNat kd = .fault code ea → (s.walked c va.toNat).sinkWaits c k = false →
      (((s.walked c va.toNat).sinkUpTo c k).core c).strms[k].writes = [] → ∃ t, exec (.pageWalk c (.stream k)) s = .next t ∧ SameMem s t ∧
      ((t.core c).strms[k]).st = .frozen ∧ ((t.core c).strms[k]).cells = ((s.core c).strms[k]).cells)

/-- A configuration load: its loader reads the image a cell a slot, an image that breaks a rule, in its length or in any check, freezes the stream
with CFG and faults the slot, which keeps nothing of it; a good one is read again and written: the slot holds what its sections give, is LOADING
while its pool words wait for their banks, and is LOADED with the tag set when the last of them is performed (R222, R278-R282). Completion is stated
of SCFG_CHECK_DONE and SCFG_LOAD_DONE. -/
def Sys2Proof.Claims.ImageLoads : Prop :=
  ∀ (s : State) (c : CoreId) (k : StrmId),
    let x := s.core c
    let y := x.strms[k]
    let rd := y.image
    let n := s.imgBytes c y
    let len := min 256 (n - 256 * y.cfgAsked)
    let pas := (y.pa? (s.tenantOf c) (y.imgVa y.cfgAsked) .read).toList
    let ready : Prop := y.st = .running ∧ y.kind = .scfg ∧ y.cancel = false ∧ y.walk = none
    (∀ v, ready → y.cfgPhase = 0 → 256 * y.cfgAsked < n → x.loaderFree y.loader s.slot = true → s.pathsFree false pas = true →
      s.strmReadPage c y (y.imgVa y.cfgAsked) len = .val v → ∃ t, exec (.scfgCheckDone c k) s = .next t ∧
        SameMem s t ∧ ((t.core c).strms[k]).cfgAsked = y.cfgAsked + 1 ∧
        ((t.core c).strms[k]).img = Sparse.set y.img y.cfgAsked (BitVec.ofNat 2048 v) ∧ (t.core c).slotAt y.cfgSlot = x.slotAt y.cfgSlot) ∧
    (ready → y.cfgPhase = 0 → n ≤ 256 * y.cfgAsked → imgCheck rd = none → ∃ t r, exec (.scfgCheckDone c k) s = .next t ∧
      SameMem s t ∧ ((t.core c).strms[k]).st = .frozen ∧ ((t.core c).slotAt y.cfgSlot).st = .faulted ∧
      (x.swap = none → (t.core c).slotAt y.cfgSlot = { st := .faulted }) ∧ (t.core c).faults = x.faults ++ [r] ∧ r.kind = kCFG) ∧
    (∀ l, ready → y.cfgPhase = 0 → n ≤ 256 * y.cfgAsked → imgCheck rd = some l → ∃ t, exec (.scfgCheckDone c k) s = .next t ∧
      OnlyCore c s t ∧ ((t.core c).strms[k]).cfgPhase = 1 ∧ ((t.core c).strms[k]).img = [] ∧ ((t.core c).strms[k]).cfgAsked = 0 ∧ ((t.core c).slotAt y.cfgSlot).st = .loading) ∧
    (∀ l, ready → y.cfgPhase = 1 → y.cfgLen ≤ 256 * y.cfgAsked → imgLength? rd = some y.cfgLen → imgCheck rd = some l → x.loadLeft k = false →
      (imgPool rd l c (some k) = [] → ∃ t, exec (.scfgLoadDone c k) s = .next t ∧ OnlyCore c s t ∧
        (t.core c).slotAt y.cfgSlot = { (slotOfImg rd l) with st := .loaded } ∧ ((t.core c).strms[k]).st = .done ∧
        (t.core c).tbNext = x.tbNext ||| (1#64 <<< y.tag.toNat)) ∧
      (imgPool rd l c (some k) ≠ [] → ∃ t, exec (.scfgLoadDone c k) s = .next t ∧ OnlyCore c s t ∧
        (t.core c).slotAt y.cfgSlot = { (slotOfImg rd l) with st := .loading } ∧ ((t.core c).strms[k]).cfgPhase = 2 ∧
        (t.core c).tbNext = x.tbNext ∧ ∀ b : BankId, ((t.core c).bankAt b.val).sys = (x.bankAt b.val).sys ++
          (imgPool rd l c (some k)).filter (fun w => w.addr / 2 ^ 16 % 64 == b.val))) ∧
    (ready → y.cfgPhase = 2 → x.loadLeft k = false → ∃ t, exec (.scfgLoadDone c k) s = .next t ∧ OnlyCore c s t ∧
      ((t.core c).slotAt y.cfgSlot).st = .loaded ∧ ((t.core c).strms[k]).st = .done ∧ (t.core c).tbNext = x.tbNext ||| (1#64 <<< y.tag.toNat)) ∧
    (ready → y.cfgPhase = 2 → x.loadLeft k = true → exec (.scfgLoadDone c k) s = .next s)

/-- What one section of an image writes into its slot, by its type (R279-R281): an element's state, control, K, outputs, VC map, table and literals,
the VC table, a bank's replies, a range of route entries, a multicast group, a race configuration, the port bindings, drain triples and node words;
what the section does not name stays. -/
def Sys2Proof.Claims.ImageSections : Prop :=
  ∀ (g : Slot) (rd : Img) (y : Sec) (i : Nat),
    let o := y.off
    let h := g.addSec rd y
    h.st = g.st ∧
    (∀ e : ElemId, (y.type ≠ 1 ∨ y.arg ≠ e.val → h.elems[e] = g.elems[e]) ∧
      (y.type = 1 → y.arg = e.val → (h.elems[e]).initSt = BitVec.ofNat 6 (rd o 1) ∧ (h.elems[e]).k = BitVec.ofNat 64 (rd (o + 8) 8) ∧
        (h.elems[e]).clr = decide (rd (o + 1) 1 % 2 = 1) ∧ (h.elems[e]).esrc = BitVec.ofNat 16 (rd (o + 2) 2) ∧
        (i < 4 → vget (h.elems[e]).out i 0 = BitVec.ofNat 16 (rd (o + 16 + 2 * i) 2)) ∧
        (i < 32 → vget (h.elems[e]).vcmap i 0 = BitVec.ofNat 16 (rd (o + 32 + 2 * i) 2) ∧
          vget (h.elems[e]).table i 0 = BitVec.ofNat 64 (rd (o + 96 + 8 * i) 8)) ∧
        (i < 8 → rd (o + 360) 1 / 2 ^ i % 2 = 1 → vget (h.elems[e]).litFmt i 0 = BitVec.ofNat 4 (rd (o + 352 + i) 1) ∧
          vget (h.elems[e]).lits i 0 = BitVec.ofNat 2048 (imgWide rd (o + 368 + 256 *
            ((List.range i).filter (fun j => rd (o + 360) 1 / 2 ^ j % 2 == 1)).length) 16)))) ∧
    (h.vct = if y.type = 2 then Vector.ofFn (fun v => BitVec.ofNat 16 (rd (o + 2 * v.val) 2)) else g.vct) ∧
    (h.portbind = if y.type = 7 then Vector.ofFn (fun v => BitVec.ofNat 16 (rd (o + 2 * v.val) 2)) else g.portbind) ∧
    (i < 48 → vget h.reply i (Vector.replicate 32 0) = if y.type = 3 ∧ y.arg = i then Vector.ofFn (fun v => BitVec.ofNat 16 (rd (o + 2 * v.val) 2))
      else vget g.reply i (Vector.replicate 32 0)) ∧
    (Sparse.get? h.routes i = if y.type = 4 ∧ y.arg ≤ i ∧ i < y.arg + y.len / 32 then some (BitVec.ofNat 256 (imgWide rd (o + 32 * (i - y.arg)) 2))
      else Sparse.get? g.routes i) ∧
    (Sparse.get? h.mcast i = if y.type = 5 ∧ y.arg = i then some (BitVec.ofNat 128 (rd o 16)) else Sparse.get? g.mcast i) ∧
    (Sparse.get? h.race i = if y.type = 6 ∧ y.arg = i then some (BitVec.ofNat 64 (rd o 8)) else Sparse.get? g.race i) ∧
    (y.type = 8 → h.drain = g.drain ++ (List.range y.arg).map (fun j =>
      { inp := BitVec.ofNat 7 (rd (o + 4 * j) 1), out := BitVec.ofNat 7 (rd (o + 4 * j + 1) 1), vc := BitVec.ofNat 5 (rd (o + 4 * j + 2) 1) })) ∧ (y.type ≠ 8 → h.drain = g.drain) ∧
    (i < 160 → vget h.node i 0 = if y.type = 9 ∧ y.arg ≤ i ∧ i < y.arg + y.len / 8 then BitVec.ofNat 64 (rd (o + 8 * (i - y.arg)) 8)
      else vget g.node i 0)

/-- The parked stream forms complete with the unit that serves them: SLOAD, SREAD, SSTORE, SGATHER and SSCATTER, SCFG and SEDGE with a free slot and
their units, SCELL with its cell admitted, SDRAIN of one token with the token admitted, SCANCEL of a stream with nothing left, with its position (R199,
R204, R212, R213, R221, R222, R228, R230). Completion is stated of these ten forms, BIND_SLOT_TAKEN, DESCRIPTOR_READ_DONE, CELL_ADMIT and
STREAM_COMPLETE. -/
def Sys2Proof.Claims.StreamsComplete : Prop :=
  ∀ (s : State) (p : BitVec 7) (a n : BitVec 4) (tag : BitVec 6) (v : BitVec 5) (cl : BitVec 3) (b : BitVec 1) (q : StrmId),
    let c := s.cur.1
    let k := s.cur.2
    let m := s.myCore
    let x := s.me.rd (n.setWidth 5)
    let y := s.me.rd (n.setWidth 5 + 1)
    let pat := s.me.rdAP a
    let aux := s.me.rdAP (patAux pat)
    let Took (t : State) (kind : StrmKind) : Prop := ((t.core c).strms[q]).kind = kind ∧ ((t.core c).strms[q]).tag = tag ∧ ((t.core c).strms[q]).live = true
    let B (j : Instr) (fn : Nat) (kind : StrmKind) : Prop := ∀ u, bindIll fn p.toNat pat aux = false → bindMisaligned? pat aux = none →
      (fn = 1 → patBase pat % 2 ^ 28 / 2 ^ 22 = c.val ∧ patBase pat % 2 ^ 28 / 2 ^ 16 % 64 < 48) → m.freeStrm? = some q →
      m.bindUnit? { fn := BitVec.ofNat 4 fn, port := p, pat := pat, aux := aux, tag := tag, vc := v } = some u →
      DoesBy j (.bindSlotTaken c k) s (fun s t => OnlyCore c s t ∧ Finished s t c k (fun th => { th with barMask := 0 }) ∧ Took t kind ∧
        ((t.core c).strms[q]).pat = pat ∧ ((t.core c).strms[q]).port = p ∧ ((t.core c).strms[q]).vc = v)
    let h : Header := { Header.ofWord y with ep := p, vc := v, tag := cl, ip := 0, seq := 0 }
    let at_ := x.toNat % 2 ^ 28
    let inp := 118 + k.val % 4
    let payload := BitVec.ofNat 2048 (Memory.readN s.pool at_ 256)
    let slot := decide (b = 1)
    B (.sload p a tag v) 0 .sload ∧ B (.sread p a tag v) 1 .sread ∧ B (.sstore p a tag v) 2 .sstore ∧ B (.sgather p a tag v) 3 .sgather ∧
    B (.sscatter p a tag v) 4 .sscatter ∧
    (∀ l, x.toNat % 2 ^ 55 % 256 = 0 → m.activeSlot? ≠ some slot → m.swap = none → m.freeStrm? = some q → m.loaderIdle? = some l →
      DoesBy (.scfg n tag b) (.bindSlotTaken c k) s (fun s t => OnlyCore c s t ∧ Finished s t c k (fun th => { th with barMask := 0 }) ∧ Took t .scfg ∧
        ((t.core c).slotAt slot).st = .loading)) ∧
    (∀ l z pa, y.toNat % 64 = 0 → s.translate c (y.toNat % 2 ^ 55) .read = some pa → s.hbmBad pa 64 = false → m.freeStrm? = some q →
      m.loaderIdle? = some l → m.storerIdle? = some z →
      let e := edgeOf (BitVec.ofNat 512 (s.readOwn c pa 64)).toNat (BitVec.ofNat 8 x.toNat)
      4 ≤ e.rlog → e.rlog ≤ 12 → e.qs ≠ 3 → e.rarea % 256 = 0 → e.send = true → rtMode (vget m.routes e.entry.toNat 0) = 5 →
      DoesVia (.sedge n tag) (.descriptorReadDone c k) (.bindSlotTaken c k) s (fun s t => SameMem s t ∧ Finished s t c k id ∧ Took t .edgeSend ∧
        (t.core c).edge? q = some e)) ∧
    (p ≠ 123 → at_ % 256 = 0 → at_ / 2 ^ 22 = c.val → at_ / 2 ^ 16 % 64 < 48 → m.direct = [] → s.poolBad at_ 256 = false →
      PortOpen s c inp { h := h, data := payload } →
      DoesBy (.scell p n cl v) (.cellAdmit c (Fin.ofNat 128 inp)) s (fun s t => SameMem s t ∧ Finished s t c k id ∧ Admitted s t c inp h payload)) ∧
    (∀ d, (m.slotAt slot).st = .active → (m.slotAt slot).drain = [d] → m.ahead d = [] → m.pendDrn = [] → (∀ i : Fin 128, (m.ingAt i.val).obuf = []) →
      let h : Header := { ep := d.out, vc := d.vc, tag := tDRN }
      PortOpen s c d.inp.toNat { h := h } → DoesBy (.sdrain b) (.cellAdmit c (Fin.ofNat 128 d.inp.toNat)) s (fun s t => SameMem s t ∧
        Finished s t c k id ∧ Admitted s t c d.inp.toNat h 0)) ∧
    ((m.strms[q]).live = true → (m.strms[q]).tag = tag → (∀ r : StrmId, r < q → (m.strms[r]).live = false ∨ (m.strms[r]).tag ≠ tag) →
      (m.strms[q]).outLeft = [] → (m.strms[q]).writes = [] → m.edge? q = none →
      DoesBy (.scancel n tag) (.streamComplete c q) s (fun s t => SameMem s t ∧ ((t.core c).strms[q]).st = .done ∧
        Finished s t c k (fun th => th.wr (n.setWidth 5) (BitVec.ofNat 64 ((m.strms[q]).cells % 2 ^ 48 * 2 ^ 16 + 5 * 32 + q.val)))))

/-- A splice whose stream has finished the page copies the lines that no fork has written, four of them a slot, and nothing else of memory changes;
with the last of them the stream's extent of the page names the new frame, the storer is free and the tag sets (R226, R394). Completion is stated of
SPLICE_DONE. -/
def Sys2Proof.Claims.Splices : Prop :=
  ∀ (s : State) (c : CoreId) (k : StrmId) (i : Nat) (z : Splice) (e : Xlat),
    let y := (s.core c).strms[k]
    let old := e.pa (z.page * 2 ^ 16)
    let left := (List.range 1024).filter (fun n => !z.lines.contains n)
    let now := left.take 4
    (s.spliceReady? c k = none → exec (.spliceDone c k) s = .next s) ∧
    (s.spliceReady? c k = some (i, z) → s.pathsFree false (now.map (fun n => old + 64 * n)) = true →
      s.pathsFree true (now.map (fun n => z.frame * 2 ^ 16 + 64 * n)) = true → z.gone = false → findXlat y.extents (s.tenantOf c) (z.page * 2 ^ 16) = some e → old < 2 ^ 44 →
      z.frame < 2 ^ 24 → s.memWf = true → (∀ n ∈ now, s.hbmBad (old + 64 * n) 64 = false) →
      ∃ t, exec (.spliceDone c k) s = .next t ∧ t.pool = s.pool ∧
        (∀ a, Memory.get t.hbm a = if z.frame * 2 ^ 16 ≤ a ∧ a < z.frame * 2 ^ 16 + 2 ^ 16 ∧ now.contains ((a - z.frame * 2 ^ 16) / 64) = true then
          Memory.get s.hbm (old + (a - z.frame * 2 ^ 16)) else Memory.get s.hbm a) ∧
        (left.length ≤ 4 → (t.core c).splices = (s.core c).splices.eraseIdx i ∧ (t.core c).tbNext = (s.core c).tbNext ||| (1#64 <<< z.tag.toNat) ∧
          xlatOf (z.page * 2 ^ 16) 3 z.frame e.w e.x e.dirty (s.tenantOf c) ∈ ((t.core c).strms[k]).extents) ∧
        (4 < left.length → (t.core c).splices = (s.core c).splices.set i { z with lines := z.lines ++ now } ∧
          (t.core c).tbNext = (s.core c).tbNext ∧ ((t.core c).strms[k]) = y))

/-! ## The Weir -/

/-- RTSET, MCSET, MCSET.X, RACECFG and LOOPSET: what is written, and when (R181, R200-R203). -/
def Sys2Proof.Claims.RoutingIssue : Prop :=
  ∀ (s : State) (a b : BitVec 5) (e : BitVec 8) (g : BitVec 6) (h u : BitVec 1) (l : BitVec 4),
    let x := (s.me.rd a).toNat
    let y := (s.me.rd b).toNat
    let N (j : Instr) (late : List Late) : Prop := Does j s (fun s t => OnlyCore s.cur.1 s t ∧ t.me = { s.me with pc := s.me.pc + 4 } ∧
      t.myCore.late = s.myCore.late ++ late)
    N (.mcset a b g) [.group g (BitVec.ofNat 128 (x + 2 ^ 64 * y))] ∧
    (h = 0 → s.xgroupForeign s.cur.1 g = false → N (.mcsetX a b h g) [.xgroup g false (BitVec.ofNat 128 (x + 2 ^ 64 * y)) (s.myCore.task.getD 0)]) ∧
    (h = 1 → y / 2 ^ 16 % 2 ^ 16 ≠ 0 → Does (.mcsetX a b h g) s (fun s t => t.me.ecause = kILL ∧ t.me.eval.toNat / 2 ^ 32 = 3)) ∧
    N (.loopset a l) [.budget (Fin.ofNat 16 l.toNat) (BitVec.ofNat 16 x)] ∧
    Does (.racecfg a u) s (fun s t => OnlyCore s.cur.1 s t ∧ t.me = { s.me with pc := s.me.pc + 4 } ∧
      (t.myCore.races[(Fin.ofNat 2 u.toNat : Fin 2)]).cfg = s.me.rd a) ∧
    (s.translate s.cur.1 (x % 2 ^ 55) .read = none → x % 32 = 0 → Does (.rtset a e) s (fun s t =>
      Parked s t (.walk (BitVec.ofNat 55 x) .read))) ∧
    (∀ pa, s.translate s.cur.1 (x % 2 ^ 55) .read = some pa → x % 32 = 0 → Does (.rtset a e) s (fun s t =>
      SameMem s t ∧ t.me.st = .parked ∧ ∃ w, t.me.pend = .desc (.rtset e) pa w))

/-- RTSET completes with its read, and a controller's MCSET.X, whichever half, with its write; the write waits for the end of the slot (R181, R200).
Completion is stated of RTSET, MCSET, MCSET.X, RACECFG, LOOPSET and DESCRIPTOR_READ_DONE. -/
def Sys2Proof.Claims.RoutesComplete : Prop :=
  ∀ (s : State) (a b : BitVec 5) (e : BitVec 8) (g : BitVec 6) (h u : BitVec 1) (l : BitVec 4) (pa : Nat),
    let c := s.cur.1
    let k := s.cur.2
    let x := (s.me.rd a).toNat
    let y := (s.me.rd b).toNat
    let N (j : Instr) (w : Late) : Prop := Does j s (fun s t => OnlyCore c s t ∧ t.me = { s.me with pc := s.me.pc + 4 } ∧
      t.myCore.late = s.myCore.late ++ [w])
    (x % 2 ^ 55 % 32 = 0 → s.translate c (x % 2 ^ 55) .read = some pa → s.hbmBad pa 32 = false → s.myCore.wbuf = [] →
      DoesBy (.rtset a e) (.descriptorReadDone c k) s (fun s t => SameMem s t ∧ Finished s t c k id ∧
        (t.core c).late = s.myCore.late ++ [.route e (BitVec.ofNat 256 (Memory.readN s.hbm pa 32))])) ∧
    N (.mcset a b g) (.group g (BitVec.ofNat 128 (x + 2 ^ 64 * y))) ∧
    (s.xgroupForeign c g = false → (h = 1 → y / 2 ^ 16 % 2 ^ 16 = 0) →
      N (.mcsetX a b h g) (.xgroup g (decide (h = 1)) (BitVec.ofNat 128 (x + 2 ^ 64 * (if h = 1 then y % 2 ^ 32 else y))) (s.myCore.task.getD 0))) ∧
    (s.xgroupForeign c g = true → (h = 1 → y / 2 ^ 16 % 2 ^ 16 = 0) → Does (.mcsetX a b h g) s (fun s t =>
      TookTrap s t c k kPROT (BitVec.ofNat 64 (g.toNat + 2 ^ 56)) s.me.pc)) ∧
    N (.loopset a l) (.budget (Fin.ofNat 16 l.toNat) (BitVec.ofNat 16 x)) ∧
    Does (.racecfg a u) s (fun s t => OnlyCore c s t ∧ t.me = { s.me with pc := s.me.pc + 4 } ∧ (t.myCore.races[(Fin.ofNat 2 u.toNat : Fin 2)]).cfg = s.me.rd a)

/-- What waits for the end of the slot then takes its place whole, and changes no memory: a route entry with its RID, a group's mask, a loop's budget, an entry
of the shadow code table, a gate, entries of an element's table, the trace enable, STATUS.BE, a range table, half a crossbar group, and a STEP
(R77, R163, R181, R200, R203, R338, R342, R369). -/
def Sys2Proof.Claims.LateWrites : Prop :=
  ∀ (s : State) (c : CoreId) (w : Late),
    let x := s.core c
    let t := s.applyLate c
    let y := t.core c
    x.late = [w] → SameMem s t ∧ y.late = [] ∧
    (∀ e i, w = .route e i → vget y.routes e.toNat 0 = i ∧ vget y.rids e.toNat 0 = BitVec.ofNat 8 (getBits i 56 8) ∧
      ∀ f, f ≠ e.toNat → vget y.routes f 0 = vget x.routes f 0) ∧
    (∀ g m, w = .group g m → vget y.mgroups g.toNat 0 = m ∧ ∀ f, f ≠ g.toNat → vget y.mgroups f 0 = vget x.mgroups f 0) ∧
    (∀ l b, w = .budget l b → (vget y.loops l.val {}).budget = b ∧ (vget y.loops l.val {}).inflight = (vget x.loops l.val {}).inflight) ∧
    (∀ i v, w = .code i v → vget y.me.cts i.toNat 0 = v ∧ y.me.cta = x.me.cta) ∧
    (∀ g v, w = .gate g v → (y.gates[g]).arm = v) ∧
    (∀ b e i l n, w = .table b e i l → i + l.length ≤ 32 → n < 32 → vget ((y.slotAt b).elems[e]).table n 0 =
      if i ≤ n ∧ n < i + l.length then l.getD (n - i) 0 else vget ((x.slotAt b).elems[e]).table n 0) ∧
    (∀ v, w = .trace v → y.trace = v) ∧ (∀ k v, w = .be k v → t.thr c k = { s.thr c k with be := v }) ∧
    (∀ g r, w = .ranges g r → (y.stages[g]).ranges = r) ∧
    (∀ g h m o, w = .xgroup g h m o → (vget t.xgroups[c.cluster] g.toNat {}).owner = some o ∧
      (h = false → (vget t.xgroups[c.cluster] g.toNat {}).mask.toNat % 2 ^ 128 = m.toNat)) ∧
    (w = .step none true → y.weirHalted = false) ∧ (w = .step none false → x.weirHalted = false → y.weirHalted = true) ∧
    (w = .step none false → x.weirHalted = true → y.weirCredit = true ∧ y.weirHalted = true) ∧
    (∀ e, w = .step (some e) true → x.elems[e].frozen = none → y.elems[e].halted = false) ∧
    (∀ e, w = .step (some e) false → x.elems[e].frozen = none → y.elems[e].halted = true ∧ y.elems[e].credit = (x.elems[e].halted || x.elems[e].credit)) ∧
    ∀ e r, w = .step (some e) r → x.elems[e].frozen ≠ none → y.elems[e] = x.elems[e]

/-- A descriptor read ends: RTSET's image waits for the end of the slot, and an error in what was read is a precise ECC trap (R200, R258). -/
def Sys2Proof.Claims.DescriptorRead : Prop :=
  ∀ (s : State) (c : CoreId) (k : Tid) (e : BitVec 8) (pa w : Nat),
    (s.thr c k).st = .parked → (s.thr c k).pend = .desc (.rtset e) pa w →
    (s.hbmBad pa 32 = true → ∃ t, exec (.descriptorReadDone c k) s = .next t ∧
      TookTrap s t c k kECC (accessEval (pa / 64 * 64) .read) (s.thr c k).pc) ∧
    (s.hbmBad pa 32 = false → ∃ t img, exec (.descriptorReadDone c k) s = .next t ∧ OnlyCoreEcc c s t ∧ Finished s t c k id ∧
      (t.core c).late = (s.core c).late ++ [.route e img] ∧
      ((s.core c).wbuf = [] → img = BitVec.ofNat 256 (Memory.readN s.hbm pa 32)))

/-- A cell's way: admission of the first offer of a port into its buffer, with the ingress port in IP; the matching of a slot, in which every egress port
receives one cell at most and a lone head that has space crosses; and delivery in a slot after the match, into the channel that the element's map
names; none changes memory, and matching changes no thread and no other core (R173-R179). Completion is stated of CELL_ADMIT, WEIR_MATCH and
CELL_DELIVERY. -/
def Sys2Proof.Claims.WeirWork : Prop :=
  ∀ (s : State) (c : CoreId) (p : PortId),
    let x := s.core c
    let i := x.ingAt p.val
    let g := x.egAt p.val
    (∃ t, exec (.weirMatch c) s = .next t ∧ SameMem s t ∧ (∀ k, t.thr c k = s.thr c k) ∧ (∀ j, j ≠ c → t.core j = s.core j) ∧
      (x.weirHalted = true → x.weirCredit = false → t = s) ∧
      ∃ l, ((t.core c).egAt p.val).flight = g.flight ++ l ∧ l.length ≤ 1 ∧ ∀ y ∈ l, y.1 = s.slot) ∧
    (∀ q : Queued, x.weirHalted = false → i.buf = [q] → i.mcq = [] → (∀ j : PortId, j ≠ p → (x.ingAt j.val).buf = [] ∧ (x.ingAt j.val).mcq = []) →
      q.cell.m.since ≤ s.slot → (∀ y ∈ (x.egAt q.cell.h.ep.toNat).flight, y.1 ≠ s.slot) → (s.atStart.core c).space q.cell.h.ep.toNat q.cell = true →
      x.fits q.cell.h.ep.toNat q.cell = true → s.vcShut c = [] →
      ∃ t, exec (.weirMatch c) s = .next t ∧ ((t.core c).egAt q.cell.h.ep.toNat).flight = (x.egAt q.cell.h.ep.toNat).flight ++ [(s.slot, q.cell)] ∧
        ((t.core c).ingAt p.val).buf = []) ∧
    (∃ t, exec (.cellAdmit c p) s = .next t ∧ SameMem s t ∧ (i.first? = none → t = s)) ∧
    (∀ y : Cell, y.m = {} → PortOpen (s.modCore c (fun x => x.modIng p.val (fun g => { g with obuf := [] }))) c p.val y →
      i.obuf = [{ cell := y }] → ∃ t, exec (.cellAdmit c p) s = .next t ∧ OnlyCore c s t ∧ Admitted s t c p.val y.h y.data) ∧
    (g.frozen ≠ none → exec (.cellDelivery c p) s = .next s) ∧
    (g.frozen = none → ∃ t, exec (.cellDelivery c p) s = .next t ∧ SameMem s t ∧
      ∀ y ∈ ((t.core c).egAt p.val).flight, s.slot ≤ y.1 ∨ x.strayed p.val y.2 = true) ∧
    (∀ n y ch, g.frozen = none → g.flight = [(n, y)] → n < s.slot → y.m = {} → y.h.rid = 0 → g.holding = none → 48 ≤ p.val → p.val ≤ 79 →
      x.chanOf? p.val y.h = some ch → ch < 4 → ∃ t, exec (.cellDelivery c p) s = .next t ∧ OnlyCore c s t ∧ ((t.core c).egAt p.val).flight = [] ∧
        (((t.core c).egAt p.val).chan ch).cells = (g.chan ch).cells ++ [{ y with m := { since := s.slot + 1 } }])

/-- A rendezvous buffer releases its oldest set only, whole and in order, into channels OPX, when each of them has a place for its operand: the operand
with OPX i stands at the end of channel i, to be taken from the next slot, and nothing else of the port changes but the counts of releases; a buffer
of 32 sets that has waited four AGELIMs freezes with RDV and one record of it; a loop budget that stands still freezes with LOOP (R172, R174, R182-R184,
R187). -/
def Sys2Proof.Claims.RendezvousAndLoops : Prop :=
  ∀ (s : State) (c : CoreId) (e : ElemId) (l : LoopId),
    let g := (s.core c).egAt (48 + e.val)
    (∀ r rest, g.frozen = none → g.rdv = r :: rest → r.ops.length = r.opn.toNat + 1 → (∀ y ∈ r.ops, y.m.since ≤ s.slot) →
      (∀ y ∈ r.ops, placeFor ((s.core c).classOf y) (8 - (s.core c).chanUsed (48 + e.val) y.h.opx.toNat) = true) →
      ∃ t, exec (.rdvSetRelease c e) s = .next t ∧ OnlyCore c s t ∧
        (let u := (t.core c).egAt (48 + e.val)
        u = { g with rdv := rest, rdvRel := g.rdvRel + 1, rdvStall := 0, rdvGone := r.rid :: g.rdvGone, chans := u.chans } ∧
          ∀ i : Fin 4, (u.chan i.val).cells = (g.chan i.val).cells ++ (r.ops.filter (fun y => y.h.opx.toNat == i.val)).map (fun y =>
            { y with m := { y.m with since := s.slot + 1 } }) ∧
            u.chan i.val = { g.chan i.val with cells := (u.chan i.val).cells, fed := (u.chan i.val).fed, put := (u.chan i.val).put }) ∧
        ∀ p, p ≠ 48 + e.val → (t.core c).egAt p = (s.core c).egAt p) ∧
    (∀ r rest, g.frozen = none → g.rdv = r :: rest → r.ops.length < r.opn.toNat + 1 → exec (.rdvSetRelease c e) s = .next s) ∧
    (g.frozen = none → g.rdv.length = 32 → 4 * (s.core c).agelim.toNat ≤ g.rdvStall →
      ∃ t f r, exec (.rdvStallFault c e) s = .next t ∧ SameMem s t ∧ ((t.core c).egAt (48 + e.val)).frozen = some f ∧ f.kind = kRDV ∧
        (t.core c).faults = (s.core c).faults ++ [r] ∧ r.kind = kRDV ∧ r.unit = unitId c 0 (48 + e.val)) ∧
    (((s.core c).loops[l]).frozen = false → 4 * (s.core c).agelim.toNat ≤ ((s.core c).loops[l]).stall →
      ∃ t r, exec (.loopFault c l) s = .next t ∧ SameMem s t ∧ ((t.core c).loops[l]).frozen = true ∧
        (t.core c).faults = (s.core c).faults ++ [r] ∧ r.kind = kLOOP ∧ r.unit = unitId c 7 l.val) ∧
    (((s.core c).loops[l]).stall < 4 * (s.core c).agelim.toNat → exec (.loopFault c l) s = .next s)

/-- A mailbox cell reaches the thread that its key and port name, sets EV, and a thread parked on an empty mailbox goes on with its word
(R109, R242). -/
def Sys2Proof.Claims.MailboxDelivery : Prop :=
  ∀ (s : State) (c : CoreId) (q : Fin 4) (y : Cell),
    (s.core c).head? s.slot (118 + q.val) 0 = some y →
    let k : Tid := Fin.ofNat 16 (4 * (y.h.key.toNat % 4) + q.val)
    ∃ t, exec (.mailboxDelivery c q) s = .next t ∧ SameMem s t ∧ (t.thr c k).mailbox = (s.thr c k).mailbox ++ [y] ∧
      (∀ d, (s.thr c k).st = .parked → (s.thr c k).pend = .mailbox d 0x100 → (s.thr c k).mailbox = [] →
        (t.thr c k).st = .ready ∧ (t.thr c k).ev = true ∧ (t.thr c k).pc = (s.thr c k).pc + 4 ∧
          (t.thr c k).rd d = if d = 0 then 0 else y.h.word) ∧
      ((s.thr c k).st = .ready → (t.thr c k).ev = true ∧ (t.thr c k).pc = (s.thr c k).pc)

/-- The crossbar offers a carried cell at its NET port, one in a slot; a multicast head is copied by its group, one copy for every other port of the
mask, and a group that the task does not own freezes the port (R14, R181, R194). Completion is stated of CROSSBAR_ARRIVAL and CROSSBAR_FANOUT. -/
def Sys2Proof.Claims.Crossbar : Prop :=
  ∀ (s : State) (c : CoreId) (n : Fin 12) (y : XCell) (z : Cell),
    let here (y : XCell) : Bool := y.here == c.cluster && y.outp == 12 * (c.val % 16) + n.val && decide (y.since ≤ s.slot)
    let p := 96 + n.val
    let x := s.core c
    let g := vget s.xgroups[c.cluster] z.h.mc.toNat {}
    let Head : Prop := x.head? s.slot p 0 = some z ∧ z.h.mc ≠ 0 ∧ (x.egAt p).frozen = none ∧ ((x.egAt p).chan 0).moved = false
    (s.xbar.find? here = some y → x.obufFree p ≠ 0 → (x.ingAt p).came = false →
      ∃ t, exec (.crossbarArrival c n) s = .next t ∧ SameMem s t ∧ t.xbar = s.xbar.eraseP here ∧
        ((t.core c).ingAt p).obuf = (x.ingAt p).obuf ++ [{ cell := y.cell }] ∧ ((t.core c).ingAt p).came = true) ∧
    (s.xbar.find? here = none ∨ (x.ingAt p).came = true → exec (.crossbarArrival c n) s = .next s) ∧
    (Head → g.mask = 0 ∨ g.owner ≠ x.task → ∃ t, exec (.crossbarFanout c n) s = .next t ∧ SameMem s t ∧
      ((t.core c).egAt p).frozen ≠ none ∧ t.xbar = s.xbar ∧ ∃ r, (t.core c).faults = x.faults ++ [r] ∧ r.kind = kPORT) ∧
    (∀ id, Head → g.mask ≠ 0 → g.owner = some id → x.task = some id → ∃ t l, exec (.crossbarFanout c n) s = .next t ∧ SameMem s t ∧ t.xbar = s.xbar ++ l ∧
      (∀ i, i < 192 → g.mask.getLsbD i = true → i ≠ 12 * (c.val % 16) + n.val →
        ∃ w ∈ l, w.outp = i ∧ w.here = c.cluster ∧ w.cell.data = z.data ∧ w.cell.h = z.h) ∧
      l.length = ((List.range 208).filter (fun i => g.mask.getLsbD i && i != 12 * (c.val % 16) + n.val)).length)

/-- A race unit takes its head: a score cell adds its scores to the race in progress, or opens one under the unit's configuration; the cell that brings them
to 256, and an EOR, end the race: none is in progress, and its STEER cell, with the KEY of its first cell, the first choice (the highest
quantised score, ties to the lower number) and that score, stands in the output in the 24th slot after and leaves there in order; a cell of
another class freezes the unit with PORT (R195-R197, R202). Completion is stated of RACE_SCORE and RACE_END. -/
def Sys2Proof.Claims.Races : Prop :=
  ∀ (s : State) (c : CoreId) (u : Fin 2) (y : Cell),
    let r := (s.core c).races[u]
    let Head : Prop := (s.core c).head? s.slot (116 + u.val) 0 = some y ∧ r.frozen = none ∧ r.goAt ≤ s.slot ∧
      (((s.core c).egAt (116 + u.val)).chan 0).moved = false
    let Left (t : State) : Prop := (((t.core c).egAt (116 + u.val)).chan 0).cells = (((s.core c).egAt (116 + u.val)).chan 0).cells.tail
    let open_ : Race := r.cur.getD { cfg := r.cfg, key := y.h.key, scores := [] }
    let f := raceFmt open_.cfg
    let all := (open_.scores ++ (List.range (laneCount f)).map (fun i => y.data.toNat / 2 ^ (laneBits f * i) % 2 ^ laneBits f)).take 256
    -- the race z with scores l is over: its cell is the last one of the output
    let Ended (t : State) (z : Race) (l : List Nat) : Prop := ((t.core c).races[u]).cur = none ∧ ((t.core c).races[u]).ops = r.ops + 1 ∧
      ∃ o : Offer, ((t.core c).races[u]).out = r.out ++ [(s.slot + 24, o)] ∧ o.via = .entry (BitVec.ofNat 8 (z.cfg.toNat / 2 ^ 16 % 2 ^ 8)) ∧
        o.cell.h.tag = tSTEER ∧ o.cell.h.key = z.key ∧ (l = [] → o.cell.data = 0) ∧
        (l ≠ [] → l.length ≤ 256 → ∃ e, e < l.length ∧ o.cell.data.toNat % 2 ^ 8 = (z.cfg.toNat / 2 ^ 8 % 2 ^ 8 + e) % 2 ^ 8 ∧
          o.cell.data.toNat / 2 ^ 8 % 2 ^ 8 = min (raceK z.cfg) l.length ∧ o.cell.data.toNat / 2 ^ 32 % 2 ^ 16 = e ∧
          o.cell.data.toNat / 2 ^ 256 % 2 ^ 32 = l.getD e 0 % 2 ^ 32 ∧
          ∀ j, j < l.length → raceQ (raceFmt z.cfg) (l.getD j 0) ≤ raceQ (raceFmt z.cfg) (l.getD e 0) ∧
            (j < e → raceQ (raceFmt z.cfg) (l.getD j 0) < raceQ (raceFmt z.cfg) (l.getD e 0)))
    (Head → y.h.tag = tSTEER ∨ y.h.tag = tSPL ∨ y.h.tag = tRDE ∨ y.h.tag = tCTRL → ∃ t q, exec (.raceScore c u) s = .next t ∧ SameMem s t ∧
      ((t.core c).races[u]).frozen = some q ∧ q.kind = kPORT) ∧
    (∀ z, Head → y.h.tag = tEOR → r.cur = some z → ∃ t, exec (.raceScore c u) s = .next t ∧ SameMem s t ∧ Left t ∧ Ended t z z.scores) ∧
    (Head → y.h.tag = tDATA → 1 ≤ f.toNat → f.toNat ≤ 8 →
      (all.length < 256 → ∃ t, exec (.raceScore c u) s = .next t ∧ SameMem s t ∧ Left t ∧
        ((t.core c).races[u]).cur = some { open_ with scores := all } ∧ ((t.core c).races[u]).out = r.out ∧ ((t.core c).races[u]).ops = r.ops + 1) ∧
      (all.length = 256 → ∃ t, exec (.raceScore c u) s = .next t ∧ SameMem s t ∧ Left t ∧ Ended t open_ all)) ∧
    ((s.core c).head? s.slot (116 + u.val) 0 = none → exec (.raceScore c u) s = .next s) ∧
    (∀ z rest, r.out = z :: rest → z.1 ≤ s.slot → ∃ t, exec (.raceEnd c u) s = .next t ∧ OnlyCore c s t ∧ ((t.core c).races[u]).out = rest ∧
      ((t.core c).ingAt (116 + u.val)).obuf = ((s.core c).ingAt (116 + u.val)).obuf ++ [{ z.2 with since := s.slot }])

/-! ## Banks -/

/-- The cell operations of a bank that the rotation reaches: what each writes and replies, every other byte of memory as before, and the
faults of alignment (R239, R240, R243).
The model's own choice, and no rule of the spec: which event takes a cell whose COP is 13 to 15 (log entry 28, DEDUCED); the order of a bank's faults
(log entry 123, DEDUCED). -/
def Obligations.BankOperations : Prop :=
  ∀ (s : State) (c : CoreId) (b : BankId) (y : Cell) (e : BitVec 8),
    let x := s.core c
    let base := c.val * 2 ^ 22 + b.val * 2 ^ 16
    let k := y.h.key.toNat
    let d := y.data.toNat
    let old := Memory.readN s.pool (base + k) 256
    let On (ev : Instr) (cop : Nat) (R : State → Prop) : Prop := y.h.cop.toNat = cop → ∃ t, exec ev s = .next t ∧ t.hbm = s.hbm ∧ R t
    let Block (t : State) (v : Nat) : Prop := ∀ a, Memory.get t.pool a =
      if base + k ≤ a ∧ a < base + k + 256 then BitVec.ofNat 8 (v / 256 ^ (a - (base + k))) else Memory.get s.pool a
    let Reply (t : State) (v : Nat) : Prop := ∃ o, ((t.core c).ingAt b.val).obuf = (x.ingAt b.val).obuf ++ [o] ∧ o.via = .entry e ∧
      o.cell.data = BitVec.ofNat 2048 v ∧ o.cell.h.tag = y.h.tag ∧ o.cell.h.key = y.h.key
    let Lanes (op : Nat) (f : Fmt) : Nat :=
      (ofLanes (laneBits f) (laneCount f) (fun i => (copLane op f (lane (laneBits f) i old) (lane (laneBits f) i d)).1)).toNat
    s.memWf = true → x.bankRequest? s.slot b.val = some y → x.bankPick c s.slot b.val = some 0 → x.replyEntry? b.val y.h.vc = some e →
    (k % 256 = 0 → s.poolBad (base + k) 256 = false →
      On (.bankWrite c b) 0 (fun t => Block t d) ∧ On (.bankZero c b) 11 (fun t => Block t 0) ∧
      On (.bankRead c b) 1 (fun t => t.pool = s.pool ∧ Reply t old) ∧ On (.bankXchg c b) 8 (fun t => Block t d ∧ Reply t old) ∧
      On (.bankFxadd c b) 3 (fun t => Block t (Lanes 2 11)) ∧
      (copFmtOk (s.fmtOfVc c y.h.vc) = true → On (.bankAdd c b) 2 (fun t => Block t (Lanes 2 (s.fmtOfVc c y.h.vc))) ∧
        On (.bankMin c b) 4 (fun t => Block t (Lanes 4 (s.fmtOfVc c y.h.vc))) ∧
        On (.bankMax c b) 5 (fun t => Block t (Lanes 5 (s.fmtOfVc c y.h.vc))))) ∧
    (k % 256 ≠ 0 → On (.bankWrite c b) 0 (fun t => t.pool = s.pool ∧ ((t.core c).bankAt b.val).frozen ≠ none) ∧
      On (.bankRead c b) 1 (fun t => t.pool = s.pool ∧ ((t.core c).bankAt b.val).frozen ≠ none)) ∧
    (k % 8 = 0 → s.poolBad (base + k) 8 = false → On (.bankCas c b) 7 (fun t =>
      let w := Memory.readN s.pool (base + k) 8
      if w = d % 2 ^ 64 then Memory.readN t.pool (base + k) 8 = d / 2 ^ 64 % 2 ^ 64 ∧ Reply t (w + 2 ^ 64) ∧
        ∀ a, a < base + k ∨ base + k + 8 ≤ a → Memory.get t.pool a = Memory.get s.pool a
      else t.pool = s.pool ∧ Reply t w)) ∧
    On (.bankOwn c b) 12 (fun t => t.pool = s.pool ∧ ((t.core c).bankAt b.val).owner = y.h.key.getLsbD 0) ∧
    (idxFault y 64 = none → (∀ i, i < 64 → s.poolBad (base + k + d / 2 ^ (32 * i) % 2 ^ 32) 4 = false) → On (.bankGather c b) 9 (fun t =>
      t.pool = s.pool ∧ ∃ v, Reply t v ∧ ∀ i, i < 64 → v / 2 ^ (32 * i) % 2 ^ 32 =
        if d / 2 ^ (32 * i) % 2 ^ 32 = 2 ^ 32 - 1 then 0 else Memory.readN s.pool (base + k + d / 2 ^ (32 * i) % 2 ^ 32) 4)) ∧
    (idxFault y 32 = none → On (.bankScatter c b) 10 (fun t =>
      let x (i : Nat) : Nat := d / 2 ^ (32 * i) % 2 ^ 32
      (∀ i, i < 32 → x i ≠ 2 ^ 32 - 1 → (∀ j, i < j → j < 32 → x j ≠ x i) →
        Memory.readN t.pool (base + k + x i) 4 = d / 2 ^ (32 * (32 + i)) % 2 ^ 32) ∧
      ∀ a, (∀ i, i < 32 → x i ≠ 2 ^ 32 - 1 → ¬(base + k + x i ≤ a ∧ a < base + k + x i + 4)) → Memory.get t.pool a = Memory.get s.pool a)) ∧
    ((∀ i, i < 64 → tasbBit y i = none) → On (.bankTasb c b) 6 (fun t => t.pool = s.pool ∧ Reply t 0)) ∧
    (∀ n, tasbBit y 0 = some n → n < 2 ^ 19 → (∀ i, 0 < i → i < 64 → tasbBit y i = none) → s.poolBad (base + n / 8) 1 = false →
      On (.bankTasb c b) 6 (fun t => (Memory.get t.pool (base + n / 8)).getLsbD (n % 8) = true ∧
        Reply t (if (Memory.get s.pool (base + n / 8)).getLsbD (n % 8) then 1 else 0) ∧
        ∀ a, a ≠ base + n / 8 → Memory.get t.pool a = Memory.get s.pool a))

/-- A drain token at a bank's head is consumed in a slot after the requests ahead of it: it leaves the channel; a bank's generator makes its cell in one
operation; a patrol read counts a corrected error (R214, R238, R258, R262).
The model's own choice, and no rule of the spec: what counts as a bank's operation (log entry 123, DEDUCED); that the bytes of a cell are taken with
the read (log entry 31, DEDUCED). -/
def Obligations.BankOthers : Prop :=
  ∀ (s : State) (c : CoreId) (b : BankId) (y : Cell) (k : StrmId) (h : Fin 16),
    let x := s.core c
    let g := x.bankAt b.val
    (x.head? s.slot b.val 0 = some y → y.h.tag = tDRN → g.frozen = none → g.ops = 0 ∨ g.reqAt < s.slot → ∃ t, exec (.bankDrn c b) s = .next t ∧
      SameMem s t ∧ ((t.core c).bankAt b.val).passes = g.passes + 1 ∧
      ((t.core c).egAt b.val |>.chan 0).cells = ((x.egAt b.val).chan 0).cells.tail) ∧
    (x.head? s.slot b.val 0 = none → exec (.bankDrn c b) s = .next s) ∧
    (∀ z cell, x.bankGen? c b.val = some k → x.bankPick c s.slot b.val = some 1 →
      s.nextCell c k x.strms[k] = (z, .ok cell) → ∃ t, exec (.bankSreadRead c b) s = .next t ∧ SameMem s t ∧ (∀ j i, t.thr j i = s.thr j i) ∧
        ((t.core c).strms[k]) = z ∧ ((t.core c).ingAt b.val).obuf = (x.ingAt b.val).obuf ++ [z.offerOf k s.slot cell]) ∧
    (x.bankPick c s.slot b.val = none → g.served = false → g.cecnt ≠ BitVec.allOnes 32 → ∃ t, exec (.patrolRead (.bank c b) true) s = .next t ∧
      OnlyCoreEcc c s t ∧ ((t.core c).bankAt b.val).cecnt = g.cecnt + 1) ∧
    ∃ t, exec (.patrolRead (.hbm h) true) s = .next t ∧ SameMem s t ∧ t.errs.stack[h] = s.errs.stack[h] + 1

/-! ## Elements -/


/-- Floating operations, lane by lane (R33, R34, R37, R133). -/
def Sys2Proof.Claims.ElementFloats : Prop :=
  ∀ (s : State) (x : ElemAct),
    let dec (i : OpIn) : Nat → FVal := decodeF ((ffmt? i.f).getD fp32)
    Op s x 0x10 .fadd fltOk (fun i => floatOut i (fun a b _ => FVal.add i.rm a b)) ∧
    Op s x 0x11 .fsub fltOk (fun i => floatOut i (fun a b _ => FVal.add i.rm a b.neg)) ∧
    Op s x 0x12 .fmul fltOk (fun i => floatOut i (fun a b _ => FVal.mul a b)) ∧
    Op s x 0x13 .fma fltOk (fun i => floatOut i (fun a b d =>
      ((FVal.add i.rm (FVal.mul a b).1 d).1, (FVal.mul a b).2 ||| (FVal.add i.rm (FVal.mul a b).1 d).2))) ∧
    Op s x 0x14 .fms fltOk (fun i => floatOut i (fun a b d =>
      ((FVal.add i.rm (FVal.mul a b).1 d.neg).1, (FVal.mul a b).2 ||| (FVal.add i.rm (FVal.mul a b).1 d.neg).2))) ∧
    Op s x 0x15 .fmin fltOk (fun i => floatOut i (fun a b _ => (FVal.min a b, 0))) ∧
    Op s x 0x16 .fmax fltOk (fun i => floatOut i (fun a b _ => (FVal.max a b, 0))) ∧
    Op s x 0x17 .fabs fltOk (fun i => lanesOut i (fun n => la i n % 2 ^ (laneBits i.f - 1))) ∧
    Op s x 0x18 .fneg fltOk (fun i => lanesOut i (fun n => (la i n + 2 ^ (laneBits i.f - 1)) % 2 ^ laneBits i.f)) ∧
    Op s x 0x1C .fcmpeq fltOk (fun i => maskOut i (fun a b => (dec i a).eq (dec i b))) ∧
    Op s x 0x1D .fcmplt fltOk (fun i => maskOut i (fun a b => (dec i a).lt (dec i b))) ∧
    Op s x 0x1E .fcmple fltOk (fun i => maskOut i (fun a b => (dec i a).lt (dec i b) || (dec i a).eq (dec i b)))

/-- FSCL scales by a power of two from SB's integer lanes clamped to -1,024..1,023; FRED and FRMAX put the pairwise tree's result into every
lane; FSEL selects by the old DA (R50, R133). -/
def Sys2Proof.Claims.ElementFloatSpecial : Prop :=
  ∀ (s : State) (x : ElemAct),
    Op s x 0x19 .fscl fltOk (fun i =>
      let ff := (ffmt? i.f).getD fp32
      let r := lanesF (laneBits i.f) (laneCount i.f) (fun n =>
        encodeF ff ((decodeF ff (la i n)).scale (max (-1024) (min 1023 (sext (laneBits i.f) (lb i n))))) i.rm false)
      OpOut.one { data := r.1, fmt := i.f, key := i.a.key } r.2) ∧
    Op s x 0x1B .frmax fltOk (fun i =>
      let ff := (ffmt? i.f).getD fp32
      let l := (List.range (laneCount i.f)).map (fun n => decodeF ff (la i n))
      let v := (treeFold (fun a b => (FVal.max a b, 0)) (if i.f = 1 then 6 else 7) l).1
      OpOut.one { data := ofLanes (laneBits i.f) (laneCount i.f) (fun _ => (encodeF ff v i.rm false).1), fmt := i.f, key := i.a.key }
        (treeFold (fun a b => (FVal.max a b, (0 : Flags))) (if i.f = 1 then 6 else 7) l).2) ∧
    Op s x 0x1A .fred fltOk (fun i =>
      let ff := (ffmt? i.f).getD fp32
      let add (a b : FVal) : FVal × Flags :=
        (decodeF ff (encodeF ff (FVal.add i.rm a b).1 i.rm false).1, (FVal.add i.rm a b).2 ||| (encodeF ff (FVal.add i.rm a b).1 i.rm false).2)
      let v := treeFold add (if i.f = 1 then 6 else 7) ((List.range (laneCount i.f)).map (fun n => decodeF ff (la i n)))
      OpOut.one { data := ofLanes (laneBits i.f) (laneCount i.f) (fun _ => (encodeF ff v.1 i.rm false).1), fmt := i.f, key := i.a.key } v.2) ∧
    Op s x 0x1F .fsel anyOk (fun i =>
      if i.f = 14 then OpOut.one { data := (i.a.data &&& i.old.data) ||| (i.b.data &&& ~~~i.old.data), fmt := 14, key := i.a.key }
      else lanesOut i (fun n => if ld i n = 0 then lb i n else la i n))

/-- Every code that is no NaN decodes to its value and encodes back to itself in every rounding mode, with no flag (R31-R33). -/
def Obligations.FloatCodesExact : Prop :=
  ∀ (f : Fmt) (ff : FFmt) (c rm : Nat), ffmt? f = some ff → c < 2 ^ ff.width → decodeF ff c ≠ .nan →
    encodeF ff (decodeF ff c) rm false = (c, 0)

/-- Integer and bitwise operations, lane by lane, wrapping (R134).
The model's own choice, and no rule of the spec: that an entry pops the Oxbow's SPL as any head (log entry 136, DESIGN CHOICE); that a cell for a
reserved port is found at the firing (log entry 142, DESIGN CHOICE). -/
def Obligations.ElementInteger : Prop :=
  ∀ (s : State) (x : ElemAct),
    let bits (g : Payload → Payload → Payload) (i : OpIn) : OpOut := OpOut.one { data := g i.a.data i.b.data, fmt := i.a.fmt, key := i.a.key }
    Op s x 0x20 .iadd intOk (fun i => intOut i (fun a b => a + b)) ∧ Op s x 0x21 .isub intOk (fun i => intOut i (fun a b => a - b)) ∧
    Op s x 0x22 .imul intOk (fun i => intOut i (fun a b => a * b)) ∧
    Op s x 0x25 .imin intOk (fun i => intOut i min) ∧ Op s x 0x26 .imax intOk (fun i => intOut i max) ∧
    Op s x 0x27 .ishl intOk (fun i => lanesOut i (fun n => la i n * 2 ^ (lb i n % laneBits i.f))) ∧
    Op s x 0x28 .ishr intOk (fun i => lanesOut i (fun n => la i n / 2 ^ (lb i n % laneBits i.f))) ∧
    Op s x 0x29 .isar intOk (fun i => lanesOut i (fun n =>
      ((intOf i.f (la i n) / 2 ^ (lb i n % laneBits i.f)) % 2 ^ laneBits i.f).toNat)) ∧
    Op s x 0x2A .iand anyOk (bits (fun a b => a &&& b)) ∧ Op s x 0x2B .ior anyOk (bits (fun a b => a ||| b)) ∧
    Op s x 0x2C .ixor anyOk (bits (fun a b => a ^^^ b)) ∧ Op s x 0x2D .inot anyOk (bits (fun a _ => ~~~a)) ∧
    Op s x 0x2E .icmpeq intOk (fun i => maskOut i (fun a b => decide (intOf i.f a = intOf i.f b))) ∧
    Op s x 0x2F .icmplt intOk (fun i => maskOut i (fun a b => decide (intOf i.f a < intOf i.f b))) ∧
    Op s x 0x3B .clamp (fun i => fltOk i || intOk i) (fun i => if fltOk i then floatOut i (fun a b _ => (clampF a b, 0))
      else intOut i (fun a b => min (max a (-(b.natAbs : Int))) b.natAbs))

/-- The dot products into INT32, ternary packing, LNS and FX128 (R41, R42, R44-R48, R134, R137, R138).
The model's own choice, and no rule of the spec: that an entry pops the Oxbow's SPL as any head (log entry 136, DESIGN CHOICE); that a cell for a
reserved port is found at the firing (log entry 142, DESIGN CHOICE); the formats of IMAC4 (log entry 26, DEDUCED); INV of an LACC of a NaN and both
infinities (log entry 152, DESIGN CHOICE). -/
def Obligations.ElementProducts : Prop :=
  ∀ (s : State) (x : ElemAct),
    let byteInt (f : Fmt) : Bool := f == 6 || f == 7
    let byte (p : Payload) (n : Nat) : Nat := lane 8 n p.toNat
    let acc (i : OpIn) (k : Nat) : Int := sext 32 (lane 32 k i.old.data.toNat)
    let words (i : OpIn) (g : Nat → Nat) : OpOut := OpOut.one { data := ofLanes 32 64 g, fmt := 8, key := i.a.key }
    Op s x 0x23 .imac4 (fun i => byteInt i.a.fmt && byteInt i.b.fmt) (fun i => words i (fun k => wrap 32 ((List.range 4).foldl (fun z j => z + intOf i.a.fmt (byte i.a.data (4 * k + j)) * intOf i.b.fmt (byte i.b.data (4 * k + j))) (acc i k)))) ∧
    Op s x 0x24 .asub3 (fun i => i.a.fmt == 6 && byteInt i.b.fmt) (fun i => words i (fun k => wrap 32
      (acc i k + (List.range 256).foldl (fun z j => z + (sext 8 (byte i.a.data j)).sign * intOf i.b.fmt (byte i.b.data j)) 0))) ∧
    Op s x 0x33 .unp3 (fun i => i.f == 10 && decide (i.scalB % 8 ≤ 4) &&
        !(i.ill3e && (List.range 256).any (fun n => decide (242 < byte i.a.data ((256 * (i.scalB % 8) + n) / 5)))))
      (fun i => OpOut.one { data := ofLanes 8 256 (fun n => wrap 8 (tritAt i.a.data.toNat (256 * (i.scalB % 8) + n))), fmt := 6, key := i.a.key }
        (if (List.range 256).any (fun n => decide (242 < byte i.a.data ((256 * (i.scalB % 8) + n) / 5))) then fILL3 else 0)) ∧
    Op s x 0x34 .pk3 (fun i => i.f == 6 && decide (i.scalB % 8 ≤ 4)) (fun i =>
      let d := ofTrits (fun n =>
        if 256 * (i.scalB % 8) ≤ n ∧ n < 256 * (i.scalB % 8) + 256 then (sext 8 (byte i.a.data (n - 256 * (i.scalB % 8)))).sign
        else tritAt (if i.oldD && i.old.fmt == 10 then i.old.data.toNat else 0) n)
      OpOut.one { data := d, fmt := 10, key := i.a.key }) ∧
    Op s x 0x35 .lmul (fun i => i.f == 9) (fun i =>
      let r := lanesF 8 256 (fun n => lmulLane (byte i.a.data n) (byte i.b.data n))
      OpOut.one { data := r.1, fmt := 9, key := i.a.key } r.2) ∧
    Op s x 0x36 .lacc (fun i => i.f == 9) (fun i =>
      let r := lanesF 32 64 (fun k =>
        let z := (List.range 4).foldl (fun (z : FVal × Flags) j =>
          let y := FVal.add i.rm z.1 (lnsProduct i.tab (byte i.a.data (4 * k + j)) (byte i.b.data (4 * k + j)))
          (y.1, z.2 ||| y.2)) (decodeF fp32 (lane 32 k i.old.data.toNat), 0)
        ((encodeF fp32 z.1 i.rm false).1, z.2 ||| (encodeF fp32 z.1 i.rm false).2))
      OpOut.one { data := r.1, fmt := 1, key := i.a.key } r.2) ∧
    Op s x 0x38 .fxadd (fun i => i.f == 11) (fun i =>
      let sum (n : Nat) : Int := sext 128 (lane 128 n i.a.data.toNat) + sext 128 (lane 128 n i.b.data.toNat)
      let r := lanesF 128 16 (fun n => (wrap 128 (max fxMin (min fxMax (sum n))), if sum n < fxMin ∨ fxMax < sum n then fFXSAT else 0))
      OpOut.one { data := r.1, fmt := 11, key := i.a.key } r.2)

/-- Conversions: CVT between formats, QNT8's shared scale and DQNT, FXCVT; the part rule for cells of another lane count (R35-R40, R42,
R53, R135, R136).
The model's own choice, and no rule of the spec: that an entry pops the Oxbow's SPL as any head (log entry 136, DESIGN CHOICE); that a cell for a
reserved port is found at the firing (log entry 142, DESIGN CHOICE); QNT8's FMT for an SB of K, ST or LANE (log entry 22, DEDUCED); DQNT's scale 127
for a source without a scale or ST (log entry 24, DEDUCED); the same scale for LANE (log entry 113, DEDUCED). -/
def Obligations.ElementConvert : Prop :=
  ∀ (s : State) (x : ElemAct),
    let target (i : OpIn) : Fmt := BitVec.ofNat 4 i.scalB
    let part (i : OpIn) : Nat := i.scalB / 16 % 16
    let fits (i : OpIn) : Bool := decide (part i < max (laneCount (target i) / laneCount i.f) (laneCount i.f / laneCount (target i)))
    let conv (i : OpIn) (g : Nat → Nat × Flags) : OpOut :=
      let ns := laneCount i.f
      let nd := laneCount (target i)
      let keep := if i.oldD && i.old.fmt == target i then i.old.data.toNat else 0
      let r := lanesF (laneBits (target i)) nd (fun n =>
        if ns ≤ nd then (if part i * ns ≤ n ∧ n < part i * ns + ns then g (la i (n - part i * ns)) else (lane (laneBits (target i)) n keep, 0))
        else g (la i (part i * nd + n)))
      OpOut.one { data := r.1, fmt := target i, key := i.a.key } r.2
    Op s x 0x30 .cvt (fun i => decide (1 ≤ i.f.toNat ∧ i.f.toNat ≤ 9) && decide (1 ≤ (target i).toNat ∧ (target i).toNat ≤ 9) && fits i)
      (fun i => conv i (fun c => if target i = i.f then (c, 0) else match decodeLane i.tab i.f c with
        | some v => encodeLane (target i) v i.rm i.sat
        | none => (0, 0))) ∧
    Op s x 0x32 .dqnt (fun i => (i.f == 4 || i.f == 5 || i.f == 12 || i.f == 13) && (target i == 1 || target i == 2 || target i == 3) && fits i)
      (fun i => conv i (fun c =>
        let scale := if (i.f == 12 || i.f == 13) && i.selA != 14 && i.selA != 15 then i.a.key.toNat % 256 else 127
        encodeLane (target i) (if scale = 255 then .nan
          else (decodeF (if i.f = 4 ∨ i.f = 12 then e4m3 else e5m2) c).scale ((scale : Int) - 127)) i.rm false)) ∧
    Op s x 0x37 .fxcvt (fun i => ((i.f == 11 && (isFlt (target i) || isIntF (target i))) ||
        ((isFlt i.f || isIntF i.f) && target i == 11)) && fits i)
      (fun i => conv i (fun c => match decodeLane i.tab i.f c with
        | some v => encodeLane (target i) v i.rm false
        | none => (0, 0))) ∧
    Op s x 0x31 .qnt8 (fun i => fltOk i && !(i.fb.isNone && i.selB != 13)) (fun i =>
      let q := quantise (fltLanes i.f i.a.data ++ fltLanes i.f i.b.data) i.qf i.rm
      OpOut.one { data := q.2.1, fmt := if i.qf then 13 else 12, key := BitVec.ofNat 16 (q.1 + i.a.key.toNat / 256 * 256) } q.2.2)

/-- The operations that move, and the keyed ones: which value, format and key each destination receives, and which channel KSEL pops
(R132, R139, R140). -/
def Sys2Proof.Claims.ElementMovers : Prop :=
  ∀ (s : State) (x : ElemAct),
    Op s x 0x00 .elemNop anyOk (fun i => OpOut.one { data := 0, fmt := i.f, key := 0 }) ∧ Op s x 0x01 .mov anyOk (fun i => OpOut.one i.a) ∧
    Op s x 0x02 .pass anyOk (fun i => { ra := { v := i.a }, rb := { v := i.b } }) ∧
    Op s x 0x03 .keyx anyOk (fun i => OpOut.one { data := ofLanes 32 64 (fun _ => i.a.key.toNat), fmt := 8, key := i.a.key }) ∧
    Op s x 0x04 .keys anyOk (fun i => OpOut.one { i.a with key := BitVec.ofNat 16 i.scalB }) ∧
    Op s x 0x05 .cntdn intOk (fun i =>
      let d := (intOut i (fun a _ => max (a - 1) 0)).ra.v
      let r : Res := { v := d, pred := some (decide (lane (laneBits i.f) 0 d.data.toNat = 0)) }
      { ra := r, rb := r }) ∧
    Op s x 0x39 .perm anyOk (fun i => OpOut.one { i.a with data := ofLanes 8 256 (fun n => lane 8 (lane 8 n i.b.data.toNat) i.a.data.toNat) }) ∧
    Op s x 0x3A .bcast anyOk (fun i =>
      if i.f = 14 then OpOut.one { i.a with data := ofLanes 8 256 (fun _ => if i.a.data.getLsbD (i.scalB % 2048) then 255 else 0) }
      else if i.f = 10 then OpOut.one { i.a with data := ofLanes 8 256 (fun _ => tritCode (tritAt i.a.data.toNat (i.scalB % 1280)) * 121) }
      else OpOut.one { i.a with data := ofLanes (laneBits i.f) (laneCount i.f) (fun _ => la i (i.scalB % laneCount i.f)) }) ∧
    Op s x 0x40 .kcmp anyOk (fun i =>
      let d := ofLanes 32 64 (fun _ => if i.a.key < i.b.key then 2 ^ 32 - 1 else if i.a.key = i.b.key then 0 else 1)
      let v : Val := { data := d, fmt := 8, key := i.a.key }
      { ra := { v := v, pred := some (decide (i.a.key < i.b.key)) }, rb := { v := v, pred := some (decide (i.a.key = i.b.key)) } }) ∧
    Op s x 0x41 .ksel anyOk (fun i =>
      let first := decide (i.a.key ≤ i.b.key)
      { ra := { v := if first then i.a else i.b }, rb := { v := if first then i.a else i.b, pred := some (!first) }, popA := first, popB := !first })

/-- OXPIV: an accepted pivot, and only that, replaces the stage's pivot register and gives a predicate DA 1; OXEND: where a routine ends, the SPL at
the head of C0 is popped, the routine has ended, and a predicate DA receives 1; elsewhere both only take ST to NS and give 0 (R312, R313). An entry that holds a reserved encoding freezes its
element with TABLE (R77). -/
def Sys2Proof.Claims.ElementRoutines : Prop :=
  ∀ (s : State) (x : ElemAct),
    let c := s.fire.core
    let e := s.fire.elem
    let v := (s.opIn x (opUse 0x06)).scalA
    (ElemOk s x 0x06 → s.pivotStage? c e v = none → Does (.oxpiv x) s (fun s t => Fired 0x06 x
      { ra := { v := (s.opIn ((opUse 0x06).mask x) (opUse 0x06)).a, pred := some false },
        rb := { v := (s.opIn ((opUse 0x06).mask x) (opUse 0x06)).a } } s t)) ∧
    (∀ g, ElemOk s x 0x06 → s.pivotStage? c e v = some g → (s.core c).elems[e].frozen = none → Does (.oxpiv x) s (fun s t => ∃ u,
      Fired 0x06 x
        { ra := { v := (s.opIn ((opUse 0x06).mask x) (opUse 0x06)).a, pred := some true },
          rb := { v := (s.opIn ((opUse 0x06).mask x) (opUse 0x06)).a } } s u ∧
      t = u.modCore c (fun k => k.modStage g (fun y => { y with pivot := BitVec.ofNat 16 v })))) ∧
    (ElemOk s x 0x07 → s.endsRoutine c e = false → Does (.oxend x) s (fun s t => Fired 0x07 x
      (let r : Res := { v := { data := 0, fmt := (s.opIn ((opUse 0x07).mask x) (opUse 0x07)).f, key := 0 }, pred := some false }
       { ra := r, rb := r }) s t)) ∧
    (ElemOk s x 0x07 → s.endsRoutine c e = true → (s.core c).elems[e].frozen = none → Does (.oxend x) s (fun s t => ∃ u,
      Fired 0x07 x (let r : Res := { v := { data := 0, fmt := (s.opIn ((opUse 0x07).mask x) (opUse 0x07)).f, key := 0 }, pred := some true }
        { ra := r, rb := r }) s u ∧
      (t.core c).elems[e] = { (u.core c).elems[e] with ended := true, splSeen := false } ∧
      (∀ n : Fin 4, (((t.core c).egAt (48 + e.val)).chan n.val).cells =
        if n = 0 then (((s.core c).egAt (48 + e.val)).chan 0).cells.tail else (((s.core c).egAt (48 + e.val)).chan n.val).cells) ∧
      (∀ p, (t.core c).ingAt p = (u.core c).ingAt p) ∧ (∀ p, p ≠ 48 + e.val → (t.core c).egAt p = (s.core c).egAt p) ∧
      (∀ k g, s.routineOf c e = some (k, g) → ((t.core k).stages[g]).since = s.slot) ∧ SameMem s t)) ∧
    Does .tableFault s (FrozeElem kTABLE)

/-- What stops a firing: reserved selects and reserved values of fields, and in FMA, FMS, FSEL, IMAC4, ASUB3, LACC, KSEL, OXPIV and OXEND a source or
destination that R131 does not let the operation have, TABLE; an error ECC; an output without a route PORT; a second operand of another format FMT; in
each case nothing is consumed or produced (R76, R77, R125, R127, R131, R258, R276). -/
def Sys2Proof.Claims.FiringFaults : Prop :=
  ∀ (s : State) (x : ElemAct),
    let c := s.fire.core
    let e := s.fire.elem
    (x.legal = false → Does (.fadd x) s (FrozeElem kTABLE) ∧ Does (.mov x) s (FrozeElem kTABLE)) ∧
    (let T (op : Nat) (j : ElemAct → Instr) : Prop := x.legal = true → actOk x (opUse op) = false → Does (j x) s (FrozeElem kTABLE)
     T 0x13 .fma ∧ T 0x14 .fms ∧ T 0x1F .fsel ∧ T 0x23 .imac4 ∧ T 0x24 .asub3 ∧ T 0x36 .lacc ∧ T 0x41 .ksel ∧ T 0x06 .oxpiv ∧ T 0x07 .oxend) ∧
    (x.legal = true → s.fireEcc? x 0x10 ≠ none → Does (.fadd x) s (FrozeElem kECC)) ∧
    (x.legal = true → s.fireEcc? x 0x2A ≠ none → Does (.iand x) s (FrozeElem kECC)) ∧
    (x.legal = true → s.fireEcc? x 0x10 = none → (s.core c).unboundO e x.da = true → Does (.fadd x) s (FrozeElem kPORT)) ∧
    (x.legal = true → s.fireEcc? x 0x02 = none → (s.core c).unboundO e x.da = true → Does (.pass x) s (FrozeElem kPORT)) ∧
    (x.legal = true → x.da.toNat ≤ 3 → s.fireEcc? x 0x10 = none → s.fireEcc? x 0x13 = none → (s.core c).unboundO e x.db = false →
      (∃ g, s.srcFmt? c e x.sb = some g ∧ g ≠ s.opFormat c e x (opUse 0x10)) → Does (.fadd x) s (FrozeElem kFMT) ∧
      Does (.iadd x) s (FrozeElem kFMT) ∧ Does (.fma x) s (FrozeElem kFMT))

/-- An element's pass boundary: with a DRN at the head of every bound channel and room for every bound output, the tokens go through, K
takes its pending value, and ST and the D registers stay (R126, R224, R262). -/
def Sys2Proof.Claims.ElementBoundary : Prop :=
  ∀ (s : State) (c : CoreId) (e : ElemId),
    (s.elemRuns c e = true → s.drainReady c e = true → ∃ t, exec (.elementDrain c e) s = .next t ∧ SameMem s t ∧
      (t.core c).elems[e].k = (s.core c).elems[e].kpend.getD (s.core c).elems[e].k ∧ (t.core c).elems[e].kpend = none ∧
      (t.core c).elems[e].st = (s.core c).elems[e].st ∧ (t.core c).elems[e].d = (s.core c).elems[e].d ∧
      (t.core c).elems[e].passes = (s.core c).elems[e].passes + 1 ∧
      ((t.core c).ingAt (48 + e.val)).obuf.length = ((s.core c).ingAt (48 + e.val)).obuf.length + ((s.core c).elemCfg e).boundOuts.length) ∧
    (s.drainReady c e = false → exec (.elementDrain c e) s = .next s)

/-! ## The matrix engine -/

/-- The MX forms: MODE, the kept panel and MXSTAT act at once; a run, a drain and a clear capture their operands and enter the queue of 8, or
park their thread behind it; a run sets the tile's RC and, unless it has no rows, its format tag; MXCODE waits for the end of the slot (R141, R144, R145, R158-R164). -/
def Sys2Proof.Claims.EngineForms : Prop :=
  ∀ (s : State) (a b : BitVec 5) (f k : BitVec 4) (n d t m : BitVec 1) (ch i : BitVec 2),
    let e := s.myCore.me
    let v := s.me.rd a
    let tile := decide (t = 1)
    let room := decide (e.jobs.length < 8) && !s.myCore.meWaiting
    let N (j : Instr) (R : Me → Prop) : Prop := Does j s (fun s t => OnlyCore s.cur.1 s t ∧ t.me = { s.me with pc := s.me.pc + 4 } ∧ R t.myCore.me)
    let Q (j : Instr) (R : MeJob → Prop) : Prop :=
      (room = true → N j (fun e' => ∃ z, e'.jobs = e.jobs ++ [z] ∧ R z)) ∧
      (room = false → Does j s (fun s t => OnlyCore s.cur.1 s t ∧ t.me.st = .parked ∧ t.myCore.me.jobs = e.jobs ∧
        t.myCore.waitq = s.myCore.waitq ++ [s.cur.2] ∧ ∃ z, t.me.pend = .meJob z ∧ R z))
    N (.mxmode f) (fun e' => e' = { e with mode := f }) ∧ N (.mxpanel n) (fun e' => e' = { e with keep := some (decide (n = 1)) }) ∧
    Q (.mxrun a t m ch) (fun z => z.kind = .run ∧ z.tile = tile ∧ z.rows = min (v.toNat % 2 ^ 9) 256 ∧ z.mode = e.mode ∧ z.chain = ch ∧
      z.pass = decide (m = 1) ∧ z.kpanel = BitVec.ofNat 8 (v.toNat / 2 ^ 16) ∧ z.npanel = BitVec.ofNat 8 (v.toNat / 2 ^ 24) ∧ z.done = 0 ∧
      z.tag = (if v.getLsbD 15 then some (BitVec.ofNat 6 (v.toNat / 2 ^ 9)) else none)) ∧
    Does (.mxrun a t m ch) s (fun _ t => (t.myCore.me.tile tile).rc = min (v.toNat % 2 ^ 9) 256 ∧
      (t.myCore.me.tile tile).isInt = if v.toNat % 2 ^ 9 = 0 then (e.tile tile).isInt else e.mode == 6) ∧
    Q (.mxdrain a d f t) (fun z => z.kind = .drain ∧ z.tile = tile ∧ z.rows = (e.tile tile).rc ∧ z.fmt = f ∧ z.done = 0 ∧
      z.route = (if d = 1 then some (BitVec.ofNat 8 v.toNat) else none)) ∧
    Q (.mxzero t) (fun z => z.kind = .zero ∧ z.tile = tile ∧ z.rows = 256 ∧ z.done = 0) ∧
    Does (.mxcode a i) s (fun s t => OnlyCore s.cur.1 s t ∧ t.me = { s.me with pc := s.me.pc + 4 } ∧
      t.myCore.late = s.myCore.late ++ [.code i (v.setWidth 32)]) ∧
    Does (.mxstat a k) s (fun s t => OnlyCore s.cur.1 s t ∧ t.me.rd a = (if a = 0 then 0 else s.atStart.myCore.mxstat s.slot k.toNat) ∧
      t.me.pc = s.me.pc + 4 ∧ t.myCore.me = { e with flags := if k = 2 then e.fresh else e.flags }) ∧
    ((s.me.rd b).toNat % 32 ≠ 0 → Does (.mxadp a b k) s (fun s t => t.me.ecause = kALIGN ∧ SameMem s t)) ∧
    (∀ pa, (s.me.rd b).toNat % 32 = 0 → s.translate s.cur.1 ((s.me.rd b).toNat % 2 ^ 55) .read = some pa → Does (.mxadp a b k) s (fun s t =>
      SameMem s t ∧ t.me.st = .parked ∧ ∃ w, t.me.pend = .desc (.mxadp k v) pa w)) ∧
    (∀ pa, (s.me.rd b).toNat % 32 = 0 → s.translate s.cur.1 ((s.me.rd b).toNat % 2 ^ 55) .read = some pa → s.hbmBad pa 32 = false → s.myCore.wbuf = [] →
      DoesBy (.mxadp a b k) (.descriptorReadDone s.cur.1 s.cur.2) s (fun s t => SameMem s t ∧ Finished s t s.cur.1 s.cur.2 id ∧
        (t.core s.cur.1).me.late = e.late ++ [.adapter k (v.setWidth 6) (BitVec.ofNat 256 (Memory.readN s.hbm pa 32))]))

/-- What the engine writes at the end of a slot: a preload cell's 64 words, and a descriptor with its slot, which then holds no slice of
it; another directory entry stays (R148, R161). -/
def Sys2Proof.Claims.EngineLate : Prop :=
  ∀ (m : Me) (n slot row chunk : Nat) (t : Bool) (v : Payload) (k : BitVec 4) (a b : BitVec 6) (d : BitVec 256),
    (m.late = [.preload n t row chunk v] → n ≤ slot → chunk < 8 →
      getBits (Sparse.getD ((m.applyLate slot).tile t).rows row {}).acc (2048 * chunk) 2048 = v.toNat ∧ (m.applyLate slot).late = []) ∧
    (m.late = [.preload n t row chunk v] → slot < n → m.applyLate slot = m) ∧
    (m.late = [.adapter k a d] → a ≠ 63 → (m.applyLate slot).adapter? a = some d ∧ vget (m.applyLate slot).slots k.toNat {} = { id := a } ∧
      (b ≠ a → (m.applyLate slot).adapter? b = m.adapter? b)) ∧
    (m.late = [.adapter k 63 d] → (m.applyLate slot).dir = m.dir ∧ vget (m.applyLate slot).slots k.toNat {} = {})

/-- The engine at work: a waiting job enters the queue, a B cell fills the panel, preloads and tokens of MXC, a row is fired, drained or
cleared, a DRN is discarded or crosses the boundary, factor cells are fetched and arrive; a fetch into a slot ends the older ones for that place; a prefetch
that cannot go on is dropped and freezes nothing; a unit that was FROZEN at the slot's start does none of these (R142-R156, R269). -/
def Sys2Proof.Claims.EngineWork : Prop :=
  ∀ (s : State) (c : CoreId) (k : Tid) (q : Fin 4) (x : Fin 2) (p : PortId) (y : Cell) (j : MeJob) (i : Nat),
    let co := s.core c
    let m := co.me
    let At (p : Nat) (tag : BitVec 3) : Prop := co.head? s.slot p 0 = some y ∧ ((co.egAt p).chan 0).moved = false ∧ y.h.tag = tag
    let D (ev : Instr) (R : Me → State → Prop) : Prop := ∃ t, exec ev s = .next t ∧ SameMem s t ∧ R (t.core c).me t
    ((s.thr c k).st = .parked → (s.thr c k).pend = .meJob j → m.jobs.length < 8 →
        co.waitq.find? (fun q => match (co.thr q).st, (co.thr q).pend with | .parked, .meJob _ => true | _, _ => false) = some k →
      D (.meJobQueueFree c k) (fun m' t => m'.jobs = m.jobs ++ [{ j with since := s.slot + 1 }] ∧ Finished s t c k id)) ∧
    (m.off s.slot = false →
      (At (82 + q.val) tDATA → (m.panel m.fptr).full = false → vget (m.panel m.fptr).cnt q.val 0 < 128 →
        D (.mePanelCell c q) (fun m' _ => Sparse.get? (m'.panel m.fptr).cells (4 * vget (m.panel m.fptr).cnt q.val 0 + q.val) = some y.data)) ∧
      (At (86 + x.val) tDATA → D (.mePreload c x) (fun m' _ => m' = { m with
        late := m.late ++ [.preload (s.slot + 1) (decide (y.h.key.toNat / 128 % 2 = 1)) (y.h.key.toNat / 256) (y.h.key.toNat % 8) y.data] })) ∧
      (At (86 + x.val) tSTEER → D (.meSteerToken c x) (fun m' _ =>
        (m'.tile (decide (y.h.key.toNat / 128 % 2 = 1))).stk = some (BitVec.ofNat 8 y.data.toNat))) ∧
      (At (86 + x.val) tSPL → D (.mePreload c x) (fun m' t => m'.frozen ≠ none ∧ (t.core c).faults.length = co.faults.length + 1)) ∧
      (At p.val tDRN → 82 ≤ p.val → p.val ≤ 87 → D (.meDrnDiscard c p) (fun m' _ => m' = m)) ∧
      (At 80 tDRN → co.mxdRoom = true → s.fatalAt (shadowSpots c) = false → D (.mePassBoundary c) (fun m' _ =>
        m'.cta = m.cts ∧ m'.passes = m.passes + 1)) ∧
      (At 80 tDRN → co.mxdRoom = true → s.fatalAt (shadowSpots c) = true → D (.mePassBoundary c) (fun m' t =>
        m'.cta = m.cta ∧ m'.passes = m.passes ∧ ∃ f r, m'.frozen = some f ∧ f.kind = kECC ∧ (t.core c).faults = co.faults ++ [r] ∧ r.kind = kECC)) ∧
      (m.jobs = [j] → j.kind = .zero → j.done < j.rows → m.mayAct 0 j s.slot = true → D (.meZeroRow c) (fun m' _ =>
        m'.jobs = [{ j with done := j.done + 1, since := s.slot + 1 }] ∧
          (Sparse.getD (m'.tile j.tile).rows j.done {}).acc = 0 ∧ (Sparse.getD (m'.tile j.tile).rows j.done {}).tv = 0 ∧
          (∀ r, r ≠ j.done → Sparse.get? (m'.tile j.tile).rows r = Sparse.get? (m.tile j.tile).rows r) ∧
          m'.tile (!j.tile) = m.tile (!j.tile))) ∧
      (let aid : BitVec 6 := BitVec.ofNat 6 y.h.key.toNat
       let old := Sparse.getD (m.tile j.tile).rows j.done {}
       let ready := m.takeToken s.slot = m ∧ m.run? = some (i, j) ∧ At 80 tDATA ∧ (m.panel j.buf).full = true ∧ (m.panel j.buf).since ≤ s.slot ∧
         m.mayAct i j s.slot = true ∧ s.fatalAt (.panel c j.buf :: (m.fireSpots c j aid ++ (if j.mode = 9 then codeSpots c else []))) = false ∧
         (aid = 63 ∨ (m.adapter? aid).isSome = true) ∧ m.hasU s.slot aid j.kpanel = true
       let word (acc : BitVec 16384) (n : Nat) : Nat := (accNew m.cta j.mode (getBits acc (32 * n) 32) y.data (m.panel j.buf).array n).1 % 2 ^ 32
       (ready → j.pass = false → D (.meFire c) (fun m' t => m'.fired = m.fired + 1 ∧ (((t.core c).egAt 80).chan 0).cells = ((co.egAt 80).chan 0).cells.tail ∧
         let row := Sparse.getD (m'.tile j.tile).rows j.done {}
         row.aid = aid ∧ row.npi = j.npanel ∧ row.lp = decide (j.chain = 2 ∨ j.chain = 3) ∧ ∀ n, n < 512 → getBits row.acc (32 * n) 32 = word old.acc n)) ∧
       (∀ e, ready → j.pass = true → m.drain? = some (i, j) → mxFmtBad j.fmt = false → j.route = some e → m.hasV s.slot aid j.npanel = true →
         co.mxdRoom = true → m.drainAt ≤ s.slot → D (.meFire c) (fun m' t => m'.fired = m.fired + 1 ∧ m'.drained = m.drained + 1 ∧
           (Sparse.getD (m'.tile j.tile).rows j.done {}).acc = 0 ∧
           ∀ n : Fin 8, ((t.core c).ingAt (80 + n.val)).obuf.length = (co.ingAt (80 + n.val)).obuf.length + 1))) ∧
      (∀ e, m.drain? = some (i, j) → j.kind = .drain → j.rows ≠ 0 → m.mayAct i j s.slot = true → mxFmtBad j.fmt = false → j.route = some e →
        s.fatalAt (m.drainSpots c j.tile j.done 63 false) = false → (Sparse.getD (m.tile j.tile).rows j.done {}).lp = false → co.mxdRoom = true →
        m.drainAt ≤ s.slot → D (.meDrainRow c) (fun m' t => m'.drained = m.drained + 1 ∧ m'.drainAt = s.slot + 1 ∧
          (Sparse.getD (m'.tile j.tile).rows j.done {}).acc = 0 ∧
          ∀ n : Fin 8, ((t.core c).ingAt (80 + n.val)).obuf.length = (co.ingAt (80 + n.val)).obuf.length + 1)) ∧
      (∀ w g rest, x.val = 0 → At 86 tCTRL → m.fetchU = g :: rest → g.id ≠ 63 → (m.slots[g.slot]).id = g.id → w = g.next →
        D (.adapterFactorCell c x) (fun m' _ => Sparse.get? ((m'.slots[g.slot]).ucells) w = some y.data ∧
          (g.total ≤ w + 1 → (m'.slots[g.slot]).u = some g.index ∧ m'.fetchU = rest))) ∧
      (m.fetchV = [] → (∀ q ∈ co.sliceNeeds, q.v = false) →
        (∀ n f, m.asking? false = some (n, f) → (co.ingAt (108 + f.loader.val)).frozen = none → co.loaderFree (some f.loader) s.slot = true →
          (co.ingAt (108 + f.loader.val)).obuf.length < 16 → s.pathsFree false (s.genPlaces c ((f.va + 256 * f.asked) % vaTop) 256) = true →
          let read := s.genRead c ((f.va + 256 * f.asked) % vaTop) 256 (co.demands false f)
          (∀ s' w, read = .ok s' w → ∃ t, exec (.adapterFetch c) s = .next t ∧ t.hbm = s'.hbm ∧ t.pool = s'.pool ∧
            (t.core c).me.fetchU = m.fetchU.set n { f with asked := f.asked + 1 } ∧
            ∃ o, ((t.core c).ingAt (108 + f.loader.val)).obuf = (co.ingAt (108 + f.loader.val)).obuf ++ [o] ∧ o.cell.h.ep = 86 ∧ o.cell.h.vc = f.vc ∧
              o.cell.h.tag = tCTRL ∧ o.cell.data = BitVec.ofNat 2048 w) ∧
          (∀ s', read = .dropped s' → D (.adapterFetch c) (fun _ t => (t.core c).ing = co.ing ∧ (t.core c).faults = co.faults))) ∧
        (∀ f s' w, m.asking? false = none → Core.newFetch? (s.atStart.core c) co s.slot false = some f → (co.ingAt (108 + f.loader.val)).frozen = none →
          co.loaderFree (some f.loader) s.slot = true → (co.ingAt (108 + f.loader.val)).obuf.length < 16 → f.asked = 0 →
          let s1 := (s.modCore c (fun x => x.modMe (fun m => m.beginFetch false f))).clearSpots (m.lostSpots c false f)
          s1.pathsFree false (s1.genPlaces c (f.va % vaTop) 256) = true → s1.genRead c (f.va % vaTop) 256 ((s1.core c).demands false f) = .ok s' w →
          ∃ t l, exec (.adapterFetch c) s = .next t ∧ (t.core c).me.fetchU = l ++ [{ f with asked := 1 }] ∧
            (∀ g ∈ l, g.slot = f.slot → g.id = 63) ∧ (∀ g ∈ m.fetchU, g.slot ≠ f.slot → g ∈ l) ∧
            ((t.core c).me.slots[f.slot]).id = f.id ∧ ((t.core c).me.slots[f.slot]).u = none)))

/-! ## The Reedbed -/

/-- The RB forms: ILL 3 for a load of no or too many cells, for a context that is EMPTY, for a run with no context; else the job enters the
queue of 8 in issue order, or its thread parks (R294, R297-R301). -/
def Sys2Proof.Claims.ReedbedForms : Prop :=
  ∀ (s : State) (a : BitVec 5) (k np ps : BitVec 3) (kd : BitVec 2) (z : BitVec 4),
    let r := s.myCore.rb
    let v := s.me.rd a
    let ctx : Fin 8 := Fin.ofNat 8 k.toNat
    let T (j : Instr) : Prop := Does j s (fun s t => t.me.ecause = kILL ∧ t.me.eval.toNat / 2 ^ 32 = 3 ∧ t.myCore.rb = r ∧ SameMem s t)
    let Q (j : Instr) (kind : RbKind) : Prop :=
      (r.jobs.length < 8 → s.myCore.rbWaiters = [] → Does j s (fun s t => OnlyCore s.cur.1 s t ∧ t.me = { s.me with pc := s.me.pc + 4 } ∧
        t.myCore.rb.nextSeq = r.nextSeq + 1 ∧ ∃ q, t.myCore.rb.jobs = r.jobs ++ [q] ∧ q.kind = kind ∧ q.seq = r.nextSeq)) ∧
      (8 ≤ r.jobs.length → Does j s (fun s t => OnlyCore s.cur.1 s t ∧ t.me.st = .parked ∧ t.myCore.rb.jobs = r.jobs ∧
        t.myCore.waitq = s.myCore.waitq ++ [s.cur.2]))
    (v.toNat % 256 = 0 ∨ 129 < v.toNat % 256 → T (.rbload a k)) ∧
    (v.toNat % 256 ≠ 0 → v.toNat % 256 ≤ 129 → Q (.rbload a k) (.load ctx (v.toNat % 256))) ∧
    (r.states[ctx] = .empty → T (.rbctx k)) ∧ (r.states[ctx] ≠ .empty → Q (.rbctx k) (.ctx ctx)) ∧
    (r.active = none → s.myCore.rbctxPending = false → T (.rbrun a)) ∧
    (r.active ≠ none → Q (.rbrun a) (.run (min (v.toNat % 2 ^ 12) 2048))) ∧ Q (.rbxmode np kd ps) (.mode (np ++ kd ++ ps)) ∧
    Does (.rbstat a z) s (fun s t => Wrote s t a (s.atStart.myCore.rbstat z.toNat))

/-- The Reedbed at work, when it is not FROZEN and was not at the slot's start: loads, context switches, which wait for the loads issued before them and
for no later one, and modes in their turn, a run's input, evaluation and output, its end with its tag, and its drain tokens, in a clock after the
run's last; a freeze in EVAL leaves every wire of the buffer as it was (R286-R296, R298-R300, R302). -/
def Sys2Proof.Claims.ReedbedWork : Prop :=
  ∀ (s : State) (c : CoreId) (j : RbJob) (ctx : Fin 8) (n g : Nat) (w : BitVec 8) (sent : Vector Nat 4) (p : PortId) (y : Cell),
    let co := s.core c
    let r := co.rb
    let D (ev : Instr) (R : Rb → Core → Prop) : Prop := ∃ t, exec ev s = .next t ∧ SameMem s t ∧ R (t.core c).rb (t.core c)
    let At (p : Nat) (tag : BitVec 3) : Prop := co.head? s.slot p 0 = some y ∧ ((co.egAt p).chan 0).moved = false ∧ y.h.tag = tag
    r.off s.slot = false →
    (r.load = none → r.jobs = [j] → j.kind = .load ctx n → j.since ≤ s.slot → r.active ≠ some ctx → (∀ q : Fin 4, co.head? s.slot (92 + q.val) 0 = none) →
      D (.rbLoadCell c) (fun r' _ => r'.load = some (ctx, n) ∧ r'.jobs = [j])) ∧
    (r.load = some (ctx, n + 1) → At 92 tDATA → y.h.key.toNat % 256 ≤ 0x80 → (∀ q : Fin 4, q ≠ 0 → co.head? s.slot (92 + q.val) 0 = none) →
      D (.rbLoadCell c) (fun r' _ => r'.load = some (ctx, n) ∧ (if y.h.key.toNat % 256 = 0x80 then (r'.ctx ctx).hdr = y.data
        else Sparse.get? (r'.ctx ctx).blocks (y.h.key.toNat % 256) = some y.data))) ∧
    (r.load = some (ctx, 0) → r.jobs = [j] → j.kind = .load ctx n → j.tag = none → co.rbWaiters = [] →
      D (.rbLoadDone c) (fun r' _ => r'.states[ctx] = .loaded ∧ r'.load = none ∧ r'.jobs = [])) ∧
    (r.phase = .idle → r.jobs = [j] → j.kind = .ctx ctx → r.states[ctx] ≠ .empty → j.since ≤ s.slot → r.since ≤ s.slot → co.rbWaiters = [] →
      D (.rbContextSwitch c) (fun r' _ => r'.active = some ctx ∧ r'.jobs = [])) ∧
    (r.runJob? = some j → j.kind = .ctx ctx → r.states[ctx] = .empty ∨ (∃ q ∈ r.jobs, q.seq < j.seq ∧ q.kind = .load ctx n) →
      exec (.rbContextSwitch c) s = .next s) ∧
    (r.phase = .idle → r.jobs = [j] → j.kind = .mode w → j.since ≤ s.slot → r.since ≤ s.slot → co.rbWaiters = [] →
      D (.rbModeApply c) (fun r' _ => vget r'.modes (w.toNat % 8) 0 = w ∧ r'.jobs = [])) ∧
    (r.phase = .idle → r.jobs = [j] → j.kind = .run n → r.active = some ctx → j.since ≤ s.slot → r.since ≤ s.slot →
      s.fatalAt [.context c ctx 1024] = false → (∀ q : Fin 4, co.head? s.slot (88 + q.val) 0 = none) → (r.ctx ctx).nin ≠ 0 →
      D (.rbInput c) (fun r' _ => r'.phase = .input (r.ctx ctx).nin ∧ r'.runCtx = ctx ∧ r'.batch = if n = 0 then (r.ctx ctx).batch else n)) ∧
    (r.phase = .input (n + 1) → At 88 tDATA → (∀ q : Fin 4, q ≠ 0 → co.head? s.slot (88 + q.val) 0 = none) →
      D (.rbInput c) (fun r' _ => r'.phase = (if n = 0 then .eval 0 else .input n) ∧ r'.inCells = r.inCells + 1 ∧
        (modeKind (vget r.modes 0 0) = 0 → r'.wire (y.h.key.toNat % 2048) = y.data))) ∧
    (let code := r.ctx r.runCtx
     r.phase = .eval g → r.since ≤ s.slot →
      (r.evalAt = 0 → r.staged = [] → s.ecc.spots = [] →
        D (.rbEvalGroup c) (fun r' _ => r'.phase = (if g = 7 then .output (Vector.replicate 4 0) else .eval (g + 1)) ∧ r'.since = s.slot + 1 ∧
          r'.wires = ((List.range code.nl).foldl (fun b i => b.evalRecord (code.record i) g r.batch) r).wires ∧
          r'.jobs = r.jobs ∧ r'.active = r.active)) ∧
      (r.evalAt < code.nl → r.staged = [] → s.fatalAt (recordSpots c r.runCtx r.evalAt (code.record r.evalAt) g r.batch) = true →
        D (.rbEvalGroup c) (fun r' _ => r' = { r with frozen := some { kind := kECC, arg := 0 } })) ∧
      D (.rbEvalGroup c) (fun r' _ => r'.frozen.isSome = true → r'.wires = r.wires ∧ r'.phase = r.phase)) ∧
    (r.phase = .output sent → r.since ≤ s.slot → vget sent 0 0 < r.outTotal 0 → co.rbUnbound = false → s.ecc.spots = [] →
      (∀ q : Fin 4, q ≠ 0 → r.outTotal q.val ≤ vget sent q.val 0) → 0 < co.obufFree 88 →
      D (.rbOutput c) (fun r' co' => r'.since = s.slot + 1 ∧ r'.outCells = r.outCells + 1 ∧ r'.phase = .output (vset sent 0 (vget sent 0 0 + 1)) ∧
        ∃ o, (co'.ingAt 88).obuf = (co.ingAt 88).obuf ++ [o] ∧ (o.cell.h.key, o.cell.data) = r.outCell 0 (vget sent 0 0))) ∧
    (r.phase = .output sent → r.runJob? = some j → (∀ q : Fin 4, r.outTotal q.val ≤ vget sent q.val 0) → co.rbWaiters = [] →
      D (.rbRunDone c) (fun r' co' => r'.phase = .idle ∧ r'.runs = r.runs + 1 ∧ (∀ q ∈ r'.jobs, q.seq ≠ j.seq) ∧
        ∀ t, j.tag = some t → co'.tbSoon = co.tbSoon ||| (1#64 <<< t.toNat))) ∧
    (co.rbBound = [88] → At 88 tDRN → r.phase = .idle → r.runEnd ≤ s.slot → (∀ q : Fin 4, boundEntry? (vget co.cfg.portbind (8 + q.val) 0) = none) →
      D (.rbPassBoundary c) (fun r' _ => r'.passes = r.passes + 1)) ∧
    (At p.val tDRN → 92 ≤ p.val → p.val ≤ 95 → D (.rbDrnDiscard c p) (fun r' _ => r' = r))

/-! ## The Oxbow -/

/-- The OX forms: ILL 3 on a stage in NONE; a split of a stage with a free twin, or its failure; a merge, at once or pending; the pin and
the query (R304, R306, R310, R317, R318, R321-R323). -/
def Sys2Proof.Claims.OxbowForms : Prop :=
  ∀ (s : State) (a : BitVec 5) (g : BitVec 3) (p : BitVec 1) (k : CoreId),
    let n : StageId := Fin.ofNat 8 g.toNat
    let y := s.myCore.stages[n]
    let T (j : Instr) : Prop := y.st = .none → Does j s (fun s t => t.me.ecause = kILL ∧ t.me.eval.toNat / 2 ^ 32 = 3 ∧ SameMem s t)
    let N (j : Instr) (R : Stage → Prop) : Prop := Does j s (fun s t => SameMem s t ∧ t.me = { s.me with pc := s.me.pc + 4 } ∧ R t.myCore.stages[n])
    T (.oxsplit g) ∧ T (.oxmerge g) ∧ T (.oxpin p g) ∧
    (y.st = .whole ∨ y.st = .asked → s.cloneFail? s.cur.1 y = none → N (.oxsplit g) (fun z => z.st = .cloning ∧
      z.twin = y.cands.find? (fun k => s.twinFree k))) ∧
    (∀ r, y.st = .whole ∨ y.st = .asked → s.cloneFail? s.cur.1 y = some r → N (.oxsplit g) (fun z => z.st = .whole ∧ z.reason = r)) ∧
    (y.st = .cloning ∨ y.st = .splitting ∨ y.st = .draining → N (.oxmerge g) (fun z => z = { y with mergeP := true })) ∧
    (y.st = .split → y.twin = some k → N (.oxmerge g) (fun z => z.st = .returning ∧ z.twin = some k)) ∧
    (y.st = .whole → N (.oxmerge g) (fun z => z = y)) ∧
    (y.st ≠ .none → N (.oxpin p g) (fun z => z.pin = decide (p = 1) ∧ z.st = y.st)) ∧
    Does (.oxqry a g) s (fun s t => Wrote s t a (s.atStart.oxWord s.cur.1 n)) ∧
    ((s.me.rd a).toNat % 128 ≠ 0 → Does (.oxdecl a g) s (fun s t => t.me.ecause = kALIGN ∧ SameMem s t)) ∧
    (∀ pa, (s.me.rd a).toNat % 128 = 0 → s.translate s.cur.1 ((s.me.rd a).toNat % 2 ^ 55) .read = some pa → Does (.oxdecl a g) s (fun s t =>
      SameMem s t ∧ t.me.st = .parked ∧ ∃ w, t.me.pend = .desc (.oxdecl g) pa w)) ∧
    (∀ pa, (s.me.rd a).toNat % 128 = 0 → s.translate s.cur.1 ((s.me.rd a).toNat % 2 ^ 55) .read = some pa → s.hbmBad pa 128 = false →
      s.myCore.wbuf = [] →
      let z : Stage := { y with decl := BitVec.ofNat 1024 (Memory.readN s.hbm pa 128) }
      (s.declOk s.cur.1 z = true → y.st = .none ∨ y.st = .whole → DoesBy (.oxdecl a g) (.descriptorReadDone s.cur.1 s.cur.2) s (fun s t =>
        SameMem s t ∧ Finished s t s.cur.1 s.cur.2 id ∧ (t.core s.cur.1).late = s.myCore.late ++ [.ranges n z.initRanges] ∧
        ((t.core s.cur.1).stages[n]).st = .whole ∧ ((t.core s.cur.1).stages[n]).decl = z.decl)) ∧
      (s.declOk s.cur.1 z = false ∨ y.st ≠ .none ∧ y.st ≠ .whole → DoesBy (.oxdecl a g) (.descriptorReadDone s.cur.1 s.cur.2) s (fun s t =>
        SameMem s t ∧ (t.thr s.cur.1 s.cur.2).ecause = kILL ∧ (t.core s.cur.1).stages[n] = y)))

/-- A stage's life: overload asks, the firmware's answer, the clone, the routines' entry with SPLITST or MERGEST in ST, their switch, redirection of a moved
key's head on RVC to the same port of the twin, and its end, the hold, an earlier merge's cells first, the merge and the return to WHOLE, each only
from its own state (R270, R308-R317, R319). -/
def Sys2Proof.Claims.OxbowLife : Prop :=
  ∀ (s : State) (c : CoreId) (n : StageId) (e : ElemId) (k : CoreId) (b : Bool) (r : BitVec 4),
    let y := (s.core c).stages[n]
    let q := (s.core c).egAt (48 + e.val)
    let D (ev : Instr) (R : Stage → Core → Prop) : Prop := ∃ t, exec ev s = .next t ∧ R ((t.core c).stages[n]) (t.core c)
    (s.oxRuns c = true → y.st = .whole → y.ovd ≠ 0 → y.pin = false → y.ovw ≤ y.ovTimer → D (.overloadDetect c n) (fun z x => z.st = .asked ∧
      x.faults.length = (s.core c).faults.length + 1)) ∧
    (y.pin = true → exec (.overloadDetect c n) s = .next s ∧ exec (.underloadDetect c n) s = .next s) ∧
    (s.oxRuns c = true → y.st = .asked → s.cloneFail? c y = none → D (.oxbowApproval c n) (fun z _ => z.st = .cloning)) ∧
    (s.oxRuns c = true → y.st = .asked → s.cloneFail? c y = some r → D (.oxbowApproval c n) (fun z _ => z.st = .whole ∧ z.reason = r)) ∧
    (s.oxRuns c = true → y.st = .asked → D (.oxbowRefusal c n) (fun z _ => z.st = .whole ∧ z.ovTimer = 0)) ∧
    (y.st ≠ .asked → exec (.oxbowApproval c n) s = .next s ∧ exec (.oxbowRefusal c n) s = .next s) ∧
    (s.oxRuns c = true → y.st = .cloning → y.twin = some k → k ≠ c → (s.core k).cloneSlot? = some b → D (.cloneDone c n) (fun z _ => z.st = .splitting ∧ z.twin = some k)) ∧
    (∀ w, s.splWaiting c e = true → s.elemRuns c e = true → (s.core c).head? s.slot (48 + e.val) 0 = some w →
      D (.splHead c e) (fun _ x => x.elems[e].splSeen = true ∧ x.elems[e].acted = some s.slot ∧
        (∀ g, w.data.getLsbD 48 = false → (s.core c).sourceStage? e (fun t => t == .splitting) = some g → x.elems[e].st = ((s.core c).stages[g]).splitSt) ∧
        (∀ z, w.data.getLsbD 48 = true → s.twinStage? c e (fun t => t == .merging) = some z → x.elems[e].st = ((s.core z.1).stages[z.2]).mergeSt) ∧
        x.egAt (48 + e.val) = q)) ∧
    (s.oxRuns c = true → y.st = .splitting → y.twin = some k → k ≠ c → y.since < s.slot → (∀ f ∈ y.elems, (s.core c).elems[f].ended = true) →
      D (.oxbowSwitch c n) (fun z x => z.st = .draining ∧ ∃ t, x.late = (s.core c).late ++ [.ranges n t] ∧
        t = rangeTable (y.cut c y.pivot.toNat k))) ∧
    (y.st = .splitting → y.twin = some k → (∃ f ∈ y.elems, (s.core c).elems[f].ended = false) → exec (.oxbowSwitch c n) s = .next s) ∧
    (∀ g z, (s.core c).drainingStage? e = some (g, z) → 0 < z.rtn → exec (.oxbowForward c e) s = .next s) ∧
    (∀ g z ch w, (s.core c).drainingStage? e = some (g, z) → z.twin = some k → z.rtn = 0 → s.oxRuns c = true → (List.range 4).find? (fun ch =>
        match (s.core c).head? s.slot (48 + e.val) ch with | some w => w.h.vc == z.ivc && z.moved c w.h.key | none => false) = some ch →
      (s.core c).head? s.slot (48 + e.val) ch = some w → D (.oxbowForward c e) (fun _ x => ∃ f : Cell,
        (x.ingAt (48 + e.val)).ahead = ((s.core c).ingAt (48 + e.val)).ahead ++ [{ cell := f }] ∧ f.data = w.data ∧ f.h.key = w.h.key ∧
          f.h.tag = w.h.tag ∧ f.h.ep = BitVec.ofNat 7 (96 + z.xnet) ∧ f.h.vc = z.rvc ∧
          f.far = some { core := k, port := BitVec.ofNat 7 (48 + e.val), vc := z.rvc, mc := 0 } ∧
          ((x.egAt (48 + e.val)).chan ch).cells = (q.chan ch).cells.tail)) ∧
    (∀ g z, (s.core c).drainingStage? e = some (g, z) → z.twin = some k → s.oxRuns c = true → z.since < s.slot → q.rdeSent = false → q.pending = 0 → z.rtn = 0 →
      D (.rdeInject c e) (fun _ x => (x.egAt (48 + e.val)).rdeSent = true)) ∧
    (∀ w, q.rdeIn = some w → D (.rdeConsumed c e) (fun _ x => (x.egAt (48 + e.val)).holdOpen = q.holding.isSome ∧
      (x.egAt (48 + e.val)).holdAt = s.slot + 1 ∧ (x.egAt (48 + e.val)).rdeIn = none)) ∧
    (q.rdeIn = none → exec (.rdeConsumed c e) s = .next s) ∧
    (q.holdOpen = true → q.holdAt ≤ s.slot → q.frozen = none → q.hold = [] → q.flight = [] →
      D (.holdRelease c e) (fun _ x => (x.egAt (48 + e.val)).holding = none)) ∧
    (∀ z l ch, q.holdOld = true → q.holdAt ≤ s.slot → q.frozen = none → q.hold.filter (fun w => decide (w.m.since ≤ q.holdFrom)) = z :: l → z.h.rid = 0 →
      (s.core c).chanOf? (48 + e.val) z.h = some ch → ch < 4 →
      placeFor ((s.core c).classOf z) (8 - (s.core c).chanUsed (48 + e.val) ch) = true →
      D (.holdRelease c e) (fun _ x => (x.egAt (48 + e.val)).hold = q.hold.erase z ∧
        ((x.egAt (48 + e.val)).chan ch).cells.length = (q.chan ch).cells.length + 1)) ∧
    (∀ z h ch, q.holdOpen = true → q.holdOld = false → q.holdAt ≤ s.slot → q.frozen = none → q.hold = z :: h → z.h.rid = 0 →
      (s.core c).chanOf? (48 + e.val) z.h = some ch → ch < 4 →
      placeFor ((s.core c).classOf z) (8 - (s.core c).chanUsed (48 + e.val) ch) = true →
      D (.holdRelease c e) (fun _ x => (x.egAt (48 + e.val)).hold = h ∧ ((x.egAt (48 + e.val)).chan ch).cells.length = (q.chan ch).cells.length + 1)) ∧
    (s.oxRuns c = true → y.st = .split → y.twin = some k → y.und ≠ 0 → y.pin = false → y.unw ≤ y.unTimer → D (.underloadDetect c n) (fun z _ => z.st = .returning)) ∧
    (s.oxRuns c = true → y.st = .split → y.twin = some k → y.mergeP = true → D (.mergeStart c n) (fun z _ => z.st = .returning ∧ z.mergeP = false)) ∧
    (y.mergeP = false → exec (.mergeStart c n) s = .next s) ∧
    (∀ m, s.oxRuns c = true → y.st = .returning → y.twin = some k → k ≠ c → y.quietAt = some m → m < s.slot → s.quiescent c y = true →
      D (.twinQuiescent c n) (fun z _ => z.st = .merging)) ∧
    (y.st = .returning → y.quietAt = none ∨ s.quiescent c y = false → exec (.twinQuiescent c n) s = .next s) ∧
    (s.oxRuns c = true → y.st = .merging → y.twin = some k → k ≠ c → (∀ f ∈ y.elems, (s.core k).elems[f].ended = true) → y.rtn = 0 →
      D (.mergeDone c n) (fun z _ => z.st = .whole ∧ z.twin = none ∧ z.merges = y.merges + 1)) ∧
    (s.oxRuns c = false → exec (.overloadDetect c n) s = .next s ∧ exec (.underloadDetect c n) s = .next s ∧ exec (.mergeStart c n) s = .next s ∧
      exec (.cloneDone c n) s = .next s ∧ exec (.mergeDone c n) s = .next s) ∧
    D (.oxbowTagSet c) (fun _ x => (∀ z ∈ x.oxTags, z ∈ (s.core c).oxTags ∧ s.slot < z.1 + 2) ∧
      ∀ z ∈ (s.core c).oxTags, z.1 + 2 ≤ s.slot → x.tbNext.getLsbD z.2.toNat = true)

/-! ## Tasks and records -/

/-- LAUNCH at issue, and a thread's record at the queue: the answer in Gd, a TASKID or the reason; its footprints are read, checked and queued with it, and an
uncorrectable error in either traps (R258, R333, R345-R348). -/
def Sys2Proof.Claims.LaunchForms : Prop :=
  ∀ (s : State) (d a : BitVec 5) (c : CoreId) (k : Tid) (pa reason : Nat),
    let va := (s.me.rd a).toNat % 2 ^ 55
    (va % 128 ≠ 0 → Does (.launch d a) s (fun s t => TookTrap s t s.cur.1 s.cur.2 kALIGN (BitVec.ofNat 64 va) s.me.pc)) ∧
    (∀ p, va % 128 = 0 → s.translate s.cur.1 va .read = some p → Does (.launch d a) s (fun s t => Parked s t (.launch d p))) ∧
    (va % 128 = 0 → s.translate s.cur.1 va .read = none → Does (.launch d a) s (fun s t => Parked s t (.walk (BitVec.ofNat 55 va) .read))) ∧
    ((s.thr c k).st = .parked → (s.thr c k).pend = .launch d pa →
      let bs := s.ownBytes c pa 128
      let who : Submitter := .thread (s.tenantOf c) (s.thr c k).cm
      let r := recordOf bs (Sparse.get? s.owners (byteField bs 2 1))
      (s.hbmBad pa 128 = true → ∃ t, exec (.launchRecordQueued c k) s = .next t ∧
        TookTrap s t c k kECC (accessEval (pa / 64 * 64) .read) (s.thr c k).pc) ∧
      (s.hbmBad pa 128 = false → s.recordReason bs who = some reason → ∃ t, exec (.launchRecordQueued c k) s = .next t ∧ SameMem s t ∧
        t.nextTask = s.nextTask ∧ t.lq = s.lq ∧ Finished s t c k (fun th => th.wr d (launchAnswer (.error reason)))) ∧
      (s.hbmBad pa 128 = false → s.recordReason bs who = none → byteField bs 5 1 = 0 → 256 ≤ s.queueLen r.tenant →
        ∃ t, exec (.launchRecordQueued c k) s = .next t ∧ SameMem s t ∧ t.nextTask = s.nextTask ∧ t.lq = s.lq ∧
          Finished s t c k (fun th => th.wr d (launchAnswer (.error 7)))) ∧
      (s.hbmBad pa 128 = false → s.recordReason bs who = none → byteField bs 5 1 = 0 → s.queueLen r.tenant < 256 →
        ∃ t, exec (.launchRecordQueued c k) s = .next t ∧ SameMem s t ∧ t.nextTask = s.nextTask + 1 ∧
          (vget t.lq r.tenant.toNat {}).recs = (vget s.lq r.tenant.toNat {}).recs ++ [{ r with prints := [], id := s.nextTask }] ∧
          Finished s t c k (fun th => th.wr d (launchAnswer (.ok s.nextTask)))) ∧
      (s.hbmBad pa 128 = false → s.recordReason bs who = none →
        let array := (s.softHbm pa 128).readPrints c (byteField bs 48 8) (byteField bs 5 1)
        (∀ u, array = .error (.walk u) → ∃ t, exec (.launchRecordQueued c k) s = .next t ∧ t.hbm = u.hbm ∧ t.nextTask = u.nextTask ∧ t.lq = u.lq ∧
          Finished u t c k (fun th => th.wr d (launchAnswer (.error 6)))) ∧
        (∀ u p, array = .error (.bad u p) → ∃ t, exec (.launchRecordQueued c k) s = .next t ∧
          TookTrap u t c k kECC (accessEval (p / 64 * 64) .read) (u.thr c k).pc) ∧
        (∀ u fp, array = .ok (u, fp) → printsOf? fp (byteField bs 5 1) = none → ∃ t, exec (.launchRecordQueued c k) s = .next t ∧
          t.nextTask = u.nextTask ∧ t.lq = u.lq ∧ Finished u t c k (fun th => th.wr d (launchAnswer (.error 1)))) ∧
        (∀ u fp l, array = .ok (u, fp) → printsOf? fp (byteField bs 5 1) = some l → u.queueLen r.tenant < 256 →
          ∃ t, exec (.launchRecordQueued c k) s = .next t ∧ t.nextTask = u.nextTask + 1 ∧
            (vget t.lq r.tenant.toNat {}).recs = (vget u.lq r.tenant.toNat {}).recs ++ [{ r with prints := l, id := u.nextTask }] ∧
            Finished u t c k (fun th => th.wr d (launchAnswer (.ok u.nextTask))))))

/-- A LAUNCH that no walk and no error delays writes its answer: the new TASKID, or the reason of the first check that fails (R333, R347). Completion
is stated of LAUNCH. -/
def Sys2Proof.Claims.LaunchCompletes : Prop :=
  ∀ (s : State) (d a : BitVec 5) (pa reason : Nat),
    let va := (s.me.rd a).toNat % 2 ^ 55
    let bs := s.ownBytes s.cur.1 pa 128
    let check := s.recordReason bs (.thread (s.tenantOf s.cur.1) s.me.cm)
    let By (n : TaskId) (r : Except Nat TaskId) : Prop := DoesBy (.launch d a) (.launchRecordQueued s.cur.1 s.cur.2) s (fun s t => SameMem s t ∧
      t.nextTask = n ∧ Finished s t s.cur.1 s.cur.2 (fun th => th.wr d (launchAnswer r)))
    va % 128 = 0 → s.translate s.cur.1 va .read = some pa → s.hbmBad pa 128 = false →
      (check = some reason → By s.nextTask (.error reason)) ∧
      (check = none → byteField bs 5 1 = 0 → s.queueLen (recordOf bs none).tenant < 256 → By (s.nextTask + 1) (.ok s.nextTask))

/-- A task's life: the reservation, which the head that reached T_res first takes, for the placement with the most free cores, the first in the order
of R349 among equals; the start of a gang, its first issue, its watchdog, its stop and its end; and the posting of records
(R86, R104, R350, R353, R355, R356, R362). Completion is stated of LAUNCH_RESERVATION, GANG_START, FIRST_ISSUE, WDOG_EXPIRE, TASK_STOP, TASK_END and
FAULT_RECORD_POST. -/
def Sys2Proof.Claims.TaskLife : Prop :=
  ∀ (s : State) (id : TaskId) (t : Task) (c : CoreId) (rec_ : FaultRec),
    (s.resv = none → s.boot = .running → (∀ q : Fin 64, (s.lq[q]).recs = []) → exec .launchReservation s = .next s) ∧
    (∀ (q : Fin 64) r, s.resv = none → s.boot = .running → (s.lq[q]).recs.head? = some r → s.tres ≤ r.waited → r.waited < 2 ^ 64 → r.sets ≠ [] →
      (∀ l ∈ r.sets, l.length ≤ 64) →
      (∀ (p : Fin 64) w, (s.lq[p]).recs.head? = some w → s.tres ≤ w.waited → w.waited < r.waited ∨ w.waited = r.waited ∧ q ≤ p) →
      let free (l : List CoreId) : Nat := (l.filter (fun k => (s.core k).task.isNone)).length
      ∃ before l after, r.sets = before ++ l :: after ∧ (∀ m ∈ before, free m < free l) ∧ (∀ m ∈ after, free m ≤ free l) ∧
        exec .launchReservation s = .next { s with resv := some { queue := BitVec.ofNat 6 q.val, cores := l } }) ∧
    (∀ v r, s.boot = .running → s.resv = some v → (vget s.lq v.queue.toNat {}).head? = some r → s.edgesMet r = true →
      (∀ k ∈ v.cores, s.coreFree k = true) → ∃ u, exec .gangStart s = .next u ∧ u.resv = none ∧ u.tasks.length = s.tasks.length + 1 ∧
        ∃ z ∈ u.tasks, z.lrec = r ∧ z.cores = v.cores ∧ z.phase = .starting) ∧
    (∀ r l, s.boot = .running → s.resv = none → (vget s.lq s.lqPtr.val {}).head? = some r → s.mayStart? s.lqPtr.val r = some l →
      (vget s.lq s.lqPtr.val {}).fresh = false → r.cores ≤ (vget s.lq s.lqPtr.val {}).def_ → ∃ u, exec .gangStart s = .next u ∧
        u.tasks.length = s.tasks.length + 1 ∧ u.lqPtr = s.lqPtr ∧ ∃ z ∈ u.tasks, z.lrec = r ∧ z.cores = l ∧ z.phase = .starting) ∧
    (∀ r, s.boot = .running → s.resv = none → (vget s.lq s.lqPtr.val {}).head? = some r → s.mayStart? s.lqPtr.val r = none →
      ∃ u, exec .gangStart s = .next u ∧ u.tasks = s.tasks ∧ u.lqPtr = s.lqPtr + 1 ∧ u.cores = s.cores) ∧
    (s.taskById id = some t → t.phase = .starting → t.startAt < s.slot → t.lrec.image = 0 →
      ∃ u z, exec (.firstIssue id) s = .next u ∧ SameMem s u ∧ u.taskById id = some z ∧ z.phase = .running ∧ z.first = some (s.slot + 1) ∧
        ∀ k ∈ t.cores, ∀ i : Tid, (u.thr k i) = t.lrec.thread i (s.slot + 1)) ∧
    (s.taskById id = some t → t.phase = .running → t.wdog = 0 → ∃ u z, exec (.wdogExpire id) s = .next u ∧ SameMem s u ∧
      u.taskById id = some z ∧ z.phase = .stopping kWDOG s.slot) ∧
    (s.taskById id = some t → t.wdog ≠ 0 → exec (.wdogExpire id) s = .next s) ∧
    (s.taskById id = some t → t.cores = [c] → ∀ kd n, t.phase = .stopping kd n → n < s.slot → ∃ u, exec (.taskStop id) s = .next u ∧
      (u.core c).faults = [] ∧ (∀ i : Tid, (u.thr c i).st = .idle) ∧ ∀ p : PortId, ((u.core c).ingAt p.val).buf = []) ∧
    (s.taskById id = some t → ∀ kd n, t.phase = .stopping kd n → s.slot ≤ n → exec (.taskStop id) s = .next s) ∧
    (s.taskById id = some t → t.phase = .running → (∃ k ∈ t.cores, (s.core k).workDone = false) → exec (.taskEnd id) s = .next s) ∧
    (s.taskById id = some t → t.phase = .ending → (∀ k ∈ t.cores, (s.core k).writesDone = true) → ∃ u, exec (.taskEnd id) s = .next u ∧
      SameMem s u ∧ (∀ k ∈ t.cores, (u.core k).task = none) ∧ (∀ z ∈ u.tasks, z.lrec.id ≠ id) ∧ u.outbox.length = s.outbox.length + 1) ∧
    ((s.core c).dueRecord? s.slot = some rec_ → ∃ u, exec (.faultRecordPost c) s = .next u ∧ (u.core c).faults = (s.core c).faults.erase rec_) ∧
    ((s.core c).dueRecord? s.slot = none → exec (.faultRecordPost c) s = .next s) ∧
    (∀ base, (s.core c).dueRecord? s.slot = some rec_ → rec_.toFw = false → s.taskOf c = some t → t.phase = .running → t.lrec.fring = some base →
      (s.core c).controller? ≠ none →
      let a := ringPlace c base (s.core c).ringNext
      poolBank a < 48 →
      (s.ringFull c a = false → ∃ u, exec (.faultRecordPost c) s = .next u ∧ SameMem s u ∧ u.outbox = s.outbox ∧ (u.core c).ringNext = (s.core c).ringNext + 1 ∧
        ((u.core c).bankAt (poolBank a)).sys = ((s.core c).bankAt (poolBank a)).sys ++ [{ addr := a, bytes := s.recordBytes rec_, ring := true }]) ∧
      (s.ringFull c a = true → ∃ u, exec (.faultRecordPost c) s = .next u ∧ SameMem s u ∧ u.outbox.length = s.outbox.length + 1 ∧
        (u.core c).ringNext = (s.core c).ringNext))

/-! ## Hosts, peers, the debug port, the module -/

/-- Host messages: a READ, a WRITE and a SUBMIT by a host that the tenant is not bound to change no memory and are answered; a WRITE whose
pages are mapped stores its payload and is acknowledged; TIME, DEBUG and attestation, where the host's port is free (R14, R352, R365, R366, R369, R370, R372). -/
def Sys2Proof.Claims.HostMessages : Prop :=
  ∀ (s : State) (h : Ipv6) (m : Datagram) (ppm : Int) (nonce : BitVec 256) (ten : Tenant),
    let body := dgBody m
    let Sent (t : State) : Prop := t.outbox.length = s.outbox.length + 1
    s.boot = .running → dgOk m = true → ten = m.ten.setWidth 6 → s.hostInFree h = true → s.hostOutFree h = true →
    (m.type = 1 → s.owns h ten = false → ∃ t, exec (.sluiceRead h m) s = .next t ∧ SameMem s t ∧ Sent t) ∧
    (∀ u bs, m.type = 1 → s.owns h ten = true → s.tenantRead ten m.pos.toNat (numOf body) (numOf body / 2 ^ 16 + 2) = .ok (u, bs) →
      ∃ t l, exec (.sluiceRead h m) s = .next t ∧ t.hbm = u.hbm ∧ t.pool = u.pool ∧ t.outbox = u.outbox ++ l ∧ l.flatMap (fun o => o.d.payload) = bs ∧
        ∀ o ∈ l, o.dest = .host h ∧ o.d.type = 1 ∧ o.d.payload.length ≤ maxPayload) ∧
    (∀ u code, m.type = 1 → s.owns h ten = true → s.tenantRead ten m.pos.toNat (numOf body) (numOf body / 2 ^ 16 + 2) = .error (some (u, code)) →
      ∃ t, exec (.sluiceRead h m) s = .next t ∧ t.hbm = u.hbm ∧ t.pool = u.pool ∧ t.outbox.length = u.outbox.length + 1) ∧
    (m.type = 2 → s.owns h ten = false → ∃ t, exec (.sluiceWrite h m) s = .next t ∧ SameMem s t ∧ Sent t) ∧
    (∀ u l, m.type = 2 → s.owns h ten = true → s.tenantPieces ten m.pos.toNat body.length (body.length / 2 ^ 16 + 2) = .ok (u, l) →
      ∃ t, exec (.sluiceWrite h m) s = .next t ∧ t.hbm = (u.writePieces l body).hbm ∧ t.outbox.length = u.outbox.length + 1) ∧
    (m.type = 3 → s.owns h ten = false → ∃ t, exec (.submitLaunch h m) s = .next t ∧ SameMem s t ∧ Sent t ∧ t.lq = s.lq) ∧
    (∀ k, m.type = 3 → s.owns h ten = true → s.recordReason (body.take 128) (.host h) = some k →
      ∃ t, exec (.submitLaunch h m) s = .next t ∧ SameMem s t ∧ Sent t ∧ t.nextTask = s.nextTask ∧ t.lq = s.lq) ∧
    (m.type = 3 → s.owns h ten = true → s.recordReason (body.take 128) (.host h) = none → byteField (body.take 128) 5 1 = 0 →
      let r := recordOf (body.take 128) (some h)
      s.queueLen r.tenant < 256 → ∃ t, exec (.submitLaunch h m) s = .next t ∧ SameMem s t ∧ Sent t ∧ t.nextTask = s.nextTask + 1 ∧
        (vget t.lq r.tenant.toNat {}).recs = (vget s.lq r.tenant.toNat {}).recs ++ [{ r with prints := [], id := s.nextTask }]) ∧
    (m.type = 4 → s.owns h ten = false → ∃ t, exec (.submitGraph h m) s = .next t ∧ SameMem s t ∧ Sent t) ∧
    (∀ u vas w rs, m.type = 4 → s.owns h ten = true → s.graphVas ten m.pos.toNat = .ok (u, vas) → u.graphRecords h ten vas = .ok (w, rs) →
      w.queueLen ten + rs.length ≤ 256 → (∀ r ∈ rs, r.tenant = ten) → ∃ t, exec (.submitGraph h m) s = .next t ∧ t.outbox.length = w.outbox.length + 1) ∧
    (m.type = 6 → s.owns h ten = true → exec (.timeMessage h m ppm) s =
      .next (({ s with slew := max (-500) (min 500 ppm) } : State).hostInUsed h m.payload.length)) ∧
    (m.type = 6 → s.owns h ten = false → ∃ t, exec (.timeMessage h m ppm) s = .next t ∧ SameMem s t ∧ Sent t ∧ t.slew = s.slew) ∧
    (m.type = 11 → m.len = 0 → m.pos = 0 → s.owns h ten = true → ∃ t, exec (.debugRequest h m) s = .next t ∧ SameMem s t ∧ (ten, h) ∈ t.debugReq ∧
      Sent t) ∧
    (m.type = 11 → m.len = 0 → m.pos = 1 → s.owns h ten = true → ∃ t, exec (.debugRequest h m) s = .next t ∧ SameMem s t ∧ (ten, h) ∉ t.debugReq ∧
      Sent t) ∧
    (m.type = 11 → s.owns h ten = false → ∃ t u, exec (.debugRequest h m) s = .next t ∧ t.debugReq = s.debugReq ∧
      exec (.debugHostCommand h m) s = .next u ∧ u.cores = s.cores) ∧
    (∀ z, m.type = 11 → m.len ≠ 0 → m.pos.toNat < 64 → s.taskOf (Fin.ofNat 64 m.pos.toNat) = some z → s.owns h ten = true →
      s.owns h z.lrec.tenant = true → z.cores.contains (uidCore (byteField body 0 4)) = true → ∃ t, exec (.debugHostCommand h m) s = .next t ∧ SameMem s t ∧
        ((t.core (Fin.ofNat 64 m.pos.toNat)).ingAt 122).obuf.length = ((s.core (Fin.ofNat 64 m.pos.toNat)).ingAt 122).obuf.length + 1) ∧
    (let report := bytesOf 32 nonce.toNat ++ s.attest.modules.flatMap (fun d => bytesOf 32 d.toNat) ++ bytesOf 4 s.attest.fuse.toNat ++
        bytesOf 32 (Config.repairDigest s.repair).toNat
      ∃ t l, exec (.attestationRead h nonce) s = .next t ∧ SameMem s t ∧ t.outbox = s.outbox ++ l ∧ l ≠ [] ∧
        l.flatMap (fun o => o.d.payload) = report ++ bytesOf 64 (Config.sm2Sign report).toNat ∧ ∀ o ∈ l, o.dest = .host h ∧ o.d.payload.length ≤ maxPayload)

/-- A datagram that breaks the header's rules is discarded and counted, and a frame that is not for the module; TIME follows a PTP master at any port
(R364, R365, R370). A message of a host whose port still carries an earlier one waits (R14). -/
def Sys2Proof.Claims.DiscardedTraffic : Prop :=
  ∀ (s : State) (h : Ipv6) (m : Datagram) (link : LinkId) (port : EthPort) (ppm : Int) (nonce : BitVec 256),
    let Drop (i : Instr) : Prop := exec i s = .next { s with discards := { s.discards with datagrams := s.discards.datagrams + 1 } }
    (dgOk m = false → Drop (.datagramDiscard m) ∧ Drop (.sluiceRead h m) ∧ Drop (.sluiceWrite h m) ∧ Drop (.submitLaunch h m) ∧
      Drop (.submitGraph h m) ∧ Drop (.timeMessage h m ppm) ∧ Drop (.roundData link m) ∧ Drop (.commitMsg link m) ∧ Drop (.voidMsg link m) ∧
      Drop (.ackMsg link m) ∧ Drop (.debugRequest h m) ∧ Drop (.debugHostCommand h m)) ∧
    (dgOk m = true → exec (.datagramDiscard m) s = .next s) ∧
    (s.boot = .running → dgOk m = true → s.hostInFree h = false → (m.type = 1 → exec (.sluiceRead h m) s = .next s) ∧
      (m.type = 2 → exec (.sluiceWrite h m) s = .next s) ∧ (m.type = 3 → exec (.submitLaunch h m) s = .next s) ∧
      (m.type = 4 → exec (.submitGraph h m) s = .next s) ∧ (m.type = 6 → exec (.timeMessage h m ppm) s = .next s) ∧
      exec (.attestationRead h nonce) s = .next s) ∧
    (port.val < 26 → exec (.frameDiscard port .pause) s = .next { s with discards := { s.discards with frames := s.discards.frames + 1 } }) ∧
    exec (.frameDiscard port .ipv6) s = .next s ∧
    (s.boot ≠ .off → exec (.frameDiscard port (.ptp ppm)) s = .next { s with slew := max (-500) (min 500 ppm) })

/-- Peer edges: a cell is sent as a round datagram, one a slot on the link; the cells of a received one enter the receive buffer and land in order, one a
slot; SEQ counts per queue of a link; a whole round is committed; a round of a receiver that lost its way is voided, all of it that has come, and nothing of it is taken
until its sender begins it again, as its VOID tells; an answer moves the sender; a round that stays unanswered for 2^20 slots is sent again
(R14, R230-R232, R365-R368). -/
def Sys2Proof.Claims.PeerRounds : Prop :=
  ∀ (s : State) (c : CoreId) (k : StrmId) (e : Edge) (link : LinkId) (m : Datagram),
    let y := (s.core c).strms[k]
    (s.core c).edge? k = some e →
    (∀ cell rest v q u pa, y.st = .running → y.cancel = false → e.send = true → e.again = [] → e.outq = cell :: rest →
      (s.core c).storerReady y.storer s.slot = true → s.memWf = true → s.peerQueue? (s.tenantOf c) = some q → s.linkOutFree q.link = true →
      s.pathsFree true (s.strmPlaces c k (e.place e.sent) .write) = true → s.edgeQuant? c e.qs cell = some v →
      s.strmTouch c k (e.place e.sent) .write = .ok u pa →
      ∃ t e', exec (.peerCellSend c k) s = .next t ∧ (t.core c).edge? k = some e' ∧ e'.sent = e.sent + 1 ∧ e'.outq = rest ∧
        (∃ o, t.outbox = s.outbox ++ [o] ∧ o.d.seq = BitVec.ofNat 64 (vget s.txSeq q.at_ 0)) ∧ vget t.txSeq q.at_ 0 = vget s.txSeq q.at_ 0 + 1 ∧
        t.linkOutFree q.link = false ∧ t.pool = s.pool ∧ BitVec.ofNat 2048 (Memory.readN t.hbm pa 256) = v.data ∧
        ∀ a, ¬(pa ≤ a ∧ a < pa + 256) → Memory.get t.hbm a = Memory.get u.hbm a) ∧
    (∀ q, y.st = .running → y.cancel = false → e.send = true → e.again ≠ [] ∨ e.outq ≠ [] → s.peerQueue? (s.tenantOf c) = some q →
      s.linkOutFree q.link = false → exec (.peerCellSend c k) s = .next s) ∧
    (∀ r, e.send = true → y.live = true → e.overdue? s.slot = some r →
      ∃ u, exec (.roundTimeout c k) s = .next u ∧ SameMem s u ∧ (u.core c).edge? k = some (e.rewind r) ∧
        ∀ q, s.peerQueue? (s.tenantOf c) = some q → u.outbox.length = s.outbox.length + 1) ∧
    (e.overdue? s.slot = none → exec (.roundTimeout c k) s = .next s) ∧
    (∀ r, e.overdue? s.slot = some r → ∃ n, (r, n) ∈ e.sentAt ∧ n + 2 ^ 20 ≤ s.slot) ∧
    (y.live = true → e.send = false → e.row = 0 → e.landed ≠ [] ∨ e.rxq ≠ [] → ∃ u e', exec (.roundVoid c k) s = .next u ∧ SameMem s u ∧
      (u.core c).edge? k = some e' ∧ Sparse.getD e'.voids e.committed 0 = Sparse.getD e.voids e.committed 0 + 1 ∧ e'.row = 0 ∧
        e'.committed = e.committed ∧ (u.core c).faults.length = (s.core c).faults.length + 1 ∧ (∀ z ∈ e'.landed, z.1 / e.n ≠ e.committed) ∧
        (∀ z ∈ e'.rxq, z.round ≠ e.committed) ∧ e.committed ∈ e'.await) ∧
    (∀ z rest u, y.st = .running → e.send = false → y.cancel = false → e.rxq = z :: rest → s.canLand c k e = true →
      let n := e.first z.round + e.landedOf z.round
      s.edgeWrite c k (e.place n) (bytesOf 256 z.data.toNat) = .ok u →
      ∃ t, exec (.roundCommit c k) s = .next t ∧ t.hbm = u.hbm ∧ t.pool = u.pool ∧ t.linkInFree z.link = false ∧
        (t.core c).edge? k = some { e with landed := Sparse.set e.landed n (z.head, z.data), rxq := rest }) ∧
    (let at_ := e.first e.committed + e.row
     y.st = .running → e.send = false → y.cancel = false → s.canLand c k e = false → (s.core c).loaderFree y.loader s.slot = true →
      (s.core c).storerReady y.storer s.slot = true → e.whole e.committed = true →
      (∀ u pa h p w, e.row < e.roundLen e.committed → s.strmTouch c k (e.place at_) .read = .ok u pa → u.hbmBad pa 256 = false →
        Sparse.get? e.landed at_ = some (h, p) →
        let u' := u.softHbm pa 256
        let row := e.rowWrites at_ h (BitVec.ofNat 2048 (Memory.readN u.hbm pa 256))
        u.pathsFree false [pa] = true → u'.pathsFree true (row.flatMap (fun w => u'.strmPlaces c k w.1 .write)) = true →
        u'.edgeWrites c k row = .ok w →
        ∃ t, exec (.roundCommit c k) s = .next t ∧ t.hbm = w.hbm ∧ t.outbox = w.outbox ∧ (t.core c).edge? k = some { e with row := e.row + 1 }) ∧
      (∀ u q, e.roundLen e.committed ≤ e.row → s.pathsFree true (s.strmPlaces c k e.clog .write) = true →
        s.edgeWrite c k e.clog (bytesOf 8 (e.committed + 1)) = .ok u → u.peerQueue? (u.tenantOf c) = some q →
        ∃ t e', exec (.roundCommit c k) s = .next t ∧ t.outbox.length = u.outbox.length + 1 ∧ (t.core c).edge? k = some e' ∧
          e'.committed = e.committed + 1 ∧ e'.row = 0 ∧ t.hbm = u.hbm ∧ t.pool = u.pool)) ∧
    (let r := m.pos.toNat
     let senders := s.endsOf (m.ten.setWidth 6) m.edge true
     let receivers := s.endsOf (m.ten.setWidth 6) m.edge false
     dgOk m = true →
      (m.type = 10 → ∃ t, exec (.ackMsg link m) s = .next t ∧ SameMem s t ∧ t.cores = s.cores) ∧
      (∀ q, s.rxQueue? link m = some q →
        (m.type = 8 → vget s.rxSeq q.at_ 0 = m.seq.toNat → senders = [(c, k)] → e.committed ≤ r → e.first r + e.roundLen r ≤ e.sent →
          ∃ t e', exec (.commitMsg link m) s = .next t ∧ SameMem s t ∧ (t.core c).edge? k = some e' ∧ e'.committed = r + 1 ∧
            vget t.rxSeq q.at_ 0 = m.seq.toNat + 1) ∧
        (m.type = 8 → vget s.rxSeq q.at_ 0 ≠ m.seq.toNat → senders = [(c, k)] → e.committed ≤ r →
          ∃ t, exec (.commitMsg link m) s = .next t ∧ SameMem s t ∧ (t.core c).edge? k = some (e.rewind r)) ∧
        (m.type = 9 → vget s.rxSeq q.at_ 0 = m.seq.toNat → senders = [(c, k)] → receivers = [] → e.committed ≤ r →
          ∃ t, exec (.voidMsg link m) s = .next t ∧ SameMem s t ∧ (t.core c).edge? k = some (e.rewind r)) ∧
        (m.type = 9 → vget s.rxSeq q.at_ 0 = m.seq.toNat → senders = [] → receivers = [(c, k)] → e.committed ≤ r →
          ∃ t, exec (.voidMsg link m) s = .next t ∧ SameMem s t ∧ (t.core c).edge? k = some
            (if e.await.contains r then { e with await := e.await.filter (fun z => z != r) } else e.restart r)) ∧
        (m.type = 7 → (receivers ++ s.endsWith (m.ten.setWidth 6) m.edge false false).head? = some (c, k) →
          (r < e.committed → ∃ t, exec (.roundData link m) s = .next t ∧ SameMem s t ∧ t.outbox.length = s.outbox.length + 1 ∧
            (t.core c).edge? k = some e) ∧
          (e.committed ≤ r → vget s.rxSeq q.at_ 0 ≠ m.seq.toNat → ∃ t, exec (.roundData link m) s = .next t ∧ SameMem s t ∧
            (t.core c).edge? k = some (e.discard r)) ∧
          (e.committed ≤ r → vget s.rxSeq q.at_ 0 = m.seq.toNat → e.committed + 2 ≤ r ∨ e.await.contains r = true → ∃ t, exec (.roundData link m) s = .next t ∧
            SameMem s t ∧ (t.core c).edge? k = some e ∧ t.discards.datagrams = s.discards.datagrams + 1) ∧
          (e.committed ≤ r → r < e.committed + 2 → vget s.rxSeq q.at_ 0 = m.seq.toNat → y.live = true → y.cancel = false → e.await.contains r = false →
            let e1 := e.receive r link (cellsOfBytes (dgBody m) 32)
            let s1 := (s.rxNext q m).modCore c (fun x => x.setEdge k e1)
            (y.st ≠ .running ∨ s1.canLand c k e1 = false → exec (.roundData link m) s = .next s1) ∧
            (∀ z rest u, y.st = .running → s1.canLand c k e1 = true → e1.rxq = z :: rest →
              let n := e1.first z.round + e1.landedOf z.round
              s1.edgeWrite c k (e1.place n) (bytesOf 256 z.data.toNat) = .ok u →
              ∃ t, exec (.roundData link m) s = .next t ∧ t.hbm = u.hbm ∧ t.linkInFree z.link = false ∧
                (t.core c).edge? k = some { e1 with landed := Sparse.set e1.landed n (z.head, z.data), rxq := rest }))) ∧
      (m.type = 7 → s.rxQueue? link m = none → receivers.head? = some (c, k) → y.st = .running → ∃ t, exec (.roundData link m) s = .next t ∧
        SameMem s t ∧ ((t.core c).strms[k]).st = .frozen ∧ ((t.core c).strms[k]).fault = some (kPEER, 0))))

/-- The debug port: a command's write to an element, its table, the trace enable or STATUS.BE is held for the end of its slot, what it wrote before stands
until then, and the head leaves DBG, when the firmware's checks hold; a command that they refuse only counts; its tag sets in either case (R369, R379,
R380). -/
def Sys2Proof.Claims.DebugPort : Prop :=
  ∀ (s : State) (c : CoreId) (y : Cell),
    let k := dbgCmd y
    let R (ev : Instr) (P : State → Prop) : Prop := ∃ t, exec ev s = .next t ∧ SameMem s t ∧ P t ∧
      ((t.core c).egAt 123 |>.chan 0).cells = ((s.core c).egAt 123 |>.chan 0).cells.tail ∧
      (t.core c).tbSoon = (if k.tagf / 64 % 2 = 1 then (s.core c).tbSoon ||| (1#64 <<< (BitVec.ofNat 6 k.tagf).toNat) else (s.core c).tbSoon)
    let El (ev : Instr) : Prop := R ev (fun t => (t.core c).elems = (s.core c).elems ∧
      (t.core c).late = (s.core c).late ++ [.elem k.elem k.tgt k.off k.data])
    let No (ev : Instr) : Prop := R ev (fun t => (t.core c).dbgRefused = (s.core c).dbgRefused + 1 ∧ (t.core c).elems = (s.core c).elems ∧
      (t.core c).late = (s.core c).late)
    (s.core c).dbgHead? s.slot = some y → y.h.tag = tCTRL →
    (s.dbgRefuses c k = true → (k.tgt = 0 ∨ 15 ≤ k.tgt → No (.dbgWriteSt c)) ∧ (1 ≤ k.tgt → k.tgt ≤ 4 → No (.dbgWriteD c)) ∧
      (8 ≤ k.tgt → k.tgt ≤ 11 → No (.dbgWriteHead c)) ∧ (k.tgt = 12 → No (.dbgWriteTable c))) ∧
    (s.dbgRefuses c k = false →
      (k.tgt = 0 → El (.dbgWriteSt c)) ∧ (1 ≤ k.tgt → k.tgt ≤ 4 → El (.dbgWriteD c)) ∧ (k.tgt = 5 → El (.dbgWriteSf c)) ∧
      (k.tgt = 6 → El (.dbgWriteP c)) ∧ (k.tgt = 7 → El (.dbgWriteEsr c)) ∧ (8 ≤ k.tgt → k.tgt ≤ 11 → El (.dbgWriteHead c)) ∧
      (∀ b, k.tgt = 12 → (s.core c).activeSlot? = some b → R (.dbgWriteTable c) (fun t => (t.core c).slots = (s.core c).slots ∧
        (t.core c).late = (s.core c).late ++
          [.table b k.elem (k.off / 8) ((List.range (k.cnt / 8)).map (fun i => BitVec.ofNat 64 (byteField k.data (8 * i) 8)))])) ∧
      (k.tgt = 13 → R (.dbgTraceEnable c) (fun t => (t.core c).trace = (s.core c).trace ∧
        (t.core c).late = (s.core c).late ++ [.trace (decide (numOf k.data % 2 = 1))])) ∧
      (k.tgt = 14 → R (.dbgSetBe c) (fun t => (∀ i, t.thr c i = s.thr c i) ∧
        (t.core c).late = (s.core c).late ++ [.be (Fin.ofNat 16 (uidIndex k.unit)) (decide (numOf k.data % 2 = 1))]))) ∧
    exec (.debugOutput c) s = .next s

/-- What the debug port writes to an element, at the end of the command's slot: ST and P whole, and in a D register, in SF0-SF3, in ESR and in the head of
a channel the written bytes and no other; a head that left in the slot is written no more; no other element changes, and no memory (R122, R379,
R380). -/
def Sys2Proof.Claims.DebugWrites : Prop :=
  ∀ (s : State) (c : CoreId) (e : ElemId) (tgt off : Nat) (l : List Byte),
    let x := s.core c
    let t := s.applyLate c
    let y := t.core c
    let a := x.elems[e]
    let z := y.elems[e]
    let Bytes (n old new : Nat) : Prop := ∀ i, i < n → new / 256 ^ i % 256 =
      if off ≤ i ∧ i < off + l.length then (l.getD (i - off) 0).toNat else old / 256 ^ i % 256
    x.late = [.elem e tgt off l] → SameMem s t ∧
    (∀ j : ElemId, j ≠ e → y.elems[j] = x.elems[j]) ∧ (tgt < 8 → y.eg = x.eg) ∧
    (tgt = 0 → z = { a with st := BitVec.ofNat 6 (numOf l) }) ∧ (tgt = 6 → z = { a with p := BitVec.ofNat 2 (numOf l) }) ∧
    (∀ n : Fin 4, tgt = 1 + n.val → Bytes 256 a.d[n].data.toNat z.d[n].data.toNat ∧ z.d[n].fmt = a.d[n].fmt ∧ z.d[n].key = a.d[n].key ∧
      ∀ m : Fin 4, m ≠ n → z.d[m] = a.d[m]) ∧
    (tgt = 5 → Bytes 8 a.keys.toNat z.keys.toNat ∧ ∀ n : Fin 4, z.d[n].data = a.d[n].data ∧ z.d[n].fmt = a.d[n].fmt) ∧
    (tgt = 7 → off = 0 → l.length = 4 → z = { a with esr := BitVec.ofNat 32 (numOf l) &&& 0xEC7F }) ∧
    (∀ n, tgt = 8 + n → n < 4 → y.elems = x.elems ∧ (((x.egAt (48 + e.val)).chan n).moved = true → y = { x with late := [] }) ∧
      ∀ h r, ((x.egAt (48 + e.val)).chan n).moved = false → ((x.egAt (48 + e.val)).chan n).cells = h :: r →
        ∃ h', ((y.egAt (48 + e.val)).chan n).cells = h' :: r ∧ h'.h = h.h ∧ Bytes 256 h.data.toNat h'.data.toNat)

/-- What leaves at DBG: a cell of a class other than CTRL goes to the tenant's host when it asked for debug output, else it is counted
(R339, R369). -/
def Sys2Proof.Claims.DebugOutput : Prop :=
  ∀ (s : State) (c : CoreId) (y : Cell) (h : Ipv6),
    (s.core c).dbgHead? s.slot = some y → y.h.tag = tDATA → Sparse.get? s.owners (s.tenantOf c).toNat = some h →
    (s.debugReq.contains (s.tenantOf c, h) = true → ∃ t, exec (.debugOutput c) s = .next t ∧ SameMem s t ∧ t.outbox.length = s.outbox.length + 1) ∧
    (s.debugReq.contains (s.tenantOf c, h) = false → ∃ t, exec (.debugOutput c) s = .next t ∧ SameMem s t ∧ t.outbox = s.outbox ∧
      t.discards.debugCells = s.discards.debugCells + 1)

/-- The module: a temperature reading, one in 2^20 slots, moves the throttle level by one within 0-8 and then posts THERM; the trip stops every bucket,
which then gains nothing, and clears below 100 degrees; module reset, firmware settings within their limits, boot, module loads, spares, and the loss of a
link (R371, R373-R376, R393). -/
def Sys2Proof.Claims.ModuleEvents : Prop :=
  ∀ (s : State) (t0 t1 t2 t3 : Nat) (q : Tenant) (w : BitVec 8) (n : Nat) (c : CoreId) (image : List Byte) (link : LinkId) (l : Fin 8),
    let hot := max (max t0 t1) (max t2 t3)
    let read : State := { s with thermAt := s.slot + 2 ^ 20 }
    let R (i : Instr) (P : State → Prop) : Prop := ∃ t, exec i s = .next t ∧ SameMem s t ∧ P t
    (s.slot < s.thermAt → exec (.thermalReading t0 t1 t2 t3) s = .next s) ∧
    (s.thermAt ≤ s.slot →
      (16 * s.alert ≤ hot → s.throttle.val < 8 → R (.thermalReading t0 t1 t2 t3) (fun t => t.throttleNext.map Fin.val = some (s.throttle.val + 1) ∧
        t.throttle = s.throttle ∧ t.outbox.length = s.outbox.length + 1 ∧ t.thermAt = s.slot + 2 ^ 20)) ∧
      (16 * s.alert ≤ hot → s.throttle.val = 8 → exec (.thermalReading t0 t1 t2 t3) s = .next read) ∧
      (hot + 80 ≤ 16 * s.alert → 0 < s.throttle.val → R (.thermalReading t0 t1 t2 t3) (fun t => t.throttleNext.map Fin.val = some (s.throttle.val - 1) ∧
        t.throttle = s.throttle ∧ t.outbox.length = s.outbox.length + 1 ∧ t.thermAt = s.slot + 2 ^ 20)) ∧
      (hot + 80 ≤ 16 * s.alert → s.throttle.val = 0 → exec (.thermalReading t0 t1 t2 t3) s = .next read) ∧
      (hot < 16 * s.alert → 16 * s.alert < hot + 80 → exec (.thermalReading t0 t1 t2 t3) s = .next read)) ∧
    (∀ v, s.throttleNext = some v → s.throttleTick.throttle = v ∧ s.throttleTick.throttleNext = none) ∧
    (1680 ≤ n → exec (.thermalTrip n) s = .next { s with tripped := true }) ∧
    (n < 1600 → exec (.thermalTripClear n) s = .next { s with tripped := false }) ∧
    (∀ (b : Bucket) (z : Nat), (b.gain z true).level = min (b.depth * 1024) b.level ∧ (b.gain z true).rate = b.rate ∧
      (b.gain z false).level = min (b.depth * 1024) (b.level + b.rate * (16 - z) / 16)) ∧
    R .moduleReset (fun t => (∀ q : Fin 64, t.weights[q] = 1) ∧ t.tres = 2 ^ 32 ∧ t.alert = 95 ∧ t.ctlRights = [] ∧ t.owners = [] ∧
      (∀ k : CoreId, (t.core k).agelim = 256) ∧ (∀ (k : CoreId) (p : PortId) (rate depth : Nat), bucketCeiling p.val = some (rate, depth) →
        ((t.core k).ingAt p.val).bucket = { rate := rate, depth := depth, level := depth * 1024 })) ∧
    R (.firmwarePolicySet (.alert n)) (fun t => t.alert = min n 95) ∧ R (.firmwarePolicySet (.tres n)) (fun t => t.tres = min n (2 ^ 32)) ∧
    R (.firmwarePolicySet (.weight q w)) (fun t => vget t.weights q.toNat 0 = if w = 0 then 1 else w) ∧
    (∀ i, s.boot = .off → bootImage? = some i → R .powerOnBoot (fun t => t.boot = .running ∧ t.attest.modules = [Config.sm3 i] ∧
      t.attest.fuse = Config.fuseVersion)) ∧
    (s.boot = .off → bootImage? = none → R .powerOnBoot (fun t => t.boot = .recovery)) ∧
    (s.boot ≠ .off → exec .powerOnBoot s = .next s) ∧
    (s.boot = .running → R (.firmwareModuleLoad image) (fun t => Config.sm2Verify image = true →
      t.attest.modules = s.attest.modules ++ [Config.sm3 image])) ∧
    (s.coreFree c = true → s.repair = [] → R (.spareBringIn (.core c)) (fun t => t.repair = [(.core c, 0)] ∧ (t.core c).prevTenant = none)) ∧
    (s.coreFree c = false → exec (.spareBringIn (.core c)) s = .next s) ∧ R (.linkLoss link) (fun t => t.tasks = s.tasks ∧ t.boot = s.boot)

/-! ## Statements of several parts -/

/-- A step runs exec of the decoded word, of the selected entry, or of the event that the schedule names (R25, R59, R76, R77, R89, R91, R120, R355, R356).
The model's own choice, and no rule of the spec: that a slot's acts are the events of an agenda held as data, one a step (log entry 1, DESIGN CHOICE);
the line of 64 bytes of the instruction cache (log entry 11, PRESUMED); that a unit may act in the slot after its RESUME (log entry 67, DEDUCED). -/
def Obligations.StepRunsDecoded : Prop := Claims.StepIssuesDecoded ∧ Claims.StepIllegalWord ∧ Claims.StepIssuesInPlace ∧ Claims.StepFiresEntry ∧ Claims.StepRunsEvent

/-- An empty agenda ends the slot, and no step refuses (the schedule as data is the model's own, log entry 1) (spec/01_machine.md, R394). The model's own
choice, and no rule of the spec: the agenda that an empty list ends, and the schedule as data (log entry 1, DESIGN CHOICE). -/
def Obligations.StepAnswers : Prop := Claims.StepEndsSlot ∧ Claims.StepNeverRefuses

/-- The one-clock ALU forms: their results and what they leave (R92, R93). -/
def Obligations.AluForms : Prop := Claims.AluResults ∧ Claims.BitCounts

/-- The multiplications, and the end of a BUSY count (R92, R93). -/
def Obligations.BusyForms : Prop := Claims.MulResults ∧ Claims.BusyEnds

/-- The divisions: quotient toward zero, remainder with the dividend's sign, the two fixed cases and the clocks (R92, R94). -/
def Obligations.DivResults : Prop := Claims.Quotients ∧ Claims.DivCompletes

/-- TRAP, BRK, ERET and the illegal word (R59, R60, R83, R103, R105, R106, R107). -/
def Obligations.TrapForms : Prop := Claims.TrapWords ∧ Claims.Eret ∧ Claims.IllegalWord

/-- WFE, the fences, YIELD and SETROLE, and the end of a fence (R109, R110, R250, R333). -/
def Obligations.SystemForms : Prop := Claims.WaitForms ∧ Claims.FenceEnds ∧ Claims.FencesComplete

/-- MTS and an event's own write of a special register (R4, R60, R63, R82, R84, R85, R86, R90, R111, R188). The model's own choice, and no rule of the
spec: the bits of EVAL that a controller thread can write, mask 0x037FFFFFFFFFFFFF (log entry 25, DEDUCED); the step of TIME that a write leaves for
the slot's end (log entry 4, DESIGN CHOICE). -/
def Obligations.WriteSpecial : Prop := Claims.WriteRegisters ∧ Claims.WriteWindows ∧ Claims.RegisterEvent

/-- Line fills of the two caches, and the prefetches (R91, R236, R245, R249, R258). The model's own choice, and no rule of the spec: the line of 64 bytes
of the instruction cache (log entry 11, PRESUMED); the core's buffered stores laid over the filled line (log entry 17, DEDUCED); the parked access
that the fill answers (log entry 15, DEDUCED); whether a prefetch fills (log entry 2, DESIGN CHOICE). -/
def Obligations.Fills : Prop := Claims.DataFill ∧ Claims.FetchFill ∧ Claims.Prefetch

/-- The page walks of a thread and of a stream's generator (R14, R215, R227, R234, R253, R254, R255, R394). The model's own choice, and no rule of the
spec: that the thread is READY at the same word to issue again after its walk (log entry 15, DEDUCED); the stop at a table beyond HBM (log entry 9,
DESIGN CHOICE); which way of the TLB a fill takes (log entry 2, DESIGN CHOICE); the stream paths that a sink's writes take before it stops (log entry
128, DEDUCED). -/
def Obligations.Walks : Prop := Claims.ThreadWalk ∧ Claims.StreamWalk

/-- LDP and STP, and a direct access performed by its bank (R105, R237, R238, R241, R242, R246, R258). The model's own choice, and no rule of the spec:
EVAL of an ECC trap in the pool (log entry 27, DEDUCED); that a bank accepts an STP at issue (log entry 148, DESIGN CHOICE). -/
def Obligations.PoolForms : Prop := Claims.PoolIssue ∧ Claims.PoolAccess ∧ Claims.PoolCompletes

/-- An AMO performed at the HBM controller (R247). -/
def Obligations.AtomicPerformed : Prop := Claims.AtomicDone ∧ Claims.AtomicCompletes

/-- The group forms, EXIT and TID, and the group table (R329, R330, R331, R332, R333). The model's own choice, and no rule of the spec: the membership
that ARRIVE looks at when it issues (log entry 90, DEDUCED); EXIT of a thread in no group, which is IDLE at once (log entry 91, DEDUCED); what meets
in one slot at a group (log entry 124, DEDUCED). -/
def Obligations.Groups : Prop := Claims.GroupForms ∧ Claims.GroupApplied ∧ Claims.GroupStopped ∧ Claims.GroupLeaves ∧ Claims.GroupCompletes

/-- The tag forms, and the end of a tag wait (R327, R328). -/
def Obligations.Tags : Prop := Claims.TagForms ∧ Claims.TagWaitEnds

/-- TLBINV, RESUME, KILL, STEP and WALK, and the end of a TLBINV (R112, R113, R114, R256, R341, R342, R355). The model's own choice, and no rule of the
spec: when TLBINV stops the tenant's streams (log entry 65, DEDUCED); RESUME of a unit that is not FROZEN, and of the issuing thread (log entry 66,
DEDUCED); that a resumed unit acts in the next slot (log entry 67, DEDUCED); WALK's reasons (log entry 84, DEDUCED). -/
def Obligations.ControllerForms : Prop := Claims.ControllerIssue ∧ Claims.InvalidateEnds ∧ Claims.ControllerCompletes

/-- NODE, WALK's links, GATESET, TRC and a gate that fires (R334, R335, R338, R339, R341). The model's own choice, and no rule of the spec: TRC's cell,
which goes to egress port 123 on VC 0 (log entry 80, DEDUCED); the reasons of WALK and how a blocked unit chooses its link (log entry 84, DEDUCED);
that a gate's tag sets in the slot after (log entry 79, DEDUCED); the arm word of a gate that has fired or is disarmed (log entry 150, DESIGN CHOICE);
that an IDLE controller thread takes no record (log entry 153, DESIGN CHOICE). -/
def Obligations.NodesAndGates : Prop := Claims.NodeAndWalk ∧ Claims.GatesAndTraces

/-- The stream-binding forms at issue, and the slot that one takes (R204, R212, R213, R214, R220). The model's own choice, and no rule of the spec: which
slot's token an SREAD takes, and that a pending swap of it keeps it in WAIT (log entry 29, DEDUCED); the alignment of a scale or index array (log
entry 30, DEDUCED); when the slots of a mask are looked at, and that SEDGE consumes no mask (log entry 41, DEDUCED); ILL 3 for a DAP of ESZ 7 or of
another MODE than affine (log entry 34, DEDUCED); the alignment of a DAP's BASE (log entry 146, DESIGN CHOICE); an SSPLICE that waits for a storer,
and its late ILL (log entry 32, DEDUCED). -/
def Obligations.BindingForms : Prop := Claims.BindIssue ∧ Claims.BindTakes

/-- SBAR, SARG, SQRY and SCANCEL, and a stream's release, completion and drain tokens (R214, R218, R220, R221, R224, R228, R229, R326). The model's own
choice, and no rule of the spec: that a pending swap of the slot keeps an SREAD in WAIT (log entry 29, DEDUCED); when the slots of a mask are looked
at (log entry 41, DEDUCED); what SCANCEL waits for (log entry 97, DEDUCED); the order of SCELL's checks (log entry 122, DEDUCED). -/
def Obligations.StreamForms : Prop := Claims.StreamRegisters ∧ Claims.StreamLife ∧ Claims.StreamsComplete

/-- Loaders, storers, configuration loads and splices at work (R14, R210, R215, R216, R218, R222, R226, R280, R281, R282, R394). The model's own choice,
and no rule of the spec: that a cell's bytes are taken when the loader issues its reads (log entry 31, DEDUCED); LOADED, the tag and DONE in one act
(log entry 46, DEDUCED); the whole lines of a splice and what its storer forks (log entry 32, DEDUCED); the lengths of an image's route sections and
drain lists (log entry 45, DEDUCED); NODE entries of reserved indices (log entry 158, DESIGN CHOICE); the stream paths of the stacks, and what of them
a cell takes in a slot (log entry 128, DEDUCED); that a resumed unit acts in the next slot (log entry 67, DEDUCED). -/
def Obligations.StreamWork : Prop := Claims.LoadersAndStorers ∧ Claims.ImageLoads ∧ Claims.ImageSections ∧ Claims.Splices

/-- RTSET, MCSET, MCSET.X, RACECFG and LOOPSET, and the descriptor read (R77, R163, R181, R200, R201, R202, R203, R258, R338, R342, R369). The model's own
choice, and no rule of the spec: MCSET.X's operand check before the rights (log entry 122, DEDUCED); that a write of the debug port waits for the end
of its slot (log entry 79, DEDUCED); a STEP that finds nothing to do (log entry 89, DEDUCED). -/
def Obligations.RoutingForms : Prop := Claims.RoutingIssue ∧ Claims.DescriptorRead ∧ Claims.RoutesComplete ∧ Claims.LateWrites

/-- Admission, matching and delivery, and the crossbar (R14, R16, R173, R174, R175, R176, R179, R181, R194, R258). The model's own choice, and no rule of
the spec: the crossbar's one cell a slot at a NET port, its order and its capacity (log entry 19, DESIGN CHOICE); the copies of a multicast cell in a
cluster (log entry 110, DEDUCED); a match that would take one last place of a channel together with a released set (log entry 129, DESIGN CHOICE);
when a fault of R198 is found at an ingress port (log entry 132, DEDUCED); a cell that was matched before a swap that unmaps its VC (log entry 108,
DEDUCED); where the RID of a cell that leaves the core is counted (log entry 20, DEDUCED). -/
def Obligations.WeirSteps : Prop := Claims.WeirWork ∧ Claims.Crossbar

/-- Rendezvous buffers, loop budgets, mailboxes and race units (R109, R172, R174, R182, R183, R184, R187, R195, R196, R197, R202, R242). The model's own
choice, and no rule of the spec: an EOR with no score cell before it (log entry 48, DEDUCED); a set's release that would take one last place of a
channel together with a match (log entry 129, DESIGN CHOICE). -/
def Obligations.WeirUnits : Prop := Claims.RendezvousAndLoops ∧ Claims.MailboxDelivery ∧ Claims.Races

/-- The element's floating operations, lane by lane (R33, R34, R37, R50, R72, R122, R123, R124, R131, R133). The model's own choice, and no rule of the
spec: that an entry pops the Oxbow's SPL as any head (log entry 136, DESIGN CHOICE); that a cell for a reserved port is found at the firing (log entry
142, DESIGN CHOICE). -/
def Obligations.ElementFloat : Prop := Claims.ElementFloats ∧ Claims.ElementFloatSpecial

/-- The moving and keyed operations, OXPIV and OXEND, and a reserved entry (R72, R77, R122, R123, R124, R132, R139, R140, R193, R312, R313). The model's
own choice, and no rule of the spec: DA and DB fields that an operation does not use (log entry 54, DEDUCED); which of a routine's cells count as
outstanding (log entry 109, DEDUCED); that an entry pops the Oxbow's SPL as any head (log entry 136, DESIGN CHOICE); that a cell for a reserved port
is found at the firing (log entry 142, DESIGN CHOICE). -/
def Obligations.ElementMoves : Prop := Claims.ElementMovers ∧ Claims.ElementRoutines

/-- What stops a firing, and an element's pass boundary (R76, R77, R125, R126, R127, R131, R224, R258, R262, R276). The model's own choice, and no rule of
the spec: the order in which ECC, PORT and FMT are looked at, and DETAIL (log entry 23, DEDUCED); the format of a channel head whose VC the map does
not take (log entry 111, DESIGN CHOICE); that an element with no bound input channel takes no pass boundary (log entry 143, DESIGN CHOICE). -/
def Obligations.ElementStops : Prop := Claims.FiringFaults ∧ Claims.ElementBoundary

/-- The matrix engine's forms and its work (R141-R146, R148-R150, R152, R155, R156, R158-R164, R269). The model's own choice, and no rule of the spec:
dropped prefetches, one loader and VC a port, and a fetch that ends the older ones of its place (log entry 50, DEDUCED); MXADP's change at the slot's
end (log entry 51, DEDUCED); a pass boundary that waits whole for its ports (log entry 116, DESIGN CHOICE); the order in which the waiting threads get
a freed place (log entry 18, DESIGN CHOICE); the path of MXZERO jobs (log entry 115, DESIGN CHOICE); that a resumed engine acts in the next slot (log
entry 67, DEDUCED); the stream paths of the stacks (log entry 128, DEDUCED); that a slice of 32 cells serves no run with 1-byte lanes (log entry 117,
DEDUCED); the record of bad parity in the shadow code table (log entry 140, DEDUCED). -/
def Obligations.Engine : Prop := Claims.EngineForms ∧ Claims.EngineLate ∧ Claims.EngineWork

/-- The Reedbed's forms and its work (R286-R290, R293-R302). The model's own choice, and no rule of the spec: evaluation in record order up to an
uncorrectable word, and the results held till the lane group ends (log entry 119, DEDUCED); what a record holds where no cell is at fault (log entry
131, DESIGN CHOICE); when a bad head freezes the unit (log entry 125, DEDUCED); that a resumed Reedbed acts in the next slot (log entry 67, DEDUCED);
the order in which the waiting threads get a freed place (log entry 18, DESIGN CHOICE). -/
def Obligations.Reedbed : Prop := Claims.ReedbedForms ∧ Claims.ReedbedWork

/-- The Oxbow's forms and a stage's life (R270, R304, R306, R308-R319, R321-R323). The model's own choice, and no rule of the spec: the pending count of a
stage (log entry 57, DEDUCED); what a held port holds, and that an earlier merge's cells go first (log entry 58, DEDUCED); the order of the reasons of
OXFAIL (log entry 60, DEDUCED); what the depth of a stage counts (log entry 126, DEDUCED); the core whose LOOP budget must be empty when a twin is
quiescent (log entry 137, DESIGN CHOICE); a core that would be split twice, and the reason that it then gives (log entry 138, DESIGN CHOICE); a held
cell that would take one last place of a channel (log entry 129, DESIGN CHOICE). -/
def Obligations.Oxbow : Prop := Claims.OxbowForms ∧ Claims.OxbowLife

/-- LAUNCH, and a task's life (R86, R104, R258, R333, R345-R348, R349, R350, R353, R355, R356, R362). The model's own choice, and no rule of the spec:
that an IDLE controller thread takes no record (log entry 153, DESIGN CHOICE); a record's NODE, filled as its write enters the path (log entry 156,
DESIGN CHOICE); the ring's place, which a record takes when its write enters the path (log entry 72, DEDUCED); which cores a reserved start takes (log
entry 74, DEDUCED); the kinds in the end record (log entry 69, DEDUCED); what an ended or stopped task leaves (log entry 68, DEDUCED). -/
def Obligations.Tasks : Prop := Claims.LaunchForms ∧ Claims.LaunchCompletes ∧ Claims.TaskLife

/-- Host messages, discarded traffic and the rounds of peer edges (R14, R230-R232, R352, R364-R370, R372). The model's own choice, and no rule of the
spec: a peer edge's link (log entry 35, DESIGN CHOICE); SEQ of a queue, and after a gap (log entry 36, DEDUCED); a ROUND DATA's cells (log entry 37,
DESIGN CHOICE); what a VOID makes be sent again, and from where (log entry 38, DESIGN CHOICE); ROUNDVOID at either end (log entry 39, DEDUCED); QS on
such a VC as has no numbers (log entry 40, DESIGN CHOICE); rows past the DAP (log entry 155, DESIGN CHOICE); the answer to SUBMIT (log entry 75,
DEDUCED); SEQ of messages to hosts (log entry 76, DEDUCED); a host WRITE over several pages (log entry 78, DEDUCED); who may send TIME (log entry 95,
DEDUCED); ownership (log entry 98, DEDUCED); SM2, SM3 and the digest (log entry 99, DESIGN CHOICE); what lies below a Sluice datagram (log entry 104,
DEDUCED); payloads, and a report, in several frames (log entry 120, PRESUMED); one cell a slot at a link (log entry 128, DEDUCED); a wait for the host
port (log entry 139, DESIGN CHOICE). -/
def Obligations.Messages : Prop := Claims.HostMessages ∧ Claims.DiscardedTraffic ∧ Claims.PeerRounds

/-- The debug port and the module's own events (R122, R339, R369, R371, R373-R376, R379, R380, R393). The model's own choice, and no rule of the spec: the
unit and the period of temperature readings (log entry 83, DESIGN CHOICE); the spares of a resource (log entry 87, DEDUCED); THERM on a change of the
level alone (log entry 82, DEDUCED); when a write of the debug port lands, and its tag, also of a command that is refused (log entry 79, DEDUCED); the
throttle level and the trip (log entry 6, DESIGN CHOICE); the boot at power-on (log entry 7, DEDUCED); SM2, SM3 and the fuse version, which the spec
names and does not define (log entry 99, DESIGN CHOICE); the repair map at reset (log entry 8, DESIGN CHOICE); what the Springhouse's own threads do
(log entry 53, DEDUCED); a weight of 0 (log entry 160, DESIGN CHOICE); when a bucket's gain counts (log entry 94, DEDUCED). -/
def Obligations.DebugAndModule : Prop := Claims.DebugPort ∧ Claims.DebugWrites ∧ Claims.DebugOutput ∧ Claims.ModuleEvents
end

