-- ==== Sys2Proof/Laws/Event.lean ====
section
/-! SUPPORT. An event of the schedule is the instruction of the same name, and what one step does by the head of the agenda. -/

namespace Sys2Proof.Machine

/-- An event row of Instr has the meaning that the schedule runs. -/
theorem exec_event (i : Instr) (e : Event) (s : State) (h : i.event? = some e) : exec i s = runEvent e s := by
  cases i <;> simp only [Instr.event?, reduceCtorEq, Option.some.injEq] at h <;> (subst h; rfl)

theorem step_nil (s : State) (h : s.agenda = []) : step s = .next s.tick := by simp [step, h]

theorem step_cons (s : State) (a : Act) (r : List Act) (h : s.agenda = a :: r) : step s = State.act { s with agenda := r } a := by
  simp [step, h]

end Sys2Proof.Machine
end

