-- ==== Sys2Proof/Laws/State.lean ====
section
/-! SUPPORT. The laws of the state's accessors: one lemma per field per update, and what a write to one unit leaves of the others. -/

namespace Sys2Proof.Machine

/-! ## Vectors by number -/

theorem vget_lt {α : Type} {n : Nat} (v : Vector α n) (i : Nat) (d : α) (h : i < n) : vget v i d = v[i] := dif_pos h

theorem vget_ge {α : Type} {n : Nat} (v : Vector α n) (i : Nat) (d : α) (h : ¬i < n) : vget v i d = d := dif_neg h

theorem vmod_same {α : Type} {n : Nat} (v : Vector α n) (i : Nat) (f : α → α) (d : α) (h : i < n) :
    vget (vmod v i f) i d = f (vget v i d) := by
  simp [vget, vmod, h]

theorem vmod_other {α : Type} {n : Nat} (v : Vector α n) (i j : Nat) (f : α → α) (d : α) (h : i ≠ j) :
    vget (vmod v i f) j d = vget v j d := by
  unfold vget vmod
  by_cases hi : i < n <;> by_cases hj : j < n <;> simp [hi, hj, h]

/-! ## Cores of the module -/

@[simp] theorem State.modCore_eq (s : State) (c : CoreId) (f : Core → Core) : s.modCore c f = s.setCore c (f (s.core c)) := rfl

@[simp] theorem State.core_setCore (s : State) (c : CoreId) (x : Core) : (s.setCore c x).core c = x := by
  simp [State.core, State.setCore]

theorem State.core_setCore_ne (s : State) (c k : CoreId) (x : Core) (h : k ≠ c) : (s.setCore c x).core k = s.core k := by
  have : c.val ≠ k.val := fun e => h (Fin.ext e.symm)
  simp [State.core, State.setCore, this]

theorem State.core_setCore_if (s : State) (c k : CoreId) (x : Core) :
    (s.setCore c x).core k = if k = c then x else s.core k := by
  by_cases h : k = c
  · subst h; simp
  · simp [State.core_setCore_ne, h]

@[simp] theorem State.setCore_setCore (s : State) (c : CoreId) (x y : Core) : (s.setCore c x).setCore c y = s.setCore c y := by
  simp [State.setCore]

@[simp] theorem State.setCore_core (s : State) (c : CoreId) : s.setCore c (s.core c) = s := by
  simp [State.setCore, State.core]

@[simp] theorem State.setCore_slot (s : State) (c : CoreId) (x : Core) : (s.setCore c x).slot = s.slot := rfl
@[simp] theorem State.setCore_agenda (s : State) (c : CoreId) (x : Core) : (s.setCore c x).agenda = s.agenda := rfl
@[simp] theorem State.setCore_seenCores (s : State) (c : CoreId) (x : Core) : (s.setCore c x).seenCores = s.seenCores := rfl
@[simp] theorem State.setCore_seenTasks (s : State) (c : CoreId) (x : Core) : (s.setCore c x).seenTasks = s.seenTasks := rfl
@[simp] theorem State.setCore_script (s : State) (c : CoreId) (x : Core) : (s.setCore c x).script = s.script := rfl
@[simp] theorem State.setCore_cur (s : State) (c : CoreId) (x : Core) : (s.setCore c x).cur = s.cur := rfl
@[simp] theorem State.setCore_fire (s : State) (c : CoreId) (x : Core) : (s.setCore c x).fire = s.fire := rfl
@[simp] theorem State.setCore_fresh (s : State) (c : CoreId) (x : Core) : (s.setCore c x).fresh = s.fresh := rfl
@[simp] theorem State.setCore_hbm (s : State) (c : CoreId) (x : Core) : (s.setCore c x).hbm = s.hbm := rfl
@[simp] theorem State.setCore_pool (s : State) (c : CoreId) (x : Core) : (s.setCore c x).pool = s.pool := rfl
@[simp] theorem State.setCore_time (s : State) (c : CoreId) (x : Core) : (s.setCore c x).time = s.time := rfl
@[simp] theorem State.setCore_timeFrac (s : State) (c : CoreId) (x : Core) : (s.setCore c x).timeFrac = s.timeFrac := rfl
@[simp] theorem State.setCore_slew (s : State) (c : CoreId) (x : Core) : (s.setCore c x).slew = s.slew := rfl
@[simp] theorem State.setCore_timeStep (s : State) (c : CoreId) (x : Core) : (s.setCore c x).timeStep = s.timeStep := rfl
@[simp] theorem State.setCore_xgroups (s : State) (c : CoreId) (x : Core) : (s.setCore c x).xgroups = s.xgroups := rfl
@[simp] theorem State.setCore_xbar (s : State) (c : CoreId) (x : Core) : (s.setCore c x).xbar = s.xbar := rfl
@[simp] theorem State.setCore_tasks (s : State) (c : CoreId) (x : Core) : (s.setCore c x).tasks = s.tasks := rfl
@[simp] theorem State.setCore_lq (s : State) (c : CoreId) (x : Core) : (s.setCore c x).lq = s.lq := rfl
@[simp] theorem State.setCore_lqPtr (s : State) (c : CoreId) (x : Core) : (s.setCore c x).lqPtr = s.lqPtr := rfl
@[simp] theorem State.setCore_resv (s : State) (c : CoreId) (x : Core) : (s.setCore c x).resv = s.resv := rfl
@[simp] theorem State.setCore_nextTask (s : State) (c : CoreId) (x : Core) : (s.setCore c x).nextTask = s.nextTask := rfl
@[simp] theorem State.setCore_weights (s : State) (c : CoreId) (x : Core) : (s.setCore c x).weights = s.weights := rfl
@[simp] theorem State.setCore_tres (s : State) (c : CoreId) (x : Core) : (s.setCore c x).tres = s.tres := rfl
@[simp] theorem State.setCore_alert (s : State) (c : CoreId) (x : Core) : (s.setCore c x).alert = s.alert := rfl
@[simp] theorem State.setCore_ctlRights (s : State) (c : CoreId) (x : Core) : (s.setCore c x).ctlRights = s.ctlRights := rfl
@[simp] theorem State.setCore_owners (s : State) (c : CoreId) (x : Core) : (s.setCore c x).owners = s.owners := rfl
@[simp] theorem State.setCore_linkQs (s : State) (c : CoreId) (x : Core) : (s.setCore c x).linkQs = s.linkQs := rfl
@[simp] theorem State.setCore_rxSeq (s : State) (c : CoreId) (x : Core) : (s.setCore c x).rxSeq = s.rxSeq := rfl
@[simp] theorem State.setCore_txSeq (s : State) (c : CoreId) (x : Core) : (s.setCore c x).txSeq = s.txSeq := rfl
@[simp] theorem State.setCore_linkOut (s : State) (c : CoreId) (x : Core) : (s.setCore c x).linkOut = s.linkOut := rfl
@[simp] theorem State.setCore_linkIn (s : State) (c : CoreId) (x : Core) : (s.setCore c x).linkIn = s.linkIn := rfl
@[simp] theorem State.setCore_pathOut (s : State) (c : CoreId) (x : Core) : (s.setCore c x).pathOut = s.pathOut := rfl
@[simp] theorem State.setCore_pathIn (s : State) (c : CoreId) (x : Core) : (s.setCore c x).pathIn = s.pathIn := rfl
@[simp] theorem State.setCore_hostOut (s : State) (c : CoreId) (x : Core) : (s.setCore c x).hostOut = s.hostOut := rfl
@[simp] theorem State.setCore_hostIn (s : State) (c : CoreId) (x : Core) : (s.setCore c x).hostIn = s.hostIn := rfl
@[simp] theorem State.setCore_throttle (s : State) (c : CoreId) (x : Core) : (s.setCore c x).throttle = s.throttle := rfl
@[simp] theorem State.setCore_throttleNext (s : State) (c : CoreId) (x : Core) : (s.setCore c x).throttleNext = s.throttleNext := rfl
@[simp] theorem State.setCore_thermAt (s : State) (c : CoreId) (x : Core) : (s.setCore c x).thermAt = s.thermAt := rfl
@[simp] theorem State.setCore_tripped (s : State) (c : CoreId) (x : Core) : (s.setCore c x).tripped = s.tripped := rfl
@[simp] theorem State.setCore_boot (s : State) (c : CoreId) (x : Core) : (s.setCore c x).boot = s.boot := rfl
@[simp] theorem State.setCore_attest (s : State) (c : CoreId) (x : Core) : (s.setCore c x).attest = s.attest := rfl
@[simp] theorem State.setCore_repair (s : State) (c : CoreId) (x : Core) : (s.setCore c x).repair = s.repair := rfl
@[simp] theorem State.setCore_errs (s : State) (c : CoreId) (x : Core) : (s.setCore c x).errs = s.errs := rfl
@[simp] theorem State.setCore_ecc (s : State) (c : CoreId) (x : Core) : (s.setCore c x).ecc = s.ecc := rfl
@[simp] theorem State.setCore_outbox (s : State) (c : CoreId) (x : Core) : (s.setCore c x).outbox = s.outbox := rfl
@[simp] theorem State.setCore_debugReq (s : State) (c : CoreId) (x : Core) : (s.setCore c x).debugReq = s.debugReq := rfl
@[simp] theorem State.setCore_discards (s : State) (c : CoreId) (x : Core) : (s.setCore c x).discards = s.discards := rfl

/-! ## Threads of a core -/

@[simp] theorem Core.thr_setThr (x : Core) (t : Tid) (y : Thread) : (x.setThr t y).thr t = y := by simp [Core.thr, Core.setThr]

theorem Core.thr_setThr_ne (x : Core) (t k : Tid) (y : Thread) (h : k ≠ t) : (x.setThr t y).thr k = x.thr k := by
  have : t.val ≠ k.val := fun e => h (Fin.ext e.symm)
  simp [Core.thr, Core.setThr, this]

@[simp] theorem Core.setThr_setThr (x : Core) (t : Tid) (y z : Thread) : (x.setThr t y).setThr t z = x.setThr t z := by
  simp [Core.setThr]

@[simp] theorem Core.setThr_thr (x : Core) (t : Tid) : x.setThr t (x.thr t) = x := by simp [Core.setThr, Core.thr]

@[simp] theorem Core.setThr_tb (x : Core) (t : Tid) (y : Thread) : (x.setThr t y).tb = x.tb := rfl
@[simp] theorem Core.setThr_tbNext (x : Core) (t : Tid) (y : Thread) : (x.setThr t y).tbNext = x.tbNext := rfl
@[simp] theorem Core.setThr_tbSoon (x : Core) (t : Tid) (y : Thread) : (x.setThr t y).tbSoon = x.tbSoon := rfl
@[simp] theorem Core.setThr_tbClr (x : Core) (t : Tid) (y : Thread) : (x.setThr t y).tbClr = x.tbClr := rfl
@[simp] theorem Core.setThr_late (x : Core) (t : Tid) (y : Thread) : (x.setThr t y).late = x.late := rfl
@[simp] theorem Core.setThr_agelim (x : Core) (t : Tid) (y : Thread) : (x.setThr t y).agelim = x.agelim := rfl
@[simp] theorem Core.setThr_agelimNext (x : Core) (t : Tid) (y : Thread) : (x.setThr t y).agelimNext = x.agelimNext := rfl
@[simp] theorem Core.setThr_ptbase (x : Core) (t : Tid) (y : Thread) : (x.setThr t y).ptbase = x.ptbase := rfl
@[simp] theorem Core.setThr_spillSel (x : Core) (t : Tid) (y : Thread) : (x.setThr t y).spillSel = x.spillSel := rfl
@[simp] theorem Core.setThr_task (x : Core) (t : Tid) (y : Thread) : (x.setThr t y).task = x.task := rfl
@[simp] theorem Core.setThr_prevTenant (x : Core) (t : Tid) (y : Thread) : (x.setThr t y).prevTenant = x.prevTenant := rfl
@[simp] theorem Core.setThr_twinBanks (x : Core) (t : Tid) (y : Thread) : (x.setThr t y).twinBanks = x.twinBanks := rfl
@[simp] theorem Core.setThr_rrLast (x : Core) (t : Tid) (y : Thread) : (x.setThr t y).rrLast = x.rrLast := rfl
@[simp] theorem Core.setThr_issueAt (x : Core) (t : Tid) (y : Thread) : (x.setThr t y).issueAt = x.issueAt := rfl
@[simp] theorem Core.setThr_dcache (x : Core) (t : Tid) (y : Thread) : (x.setThr t y).dcache = x.dcache := rfl
@[simp] theorem Core.setThr_icache (x : Core) (t : Tid) (y : Thread) : (x.setThr t y).icache = x.icache := rfl
@[simp] theorem Core.setThr_wbuf (x : Core) (t : Tid) (y : Thread) : (x.setThr t y).wbuf = x.wbuf := rfl
@[simp] theorem Core.setThr_tlb (x : Core) (t : Tid) (y : Thread) : (x.setThr t y).tlb = x.tlb := rfl
@[simp] theorem Core.setThr_direct (x : Core) (t : Tid) (y : Thread) : (x.setThr t y).direct = x.direct := rfl
@[simp] theorem Core.setThr_waitq (x : Core) (t : Tid) (y : Thread) : (x.setThr t y).waitq = x.waitq := rfl
@[simp] theorem Core.setThr_ringNext (x : Core) (t : Tid) (y : Thread) : (x.setThr t y).ringNext = x.ringNext := rfl
@[simp] theorem Core.setThr_faults (x : Core) (t : Tid) (y : Thread) : (x.setThr t y).faults = x.faults := rfl
@[simp] theorem Core.setThr_elems (x : Core) (t : Tid) (y : Thread) : (x.setThr t y).elems = x.elems := rfl
@[simp] theorem Core.setThr_slots (x : Core) (t : Tid) (y : Thread) : (x.setThr t y).slots = x.slots := rfl
@[simp] theorem Core.setThr_swap (x : Core) (t : Tid) (y : Thread) : (x.setThr t y).swap = x.swap := rfl
@[simp] theorem Core.setThr_crossed (x : Core) (t : Tid) (y : Thread) : (x.setThr t y).crossed = x.crossed := rfl
@[simp] theorem Core.setThr_passes (x : Core) (t : Tid) (y : Thread) : (x.setThr t y).passes = x.passes := rfl
@[simp] theorem Core.setThr_ing (x : Core) (t : Tid) (y : Thread) : (x.setThr t y).ing = x.ing := rfl
@[simp] theorem Core.setThr_eg (x : Core) (t : Tid) (y : Thread) : (x.setThr t y).eg = x.eg := rfl
@[simp] theorem Core.setThr_routes (x : Core) (t : Tid) (y : Thread) : (x.setThr t y).routes = x.routes := rfl
@[simp] theorem Core.setThr_rids (x : Core) (t : Tid) (y : Thread) : (x.setThr t y).rids = x.rids := rfl
@[simp] theorem Core.setThr_mgroups (x : Core) (t : Tid) (y : Thread) : (x.setThr t y).mgroups = x.mgroups := rfl
@[simp] theorem Core.setThr_loops (x : Core) (t : Tid) (y : Thread) : (x.setThr t y).loops = x.loops := rfl
@[simp] theorem Core.setThr_mcLive (x : Core) (t : Tid) (y : Thread) : (x.setThr t y).mcLive = x.mcLive := rfl
@[simp] theorem Core.setThr_nextCopy (x : Core) (t : Tid) (y : Thread) : (x.setThr t y).nextCopy = x.nextCopy := rfl
@[simp] theorem Core.setThr_weirHalted (x : Core) (t : Tid) (y : Thread) : (x.setThr t y).weirHalted = x.weirHalted := rfl
@[simp] theorem Core.setThr_weirCredit (x : Core) (t : Tid) (y : Thread) : (x.setThr t y).weirCredit = x.weirCredit := rfl
@[simp] theorem Core.setThr_banks (x : Core) (t : Tid) (y : Thread) : (x.setThr t y).banks = x.banks := rfl
@[simp] theorem Core.setThr_me (x : Core) (t : Tid) (y : Thread) : (x.setThr t y).me = x.me := rfl
@[simp] theorem Core.setThr_rb (x : Core) (t : Tid) (y : Thread) : (x.setThr t y).rb = x.rb := rfl
@[simp] theorem Core.setThr_races (x : Core) (t : Tid) (y : Thread) : (x.setThr t y).races = x.races := rfl
@[simp] theorem Core.setThr_strms (x : Core) (t : Tid) (y : Thread) : (x.setThr t y).strms = x.strms := rfl
@[simp] theorem Core.setThr_splices (x : Core) (t : Tid) (y : Thread) : (x.setThr t y).splices = x.splices := rfl
@[simp] theorem Core.setThr_loaderAt (x : Core) (t : Tid) (y : Thread) : (x.setThr t y).loaderAt = x.loaderAt := rfl
@[simp] theorem Core.setThr_storerAt (x : Core) (t : Tid) (y : Thread) : (x.setThr t y).storerAt = x.storerAt := rfl
@[simp] theorem Core.setThr_edges (x : Core) (t : Tid) (y : Thread) : (x.setThr t y).edges = x.edges := rfl
@[simp] theorem Core.setThr_pendDrn (x : Core) (t : Tid) (y : Thread) : (x.setThr t y).pendDrn = x.pendDrn := rfl
@[simp] theorem Core.setThr_stages (x : Core) (t : Tid) (y : Thread) : (x.setThr t y).stages = x.stages := rfl
@[simp] theorem Core.setThr_oxTags (x : Core) (t : Tid) (y : Thread) : (x.setThr t y).oxTags = x.oxTags := rfl
@[simp] theorem Core.setThr_gates (x : Core) (t : Tid) (y : Thread) : (x.setThr t y).gates = x.gates := rfl
@[simp] theorem Core.setThr_wr (x : Core) (t : Tid) (y : Thread) : (x.setThr t y).wr = x.wr := rfl
@[simp] theorem Core.setThr_trace (x : Core) (t : Tid) (y : Thread) : (x.setThr t y).trace = x.trace := rfl
@[simp] theorem Core.setThr_dbgRefused (x : Core) (t : Tid) (y : Thread) : (x.setThr t y).dbgRefused = x.dbgRefused := rfl
@[simp] theorem Core.setThr_launchSlot (x : Core) (t : Tid) (y : Thread) : (x.setThr t y).launchSlot = x.launchSlot := rfl
@[simp] theorem Core.setThr_lastTask (x : Core) (t : Tid) (y : Thread) : (x.setThr t y).lastTask = x.lastTask := rfl

@[simp] theorem State.setThr_eq (s : State) (c : CoreId) (t : Tid) (y : Thread) :
    s.setThr c t y = s.setCore c ((s.core c).setThr t y) := rfl

@[simp] theorem State.modThr_eq (s : State) (c : CoreId) (t : Tid) (f : Thread → Thread) :
    s.modThr c t f = s.setCore c ((s.core c).setThr t (f ((s.core c).thr t))) := rfl

theorem State.modMe_eq (s : State) (f : Thread → Thread) :
    s.modMe f = s.setCore s.cur.1 ((s.core s.cur.1).setThr s.cur.2 (f ((s.core s.cur.1).thr s.cur.2))) := rfl

@[simp] theorem State.me_setCore (s : State) (x : Core) : (s.setCore s.cur.1 x).me = x.thr s.cur.2 := by
  simp [State.me, State.thr]

@[simp] theorem State.myCore_setCore (s : State) (x : Core) : (s.setCore s.cur.1 x).myCore = x := by simp [State.myCore]

@[simp] theorem State.thr_setCore (s : State) (c : CoreId) (k : Tid) (x : Core) : (s.setCore c x).thr c k = x.thr k := by
  simp [State.thr]

theorem State.thr_def (s : State) (c : CoreId) (t : Tid) : s.thr c t = (s.core c).thr t := rfl

theorem State.me_def (s : State) : s.me = (s.core s.cur.1).thr s.cur.2 := rfl

theorem State.myCore_def (s : State) : s.myCore = s.core s.cur.1 := rfl

@[simp] theorem Core.modThr_eq (x : Core) (t : Tid) (f : Thread → Thread) : x.modThr t f = x.setThr t (f (x.thr t)) := rfl

/-! ## Registers -/

@[simp] theorem Thread.rd_zero (t : Thread) : t.rd 0 = 0 := by simp [Thread.rd]

@[simp] theorem Thread.rdP_zero (t : Thread) : t.rdP 0 = true := by simp [Thread.rdP]

@[simp] theorem Thread.wr_zero (t : Thread) (v : Word) : t.wr 0 v = t := by simp [Thread.wr]

@[simp] theorem Thread.wrP_zero (t : Thread) (v : Bool) : t.wrP 0 v = t := by simp [Thread.wrP]

theorem Thread.rd_wr (t : Thread) (d r : BitVec 5) (v : Word) : (t.wr d v).rd r = if r = d ∧ d ≠ 0 then v else t.rd r := by
  unfold Thread.rd Thread.wr
  by_cases hd : d = 0 <;> by_cases hr : r = 0
  · simp only [hd, hr, if_true, ne_eq, not_true, and_false, if_false]
  · simp only [hd, hr, if_true, ne_eq, not_true, and_false, if_false]
  · rw [if_pos hr, if_pos hr, if_neg (fun h => hd (h.1.symm.trans hr))]
  · rw [if_neg hr, if_neg hr, if_neg hd]
    by_cases h : r = d
    · subst h; rw [if_pos ⟨rfl, hr⟩]; simp
    · have : d.toNat ≠ r.toNat := fun e => h (BitVec.eq_of_toNat_eq e.symm)
      rw [if_neg (fun q => h q.1)]
      simp [this]

theorem Thread.rdP_wrP (t : Thread) (p q : BitVec 3) (v : Bool) :
    (t.wrP p v).rdP q = if q = p ∧ p ≠ 0 then v else t.rdP q := by
  have h : ∀ (p q : BitVec 3) (a : BitVec 8),
      (a ||| (1#8 <<< p.toNat)).getLsbD q.toNat = (if q = p then true else a.getLsbD q.toNat) ∧
      (a &&& ~~~(1#8 <<< p.toNat)).getLsbD q.toNat = (if q = p then false else a.getLsbD q.toNat) := by decide +kernel
  unfold Thread.rdP Thread.wrP
  by_cases hp : p = 0 <;> by_cases hq : q = 0
  · simp only [hp, hq, if_true, ne_eq, not_true, and_false, if_false]
  · simp only [hp, hq, if_true, ne_eq, not_true, and_false, if_false]
  · rw [if_pos hq, if_pos hq, if_neg (fun h => hp (h.1.symm.trans hq))]
  · rw [if_neg hq, if_neg hq, if_neg hp]
    cases v
    · rw [if_neg (by decide), (h p q t.p).2]; exact if_congr ⟨fun e => ⟨e, hp⟩, And.left⟩ rfl rfl
    · rw [if_pos rfl, (h p q t.p).1]; exact if_congr ⟨fun e => ⟨e, hp⟩, And.left⟩ rfl rfl

@[simp] theorem Thread.wr_st (t : Thread) (d : BitVec 5) (v : Word) : (t.wr d v).st = t.st := by unfold Thread.wr; split <;> rfl
@[simp] theorem Thread.wr_p (t : Thread) (d : BitVec 5) (v : Word) : (t.wr d v).p = t.p := by unfold Thread.wr; split <;> rfl
@[simp] theorem Thread.wr_ap (t : Thread) (d : BitVec 5) (v : Word) : (t.wr d v).ap = t.ap := by unfold Thread.wr; split <;> rfl
@[simp] theorem Thread.wr_pc (t : Thread) (d : BitVec 5) (v : Word) : (t.wr d v).pc = t.pc := by unfold Thread.wr; split <;> rfl
@[simp] theorem Thread.wr_epc (t : Thread) (d : BitVec 5) (v : Word) : (t.wr d v).epc = t.epc := by unfold Thread.wr; split <;> rfl
@[simp] theorem Thread.wr_ecause (t : Thread) (d : BitVec 5) (v : Word) : (t.wr d v).ecause = t.ecause := by unfold Thread.wr; split <;> rfl
@[simp] theorem Thread.wr_eval (t : Thread) (d : BitVec 5) (v : Word) : (t.wr d v).eval = t.eval := by unfold Thread.wr; split <;> rfl
@[simp] theorem Thread.wr_fxsat (t : Thread) (d : BitVec 5) (v : Word) : (t.wr d v).fxsat = t.fxsat := by unfold Thread.wr; split <;> rfl
@[simp] theorem Thread.wr_be (t : Thread) (d : BitVec 5) (v : Word) : (t.wr d v).be = t.be := by unfold Thread.wr; split <;> rfl
@[simp] theorem Thread.wr_ev (t : Thread) (d : BitVec 5) (v : Word) : (t.wr d v).ev = t.ev := by unfold Thread.wr; split <;> rfl
@[simp] theorem Thread.wr_exl (t : Thread) (d : BitVec 5) (v : Word) : (t.wr d v).exl = t.exl := by unfold Thread.wr; split <;> rfl
@[simp] theorem Thread.wr_cm (t : Thread) (d : BitVec 5) (v : Word) : (t.wr d v).cm = t.cm := by unfold Thread.wr; split <;> rfl
@[simp] theorem Thread.wr_role (t : Thread) (d : BitVec 5) (v : Word) : (t.wr d v).role = t.role := by unfold Thread.wr; split <;> rfl
@[simp] theorem Thread.wr_pend (t : Thread) (d : BitVec 5) (v : Word) : (t.wr d v).pend = t.pend := by unfold Thread.wr; split <;> rfl
@[simp] theorem Thread.wr_readyAt (t : Thread) (d : BitVec 5) (v : Word) : (t.wr d v).readyAt = t.readyAt := by unfold Thread.wr; split <;> rfl
@[simp] theorem Thread.wr_yielded (t : Thread) (d : BitVec 5) (v : Word) : (t.wr d v).yielded = t.yielded := by unfold Thread.wr; split <;> rfl
@[simp] theorem Thread.wr_barMask (t : Thread) (d : BitVec 5) (v : Word) : (t.wr d v).barMask = t.barMask := by unfold Thread.wr; split <;> rfl
@[simp] theorem Thread.wr_arm (t : Thread) (d : BitVec 5) (v : Word) : (t.wr d v).arm = t.arm := by unfold Thread.wr; split <;> rfl
@[simp] theorem Thread.wr_mailbox (t : Thread) (d : BitVec 5) (v : Word) : (t.wr d v).mailbox = t.mailbox := by unfold Thread.wr; split <;> rfl
@[simp] theorem Thread.wr_issued (t : Thread) (d : BitVec 5) (v : Word) : (t.wr d v).issued = t.issued := by unfold Thread.wr; split <;> rfl
@[simp] theorem Thread.wr_parkedClocks (t : Thread) (d : BitVec 5) (v : Word) : (t.wr d v).parkedClocks = t.parkedClocks := by unfold Thread.wr; split <;> rfl
@[simp] theorem Thread.wrP_st (t : Thread) (d : BitVec 3) (v : Bool) : (t.wrP d v).st = t.st := by unfold Thread.wrP; split <;> rfl
@[simp] theorem Thread.wrP_g (t : Thread) (d : BitVec 3) (v : Bool) : (t.wrP d v).g = t.g := by unfold Thread.wrP; split <;> rfl
@[simp] theorem Thread.wrP_ap (t : Thread) (d : BitVec 3) (v : Bool) : (t.wrP d v).ap = t.ap := by unfold Thread.wrP; split <;> rfl
@[simp] theorem Thread.wrP_pc (t : Thread) (d : BitVec 3) (v : Bool) : (t.wrP d v).pc = t.pc := by unfold Thread.wrP; split <;> rfl
@[simp] theorem Thread.wrP_epc (t : Thread) (d : BitVec 3) (v : Bool) : (t.wrP d v).epc = t.epc := by unfold Thread.wrP; split <;> rfl
@[simp] theorem Thread.wrP_ecause (t : Thread) (d : BitVec 3) (v : Bool) : (t.wrP d v).ecause = t.ecause := by unfold Thread.wrP; split <;> rfl
@[simp] theorem Thread.wrP_eval (t : Thread) (d : BitVec 3) (v : Bool) : (t.wrP d v).eval = t.eval := by unfold Thread.wrP; split <;> rfl
@[simp] theorem Thread.wrP_fxsat (t : Thread) (d : BitVec 3) (v : Bool) : (t.wrP d v).fxsat = t.fxsat := by unfold Thread.wrP; split <;> rfl
@[simp] theorem Thread.wrP_be (t : Thread) (d : BitVec 3) (v : Bool) : (t.wrP d v).be = t.be := by unfold Thread.wrP; split <;> rfl
@[simp] theorem Thread.wrP_ev (t : Thread) (d : BitVec 3) (v : Bool) : (t.wrP d v).ev = t.ev := by unfold Thread.wrP; split <;> rfl
@[simp] theorem Thread.wrP_exl (t : Thread) (d : BitVec 3) (v : Bool) : (t.wrP d v).exl = t.exl := by unfold Thread.wrP; split <;> rfl
@[simp] theorem Thread.wrP_cm (t : Thread) (d : BitVec 3) (v : Bool) : (t.wrP d v).cm = t.cm := by unfold Thread.wrP; split <;> rfl
@[simp] theorem Thread.wrP_role (t : Thread) (d : BitVec 3) (v : Bool) : (t.wrP d v).role = t.role := by unfold Thread.wrP; split <;> rfl
@[simp] theorem Thread.wrP_pend (t : Thread) (d : BitVec 3) (v : Bool) : (t.wrP d v).pend = t.pend := by unfold Thread.wrP; split <;> rfl
@[simp] theorem Thread.wrP_readyAt (t : Thread) (d : BitVec 3) (v : Bool) : (t.wrP d v).readyAt = t.readyAt := by unfold Thread.wrP; split <;> rfl
@[simp] theorem Thread.wrP_yielded (t : Thread) (d : BitVec 3) (v : Bool) : (t.wrP d v).yielded = t.yielded := by unfold Thread.wrP; split <;> rfl
@[simp] theorem Thread.wrP_barMask (t : Thread) (d : BitVec 3) (v : Bool) : (t.wrP d v).barMask = t.barMask := by unfold Thread.wrP; split <;> rfl
@[simp] theorem Thread.wrP_arm (t : Thread) (d : BitVec 3) (v : Bool) : (t.wrP d v).arm = t.arm := by unfold Thread.wrP; split <;> rfl
@[simp] theorem Thread.wrP_mailbox (t : Thread) (d : BitVec 3) (v : Bool) : (t.wrP d v).mailbox = t.mailbox := by unfold Thread.wrP; split <;> rfl
@[simp] theorem Thread.wrP_issued (t : Thread) (d : BitVec 3) (v : Bool) : (t.wrP d v).issued = t.issued := by unfold Thread.wrP; split <;> rfl
@[simp] theorem Thread.wrP_parkedClocks (t : Thread) (d : BitVec 3) (v : Bool) : (t.wrP d v).parkedClocks = t.parkedClocks := by unfold Thread.wrP; split <;> rfl

@[simp] theorem Thread.rdP_wr (t : Thread) (d : BitVec 5) (v : Word) (q : BitVec 3) : (t.wr d v).rdP q = t.rdP q := by simp [Thread.rdP]

@[simp] theorem Thread.rd_wrP (t : Thread) (p : BitVec 3) (v : Bool) (r : BitVec 5) : (t.wrP p v).rd r = t.rd r := by simp [Thread.rd]

end Sys2Proof.Machine
end

