-- ==== Sys2Proof/Laws/Firing.lean ====
section
/-! SUPPORT. What a firing does to the ports of its core: the channels that it pops and the cells that it emits (R122-R124, R140). -/

namespace Sys2Proof.Machine

open Sys2Proof.Claims

/-- Only a result for an O can be a cell for a reserved port (R127). -/
theorem State.emitsReserved_of_not_out (s : State) {d : BitVec 5} (r : Res) (h : ¬(4 ≤ d.toNat ∧ d.toNat ≤ 7)) : s.emitsReserved d r = false := by
  simp [State.emitsReserved, h]

/-- What a change of one core does to a part of every core that it keeps. -/
theorem State.core_modCore_keep {α : Type} (s : State) (c k : CoreId) (f : Core → Core) (g : Core → α) (h : ∀ x, g (f x) = g x) :
    g ((s.modCore k f).core c) = g (s.core c) := by
  simp only [State.modCore_eq, State.core_setCore_if]
  split
  · next e => rw [e]; exact h _
  · rfl

/-- What a firing reads of its core beside the element: both sides of every port, and the configuration. -/
def Core.ports (x : Core) : Vector Ingress 128 × Vector Egress 128 × Vector Slot 2 := (x.ing, x.eg, x.slots)

@[simp] theorem State.ports_modStage (s : State) (c k : CoreId) (g : StageId) (f : Stage → Stage) :
    ((s.modCore k (fun x => x.modStage g f)).core c).ports = (s.core c).ports :=
  State.core_modCore_keep s c k _ Core.ports (fun _ => rfl)

/-- A cell's consumption keeps every port of every core. -/
theorem State.ports_consume (s : State) (c k : CoreId) (y : Cell) :
    ((s.consume c y).core k).ports = (s.core k).ports := by
  have hc : ∀ x : Core, (x.consumed y).ports = x.ports := by
    intro x; unfold Core.consumed Core.loopDown Core.modLoop
    (repeat' split) <;> rfl
  have ho : ∀ s : State, ((s.oxConsumed y).core k).ports = (s.core k).ports := by
    intro s; unfold State.oxConsumed
    simp only []
    split <;> split <;> simp only [State.ports_modStage]
  unfold State.consume
  simp only []
  split
  · rw [ho]; exact State.core_modCore_keep _ _ _ _ Core.ports hc
  · exact State.core_modCore_keep _ _ _ _ Core.ports hc

/-- The head of a channel leaves, and nothing else of the core's ports changes but what counts releases there (R174). -/
theorem State.ports_popHead (s : State) (c : CoreId) (p ch : Nat) :
    ((s.popHead c p ch).core c).ing = (s.core c).ing ∧ ((s.popHead c p ch).core c).slots = (s.core c).slots ∧
    (∀ q, q ≠ p → ((s.popHead c p ch).core c).egAt q = (s.core c).egAt q) ∧
    ∀ n, ((((s.popHead c p ch).core c).egAt p).chan n).cells =
      if n = ch then (((s.core c).egAt p).chan n).cells.tail else (((s.core c).egAt p).chan n).cells := by
  unfold State.popHead
  split
  · next h =>
    refine ⟨rfl, rfl, fun _ _ => rfl, fun n => ?_⟩
    split
    · next e => subst e; rw [h]; rfl
    · rfl
  · next x r h =>
    have hp : p < 128 := by
      apply Classical.byContradiction; intro hp
      simp [Core.egAt, Egress.chan, vget] at h
      split at h <;> simp at h
    have hch : ch < 4 := by
      apply Classical.byContradiction; intro hch
      simp [Egress.chan, vget_ge _ _ _ hch] at h
    have hc := State.ports_consume ((s.clearHead c p ch).modCore c (fun k => k.takeHead p ch)) c c x
    have hh : (s.clearHead c p ch).core c = s.core c := by unfold State.clearHead; split <;> rfl
    have he : _ = _ := congrArg (fun z => z.2.1) hc
    simp only [Core.ports] at he
    have hi : (((s.core c).takeHead p ch)).ing = (s.core c).ing := rfl
    have hs : (((s.core c).takeHead p ch)).slots = (s.core c).slots := rfl
    refine ⟨?_, ?_, fun q hq => ?_, fun n => ?_⟩
    · refine (congrArg (fun z => z.1) hc).trans ?_; simp [Core.ports, hh, hi]
    · refine (congrArg (fun z => z.2.2) hc).trans ?_; simp [Core.ports, hh, hs]
    · unfold Core.egAt; rw [he]; simp only [State.modCore_eq, State.core_setCore, hh]
      exact vmod_other _ _ _ _ _ (Ne.symm hq)
    · unfold Core.egAt; rw [he]; simp only [State.modCore_eq, State.core_setCore, hh]
      have : ((s.core c).takeHead p ch).eg = vmod (s.core c).eg p (fun g =>
          match (g.chan ch).cells with
          | [] => g
          | c :: r =>
            let g := g.modChan ch (fun q => { q with cells := r, freed := q.freed + 1, moved := true })
            if c.m.pend ∧ g.pending ≠ 0 then { g with pending := g.pending - 1 } else g) := rfl
      rw [this, vmod_same _ _ _ _ hp]
      have h' : ((vget (s.core c).eg p {}).chan ch).cells = x :: r := h
      simp only [h']
      have key : ∀ g : Egress, (g.chan ch).cells = x :: r → ((g.modChan ch (fun q => { q with cells := r, freed := q.freed + 1, moved := true })).chan n).cells =
          if n = ch then (g.chan n).cells.tail else (g.chan n).cells := by
        intro g hg
        unfold Egress.modChan Egress.chan
        by_cases e : n = ch
        · subst e; rw [if_pos rfl, vmod_same _ _ _ _ hch]
          have : (vget g.chans n {}).cells = x :: r := hg
          show r = _; rw [this]; rfl
        · rw [if_neg e, vmod_other _ _ _ _ _ (Ne.symm e)]
      split <;> exact key _ h'

/-- A popped channel's head leaves where it can be acted on (R122), and nothing else of the core's ports changes. -/
theorem State.ports_popElem (s : State) (c : CoreId) (e : ElemId) (ch : Nat) :
    ((s.popElem c e ch).core c).ing = (s.core c).ing ∧ ((s.popElem c e ch).core c).slots = (s.core c).slots ∧
    (∀ q, q ≠ 48 + e.val → ((s.popElem c e ch).core c).egAt q = (s.core c).egAt q) ∧
    ∀ n, ((((s.popElem c e ch).core c).egAt (48 + e.val)).chan n).cells =
      if n = ch ∧ ((s.core c).head? s.slot (48 + e.val) n).isSome = true then (((s.core c).egAt (48 + e.val)).chan n).cells.tail
      else (((s.core c).egAt (48 + e.val)).chan n).cells := by
  unfold State.popElem
  split
  · next h =>
    refine ⟨rfl, rfl, fun _ _ => rfl, fun n => ?_⟩
    rw [if_neg]; rintro ⟨rfl, hn⟩; simp [h] at hn
  · next y h =>
    have key : ∀ u : State, (u.core c).ports = (s.core c).ports →
        (((u.popHead c (48 + e.val) ch).core c).ing = (s.core c).ing ∧ ((u.popHead c (48 + e.val) ch).core c).slots = (s.core c).slots ∧
        (∀ q, q ≠ 48 + e.val → ((u.popHead c (48 + e.val) ch).core c).egAt q = (s.core c).egAt q) ∧
        ∀ n, ((((u.popHead c (48 + e.val) ch).core c).egAt (48 + e.val)).chan n).cells =
          if n = ch ∧ ((s.core c).head? s.slot (48 + e.val) n).isSome = true then (((s.core c).egAt (48 + e.val)).chan n).cells.tail
          else (((s.core c).egAt (48 + e.val)).chan n).cells) := by
      intro u hu
      simp only [Core.ports, Prod.mk.injEq] at hu
      have hp := u.ports_popHead c (48 + e.val) ch
      have he : ∀ q, (u.core c).egAt q = (s.core c).egAt q := fun q => by unfold Core.egAt; rw [hu.2.1]
      refine ⟨hp.1.trans hu.1, hp.2.1.trans hu.2.2, fun q hq => (hp.2.2.1 q hq).trans (he q), fun n => ?_⟩
      rw [hp.2.2.2 n, he]
      by_cases e' : n = ch
      · subst e'; simp [h]
      · simp [e']
    simp only []
    split
    · exact key _ (by simp only [State.modCore_eq, State.core_setCore]; rfl)
    · exact key _ rfl

@[simp] theorem State.slot_popElem (s : State) (c : CoreId) (e : ElemId) (ch : Nat) : (s.popElem c e ch).slot = s.slot := by
  have hcl : ∀ u : State, ∀ p n, (u.clearHead c p n).slot = u.slot := by intro u p n; unfold State.clearHead; split <;> rfl
  have hox : ∀ (u : State) (y : Cell), (u.oxConsumed y).slot = u.slot := by
    intro u y; unfold State.oxConsumed; simp only []; split <;> split <;> rfl
  have hco : ∀ (u : State) (y : Cell), (u.consume c y).slot = u.slot := by
    intro u y; unfold State.consume; simp only []; split
    · rw [hox]; rfl
    · rfl
  have hp : ∀ u : State, ∀ p n, (u.popHead c p n).slot = u.slot := by
    intro u p n; unfold State.popHead; split
    · rfl
    · rw [hco]; exact hcl _ _ _
  unfold State.popElem
  split
  · rfl
  · simp only []; rw [hp]; split <;> rfl

/-- Several channels are popped, each once. -/
theorem State.ports_popElems (c : CoreId) (e : ElemId) (l : List Nat) (hl : l.Nodup) (s : State) :
    let t := l.foldl (fun s ch => s.popElem c e ch) s
    (t.core c).ing = (s.core c).ing ∧ (t.core c).slots = (s.core c).slots ∧ t.slot = s.slot ∧
    (∀ q, q ≠ 48 + e.val → (t.core c).egAt q = (s.core c).egAt q) ∧
    ∀ n, (((t.core c).egAt (48 + e.val)).chan n).cells =
      if n ∈ l ∧ ((s.core c).head? s.slot (48 + e.val) n).isSome = true then (((s.core c).egAt (48 + e.val)).chan n).cells.tail
      else (((s.core c).egAt (48 + e.val)).chan n).cells := by
  induction l generalizing s with
  | nil => exact ⟨rfl, rfl, rfl, fun _ _ => rfl, fun n => by simp⟩
  | cons ch r ih =>
    have hr := List.nodup_cons.mp hl
    have h1 := s.ports_popElem c e ch
    obtain ⟨hi, hs, ht, hq, hn⟩ := ih hr.2 (s.popElem c e ch)
    refine ⟨hi.trans h1.1, hs.trans h1.2.1, ht.trans (by simp), fun q h => (hq q h).trans (h1.2.2.1 q h), fun n => ?_⟩
    simp only [List.foldl_cons]
    rw [hn n]
    by_cases e' : n = ch
    · subst e'
      rw [if_neg (fun h => hr.1 h.1), h1.2.2.2 n]; simp
    · have hc : ((((s.popElem c e ch).core c).egAt (48 + e.val)).chan n).cells = (((s.core c).egAt (48 + e.val)).chan n).cells := by
        rw [h1.2.2.2 n, if_neg (fun h => e' h.1)]
      have hh : ((s.popElem c e ch).core c).head? (s.popElem c e ch).slot (48 + e.val) n = (s.core c).head? s.slot (48 + e.val) n := by
        unfold Core.head?; rw [hc, State.slot_popElem]
      rw [hc, hh]; simp [e']

/-- A firing pops each channel once (R123). -/
theorem popList_nodup (x : ElemAct) (u : OpUse) (o : OpOut) : (popList x u o).Nodup := by
  unfold popList
  cases ha : srcChan? x.sa <;> cases hb : srcChan? x.sb <;> (repeat' split) <;> simp_all

/-- The channels that a firing pops (R122, R123, R140). -/
theorem mem_popList (x : ElemAct) (u : OpUse) (o : OpOut) (n : Nat) : n ∈ popList x u o ↔ pops x u o n = true := by
  unfold popList pops
  cases ha : srcChan? x.sa <;> cases hb : srcChan? x.sb <;> cases u.a <;> cases u.b <;> cases o.popA <;> cases o.popB <;>
    cases srcPops x.sa <;> cases srcPops x.sb <;> simp <;> (try split) <;> (simp_all [eq_comm]; try omega)

/-- What one destination emits: its cell stands at the end of the output buffer, for slots after this one (R122, R124). -/
theorem State.ports_emitTo (s : State) (c : CoreId) (e : ElemId) (d : BitVec 5) (tag : BitVec 3) (r : Res) :
    let t := s.emitTo c e d tag r
    (t.core c).eg = (s.core c).eg ∧ (t.core c).slots = (s.core c).slots ∧ t.slot = s.slot ∧
    (∀ q, q ≠ 48 + e.val → (t.core c).ingAt q = (s.core c).ingAt q) ∧
    ∃ l : List Offer, ((t.core c).ingAt (48 + e.val)).obuf = ((s.core c).ingAt (48 + e.val)).obuf ++ l ∧
      l.map (fun q => (q.via, q.cell.h, q.cell.data)) = (if 4 ≤ d.toNat ∧ d.toNat ≤ 7 then
        ((s.core c).outEntry? e (d.toNat - 4)).map (fun en => (Via.entry en, ({ tag := tag, key := r.v.key } : Header), r.v.data)) else none).toList ∧
      ∀ q ∈ l, q.elem = some e ∧ q.since = s.slot + 1 := by
  have hp : 48 + e.val < 128 := by omega
  have one : ∀ (u : State) (o : Offer), (u.core c).ports = (s.core c).ports → u.slot = s.slot →
      let t := u.modCore c (fun x => x.offer (48 + e.val) o)
      (t.core c).eg = (s.core c).eg ∧ (t.core c).slots = (s.core c).slots ∧ t.slot = s.slot ∧
      (∀ q, q ≠ 48 + e.val → (t.core c).ingAt q = (s.core c).ingAt q) ∧
      ((t.core c).ingAt (48 + e.val)).obuf = ((s.core c).ingAt (48 + e.val)).obuf ++ [o] := by
    intro u o hu hs
    simp only [Core.ports, Prod.mk.injEq] at hu
    refine ⟨by simp only [State.modCore_eq, State.core_setCore]; exact hu.2.1, by simp only [State.modCore_eq, State.core_setCore]; exact hu.2.2, hs,
      fun q hq => ?_, ?_⟩
    · simp only [State.modCore_eq, State.core_setCore]
      unfold Core.offer Core.modIng Core.ingAt
      rw [vmod_other _ _ _ _ _ (Ne.symm hq), hu.1]
    · simp only [State.modCore_eq, State.core_setCore]
      unfold Core.offer Core.modIng Core.ingAt
      rw [vmod_same _ _ _ _ hp, hu.1]
  unfold State.emitTo
  by_cases hd : 4 ≤ d.toNat ∧ d.toNat ≤ 7
  · simp only [if_pos hd]
    unfold State.emit
    split
    · next h => exact ⟨rfl, rfl, rfl, fun _ _ => rfl, [], by simp, by simp [h], by simp⟩
    · next en h =>
      simp only [h]
      have fin : ∀ (u : State) (o : Offer), (u.core c).ports = (s.core c).ports → u.slot = s.slot →
          (o.via, o.cell.h, o.cell.data) = (Via.entry en, ({ tag := tag, key := r.v.key } : Header), r.v.data) → o.elem = some e → o.since = s.slot + 1 →
          let t := u.modCore c (fun x => x.offer (48 + e.val) o)
          (t.core c).eg = (s.core c).eg ∧ (t.core c).slots = (s.core c).slots ∧ t.slot = s.slot ∧
          (∀ q, q ≠ 48 + e.val → (t.core c).ingAt q = (s.core c).ingAt q) ∧
          ∃ l : List Offer, ((t.core c).ingAt (48 + e.val)).obuf = ((s.core c).ingAt (48 + e.val)).obuf ++ l ∧
            l.map (fun q => (q.via, q.cell.h, q.cell.data)) = (Option.map (fun en => (Via.entry en, ({ tag := tag, key := r.v.key } : Header), r.v.data)) (some en)).toList ∧
            ∀ q ∈ l, q.elem = some e ∧ q.since = s.slot + 1 := by
        intro u o hu hs ho he hn
        obtain ⟨h1, h2, h3, h4, h5⟩ := one u o hu hs
        exact ⟨h1, h2, h3, h4, [o], h5, by simp [ho], by simpa using ⟨he, hn⟩⟩
      split
      · next kc g _ =>
        split
        · exact fin _ _ (State.ports_modStage s c kc g _) rfl rfl rfl rfl
        · exact fin s _ rfl rfl rfl rfl rfl
      · exact fin s _ rfl rfl rfl rfl rfl
  · simp only [if_neg hd]
    exact ⟨trivial, trivial, trivial, fun _ _ => trivial, [], by simp, by simp, by simp⟩

/-- The ports of the core after a firing: the channels popped, the cells emitted, nothing else (R122-R124). -/
theorem State.ports_fireStep (s : State) (x : ElemAct) (u : OpUse) (o : OpOut) :
    let c := s.fire.core
    let e := s.fire.elem
    let t := s.fireStep x u o
    (∀ n, (((t.core c).egAt (48 + e.val)).chan n).cells = if pops x u o n && (fireHead s n).isSome then
      (((s.core c).egAt (48 + e.val)).chan n).cells.tail else (((s.core c).egAt (48 + e.val)).chan n).cells) ∧
    (∃ l : List Offer, ((t.core c).ingAt (48 + e.val)).obuf = ((s.core c).ingAt (48 + e.val)).obuf ++ l ∧
      l.map (fun q => (q.via, q.cell.h, q.cell.data)) = cellsOut s x u o ∧ ∀ q ∈ l, q.elem = some e ∧ q.since = s.slot + 1) ∧
    ∀ q, q ≠ 48 + e.val → (t.core c).egAt q = (s.core c).egAt q ∧ (t.core c).ingAt q = (s.core c).ingAt q := by
  intro c e t
  have htag : s.tagOf c e x u = cellTag s x u := by
    unfold State.tagOf cellTag
    by_cases h0 : x.ta = 0
    · simp only [h0, if_true]; cases srcChan? x.sa <;> rfl
    · by_cases h9 : x.ta = 9
      · simp only [h9]
        cases u.b
        · rfl
        · cases srcChan? x.sb <;> rfl
      · rw [if_neg h0, if_neg h9]
        have a0 : x.ta.toNat ≠ 0 := fun h => h0 (by apply BitVec.eq_of_toNat_eq; simpa using h)
        have a9 : x.ta.toNat ≠ 9 := fun h => h9 (by apply BitVec.eq_of_toNat_eq; simpa using h)
        split <;> simp_all
  obtain ⟨p1, p2, p3, p4, p5⟩ := State.ports_popElems c e (popList x u o) (popList_nodup x u o) s
  generalize ha : (popList x u o).foldl (fun s ch => s.popElem c e ch) s = a at *
  let b := (a.clearSpots (destSpots c e x.da ++ destSpots c e x.db)).modCore c (fun k =>
    k.modElem e (fun el => ((el.write x.da o.ra).write x.db o.rb).setFlags o.flags))
  have hb : (b.core c).ports = (a.core c).ports ∧ b.slot = a.slot := by
    refine ⟨?_, rfl⟩
    show ((State.modCore _ c _).core c).ports = _
    simp only [State.modCore_eq, State.core_setCore]; rfl
  simp only [Core.ports, Prod.mk.injEq] at hb
  obtain ⟨q1, q2, q3, q4, l1, q5, q6, q7⟩ := b.ports_emitTo c e x.da (cellTag s x u) o.ra
  obtain ⟨r1, r2, r3, r4, l2, r5, r6, r7⟩ := (b.emitTo c e x.da (cellTag s x u) o.ra).ports_emitTo c e x.db (cellTag s x u) o.rb
  generalize hd : (b.emitTo c e x.da (cellTag s x u) o.ra).emitTo c e x.db (cellTag s x u) o.rb = d at *
  have ht : (t.core c).ports = (d.core c).ports := by
    show ((s.fireStep x u o).core c).ports = _
    unfold State.fireStep
    show ((State.modCore _ c _).core c).ports = _
    simp only [State.modCore_eq, State.core_setCore]
    rw [htag, ha]
    show (State.core (State.emitTo (State.emitTo b c e x.da (cellTag s x u) o.ra) c e x.db (cellTag s x u) o.rb) c).ports = _
    rw [hd]
  simp only [Core.ports, Prod.mk.injEq] at ht
  have heg : (t.core c).eg = (a.core c).eg := ht.2.1.trans (r1.trans (q1.trans hb.1.2.1))
  have hslots : ∀ y : State, (y.core c).slots = (s.core c).slots → ∀ k, (y.core c).outEntry? e k = (s.core c).outEntry? e k := by
    intro y hy k; unfold Core.outEntry? Core.elemCfg Core.cfg Core.activeSlot? Core.slotAt; rw [hy]
  refine ⟨fun n => ?_, ?_, fun q hq => ⟨?_, ?_⟩⟩
  · unfold Core.egAt; rw [heg]; refine (p5 n).trans ?_
    have : (n ∈ popList x u o ∧ ((s.core c).head? s.slot (48 + e.val) n).isSome = true) ↔ (pops x u o n && (fireHead s n).isSome) = true := by
      rw [mem_popList, Bool.and_eq_true]; rfl
    simp only [this]; rfl
  · refine ⟨l1 ++ l2, ?_, ?_, ?_⟩
    · unfold Core.ingAt; rw [ht.1]; refine r5.trans ?_; rw [q5, List.append_assoc]
      congr 2; unfold Core.ingAt; rw [hb.1.1, p1]
    · rw [List.map_append, q6, r6, hslots b (hb.1.2.2.trans p2), hslots _ (q2.trans (hb.1.2.2.trans p2))]
      unfold cellsOut
      simp only [List.filterMap_cons, List.filterMap_nil]
      show _ = _
      by_cases h1 : 4 ≤ x.da.toNat ∧ x.da.toNat ≤ 7 <;> by_cases h2 : 4 ≤ x.db.toNat ∧ x.db.toNat ≤ 7 <;>
        simp only [h1, h2, if_true, if_false, and_self] <;>
        cases (s.core c).outEntry? e (x.da.toNat - 4) <;> cases (s.core c).outEntry? e (x.db.toNat - 4) <;> rfl
    · intro q hq
      have hs : b.slot = s.slot := hb.2.trans p3
      rcases List.mem_append.mp hq with h | h
      · exact ⟨(q7 q h).1, (q7 q h).2.trans (by rw [hs])⟩
      · exact ⟨(r7 q h).1, (r7 q h).2.trans (by rw [q3, hs])⟩
  · unfold Core.egAt; rw [heg]; exact p4 q hq
  · unfold Core.ingAt; rw [ht.1]
    refine (r4 q hq).trans ((q4 q hq).trans ?_)
    unfold Core.ingAt; rw [hb.1.1, p1]

end Sys2Proof.Machine
end

