-- ==== Sys2Proof/Laws/Memory.lean ====
section
/-! SUPPORT. Laws of memory: read after write, and that every memory operation keeps the canonical form (addresses rising, no byte
listed that equals what an unlisted address reads as). -/

namespace Sys2Proof.Machine

/-- Every listed address of a memory in canonical form is at least that of its first entry. -/
theorem Memory.get_of_lt {m : Memory} : ∀ {x : Nat} {b : Byte}, Memory.wf ((x, b) :: m) = true → ∀ a, a < x → Memory.get ((x, b) :: m) a = 0 := by
  induction m with
  | nil => intro x b _ a h; simp [Memory.get, Nat.ne_of_gt h]
  | cons p r ih =>
    obtain ⟨y, c⟩ := p
    intro x b hw a h
    simp only [Memory.wf, Bool.and_eq_true, decide_eq_true_eq] at hw
    rw [Memory.get, if_neg (Nat.ne_of_gt h)]
    exact ih hw.2 a (Nat.lt_trans h hw.1.2)

theorem Memory.wf_tail {m : Memory} {x : Nat} {b : Byte} (h : Memory.wf ((x, b) :: m) = true) : Memory.wf m = true := by
  cases m with
  | nil => rfl
  | cons p r =>
    obtain ⟨y, c⟩ := p
    simp only [Memory.wf, Bool.and_eq_true] at h
    exact h.2

/-- An entry in front of a memory in canonical form: its byte is not zero and it lies below the next one. -/
theorem Memory.wf_cons {m : Memory} {x : Nat} {b : Byte} (hb : b ≠ 0) (hm : Memory.wf m = true)
    (hlt : ∀ y c r, m = (y, c) :: r → x < y) : Memory.wf ((x, b) :: m) = true := by
  cases m with
  | nil => simpa [Memory.wf] using hb
  | cons p r =>
    obtain ⟨y, c⟩ := p
    simp only [Memory.wf, Bool.and_eq_true, decide_eq_true_eq, bne_iff_ne]
    exact ⟨⟨hb, hlt y c r rfl⟩, hm⟩

theorem Memory.head_ne {m : Memory} {x : Nat} {b : Byte} (h : Memory.wf ((x, b) :: m) = true) : b ≠ 0 := by
  cases m with
  | nil => simpa [Memory.wf] using h
  | cons p r =>
    obtain ⟨y, c⟩ := p
    simp only [Memory.wf, Bool.and_eq_true, bne_iff_ne] at h
    exact h.1.1

theorem Memory.head_lt {r : Memory} {x y : Nat} {b c : Byte} (h : Memory.wf ((x, b) :: (y, c) :: r) = true) : x < y := by
  simp only [Memory.wf, Bool.and_eq_true, decide_eq_true_eq] at h
  exact h.1.2

/-- The first entry of a written memory lies no lower than the lower of its old first entry and the address written. -/
theorem Memory.set_head {m : Memory} {a : Nat} {v : Byte} : ∀ {y : Nat} {c : Byte} {r : Memory}, Memory.wf m = true →
    Memory.set m a v = (y, c) :: r → ∀ z, z < a → (∀ p q s, m = (p, q) :: s → z < p) → z < y := by
  intro y c r hw h z hz hm
  cases m with
  | nil =>
    simp only [Memory.set] at h
    split at h
    · cases h
    · injection h with h1 _; injection h1 with h1 _; omega
  | cons p s =>
    obtain ⟨x, b⟩ := p
    have hx := hm x b s rfl
    simp only [Memory.set] at h
    split at h
    · split at h
      · injection h with h1 _; injection h1 with h1 _; omega
      · injection h with h1 _; injection h1 with h1 _; omega
    · split at h
      · split at h
        · subst h; exact Nat.lt_trans hx (Memory.head_lt hw)
        · injection h with h1 _; injection h1 with h1 _; omega
      · injection h with h1 _; injection h1 with h1 _; omega

/-- A write keeps the canonical form. -/
theorem Memory.wf_set {m : Memory} (a : Nat) (v : Byte) (h : Memory.wf m = true) : Memory.wf (Memory.set m a v) = true := by
  induction m with
  | nil =>
    simp only [Memory.set]
    split
    · rfl
    · next hv => exact Memory.wf_cons hv rfl (by intro _ _ _ e; cases e)
  | cons p r ih =>
    obtain ⟨x, b⟩ := p
    have ht := Memory.wf_tail h
    simp only [Memory.set]
    split
    · next hlt =>
      split
      · exact h
      · next hv => exact Memory.wf_cons hv h (by intro y c s e; injection e with e _; injection e with e _; omega)
    · split
      · next heq =>
        split
        · exact ht
        · next hv => exact Memory.wf_cons hv ht (by intro y c s e; subst e; exact heq ▸ Memory.head_lt h)
      · next h1 h2 =>
        refine Memory.wf_cons (Memory.head_ne h) (ih ht) (fun y c s e => Memory.set_head ht e x (by omega) ?_)
        intro p q s e; subst e; exact Memory.head_lt h

/-- Read after write: the byte written at its address, and every other byte as before. -/
theorem Memory.get_set {m : Memory} (a : Nat) (v : Byte) (h : Memory.wf m = true) (k : Nat) :
    Memory.get (Memory.set m a v) k = if k = a then v else Memory.get m k := by
  induction m with
  | nil =>
    simp only [Memory.set]
    by_cases hv : v = 0
    · rw [if_pos hv, hv]; exact (ite_self _).symm
    · rw [if_neg hv, Memory.get]; exact if_congr eq_comm rfl rfl
  | cons p r ih =>
    obtain ⟨x, b⟩ := p
    have ht := Memory.wf_tail h
    simp only [Memory.set]
    by_cases h1 : a < x
    · rw [if_pos h1]
      by_cases hv : v = 0
      · rw [if_pos hv]
        by_cases hk : k = a
        · subst hk; rw [if_pos rfl, hv]; exact Memory.get_of_lt h k h1
        · rw [if_neg hk]
      · rw [if_neg hv, Memory.get]
        by_cases hk : k = a
        · subst hk; simp
        · rw [if_neg (Ne.symm hk), if_neg hk]
    · rw [if_neg h1]
      by_cases h2 : a = x
      · subst h2
        rw [if_pos rfl]
        by_cases hv : v = 0
        · rw [if_pos hv]
          by_cases hk : k = a
          · subst hk; rw [if_pos rfl, hv]
            cases r with
            | nil => rfl
            | cons q s => obtain ⟨y, c⟩ := q; exact Memory.get_of_lt ht k (Memory.head_lt h)
          · rw [if_neg hk, Memory.get, if_neg (Ne.symm hk)]
        · rw [if_neg hv, Memory.get, Memory.get]
          by_cases hk : k = a
          · subst hk; simp
          · rw [if_neg (Ne.symm hk), if_neg hk, if_neg (Ne.symm hk)]
      · rw [if_neg h2, Memory.get, Memory.get, ih ht]
        by_cases hk : x = k
        · subst hk; rw [if_pos rfl, if_neg (Ne.symm h2), if_pos rfl]
        · rw [if_neg hk, if_neg hk]

theorem Memory.wf_writeN (n : Nat) : ∀ (a v : Nat) (m : Memory), Memory.wf m = true → Memory.wf (Memory.writeN m a n v) = true := by
  induction n with
  | zero => intro _ _ _ h; exact h
  | succ n ih => intro a v m h; exact ih _ _ _ (Memory.wf_set _ _ h)

theorem Memory.wf_writeBytes (bs : List Byte) : ∀ (a : Nat) (m : Memory), Memory.wf m = true → Memory.wf (Memory.writeBytes m a bs) = true := by
  induction bs with
  | nil => intro _ _ h; exact h
  | cons b r ih => intro a m h; exact ih _ _ (Memory.wf_set _ _ h)

/-- A little-endian write of n bytes: byte k of the value at address a + k, and every other byte as before (R2). -/
theorem Memory.get_writeN (n : Nat) : ∀ (a v : Nat) (m : Memory), Memory.wf m = true → ∀ k,
    Memory.get (Memory.writeN m a n v) k = if a ≤ k ∧ k < a + n then BitVec.ofNat 8 (v / 256 ^ (k - a)) else Memory.get m k := by
  induction n with
  | zero => intro a v m _ k; rw [if_neg (by omega)]; rfl
  | succ n ih =>
    intro a v m h k
    rw [Memory.writeN, ih _ _ _ (Memory.wf_set _ _ h), Memory.get_set _ _ h]
    by_cases hk : k = a
    · subst hk; simp
    · by_cases hr : a + 1 ≤ k ∧ k < a + 1 + n
      · rw [if_pos hr, if_pos (by omega), Nat.div_div_eq_div_mul, ← Nat.pow_succ']
        congr 3; omega
      · rw [if_neg hr, if_neg hk, if_neg (by omega)]

/-- A write of a list of bytes: its k-th byte at address a + k, and every other byte as before. -/
theorem Memory.get_writeBytes (bs : List Byte) : ∀ (a : Nat) (m : Memory), Memory.wf m = true → ∀ k,
    Memory.get (Memory.writeBytes m a bs) k = if a ≤ k ∧ k < a + bs.length then bs.getD (k - a) 0 else Memory.get m k := by
  induction bs with
  | nil => intro a m _ k; rw [if_neg (by simp)]; rfl
  | cons b r ih =>
    intro a m h k
    rw [Memory.writeBytes, ih _ _ (Memory.wf_set _ _ h), Memory.get_set _ _ h]
    by_cases hk : k = a
    · subst hk; simp
    · by_cases hr : a + 1 ≤ k ∧ k < a + 1 + r.length
      · rw [if_pos hr, if_pos (by simp only [List.length_cons]; omega)]
        obtain ⟨j, rfl⟩ : ∃ j, k = a + 1 + j := ⟨k - (a + 1), by omega⟩
        rw [show a + 1 + j - (a + 1) = j by omega, show a + 1 + j - a = j + 1 by omega, List.getD_cons_succ]
      · rw [if_neg hr, if_neg hk, if_neg (by simp only [List.length_cons]; omega)]

/-- n bytes that are those of v, lowest first, read as v modulo 256^n (R2). -/
theorem Memory.readN_of_bytes (m : Memory) (n : Nat) : ∀ (a v : Nat),
    (∀ i, i < n → Memory.get m (a + i) = BitVec.ofNat 8 (v / 256 ^ i)) → Memory.readN m a n = v % 256 ^ n := by
  induction n with
  | zero => intro a v _; simp [Memory.readN, Nat.mod_one]
  | succ n ih =>
    intro a v h
    have h0 := h 0 (by omega)
    have hs : ∀ i, i < n → Memory.get m (a + 1 + i) = BitVec.ofNat 8 (v / 256 / 256 ^ i) := by
      intro i hi
      have := h (i + 1) (by omega)
      rw [show a + (i + 1) = a + 1 + i by omega, Nat.pow_succ', ← Nat.div_div_eq_div_mul] at this
      exact this
    rw [Memory.readN, ih _ _ hs]
    simp only [Nat.add_zero, Nat.pow_zero, Nat.div_one] at h0
    rw [h0, BitVec.toNat_ofNat, show (2 : Nat) ^ 8 = 256 by decide, Nat.pow_succ', ← Nat.mod_mul]

/-- What was written reads back. -/
theorem Memory.readN_writeN {m : Memory} (h : Memory.wf m = true) (a n v : Nat) :
    Memory.readN (Memory.writeN m a n v) a n = v % 256 ^ n := by
  refine Memory.readN_of_bytes _ n a v (fun i hi => ?_)
  rw [Memory.get_writeN _ _ _ _ h, if_pos (by omega), Nat.add_sub_cancel_left]

/-- A read depends on its own bytes alone. -/
theorem Memory.readN_congr {m m' : Memory} (n : Nat) : ∀ a, (∀ i, i < n → Memory.get m (a + i) = Memory.get m' (a + i)) →
    Memory.readN m a n = Memory.readN m' a n := by
  induction n with
  | zero => intro a _; rfl
  | succ n ih =>
    intro a h
    rw [Memory.readN, Memory.readN, show Memory.get m a = Memory.get m' a from h 0 (by omega),
      ih (a + 1) (fun i hi => by have := h (i + 1) (by omega); rwa [show a + (i + 1) = a + 1 + i by omega] at this)]

/-- A write leaves a read of other bytes alone. -/
theorem Memory.readN_writeN_ne {m : Memory} (h : Memory.wf m = true) (a n v b k : Nat) (hd : b + k ≤ a ∨ a + n ≤ b) :
    Memory.readN (Memory.writeN m a n v) b k = Memory.readN m b k :=
  Memory.readN_congr k b (fun i hi => by rw [Memory.get_writeN _ _ _ _ h, if_neg (by omega)])

/-- An entry that a clear keeps stands no lower than the memory's first entry. -/
theorem Memory.clear_head (a n : Nat) : ∀ (m : Memory) {x : Nat} {b : Byte}, Memory.wf ((x, b) :: m) = true →
    ∀ y c r, Memory.clear m a n = (y, c) :: r → x < y := by
  intro m
  induction m with
  | nil => intro x b _ y c r h; simp [Memory.clear] at h
  | cons p m ih =>
    obtain ⟨z, d⟩ := p
    intro x b hw y c r h
    simp only [Memory.clear, List.filter_cons] at h
    split at h
    · injection h with h _; injection h with h _; exact h ▸ Memory.head_lt hw
    · exact Nat.lt_trans (Memory.head_lt hw) (ih (Memory.wf_tail hw) y c r h)

theorem Memory.wf_clear (a n : Nat) : ∀ m : Memory, Memory.wf m = true → Memory.wf (Memory.clear m a n) = true := by
  intro m
  induction m with
  | nil => intro h; exact h
  | cons p m ih =>
    obtain ⟨x, b⟩ := p
    intro h
    have hm := ih (Memory.wf_tail h)
    have hh := Memory.clear_head a n m h
    simp only [Memory.clear, List.filter_cons] at hm hh ⊢
    split
    · exact Memory.wf_cons (Memory.head_ne h) hm hh
    · exact hm

theorem Memory.get_clear (a n k : Nat) : ∀ m : Memory, Memory.wf m = true →
    Memory.get (Memory.clear m a n) k = if a ≤ k ∧ k < a + n then 0 else Memory.get m k := by
  intro m
  induction m with
  | nil => intro _; simp [Memory.clear, Memory.get]
  | cons p m ih =>
    obtain ⟨x, b⟩ := p
    intro h
    have hm := ih (Memory.wf_tail h)
    have hd : ∀ k, k ≤ x → Memory.get m k = 0 := by
      intro j hj
      cases m with
      | nil => rfl
      | cons q r =>
        obtain ⟨y, c⟩ := q
        exact Memory.get_of_lt (Memory.wf_tail h) j (Nat.lt_of_le_of_lt hj (Memory.head_lt h))
    by_cases hk : a ≤ x ∧ x < a + n
    · rw [show Memory.clear ((x, b) :: m) a n = Memory.clear m a n by simp [Memory.clear, hk], hm, Memory.get]
      by_cases e : x = k
      · subst e; simp [hk]
      · rw [if_neg e]
    · rw [show Memory.clear ((x, b) :: m) a n = (x, b) :: Memory.clear m a n by
        simp only [Memory.clear, List.filter_cons]; rw [if_pos (by simp only [hk]; rfl)], Memory.get, Memory.get, hm]
      by_cases e : x = k
      · subst e; simp [hk]
      · rw [if_neg e, if_neg e]

end Sys2Proof.Machine
end

