-- ==== Sys2Proof/Laws/Ops.lean ====
section
/-! SUPPORT. What the shared operations of a sequencer word do, once each, in the terms of Sys2Proof.Claims: a later proof cites these and
does not unfold the operation. -/

namespace Sys2Proof.Machine

open Sys2Proof.Claims

theorem SameMem.of_eq {s t : State} (h : t.hbm = s.hbm) (p : t.pool = s.pool) : SameMem s t := by simp [SameMem, h, p]

@[simp] theorem SameMem.setCore (s : State) (c : CoreId) (x : Core) : SameMem s (s.setCore c x) := by simp [SameMem]

@[simp] theorem SameMem.self (s : State) : SameMem s s := by simp [SameMem]

@[simp] theorem State.me_modMe (s : State) (f : Thread → Thread) : (s.modMe f).me = f s.me := by
  simp [State.modMe_eq, State.me, State.thr]

/-- A change of the executing thread changes nothing else. -/
theorem onlyMe_modMe (s : State) (f : Thread → Thread) : OnlyMe s (s.modMe f) := by
  simp [OnlyMe, OnlyThread, State.modMe_eq]

/-- A change of one thread changes nothing else. -/
theorem onlyThread_modThr (s : State) (c : CoreId) (k : Tid) (f : Thread → Thread) : OnlyThread c k s (s.modThr c k f) := by
  simp [OnlyThread, State.thr]

theorem onlyCore_setCore (s : State) (c : CoreId) (x : Core) : OnlyCore c s (s.setCore c x) := by simp [OnlyCore]

theorem wrote_put (s : State) (d : BitVec 5) (v : Word) : Wrote s (s.put d v) d v := by
  refine ⟨onlyMe_modMe s _, fun r => ?_, ?_, ?_⟩
  · rw [State.put, State.me_modMe, ← Thread.rd_wr]; rfl
  · simp [State.put, Thread.next]
  · simp only [State.put, State.me_modMe, Thread.next]
    unfold Thread.wr; split <;> rfl

theorem wroteP_putP (s : State) (d : BitVec 3) (v : Bool) : WroteP s (s.putP d v) d v := by
  refine ⟨onlyMe_modMe s _, fun r => ?_, ?_, ?_⟩
  · rw [State.putP, State.me_modMe, ← Thread.rdP_wrP]; rfl
  · simp [State.putP, Thread.next]
  · simp only [State.putP, State.me_modMe, Thread.next]
    unfold Thread.wrP; split <;> rfl

theorem later_putLater (s : State) (d : BitVec 5) (v : Word) (n : Nat) : Later s (s.putLater d v n) d v n :=
  ⟨onlyMe_modMe s _, by simp [State.putLater]⟩

theorem parked_parkMe (s : State) (p : Pend) : Parked s (s.parkMe p) p :=
  ⟨onlyMe_modMe s _, by simp [State.parkMe, Thread.park]⟩

theorem skipped_skip (s : State) : Skipped s s.skip := ⟨onlyMe_modMe s _, by simp [State.skip, Thread.next]⟩

theorem onlyThread_finish (s : State) (c : CoreId) (k : Tid) (f : Thread → Thread) : OnlyThread c k s (s.finish c k f) :=
  onlyThread_modThr s c k _

theorem finished_finish (s : State) (c : CoreId) (k : Tid) (f : Thread → Thread) : Finished s (s.finish c k f) c k f := by
  simp [Finished, State.finish, State.thr, Thread.wake, Thread.next]

/-- A change of core c that keeps every thread but k: no other thread differs. -/
theorem thr_setCore_other (s : State) (c : CoreId) (k : Tid) (x : Core) (hx : ∀ j, j ≠ k → x.thr j = (s.core c).thr j)
    (c' : CoreId) (k' : Tid) (h : c' ≠ c ∨ k' ≠ k) : (s.setCore c x).thr c' k' = s.thr c' k' := by
  by_cases hc : c' = c
  · subst hc
    rw [State.thr_setCore, hx k' (h.resolve_left (fun e => e rfl)), State.thr]
  · rw [State.thr, State.core_setCore_ne _ _ _ _ hc, State.thr]

/-- The trap of R103. -/
theorem tookTrap_trapAt (s : State) (c : CoreId) (k : Tid) (code : BitVec 8) (eval : Word) (epc : VA) :
    TookTrap s (s.trapAt c k code eval epc) c k code eval epc := by
  by_cases h : (!(s.thr c k).cm || (s.thr c k).exl || code == kECC) = true
  · have h' : ¬((s.thr c k).cm = true ∧ (s.thr c k).exl = false ∧ code ≠ kECC) := by
      rintro ⟨a, b, e⟩; simp [a, b, e] at h
    unfold TookTrap
    rw [if_neg h']
    unfold State.trapAt
    rw [if_pos h]
    refine ⟨?_, ?_, ?_, fun r => ?_, ?_, ?_, fun c' k' hk => ?_, ?_, ?_, ?_, ?_⟩
    rotate_left 6
    · simp only [State.record, State.modCore_eq, State.setThr_eq, State.core_setCore, State.setCore_setCore]
      refine thr_setCore_other s c k _ (fun j hj => ?_) c' k' hk
      exact Core.thr_setThr_ne _ _ _ _ hj
    all_goals simp only [State.record, State.modCore_eq, State.setThr_eq, State.core_setCore, State.setCore_setCore, State.thr_setCore]
    all_goals simp [Core.thr, Core.setThr, Thread.rd, State.thr]
  · have h' : (s.thr c k).cm = true ∧ (s.thr c k).exl = false ∧ code ≠ kECC := by simpa [and_assoc] using h
    unfold TookTrap
    rw [if_pos h']
    unfold State.trapAt
    rw [if_neg h]
    refine ⟨?_, ?_, ?_, fun r => ?_, ?_, ?_, fun c' k' hk => ?_, ?_, ?_, ?_, ?_⟩
    all_goals try simp [Thread.rd, State.thr]
    refine thr_setCore_other s c k _ (fun j hj => ?_) c' k' hk
    exact Core.thr_setThr_ne _ _ _ _ hj

theorem tookTrap_trap (s : State) (code : BitVec 8) (eval : Word) :
    TookTrap s (s.trap code eval) s.cur.1 s.cur.2 code eval s.me.pc := tookTrap_trapAt s _ _ _ _ _

end Sys2Proof.Machine
end

