-- ==== Sys2Proof/Laws/Frame.lean ====
section
/-! SUPPORT. Which shared operations leave both memories: one lemma per operation, for the frames of the instructions. -/

namespace Sys2Proof.Machine

/-- The two memories of the machine as one pair: high-bandwidth memory and the pool. -/
def State.mem (s : State) : Memory × Memory := (s.hbm, s.pool)

/-- A fold of updates that each leave the memories leaves the memories. -/
theorem mem_foldl {α : Type} (f : State → α → State) (h : ∀ s a, (f s a).mem = s.mem) :
    ∀ (l : List α) (s : State), (l.foldl f s).mem = s.mem := by
  intro l
  induction l with
  | nil => intro s; rfl
  | cons a r ih => intro s; rw [List.foldl_cons, ih, h]

/-- Memories left whole are the same memories, byte by byte. -/
theorem SameMem.of_mem {s t : State} (h : t.mem = s.mem) : Sys2Proof.Claims.SameMem s t :=
  SameMem.of_eq (congrArg Prod.fst h) (congrArg Prod.snd h)

/-! Each lemma below says of one shared operation that it leaves both memories as they are. -/

@[simp] theorem State.mem_setCore (s : State) (c : CoreId) (x : Core) : (s.setCore c x).mem = s.mem := rfl
@[simp] theorem State.mem_modCore (s : State) (c : CoreId) (f : Core → Core) : (s.modCore c f).mem = s.mem := rfl
@[simp] theorem State.mem_setThr (s : State) (c : CoreId) (t : Tid) (y : Thread) : (s.setThr c t y).mem = s.mem := rfl
@[simp] theorem State.mem_modThr (s : State) (c : CoreId) (t : Tid) (f : Thread → Thread) :
    (s.modThr c t f).mem = s.mem := rfl
@[simp] theorem State.mem_modMe (s : State) (f : Thread → Thread) : (s.modMe f).mem = s.mem := rfl
@[simp] theorem State.mem_modTask (s : State) (id : TaskId) (f : Task → Task) : (s.modTask id f).mem = s.mem := rfl
@[simp] theorem State.mem_record (s : State) (c : CoreId) (kind : BitVec 8) (unit : BitVec 32) (detail : Nat) (pos arg : BitVec 64) (toFw : Bool) :
    (s.record c kind unit detail pos arg toFw).mem = s.mem := rfl
@[simp] theorem State.mem_trapAt (s : State) (c : CoreId) (t : Tid) (code : BitVec 8) (eval : Word) (epc : VA) :
    (s.trapAt c t code eval epc).mem = s.mem := by
  unfold State.trapAt; simp only []; (repeat' split) <;> simp
@[simp] theorem State.mem_trap (s : State) (code : BitVec 8) (eval : Word) : (s.trap code eval).mem = s.mem := by
  unfold State.trap; simp
@[simp] theorem State.mem_tagNext (s : State) (c : CoreId) (tag : BitVec 6) : (s.tagNext c tag).mem = s.mem := rfl
@[simp] theorem State.mem_oxConsumed (s : State) (c : Cell) : (s.oxConsumed c).mem = s.mem := by
  unfold State.oxConsumed; (repeat' split) <;> simp
@[simp] theorem State.mem_consume (s : State) (c : CoreId) (x : Cell) : (s.consume c x).mem = s.mem := by
  unfold State.consume; simp only []; split <;> simp
@[simp] theorem State.mem_tagSoon (s : State) (c : CoreId) (tag : BitVec 6) : (s.tagSoon c tag).mem = s.mem := rfl
@[simp] theorem State.mem_softHbm (s : State) (a n : Nat) : (s.softHbm a n).mem = s.mem := rfl
@[simp] theorem State.mem_walkSoft (s : State) (root va : Nat) : (s.walkSoft root va).mem = s.mem := by
  unfold State.walkSoft; rw [mem_foldl]; intros; rfl
@[simp] theorem State.mem_walked (s : State) (c : CoreId) (va : Nat) : (s.walked c va).mem = s.mem := by unfold State.walked; simp
@[simp] theorem State.mem_pathsUsed (s : State) (w : Bool) (l : List Nat) : (s.pathsUsed w l).mem = s.mem := by unfold State.pathsUsed; split <;> rfl
@[simp] theorem State.mem_linkOutUsed (s : State) (l : LinkId) : (s.linkOutUsed l).mem = s.mem := rfl
@[simp] theorem State.mem_linkInUsed (s : State) (l : LinkId) : (s.linkInUsed l).mem = s.mem := rfl
@[simp] theorem State.mem_softPool (s : State) (a n : Nat) : (s.softPool a n).mem = s.mem := by
  unfold State.softPool; rw [mem_foldl] <;> intros <;> rfl
@[simp] theorem State.mem_softAt (s : State) (l : List Spot) (f : ErrCounts → ErrCounts) : (s.softAt l f).mem = s.mem := rfl
@[simp] theorem State.mem_clearSpots (s : State) (l : List Spot) : (s.clearSpots l).mem = s.mem := rfl
@[simp] theorem State.mem_clearHead (s : State) (c : CoreId) (p ch : Nat) : (s.clearHead c p ch).mem = s.mem := by
  unfold State.clearHead; split <;> rfl
@[simp] theorem State.mem_popHead (s : State) (c : CoreId) (p ch : Nat) : (s.popHead c p ch).mem = s.mem := by
  unfold State.popHead; (repeat' split) <;> simp
@[simp] theorem State.mem_put (s : State) (d : BitVec 5) (v : Word) : (s.put d v).mem = s.mem := rfl
@[simp] theorem State.mem_putP (s : State) (d : BitVec 3) (v : Bool) : (s.putP d v).mem = s.mem := rfl
@[simp] theorem State.mem_skip (s : State) : s.skip.mem = s.mem := rfl
@[simp] theorem State.mem_putLater (s : State) (d : BitVec 5) (v : Word) (n : Nat) :
    (s.putLater d v n).mem = s.mem := rfl
@[simp] theorem State.mem_parkMe (s : State) (p : Pend) : (s.parkMe p).mem = s.mem := rfl
@[simp] theorem State.mem_finish (s : State) (c : CoreId) (t : Tid) (f : Thread → Thread) :
    (s.finish c t f).mem = s.mem := rfl
@[simp] theorem State.mem_ill (s : State) (i : Instr) (cause : Nat) : (s.ill i cause).mem = s.mem := by
  unfold State.ill; simp
@[simp] theorem State.mem_accTrap (s : State) (code : BitVec 8) (va : Nat) (k : Kind) :
    (s.accTrap code va k).mem = s.mem := by
  unfold State.accTrap; simp
@[simp] theorem State.mem_tickFresh (s : State) : s.tickFresh.mem = s.mem := rfl
@[simp] theorem State.mem_alu (s : State) (d a b : BitVec 5) (f : Word → Word → Word) :
    (s.alu d a b f).mem = s.mem := rfl
@[simp] theorem State.mem_alu1 (s : State) (d a : BitVec 5) (f : Word → Word) : (s.alu1 d a f).mem = s.mem := rfl
@[simp] theorem State.mem_cmp (s : State) (d : BitVec 3) (a b : BitVec 5) (f : Word → Word → Bool) :
    (s.cmp d a b f).mem = s.mem := rfl
@[simp] theorem State.mem_cmpi (s : State) (p : BitVec 3) (a : BitVec 5) (i : BitVec 16) (f : Word → Word → Bool) :
    (s.cmpi p a i f).mem = s.mem := rfl
@[simp] theorem State.mem_jumpReg (s : State) (v : Word) (link : Bool) : (s.jumpReg v link).mem = s.mem := by
  unfold State.jumpReg; simp only []; (repeat' split) <;> simp
@[simp] theorem State.mem_loadPA (s : State) (pa w : Nat) (sx : Bool) (d : BitVec 5) :
    (s.loadPA pa w sx d).mem = s.mem := by
  unfold State.loadPA; (repeat' split) <;> simp
@[simp] theorem State.mem_load (s : State) (d a : BitVec 5) (i : BitVec 16) (w : Nat) (sx : Bool) :
    (s.load d a i w sx).mem = s.mem := by
  unfold State.load; simp only []; (repeat' split) <;> simp
@[simp] theorem State.mem_storePA (s : State) (va pa w : Nat) (v : Word) : (s.storePA va pa w v).mem = s.mem := by
  unfold State.storePA; (repeat' split) <;> simp
@[simp] theorem State.mem_store (s : State) (d a : BitVec 5) (i : BitVec 16) (w : Nat) :
    (s.store d a i w).mem = s.mem := by
  unfold State.store; simp only []; (repeat' split) <;> simp
@[simp] theorem State.mem_popMail (s : State) (c : CoreId) (t : Tid) : (s.popMail c t).mem = s.mem := by
  unfold State.popMail; (repeat' split) <;> simp
@[simp] theorem State.mem_amo (s : State) (op : AmoOp) (d a b : BitVec 5) (sp wide : BitVec 1) :
    (s.amo op d a b sp wide).mem = s.mem := by
  unfold State.amo; simp only []; (repeat' split) <;> simp
@[simp] theorem State.mem_prefetch (s : State) (va : VA) (line : Bool) : (s.prefetch va line).mem = s.mem := by
  unfold State.prefetch; simp only []; (repeat' split) <;> simp
@[simp] theorem State.mem_rtsetRead (s : State) (c : CoreId) (t : Tid) (e : BitVec 8) (pa : Nat) :
    (s.rtsetRead c t e pa).mem = s.mem := rfl
@[simp] theorem State.mem_dbgWrite (s : State) (c : CoreId) (e : ElemId) (tgt off : Nat) (l : List Byte) : (s.dbgWrite c e tgt off l).mem = s.mem := by
  unfold State.dbgWrite; dsimp only; (repeat' split) <;> simp
@[simp] theorem State.mem_applyLate (s : State) (c : CoreId) : (s.applyLate c).mem = s.mem := by
  unfold State.applyLate
  dsimp only
  split
  · rfl
  · rw [mem_foldl]
    · rfl
    · intro s w
      cases w <;> first | rfl | exact s.mem_dbgWrite c _ _ _ _
@[simp] theorem State.mem_freezeRace (s : State) (c : CoreId) (u : Fin 2) (kind : BitVec 8) (h : Header) :
    (s.freezeRace c u kind h).mem = s.mem := rfl
@[simp] theorem State.mem_freezeBank (s : State) (c : CoreId) (b : Nat) (kind : BitVec 8) (h : Header) :
    (s.freezeBank c b kind h).mem = s.mem := rfl
@[simp] theorem State.mem_freezeMe (s : State) (c : CoreId) (kind : BitVec 8) (job : Nat) (tile path : Bool) (row : Nat) (arg : BitVec 64) :
    (s.freezeMe c kind job tile path row arg).mem = s.mem := rfl
@[simp] theorem State.mem_freezeRb (s : State) (c : CoreId) (kind : BitVec 8) (load : Bool) (record : Nat) (h : BitVec 64) :
    (s.freezeRb c kind load record h).mem = s.mem := rfl
@[simp] theorem State.mem_freezeUnit (s : State) (c : CoreId) (p : Nat) (kind : BitVec 8) (h : Header) (row : Option (Nat × Bool × Nat)) :
    (s.freezeUnit c p kind h row).mem = s.mem := by
  unfold State.freezeUnit; simp only []; (repeat' split) <;> simp
@[simp] theorem State.mem_freezeIng (s : State) (c : CoreId) (p : Nat) (kind : BitVec 8) (h : Header) (strm : Option (StrmId × Nat))
    (row : Option (Nat × Bool × Nat)) : (s.freezeIng c p kind h strm row).mem = s.mem := by
  unfold State.freezeIng; (repeat' split) <;> simp
@[simp] theorem State.mem_freezeElem (s : State) (c : CoreId) (e : ElemId) (kind : BitVec 8) (entry field : Nat) (arg : BitVec 64) :
    (s.freezeElem c e kind entry field arg).mem = s.mem := rfl
@[simp] theorem State.mem_offerTaken (s : State) (c : CoreId) (o : Offer) (copies lands : Nat) :
    (s.offerTaken c o copies lands).mem = s.mem := by
  unfold State.offerTaken; simp only []; (repeat' split) <;> simp
@[simp] theorem State.mem_countTwin (s : State) (c : CoreId) (cs : List Cell) : (s.countTwin c cs).mem = s.mem := by
  unfold State.countTwin
  refine mem_foldl _ (fun s y => ?_) _ _
  split
  · split <;> simp
  · rfl
@[simp] theorem State.mem_admit1 (s : State) (c : CoreId) (p : Nat) : (s.admit1 c p).mem = s.mem := by
  unfold State.admit1; simp only []; (repeat' split) <;> simp
@[simp] theorem State.mem_readyScell (s : State) (c : CoreId) (p : Nat) : (s.readyScell c p).mem = s.mem := by
  unfold State.readyScell; (repeat' split) <;> simp
@[simp] theorem State.mem_strmDelivered (s : State) (c : CoreId) (y : Cell) : (s.strmDelivered c y).mem = s.mem := by
  unfold State.strmDelivered; (repeat' split) <;> simp
@[simp] theorem State.mem_freezeRdv (s : State) (c : CoreId) (p : Nat) (bad : Option Cell) :
    (s.freezeRdv c p bad).mem = s.mem := rfl
@[simp] theorem State.mem_rdvDeliver (s : State) (c : CoreId) (p : Nat) (y : Cell) :
    (s.rdvDeliver c p y).mem = s.mem := by
  unfold State.rdvDeliver; simp only []; (repeat' split) <;> simp
@[simp] theorem State.mem_land (s : State) (c : CoreId) (p : Nat) (y : Cell) : (s.land c p y).mem = s.mem := by
  unfold State.land; simp only []; (repeat' split) <;> simp
@[simp] theorem State.mem_netForward (s : State) (c : CoreId) (n : Nat) : (s.netForward c n).mem = s.mem := by
  unfold State.netForward; simp only []; (repeat' split) <;> rfl
@[simp] theorem State.mem_meQueue (s : State) (j : MeJob) : (s.meQueue j).mem = s.mem := by
  unfold State.meQueue; simp only []; (repeat' split) <;> simp
@[simp] theorem State.mem_freezeMeCell (s : State) (c : CoreId) (p : Nat) (y : Cell) :
    (s.freezeMeCell c p y).mem = s.mem := rfl
@[simp] theorem State.mem_meTick (s : State) (c : CoreId) : (s.meTick c).mem = s.mem := by
  unfold State.meTick; simp only []; (repeat' split) <;> simp
@[simp] theorem State.mem_mxadpRead (s : State) (c : CoreId) (t : Tid) (slot : BitVec 4) (id : Word) (pa : Nat) :
    (s.mxadpRead c t slot id pa).mem = s.mem := rfl
@[simp] theorem State.mem_rbQueue (s : State) (kind : RbKind) (tag : Option (BitVec 6)) :
    (s.rbQueue kind tag).mem = s.mem := by
  unfold State.rbQueue; simp only []; (repeat' split) <;> simp
@[simp] theorem State.mem_rbDone (s : State) (c : CoreId) (seq : Nat) : (s.rbDone c seq).mem = s.mem := by
  unfold State.rbDone; simp only []; (repeat' split) <;> simp
@[simp] theorem State.mem_freezeRbCell (s : State) (c : CoreId) (p : Nat) (load : Bool) (y : Cell) :
    (s.freezeRbCell c p load y).mem = s.mem := rfl
@[simp] theorem State.mem_rbTake (s : State) (c : CoreId) (q n : Nat) : (s.rbTake c q n).mem = s.mem := by
  induction n generalizing s q with
  | zero => rfl
  | succ n ih =>
    simp only [State.rbTake]
    split
    · exact ih ..
    · split
      · exact ih ..
      · split
        · simp
        · split
          · split
            · simp
            · rw [ih]; simp
          · exact ih ..
@[simp] theorem State.mem_rbStartLoad (s : State) (c : CoreId) : (s.rbStartLoad c).mem = s.mem := by
  unfold State.rbStartLoad; simp only []; (repeat' split) <;> simp
@[simp] theorem State.mem_rbInput (s : State) (c : CoreId) (q n : Nat) : (s.rbInput c q n).mem = s.mem := by
  induction n generalizing s q with
  | zero => rfl
  | succ n ih =>
    simp only [State.rbInput]
    split
    · exact ih ..
    · split
      · exact ih ..
      · split
        · simp
        · split
          · rw [ih]; simp
          · exact ih ..
@[simp] theorem State.mem_popElem (s : State) (c : CoreId) (e : ElemId) (ch : Nat) :
    (s.popElem c e ch).mem = s.mem := by
  unfold State.popElem; (repeat' split) <;> simp
@[simp] theorem State.mem_emit (s : State) (c : CoreId) (e : ElemId) (k : Nat) (tag : BitVec 3) (v : Val) :
    (s.emit c e k tag v).mem = s.mem := by
  unfold State.emit; simp only []; (repeat' split) <;> simp
@[simp] theorem State.mem_emitTo (s : State) (c : CoreId) (e : ElemId) (d : BitVec 5) (tag : BitVec 3) (r : Res) :
    (s.emitTo c e d tag r).mem = s.mem := by
  unfold State.emitTo; (repeat' split) <;> simp
@[simp] theorem State.mem_fireFault (s : State) (k : OpFault) : (s.fireFault k).mem = s.mem := rfl
@[simp] theorem State.mem_fireStep (s : State) (x : ElemAct) (u : OpUse) (o : OpOut) :
    (s.fireStep x u o).mem = s.mem := by
  simp only [State.fireStep, State.mem_modCore, State.mem_emitTo]
  exact mem_foldl _ (fun s ch => State.mem_popElem s _ _ ch) _ _
@[simp] theorem State.mem_fence (s : State) (sc : Scope) : (s.fence sc).mem = s.mem := rfl
@[simp] theorem State.mem_oxdeclRead (s : State) (c : CoreId) (t : Tid) (n : BitVec 3) (pa word : Nat) :
    (s.oxdeclRead c t n pa word).mem = s.mem := by
  unfold State.oxdeclRead; simp only []; (repeat' split) <;> simp
@[simp] theorem State.mem_oxRecord (s : State) (c : CoreId) (g : StageId) (kind : BitVec 8) (toFw : Bool) :
    (s.oxRecord c g kind toFw).mem = s.mem := rfl
@[simp] theorem State.mem_oxTag (s : State) (c : CoreId) (g : StageId) : (s.oxTag c g).mem = s.mem := by
  unfold State.oxTag; (repeat' split) <;> simp
@[simp] theorem State.mem_oxTimers (s : State) (c : CoreId) : (s.oxTimers c).mem = s.mem := by
  unfold State.oxTimers
  refine mem_foldl _ (fun s g => ?_) _ _
  dsimp only
  (repeat' split) <;> rfl
@[simp] theorem State.mem_startClone (s : State) (c : CoreId) (g : StageId) : (s.startClone c g).mem = s.mem := by
  unfold State.startClone; simp only []; (repeat' split) <;> simp
@[simp] theorem State.mem_startMerge (s : State) (c : CoreId) (g : StageId) : (s.startMerge c g).mem = s.mem := by
  unfold State.startMerge; simp only []; (repeat' split) <;> simp
@[simp] theorem State.mem_mergeAll (s : State) (c : CoreId) : (s.mergeAll c).mem = s.mem := by
  unfold State.mergeAll
  refine mem_foldl _ (fun s g => ?_) _ _
  dsimp only
  split
  · rfl
  · split <;> simp
@[simp] theorem State.mem_onTenant (s : State) (ten : Tenant) (f : Core → Core) : (s.onTenant ten f).mem = s.mem := by
  unfold State.onTenant
  refine mem_foldl _ (fun s g => ?_) _ _
  split
  · split <;> rfl
  · rfl
@[simp] theorem State.mem_dropBad (s : State) (c : CoreId) (ports : List Nat) : (s.dropBad c ports).mem = s.mem := by
  unfold State.dropBad
  refine mem_foldl _ (fun s g => ?_) _ _
  split <;> simp
@[simp] theorem State.mem_resumePort (s : State) (c : CoreId) (p : Nat) : (s.resumePort c p).mem = s.mem := by
  unfold State.resumePort; simp only []; (repeat' split) <;> simp
@[simp] theorem State.mem_resumeUnit (s : State) (c : CoreId) (kind idx : Nat) :
    (s.resumeUnit c kind idx).mem = s.mem := by
  unfold State.resumeUnit; (repeat' split) <;> simp
@[simp] theorem State.mem_unitProt (s : State) (a : BitVec 5) : (s.unitProt a).mem = s.mem := by
  unfold State.unitProt; simp
@[simp] theorem State.mem_stopTask (s : State) (id : TaskId) (kind : BitVec 8) :
    (s.stopTask id kind).mem = s.mem := rfl
@[simp] theorem State.mem_wakeGroups (s : State) (id : TaskId) : (s.wakeGroups id).mem = s.mem := by
  unfold State.wakeGroups
  split
  · rfl
  · refine mem_foldl _ (fun s g => mem_foldl _ (fun s t => ?_) _ _) _ _
    split
    · split <;> simp
    · rfl
@[simp] theorem State.mem_threadExit (s : State) (c : CoreId) (t : Tid) : (s.threadExit c t).mem = s.mem := by
  unfold State.threadExit
  dsimp only
  split
  · rfl
  · split
    · rw [mem_foldl _ (fun s c => State.mem_mergeAll s c)]; rfl
    · rfl
@[simp] theorem State.mem_groupOp (s : State) (c : CoreId) (t : Tid) (k : Task) (op : GroupOp) (g : Nat) (d : BitVec 5) :
    (s.groupOp c t k op g d).mem = s.mem := by
  unfold State.groupOp; simp only []; (repeat' split) <;> simp
@[simp] theorem State.mem_groupForm (s : State) (i : Instr) (op : GroupOp) (a d : BitVec 5) :
    (s.groupForm i op a d).mem = s.mem := by
  unfold State.groupForm; simp only []; (repeat' split) <;> simp
@[simp] theorem State.mem_bindForm (s : State) (i : Instr) (fn : Nat) (p : BitVec 7) (a : BitVec 4) (tag : BitVec 6) (v : BitVec 5) :
    (s.bindForm i fn p a tag v).mem = s.mem := by
  unfold State.bindForm; simp only []; (repeat' split) <;> simp
@[simp] theorem State.mem_bindTake (s : State) (c : CoreId) (t : Tid) (r : BindReq) (own : Option Bool) :
    (s.bindTake c t r own).mem = s.mem := by
  unfold State.bindTake; simp only []; (repeat' split) <;> simp
@[simp] theorem State.mem_freezeStrm (s : State) (c : CoreId) (k : StrmId) (code : BitVec 8) (a : Nat) (wr : Bool) :
    (s.freezeStrm c k code a wr).mem = s.mem := rfl
@[simp] theorem State.mem_stopAt (s : State) (c : CoreId) (k : StrmId) (code : BitVec 8) (a : Nat) (wr : Bool) :
    (s.stopAt c k code a wr).mem = s.mem := by
  unfold State.stopAt; split <;> simp
@[simp] theorem State.mem_strmStop (s : State) (c : CoreId) (k : StrmId) (z : Acc) :
    (s.strmStop c k z).mem = s.mem := by
  unfold State.strmStop; (repeat' split) <;> simp
@[simp] theorem State.mem_storeDrn (s : State) (c : CoreId) (q : Fin 8) : (s.storeDrn c q).mem = s.mem := by
  unfold State.storeDrn; simp only []; (repeat' split) <;> simp
@[simp] theorem State.mem_spliceTake (s : State) (c : CoreId) (t : Tid) (k : StrmId) (page frame : Nat) (tag : BitVec 6) (word : Nat) :
    (s.spliceTake c t k page frame tag word).mem = s.mem := by
  unfold State.spliceTake; (repeat' split) <;> simp
@[simp] theorem State.mem_scfgTake (s : State) (c : CoreId) (t : Tid) (va : VA) (slot : Bool) (tag : BitVec 6) :
    (s.scfgTake c t va slot tag).mem = s.mem := by
  unfold State.scfgTake; simp only []; (repeat' split) <;> simp
@[simp] theorem State.mem_cfgFault (s : State) (c : CoreId) (k : StrmId) : (s.cfgFault c k).mem = s.mem := rfl
@[simp] theorem State.mem_peerSend (s : State) (ten : Tenant) (e : Edge) (type pos : Nat) (payload : List Byte) :
    (s.peerSend ten e type pos payload).mem = s.mem := by
  unfold State.peerSend; (repeat' split) <;> rfl
@[simp] theorem State.mem_edgeRecord (s : State) (c : CoreId) (k : StrmId) (kind : BitVec 8) (detail round row : Nat) (arg : BitVec 64) :
    (s.edgeRecord c k kind detail round row arg).mem = s.mem := rfl
@[simp] theorem State.mem_peerFault (s : State) (c : CoreId) (k : StrmId) (e : Edge) (code : BitVec 8) (round row : Nat) :
    (s.peerFault c k e code round row).mem = s.mem := rfl
@[simp] theorem State.mem_postVoid (s : State) (c : CoreId) (k : StrmId) (e : Edge) (round : Nat) :
    (s.postVoid c k e round).mem = s.mem := rfl
@[simp] theorem State.mem_voidRound (s : State) (c : CoreId) (k : StrmId) (round : Nat) :
    (s.voidRound c k round).mem = s.mem := by
  unfold State.voidRound; (repeat' split) <;> simp
@[simp] theorem State.mem_dropDatagram (s : State) : s.dropDatagram.mem = s.mem := rfl
theorem LinkQ.at_lt (q : LinkQ) : q.at_ < 192 := by
  have := q.link.isLt
  have := q.queue.isLt
  unfold LinkQ.at_; omega
/-- The next SEQ that a queue expects is one past the datagram's (R367). -/
@[simp] theorem State.rxNext_at (s : State) (q : LinkQ) (m : Datagram) : vget (s.rxNext q m).rxSeq q.at_ 0 = m.seq.toNat + 1 := by
  simp [State.rxNext, vget, vset, q.at_lt]
@[simp] theorem State.mem_rxNext (s : State) (q : LinkQ) (m : Datagram) : (s.rxNext q m).mem = s.mem := rfl
@[simp] theorem State.mem_commitFault (s : State) (c : CoreId) (k : StrmId) (e : Edge) (code : BitVec 8) :
    (s.commitFault c k e code).mem = s.mem := by
  unfold State.commitFault; simp
@[simp] theorem State.mem_descRead (s : State) (i : Instr) (va align : Nat) (what : Desc) :
    (s.descRead i va align what).mem = s.mem := by
  unfold State.descRead; (repeat' split) <;> simp
@[simp] theorem State.mem_sedgeRead (s : State) (c : CoreId) (t : Tid) (g : Word) (tag : BitVec 6) (pa word : Nat) :
    (s.sedgeRead c t g tag pa word).mem = s.mem := by
  unfold State.sedgeRead; simp only []; (repeat' split) <;> simp
@[simp] theorem State.mem_cancelEdge (s : State) (c : CoreId) (k : StrmId) : (s.cancelEdge c k).mem = s.mem := by
  unfold State.cancelEdge
  split
  · rfl
  · split <;> exact (mem_foldl _ (fun s r => by simp) _ _).trans (by simp)
@[simp] theorem State.mem_cancel (s : State) (c : CoreId) (k : StrmId) : (s.cancel c k).mem = s.mem := by
  unfold State.cancel; simp
@[simp] theorem State.mem_enqueue (s : State) (r : LaunchRec) : (s.enqueue r).mem = s.mem := rfl
@[simp] theorem State.mem_sendNext (s : State) (dest : Dest) (type : Nat) (ten que : Nat) (pos : Nat) (payload : List Byte) :
    (s.sendNext dest type ten que pos payload).mem = s.mem := by
  unfold State.sendNext State.send; cases dest <;> rfl
@[simp] theorem State.mem_answer (s : State) (h : Ipv6) (m : Datagram) (l : List (Except Nat TaskId)) :
    (s.answer h m l).mem = s.mem := rfl
@[simp] theorem State.mem_nextQueue (s : State) : s.nextQueue.mem = s.mem := rfl
@[simp] theorem State.mem_raiseLmax (s : State) (q limit : Nat) : (s.raiseLmax q limit).mem = s.mem := by
  simp only [State.raiseLmax, State.mem]
@[simp] theorem State.mem_ageHeads (s : State) : s.ageHeads.mem = s.mem := by
  unfold State.ageHeads; (repeat' split) <;> rfl
@[simp] theorem State.mem_toFirmware (s : State) (r : FaultRec) : (s.toFirmware r).mem = s.mem := by
  unfold State.toFirmware; (repeat' split) <;> simp
@[simp] theorem State.mem_leaveXbar (s : State) (id : TaskId) : (s.leaveXbar id).mem = s.mem := rfl
@[simp] theorem State.mem_endRecord (s : State) (t : Task) : (s.endRecord t).mem = s.mem := by
  unfold State.endRecord; (repeat' split) <;> simp
@[simp] theorem State.mem_stopCore (s : State) (c : CoreId) : (s.stopCore c).mem = s.mem := by
  unfold State.stopCore
  rw [State.mem_modCore]
  refine mem_foldl _ (fun s k => ?_) _ _
  dsimp only
  split <;> simp
@[simp] theorem State.mem_notice (s : State) (h : Ipv6) (m : Datagram) (kind : BitVec 8) :
    (s.notice h m kind).mem = s.mem := rfl
@[simp] theorem State.mem_ack (s : State) (h : Ipv6) (m : Datagram) : (s.ack h m).mem = s.mem := rfl
@[simp] theorem State.mem_dbgElem (s : State) (c : CoreId) (k : DbgCmd) :
    (s.dbgElem c k).mem = s.mem := rfl
@[simp] theorem State.mem_voidPartial (s : State) (c : CoreId) (k : StrmId) : (s.voidPartial c k).mem = s.mem := by
  unfold State.voidPartial
  split
  · rfl
  · split
    · rfl
    · exact mem_foldl _ (fun s r => State.mem_voidRound s c k r) _ _
@[simp] theorem State.mem_loseLink (s : State) (link : LinkId) : (s.loseLink link).mem = s.mem := by
  unfold State.loseLink
  refine mem_foldl _ (fun s g => ?_) _ _
  split
  · rfl
  · exact mem_foldl _ (fun s k => State.mem_voidPartial s _ k) _ _
@[simp] theorem State.mem_therm (s : State) (k temp : Nat) : (s.therm k temp).mem = s.mem := rfl
@[simp] theorem State.throttleTo_next (s : State) (k hot : Nat) : (s.throttleTo k hot).throttleNext = some (Fin.ofNat 9 k) := rfl
@[simp] theorem State.mem_throttleTo (s : State) (k hot : Nat) : (s.throttleTo k hot).mem = s.mem := rfl
@[simp] theorem State.mem_mgmtTake (s : State) (c : CoreId) : (s.mgmtTake c).mem = s.mem := by
  unfold State.mgmtTake; (repeat' split) <;> simp
@[simp] theorem State.mem_timeTick (s : State) : s.timeTick.mem = s.mem := by
  unfold State.timeTick; (repeat' split) <;> rfl
@[simp] theorem State.mem_wdogTick (s : State) : s.wdogTick.mem = s.mem := rfl
@[simp] theorem State.mem_nextAgenda (s : State) : s.nextAgenda.mem = s.mem := by
  unfold State.nextAgenda; (repeat' split) <;> rfl
end Sys2Proof.Machine
end

