-- ==== Sys2Proof/Laws/PerInstr.lean ====
section
/-! SUPPORT. The width of every instruction's encoding, constructor by constructor: a sequencer word is 32 bits (R56), an element
operation the upper half of a 64-bit entry (R54, R72). -/

namespace Sys2Proof.Laws

/-- A sequencer word is below 2^32; an element action is a multiple of 2^32 below 2^64, so a trigger half adds to it without a carry. -/
def Width.Statement (i : Instr) : Prop :=
  (∀ w, encode i = some w → w < 2 ^ 32) ∧ (∀ w, encodeAction i = some w → w % 2 ^ 32 = 0 ∧ w < 2 ^ 64)

/-- The statement from the two values that the encoders answer. -/
theorem Width.of_word {i : Instr} {w : Nat} (h : encode i = some w) (he : encodeAction i = none) (hw : w < 2 ^ 32) : Width.Statement i :=
  ⟨fun _ hv => by rw [h] at hv; exact Option.some.inj hv ▸ hw, fun _ hv => by rw [he] at hv; cases hv⟩

theorem Width.of_none {i : Instr} (h : encode i = none) (he : encodeAction i = none) : Width.Statement i :=
  ⟨fun _ hv => (by rw [h] at hv; cases hv), fun _ hv => (by rw [he] at hv; cases hv)⟩

theorem Width.of_action {i : Instr} (op : Nat) (x : ElemAct) (h : encode i = none) (he : elemOpcode i = some (op, x)) (hop : op < 256) :
    Width.Statement i := by
  refine ⟨fun _ hv => ?_, fun w hv => ?_⟩
  · rw [h] at hv; cases hv
  · simp only [encodeAction, he, Option.some.injEq] at hv
    have := x.sa.isLt; have := x.sb.isLt; have := x.da.isLt; have := x.db.isLt; have := x.ta.isLt
    subst hv
    omega

theorem Width.nop : Width.Statement (.nop) := of_word rfl rfl (by decide)
theorem Width.trap (i : BitVec 10) : Width.Statement (.trap i) := of_word rfl rfl (by omega)
theorem Width.eret : Width.Statement (.eret) := of_word rfl rfl (by decide)
theorem Width.wfe : Width.Statement (.wfe) := of_word rfl rfl (by decide)
theorem Width.fenceT : Width.Statement (.fenceT) := of_word rfl rfl (by decide)
theorem Width.fenceC : Width.Statement (.fenceC) := of_word rfl rfl (by decide)
theorem Width.fenceL : Width.Statement (.fenceL) := of_word rfl rfl (by decide)
theorem Width.fenceD : Width.Statement (.fenceD) := of_word rfl rfl (by decide)
theorem Width.fenceP : Width.Statement (.fenceP) := of_word rfl rfl (by decide)
theorem Width.fenceS : Width.Statement (.fenceS) := of_word rfl rfl (by decide)
theorem Width.mfs (d : BitVec 5) (s : BitVec 5) : Width.Statement (.mfs d s) := of_word rfl rfl (by omega)
theorem Width.mts (a : BitVec 5) (s : BitVec 5) : Width.Statement (.mts a s) := of_word rfl rfl (by omega)
theorem Width.mtsTime (a : BitVec 5) : Width.Statement (.mtsTime a) := of_word rfl rfl (by omega)
theorem Width.mtsAgelim (a : BitVec 5) : Width.Statement (.mtsAgelim a) := of_word rfl rfl (by omega)
theorem Width.mtsSpill (a : BitVec 5) : Width.Statement (.mtsSpill a) := of_word rfl rfl (by omega)
theorem Width.mtsWdog (a : BitVec 5) : Width.Statement (.mtsWdog a) := of_word rfl rfl (by omega)
theorem Width.tlbinv (d : BitVec 5) (a : BitVec 5) (b : BitVec 5) : Width.Statement (.tlbinv d a b) := of_word rfl rfl (by omega)
theorem Width.resume (a : BitVec 5) : Width.Statement (.resume a) := of_word rfl rfl (by omega)
theorem Width.kill (a : BitVec 5) : Width.Statement (.kill a) := of_word rfl rfl (by omega)
theorem Width.add (d : BitVec 5) (a : BitVec 5) (b : BitVec 5) : Width.Statement (.add d a b) := of_word rfl rfl (by omega)
theorem Width.sub (d : BitVec 5) (a : BitVec 5) (b : BitVec 5) : Width.Statement (.sub d a b) := of_word rfl rfl (by omega)
theorem Width.mul (d : BitVec 5) (a : BitVec 5) (b : BitVec 5) : Width.Statement (.mul d a b) := of_word rfl rfl (by omega)
theorem Width.mulh (d : BitVec 5) (a : BitVec 5) (b : BitVec 5) : Width.Statement (.mulh d a b) := of_word rfl rfl (by omega)
theorem Width.mulhu (d : BitVec 5) (a : BitVec 5) (b : BitVec 5) : Width.Statement (.mulhu d a b) := of_word rfl rfl (by omega)
theorem Width.div (d : BitVec 5) (a : BitVec 5) (b : BitVec 5) : Width.Statement (.div d a b) := of_word rfl rfl (by omega)
theorem Width.divu (d : BitVec 5) (a : BitVec 5) (b : BitVec 5) : Width.Statement (.divu d a b) := of_word rfl rfl (by omega)
theorem Width.rem (d : BitVec 5) (a : BitVec 5) (b : BitVec 5) : Width.Statement (.rem d a b) := of_word rfl rfl (by omega)
theorem Width.remu (d : BitVec 5) (a : BitVec 5) (b : BitVec 5) : Width.Statement (.remu d a b) := of_word rfl rfl (by omega)
theorem Width.and_ (d : BitVec 5) (a : BitVec 5) (b : BitVec 5) : Width.Statement (.and_ d a b) := of_word rfl rfl (by omega)
theorem Width.or_ (d : BitVec 5) (a : BitVec 5) (b : BitVec 5) : Width.Statement (.or_ d a b) := of_word rfl rfl (by omega)
theorem Width.xor_ (d : BitVec 5) (a : BitVec 5) (b : BitVec 5) : Width.Statement (.xor_ d a b) := of_word rfl rfl (by omega)
theorem Width.andn (d : BitVec 5) (a : BitVec 5) (b : BitVec 5) : Width.Statement (.andn d a b) := of_word rfl rfl (by omega)
theorem Width.shl (d : BitVec 5) (a : BitVec 5) (b : BitVec 5) : Width.Statement (.shl d a b) := of_word rfl rfl (by omega)
theorem Width.shr (d : BitVec 5) (a : BitVec 5) (b : BitVec 5) : Width.Statement (.shr d a b) := of_word rfl rfl (by omega)
theorem Width.sar (d : BitVec 5) (a : BitVec 5) (b : BitVec 5) : Width.Statement (.sar d a b) := of_word rfl rfl (by omega)
theorem Width.shli (d : BitVec 5) (a : BitVec 5) (n : BitVec 5) (h : BitVec 1) : Width.Statement (.shli d a n h) := of_word rfl rfl (by omega)
theorem Width.shri (d : BitVec 5) (a : BitVec 5) (n : BitVec 5) (h : BitVec 1) : Width.Statement (.shri d a n h) := of_word rfl rfl (by omega)
theorem Width.sari (d : BitVec 5) (a : BitVec 5) (n : BitVec 5) (h : BitVec 1) : Width.Statement (.sari d a n h) := of_word rfl rfl (by omega)
theorem Width.min (d : BitVec 5) (a : BitVec 5) (b : BitVec 5) : Width.Statement (.min d a b) := of_word rfl rfl (by omega)
theorem Width.max (d : BitVec 5) (a : BitVec 5) (b : BitVec 5) : Width.Statement (.max d a b) := of_word rfl rfl (by omega)
theorem Width.minu (d : BitVec 5) (a : BitVec 5) (b : BitVec 5) : Width.Statement (.minu d a b) := of_word rfl rfl (by omega)
theorem Width.maxu (d : BitVec 5) (a : BitVec 5) (b : BitVec 5) : Width.Statement (.maxu d a b) := of_word rfl rfl (by omega)
theorem Width.clz (d : BitVec 5) (a : BitVec 5) : Width.Statement (.clz d a) := of_word rfl rfl (by omega)
theorem Width.ctz (d : BitVec 5) (a : BitVec 5) : Width.Statement (.ctz d a) := of_word rfl rfl (by omega)
theorem Width.popc (d : BitVec 5) (a : BitVec 5) : Width.Statement (.popc d a) := of_word rfl rfl (by omega)
theorem Width.sextb (d : BitVec 5) (a : BitVec 5) : Width.Statement (.sextb d a) := of_word rfl rfl (by omega)
theorem Width.sexth (d : BitVec 5) (a : BitVec 5) : Width.Statement (.sexth d a) := of_word rfl rfl (by omega)
theorem Width.sextw (d : BitVec 5) (a : BitVec 5) : Width.Statement (.sextw d a) := of_word rfl rfl (by omega)
theorem Width.zextw (d : BitVec 5) (a : BitVec 5) : Width.Statement (.zextw d a) := of_word rfl rfl (by omega)
theorem Width.ceq (d : BitVec 3) (a : BitVec 5) (b : BitVec 5) : Width.Statement (.ceq d a b) := of_word rfl rfl (by omega)
theorem Width.cne (d : BitVec 3) (a : BitVec 5) (b : BitVec 5) : Width.Statement (.cne d a b) := of_word rfl rfl (by omega)
theorem Width.clt (d : BitVec 3) (a : BitVec 5) (b : BitVec 5) : Width.Statement (.clt d a b) := of_word rfl rfl (by omega)
theorem Width.cltu (d : BitVec 3) (a : BitVec 5) (b : BitVec 5) : Width.Statement (.cltu d a b) := of_word rfl rfl (by omega)
theorem Width.cle (d : BitVec 3) (a : BitVec 5) (b : BitVec 5) : Width.Statement (.cle d a b) := of_word rfl rfl (by omega)
theorem Width.cleu (d : BitVec 3) (a : BitVec 5) (b : BitVec 5) : Width.Statement (.cleu d a b) := of_word rfl rfl (by omega)
theorem Width.pand (d : BitVec 3) (a : BitVec 3) (b : BitVec 3) : Width.Statement (.pand d a b) := of_word rfl rfl (by omega)
theorem Width.por (d : BitVec 3) (a : BitVec 3) (b : BitVec 3) : Width.Statement (.por d a b) := of_word rfl rfl (by omega)
theorem Width.pxor (d : BitVec 3) (a : BitVec 3) (b : BitVec 3) : Width.Statement (.pxor d a b) := of_word rfl rfl (by omega)
theorem Width.pandn (d : BitVec 3) (a : BitVec 3) (b : BitVec 3) : Width.Statement (.pandn d a b) := of_word rfl rfl (by omega)
theorem Width.pnot (d : BitVec 3) (a : BitVec 3) : Width.Statement (.pnot d a) := of_word rfl rfl (by omega)
theorem Width.pset (d : BitVec 3) (v : BitVec 1) : Width.Statement (.pset d v) := of_word rfl rfl (by omega)
theorem Width.sel (d : BitVec 5) (a : BitVec 5) (b : BitVec 5) (p : BitVec 3) : Width.Statement (.sel d a b p) := of_word rfl rfl (by omega)
theorem Width.pmovg (d : BitVec 3) (a : BitVec 5) : Width.Statement (.pmovg d a) := of_word rfl rfl (by omega)
theorem Width.gmovp (d : BitVec 5) (a : BitVec 3) : Width.Statement (.gmovp d a) := of_word rfl rfl (by omega)
theorem Width.addi (d : BitVec 5) (a : BitVec 5) (i : BitVec 16) : Width.Statement (.addi d a i) := of_word rfl rfl (by omega)
theorem Width.andi (d : BitVec 5) (a : BitVec 5) (i : BitVec 16) : Width.Statement (.andi d a i) := of_word rfl rfl (by omega)
theorem Width.ori (d : BitVec 5) (a : BitVec 5) (i : BitVec 16) : Width.Statement (.ori d a i) := of_word rfl rfl (by omega)
theorem Width.xori (d : BitVec 5) (a : BitVec 5) (i : BitVec 16) : Width.Statement (.xori d a i) := of_word rfl rfl (by omega)
theorem Width.li (d : BitVec 5) (i : BitVec 16) : Width.Statement (.li d i) := of_word rfl rfl (by omega)
theorem Width.lih (d : BitVec 5) (i : BitVec 16) : Width.Statement (.lih d i) := of_word rfl rfl (by omega)
theorem Width.cmpiEq (p : BitVec 3) (a : BitVec 5) (i : BitVec 16) : Width.Statement (.cmpiEq p a i) := of_word rfl rfl (by omega)
theorem Width.cmpiNe (p : BitVec 3) (a : BitVec 5) (i : BitVec 16) : Width.Statement (.cmpiNe p a i) := of_word rfl rfl (by omega)
theorem Width.cmpiLt (p : BitVec 3) (a : BitVec 5) (i : BitVec 16) : Width.Statement (.cmpiLt p a i) := of_word rfl rfl (by omega)
theorem Width.cmpiLtu (p : BitVec 3) (a : BitVec 5) (i : BitVec 16) : Width.Statement (.cmpiLtu p a i) := of_word rfl rfl (by omega)
theorem Width.br (p : BitVec 3) (s : BitVec 1) (o : BitVec 22) : Width.Statement (.br p s o) := of_word rfl rfl (by omega)
theorem Width.jmp (o : BitVec 26) : Width.Statement (.jmp o) := of_word rfl rfl (by omega)
theorem Width.call (o : BitVec 26) : Width.Statement (.call o) := of_word rfl rfl (by omega)
theorem Width.jr (a : BitVec 5) : Width.Statement (.jr a) := of_word rfl rfl (by omega)
theorem Width.callr (a : BitVec 5) : Width.Statement (.callr a) := of_word rfl rfl (by omega)
theorem Width.ret : Width.Statement (.ret) := of_word rfl rfl (by decide)
theorem Width.ldb (d : BitVec 5) (a : BitVec 5) (i : BitVec 16) : Width.Statement (.ldb d a i) := of_word rfl rfl (by omega)
theorem Width.ldh (d : BitVec 5) (a : BitVec 5) (i : BitVec 16) : Width.Statement (.ldh d a i) := of_word rfl rfl (by omega)
theorem Width.ldw (d : BitVec 5) (a : BitVec 5) (i : BitVec 16) : Width.Statement (.ldw d a i) := of_word rfl rfl (by omega)
theorem Width.ldd (d : BitVec 5) (a : BitVec 5) (i : BitVec 16) : Width.Statement (.ldd d a i) := of_word rfl rfl (by omega)
theorem Width.ldbu (d : BitVec 5) (a : BitVec 5) (i : BitVec 16) : Width.Statement (.ldbu d a i) := of_word rfl rfl (by omega)
theorem Width.ldhu (d : BitVec 5) (a : BitVec 5) (i : BitVec 16) : Width.Statement (.ldhu d a i) := of_word rfl rfl (by omega)
theorem Width.ldwu (d : BitVec 5) (a : BitVec 5) (i : BitVec 16) : Width.Statement (.ldwu d a i) := of_word rfl rfl (by omega)
theorem Width.stb (d : BitVec 5) (a : BitVec 5) (i : BitVec 16) : Width.Statement (.stb d a i) := of_word rfl rfl (by omega)
theorem Width.sth (d : BitVec 5) (a : BitVec 5) (i : BitVec 16) : Width.Statement (.sth d a i) := of_word rfl rfl (by omega)
theorem Width.stw (d : BitVec 5) (a : BitVec 5) (i : BitVec 16) : Width.Statement (.stw d a i) := of_word rfl rfl (by omega)
theorem Width.std (d : BitVec 5) (a : BitVec 5) (i : BitVec 16) : Width.Statement (.std d a i) := of_word rfl rfl (by omega)
theorem Width.ldp (d : BitVec 5) (a : BitVec 5) (i : BitVec 16) : Width.Statement (.ldp d a i) := of_word rfl rfl (by omega)
theorem Width.stp (d : BitVec 5) (a : BitVec 5) (i : BitVec 16) : Width.Statement (.stp d a i) := of_word rfl rfl (by omega)
theorem Width.aadd (d : BitVec 5) (a : BitVec 5) (b : BitVec 5) (s : BitVec 1) (w : BitVec 1) : Width.Statement (.aadd d a b s w) := of_word rfl rfl (by omega)
theorem Width.aand (d : BitVec 5) (a : BitVec 5) (b : BitVec 5) (s : BitVec 1) (w : BitVec 1) : Width.Statement (.aand d a b s w) := of_word rfl rfl (by omega)
theorem Width.aor (d : BitVec 5) (a : BitVec 5) (b : BitVec 5) (s : BitVec 1) (w : BitVec 1) : Width.Statement (.aor d a b s w) := of_word rfl rfl (by omega)
theorem Width.axor (d : BitVec 5) (a : BitVec 5) (b : BitVec 5) (s : BitVec 1) (w : BitVec 1) : Width.Statement (.axor d a b s w) := of_word rfl rfl (by omega)
theorem Width.amin (d : BitVec 5) (a : BitVec 5) (b : BitVec 5) (s : BitVec 1) (w : BitVec 1) : Width.Statement (.amin d a b s w) := of_word rfl rfl (by omega)
theorem Width.amax (d : BitVec 5) (a : BitVec 5) (b : BitVec 5) (s : BitVec 1) (w : BitVec 1) : Width.Statement (.amax d a b s w) := of_word rfl rfl (by omega)
theorem Width.aminu (d : BitVec 5) (a : BitVec 5) (b : BitVec 5) (s : BitVec 1) (w : BitVec 1) : Width.Statement (.aminu d a b s w) := of_word rfl rfl (by omega)
theorem Width.amaxu (d : BitVec 5) (a : BitVec 5) (b : BitVec 5) (s : BitVec 1) (w : BitVec 1) : Width.Statement (.amaxu d a b s w) := of_word rfl rfl (by omega)
theorem Width.axchg (d : BitVec 5) (a : BitVec 5) (b : BitVec 5) (s : BitVec 1) (w : BitVec 1) : Width.Statement (.axchg d a b s w) := of_word rfl rfl (by omega)
theorem Width.acas (d : BitVec 5) (a : BitVec 5) (b : BitVec 5) (s : BitVec 1) (w : BitVec 1) : Width.Statement (.acas d a b s w) := of_word rfl rfl (by omega)
theorem Width.fxaddAmo (d : BitVec 5) (a : BitVec 5) (b : BitVec 5) (s : BitVec 1) : Width.Statement (.fxaddAmo d a b s) := of_word rfl rfl (by omega)
theorem Width.prefR (a : BitVec 5) (i : BitVec 16) : Width.Statement (.prefR a i) := of_word rfl rfl (by omega)
theorem Width.prefW (a : BitVec 5) (i : BitVec 16) : Width.Statement (.prefW a i) := of_word rfl rfl (by omega)
theorem Width.join (d : BitVec 5) (a : BitVec 5) : Width.Statement (.join d a) := of_word rfl rfl (by omega)
theorem Width.leave (a : BitVec 5) : Width.Statement (.leave a) := of_word rfl rfl (by omega)
theorem Width.arrive (a : BitVec 5) : Width.Statement (.arrive a) := of_word rfl rfl (by omega)
theorem Width.gwait (a : BitVec 5) : Width.Statement (.gwait a) := of_word rfl rfl (by omega)
theorem Width.gsize (d : BitVec 5) (a : BitVec 5) : Width.Statement (.gsize d a) := of_word rfl rfl (by omega)
theorem Width.yield : Width.Statement (.yield) := of_word rfl rfl (by decide)
theorem Width.exit : Width.Statement (.exit) := of_word rfl rfl (by decide)
theorem Width.setrole (n : BitVec 2) : Width.Statement (.setrole n) := of_word rfl rfl (by omega)
theorem Width.tidOf (d : BitVec 5) : Width.Statement (.tidOf d) := of_word rfl rfl (by omega)
theorem Width.launch (d : BitVec 5) (a : BitVec 5) : Width.Statement (.launch d a) := of_word rfl rfl (by omega)
theorem Width.twaitany (d : BitVec 5) (a : BitVec 5) : Width.Statement (.twaitany d a) := of_word rfl rfl (by omega)
theorem Width.twaitall (a : BitVec 5) : Width.Statement (.twaitall a) := of_word rfl rfl (by omega)
theorem Width.tffr (d : BitVec 5) (a : BitVec 5) : Width.Statement (.tffr d a) := of_word rfl rfl (by omega)
theorem Width.tclr (a : BitVec 5) : Width.Statement (.tclr a) := of_word rfl rfl (by omega)
theorem Width.ttest (d : BitVec 3) (a : BitVec 5) : Width.Statement (.ttest d a) := of_word rfl rfl (by omega)
theorem Width.apbase (d : BitVec 4) (a : BitVec 5) : Width.Statement (.apbase d a) := of_word rfl rfl (by omega)
theorem Width.apdim (d : BitVec 4) (a : BitVec 5) (b : BitVec 5) (n : BitVec 2) : Width.Statement (.apdim d a b n) := of_word rfl rfl (by omega)
theorem Width.apmode (d : BitVec 4) (a : BitVec 5) : Width.Statement (.apmode d a) := of_word rfl rfl (by omega)
theorem Width.apidx (d : BitVec 4) (a : BitVec 5) : Width.Statement (.apidx d a) := of_word rfl rfl (by omega)
theorem Width.apget (d : BitVec 5) (a : BitVec 4) (n : BitVec 2) : Width.Statement (.apget d a n) := of_word rfl rfl (by omega)
theorem Width.node (d : BitVec 5) (a : BitVec 5) : Width.Statement (.node d a) := of_word rfl rfl (by omega)
theorem Width.trc (a : BitVec 5) : Width.Statement (.trc a) := of_word rfl rfl (by omega)
theorem Width.walk (d : BitVec 5) (a : BitVec 5) : Width.Statement (.walk d a) := of_word rfl rfl (by omega)
theorem Width.step (a : BitVec 5) : Width.Statement (.step a) := of_word rfl rfl (by omega)
theorem Width.brk (i : BitVec 10) : Width.Statement (.brk i) := of_word rfl rfl (by omega)
theorem Width.sload (p : BitVec 7) (a : BitVec 4) (t : BitVec 6) (v : BitVec 5) : Width.Statement (.sload p a t v) := of_word rfl rfl (by omega)
theorem Width.sread (p : BitVec 7) (a : BitVec 4) (t : BitVec 6) (v : BitVec 5) : Width.Statement (.sread p a t v) := of_word rfl rfl (by omega)
theorem Width.sstore (p : BitVec 7) (a : BitVec 4) (t : BitVec 6) (v : BitVec 5) : Width.Statement (.sstore p a t v) := of_word rfl rfl (by omega)
theorem Width.sgather (p : BitVec 7) (a : BitVec 4) (t : BitVec 6) (v : BitVec 5) : Width.Statement (.sgather p a t v) := of_word rfl rfl (by omega)
theorem Width.sscatter (p : BitVec 7) (a : BitVec 4) (t : BitVec 6) (v : BitVec 5) : Width.Statement (.sscatter p a t v) := of_word rfl rfl (by omega)
theorem Width.scell (p : BitVec 7) (n : BitVec 4) (c : BitVec 3) (v : BitVec 5) : Width.Statement (.scell p n c v) := of_word rfl rfl (by omega)
theorem Width.sbar (n : BitVec 4) : Width.Statement (.sbar n) := of_word rfl rfl (by omega)
theorem Width.sdrain (c : BitVec 1) : Width.Statement (.sdrain c) := of_word rfl rfl (by omega)
theorem Width.sedge (n : BitVec 4) (t : BitVec 6) : Width.Statement (.sedge n t) := of_word rfl rfl (by omega)
theorem Width.sqry (n : BitVec 4) (t : BitVec 6) : Width.Statement (.sqry n t) := of_word rfl rfl (by omega)
theorem Width.scfg (n : BitVec 4) (t : BitVec 6) (c : BitVec 1) : Width.Statement (.scfg n t c) := of_word rfl rfl (by omega)
theorem Width.sswap (n : BitVec 4) (c : BitVec 1) : Width.Statement (.sswap n c) := of_word rfl rfl (by omega)
theorem Width.sarg (p : BitVec 7) (n : BitVec 4) : Width.Statement (.sarg p n) := of_word rfl rfl (by omega)
theorem Width.ssplice (n : BitVec 4) (t : BitVec 6) : Width.Statement (.ssplice n t) := of_word rfl rfl (by omega)
theorem Width.scancel (n : BitVec 4) (t : BitVec 6) : Width.Statement (.scancel n t) := of_word rfl rfl (by omega)
theorem Width.mxmode (f : BitVec 4) : Width.Statement (.mxmode f) := of_word rfl rfl (by omega)
theorem Width.mxpanel (n : BitVec 1) : Width.Statement (.mxpanel n) := of_word rfl rfl (by omega)
theorem Width.mxrun (a : BitVec 5) (t : BitVec 1) (m : BitVec 1) (c : BitVec 2) : Width.Statement (.mxrun a t m c) := of_word rfl rfl (by omega)
theorem Width.mxdrain (a : BitVec 5) (d : BitVec 1) (f : BitVec 4) (t : BitVec 1) : Width.Statement (.mxdrain a d f t) := of_word rfl rfl (by omega)
theorem Width.mxzero (t : BitVec 1) : Width.Statement (.mxzero t) := of_word rfl rfl (by omega)
theorem Width.mxadp (a : BitVec 5) (b : BitVec 5) (s : BitVec 4) : Width.Statement (.mxadp a b s) := of_word rfl rfl (by omega)
theorem Width.mxcode (a : BitVec 5) (i : BitVec 2) : Width.Statement (.mxcode a i) := of_word rfl rfl (by omega)
theorem Width.mxstat (a : BitVec 5) (s : BitVec 4) : Width.Statement (.mxstat a s) := of_word rfl rfl (by omega)
theorem Width.rbload (a : BitVec 5) (c : BitVec 3) : Width.Statement (.rbload a c) := of_word rfl rfl (by omega)
theorem Width.rbctx (c : BitVec 3) : Width.Statement (.rbctx c) := of_word rfl rfl (by omega)
theorem Width.rbrun (a : BitVec 5) : Width.Statement (.rbrun a) := of_word rfl rfl (by omega)
theorem Width.rbxmode (n : BitVec 3) (k : BitVec 2) (p : BitVec 3) : Width.Statement (.rbxmode n k p) := of_word rfl rfl (by omega)
theorem Width.rbstat (a : BitVec 5) (s : BitVec 4) : Width.Statement (.rbstat a s) := of_word rfl rfl (by omega)
theorem Width.oxdecl (a : BitVec 5) (s : BitVec 3) : Width.Statement (.oxdecl a s) := of_word rfl rfl (by omega)
theorem Width.oxsplit (s : BitVec 3) : Width.Statement (.oxsplit s) := of_word rfl rfl (by omega)
theorem Width.oxmerge (s : BitVec 3) : Width.Statement (.oxmerge s) := of_word rfl rfl (by omega)
theorem Width.oxpin (p : BitVec 1) (s : BitVec 3) : Width.Statement (.oxpin p s) := of_word rfl rfl (by omega)
theorem Width.oxqry (a : BitVec 5) (s : BitVec 3) : Width.Statement (.oxqry a s) := of_word rfl rfl (by omega)
theorem Width.rtset (a : BitVec 5) (e : BitVec 8) : Width.Statement (.rtset a e) := of_word rfl rfl (by omega)
theorem Width.mcset (a : BitVec 5) (b : BitVec 5) (g : BitVec 6) : Width.Statement (.mcset a b g) := of_word rfl rfl (by omega)
theorem Width.mcsetX (a : BitVec 5) (b : BitVec 5) (h : BitVec 1) (g : BitVec 6) : Width.Statement (.mcsetX a b h g) := of_word rfl rfl (by omega)
theorem Width.racecfg (a : BitVec 5) (u : BitVec 1) : Width.Statement (.racecfg a u) := of_word rfl rfl (by omega)
theorem Width.gateset (a : BitVec 5) (g : BitVec 4) : Width.Statement (.gateset a g) := of_word rfl rfl (by omega)
theorem Width.loopset (a : BitVec 5) (l : BitVec 4) : Width.Statement (.loopset a l) := of_word rfl rfl (by omega)
theorem Width.elemNop (x : ElemAct) : Width.Statement (.elemNop x) := of_action 0 x rfl rfl (by decide)
theorem Width.mov (x : ElemAct) : Width.Statement (.mov x) := of_action 1 x rfl rfl (by decide)
theorem Width.pass (x : ElemAct) : Width.Statement (.pass x) := of_action 2 x rfl rfl (by decide)
theorem Width.keyx (x : ElemAct) : Width.Statement (.keyx x) := of_action 3 x rfl rfl (by decide)
theorem Width.keys (x : ElemAct) : Width.Statement (.keys x) := of_action 4 x rfl rfl (by decide)
theorem Width.cntdn (x : ElemAct) : Width.Statement (.cntdn x) := of_action 5 x rfl rfl (by decide)
theorem Width.oxpiv (x : ElemAct) : Width.Statement (.oxpiv x) := of_action 6 x rfl rfl (by decide)
theorem Width.oxend (x : ElemAct) : Width.Statement (.oxend x) := of_action 7 x rfl rfl (by decide)
theorem Width.fadd (x : ElemAct) : Width.Statement (.fadd x) := of_action 16 x rfl rfl (by decide)
theorem Width.fsub (x : ElemAct) : Width.Statement (.fsub x) := of_action 17 x rfl rfl (by decide)
theorem Width.fmul (x : ElemAct) : Width.Statement (.fmul x) := of_action 18 x rfl rfl (by decide)
theorem Width.fma (x : ElemAct) : Width.Statement (.fma x) := of_action 19 x rfl rfl (by decide)
theorem Width.fms (x : ElemAct) : Width.Statement (.fms x) := of_action 20 x rfl rfl (by decide)
theorem Width.fmin (x : ElemAct) : Width.Statement (.fmin x) := of_action 21 x rfl rfl (by decide)
theorem Width.fmax (x : ElemAct) : Width.Statement (.fmax x) := of_action 22 x rfl rfl (by decide)
theorem Width.fabs (x : ElemAct) : Width.Statement (.fabs x) := of_action 23 x rfl rfl (by decide)
theorem Width.fneg (x : ElemAct) : Width.Statement (.fneg x) := of_action 24 x rfl rfl (by decide)
theorem Width.fscl (x : ElemAct) : Width.Statement (.fscl x) := of_action 25 x rfl rfl (by decide)
theorem Width.fred (x : ElemAct) : Width.Statement (.fred x) := of_action 26 x rfl rfl (by decide)
theorem Width.frmax (x : ElemAct) : Width.Statement (.frmax x) := of_action 27 x rfl rfl (by decide)
theorem Width.fcmpeq (x : ElemAct) : Width.Statement (.fcmpeq x) := of_action 28 x rfl rfl (by decide)
theorem Width.fcmplt (x : ElemAct) : Width.Statement (.fcmplt x) := of_action 29 x rfl rfl (by decide)
theorem Width.fcmple (x : ElemAct) : Width.Statement (.fcmple x) := of_action 30 x rfl rfl (by decide)
theorem Width.fsel (x : ElemAct) : Width.Statement (.fsel x) := of_action 31 x rfl rfl (by decide)
theorem Width.iadd (x : ElemAct) : Width.Statement (.iadd x) := of_action 32 x rfl rfl (by decide)
theorem Width.isub (x : ElemAct) : Width.Statement (.isub x) := of_action 33 x rfl rfl (by decide)
theorem Width.imul (x : ElemAct) : Width.Statement (.imul x) := of_action 34 x rfl rfl (by decide)
theorem Width.imac4 (x : ElemAct) : Width.Statement (.imac4 x) := of_action 35 x rfl rfl (by decide)
theorem Width.asub3 (x : ElemAct) : Width.Statement (.asub3 x) := of_action 36 x rfl rfl (by decide)
theorem Width.imin (x : ElemAct) : Width.Statement (.imin x) := of_action 37 x rfl rfl (by decide)
theorem Width.imax (x : ElemAct) : Width.Statement (.imax x) := of_action 38 x rfl rfl (by decide)
theorem Width.ishl (x : ElemAct) : Width.Statement (.ishl x) := of_action 39 x rfl rfl (by decide)
theorem Width.ishr (x : ElemAct) : Width.Statement (.ishr x) := of_action 40 x rfl rfl (by decide)
theorem Width.isar (x : ElemAct) : Width.Statement (.isar x) := of_action 41 x rfl rfl (by decide)
theorem Width.iand (x : ElemAct) : Width.Statement (.iand x) := of_action 42 x rfl rfl (by decide)
theorem Width.ior (x : ElemAct) : Width.Statement (.ior x) := of_action 43 x rfl rfl (by decide)
theorem Width.ixor (x : ElemAct) : Width.Statement (.ixor x) := of_action 44 x rfl rfl (by decide)
theorem Width.inot (x : ElemAct) : Width.Statement (.inot x) := of_action 45 x rfl rfl (by decide)
theorem Width.icmpeq (x : ElemAct) : Width.Statement (.icmpeq x) := of_action 46 x rfl rfl (by decide)
theorem Width.icmplt (x : ElemAct) : Width.Statement (.icmplt x) := of_action 47 x rfl rfl (by decide)
theorem Width.cvt (x : ElemAct) : Width.Statement (.cvt x) := of_action 48 x rfl rfl (by decide)
theorem Width.qnt8 (x : ElemAct) : Width.Statement (.qnt8 x) := of_action 49 x rfl rfl (by decide)
theorem Width.dqnt (x : ElemAct) : Width.Statement (.dqnt x) := of_action 50 x rfl rfl (by decide)
theorem Width.unp3 (x : ElemAct) : Width.Statement (.unp3 x) := of_action 51 x rfl rfl (by decide)
theorem Width.pk3 (x : ElemAct) : Width.Statement (.pk3 x) := of_action 52 x rfl rfl (by decide)
theorem Width.lmul (x : ElemAct) : Width.Statement (.lmul x) := of_action 53 x rfl rfl (by decide)
theorem Width.lacc (x : ElemAct) : Width.Statement (.lacc x) := of_action 54 x rfl rfl (by decide)
theorem Width.fxcvt (x : ElemAct) : Width.Statement (.fxcvt x) := of_action 55 x rfl rfl (by decide)
theorem Width.fxadd (x : ElemAct) : Width.Statement (.fxadd x) := of_action 56 x rfl rfl (by decide)
theorem Width.perm (x : ElemAct) : Width.Statement (.perm x) := of_action 57 x rfl rfl (by decide)
theorem Width.bcast (x : ElemAct) : Width.Statement (.bcast x) := of_action 58 x rfl rfl (by decide)
theorem Width.clamp (x : ElemAct) : Width.Statement (.clamp x) := of_action 59 x rfl rfl (by decide)
theorem Width.kcmp (x : ElemAct) : Width.Statement (.kcmp x) := of_action 64 x rfl rfl (by decide)
theorem Width.ksel (x : ElemAct) : Width.Statement (.ksel x) := of_action 65 x rfl rfl (by decide)
theorem Width.illDecode (w : BitVec 32) : Width.Statement (.illDecode w) := of_none rfl rfl
theorem Width.fenceComplete (c : CoreId) (t : Tid) : Width.Statement (.fenceComplete c t) := of_none rfl rfl
theorem Width.tlbinvComplete (c : CoreId) (t : Tid) : Width.Statement (.tlbinvComplete c t) := of_none rfl rfl
theorem Width.multiclockDone (c : CoreId) (t : Tid) : Width.Statement (.multiclockDone c t) := of_none rfl rfl
theorem Width.dcacheLineFill (c : CoreId) (t : Tid) : Width.Statement (.dcacheLineFill c t) := of_none rfl rfl
theorem Width.icacheLineFill (c : CoreId) (t : Tid) : Width.Statement (.icacheLineFill c t) := of_none rfl rfl
theorem Width.storePerformed (c : CoreId) : Width.Statement (.storePerformed c) := of_none rfl rfl
theorem Width.poolAccessDone (c : CoreId) (t : Tid) : Width.Statement (.poolAccessDone c t) := of_none rfl rfl
theorem Width.mailboxDelivery (c : CoreId) (q : Fin 4) : Width.Statement (.mailboxDelivery c q) := of_none rfl rfl
theorem Width.amoPerformed (c : CoreId) (t : Tid) : Width.Statement (.amoPerformed c t) := of_none rfl rfl
theorem Width.pageWalk (c : CoreId) (who : Walker) : Width.Statement (.pageWalk c who) := of_none rfl rfl
theorem Width.groupOpApplied (c : CoreId) (t : Tid) : Width.Statement (.groupOpApplied c t) := of_none rfl rfl
theorem Width.tagWaitSatisfied (c : CoreId) (t : Tid) : Width.Statement (.tagWaitSatisfied c t) := of_none rfl rfl
theorem Width.nodeRemoteReturn (c : CoreId) (t : Tid) : Width.Statement (.nodeRemoteReturn c t) := of_none rfl rfl
theorem Width.walkLink (c : CoreId) (t : Tid) : Width.Statement (.walkLink c t) := of_none rfl rfl
theorem Width.bindSlotTaken (c : CoreId) (t : Tid) : Width.Statement (.bindSlotTaken c t) := of_none rfl rfl
theorem Width.drainTokenInject (c : CoreId) (p : PortId) : Width.Statement (.drainTokenInject c p) := of_none rfl rfl
theorem Width.scfgCheckDone (c : CoreId) (k : StrmId) : Width.Statement (.scfgCheckDone c k) := of_none rfl rfl
theorem Width.scfgLoadDone (c : CoreId) (k : StrmId) : Width.Statement (.scfgLoadDone c k) := of_none rfl rfl
theorem Width.spliceDone (c : CoreId) (k : StrmId) : Width.Statement (.spliceDone c k) := of_none rfl rfl
theorem Width.streamRelease (c : CoreId) (k : StrmId) : Width.Statement (.streamRelease c k) := of_none rfl rfl
theorem Width.loaderReadIssue (c : CoreId) (k : StrmId) : Width.Statement (.loaderReadIssue c k) := of_none rfl rfl
theorem Width.loaderReadReturn (c : CoreId) (k : StrmId) : Width.Statement (.loaderReadReturn c k) := of_none rfl rfl
theorem Width.sinkCellConsume (c : CoreId) (k : StrmId) : Width.Statement (.sinkCellConsume c k) := of_none rfl rfl
theorem Width.sinkWritePerformed (c : CoreId) (k : StrmId) : Width.Statement (.sinkWritePerformed c k) := of_none rfl rfl
theorem Width.streamComplete (c : CoreId) (k : StrmId) : Width.Statement (.streamComplete c k) := of_none rfl rfl
theorem Width.meJobQueueFree (c : CoreId) (t : Tid) : Width.Statement (.meJobQueueFree c t) := of_none rfl rfl
theorem Width.meFire (c : CoreId) : Width.Statement (.meFire c) := of_none rfl rfl
theorem Width.meDrainRow (c : CoreId) : Width.Statement (.meDrainRow c) := of_none rfl rfl
theorem Width.meZeroRow (c : CoreId) : Width.Statement (.meZeroRow c) := of_none rfl rfl
theorem Width.mePanelCell (c : CoreId) (q : Fin 4) : Width.Statement (.mePanelCell c q) := of_none rfl rfl
theorem Width.mePreload (c : CoreId) (x : Fin 2) : Width.Statement (.mePreload c x) := of_none rfl rfl
theorem Width.meSteerToken (c : CoreId) (x : Fin 2) : Width.Statement (.meSteerToken c x) := of_none rfl rfl
theorem Width.mePassBoundary (c : CoreId) : Width.Statement (.mePassBoundary c) := of_none rfl rfl
theorem Width.meDrnDiscard (c : CoreId) (p : PortId) : Width.Statement (.meDrnDiscard c p) := of_none rfl rfl
theorem Width.adapterFetch (c : CoreId) : Width.Statement (.adapterFetch c) := of_none rfl rfl
theorem Width.adapterFactorCell (c : CoreId) (x : Fin 2) : Width.Statement (.adapterFactorCell c x) := of_none rfl rfl
theorem Width.rbLoadCell (c : CoreId) : Width.Statement (.rbLoadCell c) := of_none rfl rfl
theorem Width.rbLoadDone (c : CoreId) : Width.Statement (.rbLoadDone c) := of_none rfl rfl
theorem Width.rbInput (c : CoreId) : Width.Statement (.rbInput c) := of_none rfl rfl
theorem Width.rbEvalGroup (c : CoreId) : Width.Statement (.rbEvalGroup c) := of_none rfl rfl
theorem Width.rbOutput (c : CoreId) : Width.Statement (.rbOutput c) := of_none rfl rfl
theorem Width.rbRunDone (c : CoreId) : Width.Statement (.rbRunDone c) := of_none rfl rfl
theorem Width.rbContextSwitch (c : CoreId) : Width.Statement (.rbContextSwitch c) := of_none rfl rfl
theorem Width.rbModeApply (c : CoreId) : Width.Statement (.rbModeApply c) := of_none rfl rfl
theorem Width.rbPassBoundary (c : CoreId) : Width.Statement (.rbPassBoundary c) := of_none rfl rfl
theorem Width.rbDrnDiscard (c : CoreId) (p : PortId) : Width.Statement (.rbDrnDiscard c p) := of_none rfl rfl
theorem Width.overloadDetect (c : CoreId) (s : StageId) : Width.Statement (.overloadDetect c s) := of_none rfl rfl
theorem Width.underloadDetect (c : CoreId) (s : StageId) : Width.Statement (.underloadDetect c s) := of_none rfl rfl
theorem Width.oxbowApproval (c : CoreId) (s : StageId) : Width.Statement (.oxbowApproval c s) := of_none rfl rfl
theorem Width.oxbowRefusal (c : CoreId) (s : StageId) : Width.Statement (.oxbowRefusal c s) := of_none rfl rfl
theorem Width.cloneDone (c : CoreId) (s : StageId) : Width.Statement (.cloneDone c s) := of_none rfl rfl
theorem Width.splHead (c : CoreId) (e : ElemId) : Width.Statement (.splHead c e) := of_none rfl rfl
theorem Width.oxbowSwitch (c : CoreId) (s : StageId) : Width.Statement (.oxbowSwitch c s) := of_none rfl rfl
theorem Width.oxbowForward (c : CoreId) (e : ElemId) : Width.Statement (.oxbowForward c e) := of_none rfl rfl
theorem Width.rdeInject (c : CoreId) (e : ElemId) : Width.Statement (.rdeInject c e) := of_none rfl rfl
theorem Width.rdeConsumed (c : CoreId) (e : ElemId) : Width.Statement (.rdeConsumed c e) := of_none rfl rfl
theorem Width.holdRelease (c : CoreId) (e : ElemId) : Width.Statement (.holdRelease c e) := of_none rfl rfl
theorem Width.mergeStart (c : CoreId) (s : StageId) : Width.Statement (.mergeStart c s) := of_none rfl rfl
theorem Width.twinQuiescent (c : CoreId) (s : StageId) : Width.Statement (.twinQuiescent c s) := of_none rfl rfl
theorem Width.mergeDone (c : CoreId) (s : StageId) : Width.Statement (.mergeDone c s) := of_none rfl rfl
theorem Width.oxbowTagSet (c : CoreId) : Width.Statement (.oxbowTagSet c) := of_none rfl rfl
theorem Width.descriptorReadDone (c : CoreId) (t : Tid) : Width.Statement (.descriptorReadDone c t) := of_none rfl rfl
theorem Width.elementDrain (c : CoreId) (e : ElemId) : Width.Statement (.elementDrain c e) := of_none rfl rfl
theorem Width.cellAdmit (c : CoreId) (p : PortId) : Width.Statement (.cellAdmit c p) := of_none rfl rfl
theorem Width.weirMatch (c : CoreId) : Width.Statement (.weirMatch c) := of_none rfl rfl
theorem Width.cellDelivery (c : CoreId) (p : PortId) : Width.Statement (.cellDelivery c p) := of_none rfl rfl
theorem Width.rdvSetRelease (c : CoreId) (e : ElemId) : Width.Statement (.rdvSetRelease c e) := of_none rfl rfl
theorem Width.rdvStallFault (c : CoreId) (e : ElemId) : Width.Statement (.rdvStallFault c e) := of_none rfl rfl
theorem Width.loopFault (c : CoreId) (l : LoopId) : Width.Statement (.loopFault c l) := of_none rfl rfl
theorem Width.crossbarArrival (c : CoreId) (n : Fin 12) : Width.Statement (.crossbarArrival c n) := of_none rfl rfl
theorem Width.crossbarFanout (c : CoreId) (n : Fin 12) : Width.Statement (.crossbarFanout c n) := of_none rfl rfl
theorem Width.raceScore (c : CoreId) (u : Fin 2) : Width.Statement (.raceScore c u) := of_none rfl rfl
theorem Width.raceEnd (c : CoreId) (u : Fin 2) : Width.Statement (.raceEnd c u) := of_none rfl rfl
theorem Width.gateFire (c : CoreId) (g : GateId) : Width.Statement (.gateFire c g) := of_none rfl rfl
theorem Width.bankWrite (c : CoreId) (b : BankId) : Width.Statement (.bankWrite c b) := of_none rfl rfl
theorem Width.bankRead (c : CoreId) (b : BankId) : Width.Statement (.bankRead c b) := of_none rfl rfl
theorem Width.bankAdd (c : CoreId) (b : BankId) : Width.Statement (.bankAdd c b) := of_none rfl rfl
theorem Width.bankFxadd (c : CoreId) (b : BankId) : Width.Statement (.bankFxadd c b) := of_none rfl rfl
theorem Width.bankMin (c : CoreId) (b : BankId) : Width.Statement (.bankMin c b) := of_none rfl rfl
theorem Width.bankMax (c : CoreId) (b : BankId) : Width.Statement (.bankMax c b) := of_none rfl rfl
theorem Width.bankTasb (c : CoreId) (b : BankId) : Width.Statement (.bankTasb c b) := of_none rfl rfl
theorem Width.bankCas (c : CoreId) (b : BankId) : Width.Statement (.bankCas c b) := of_none rfl rfl
theorem Width.bankXchg (c : CoreId) (b : BankId) : Width.Statement (.bankXchg c b) := of_none rfl rfl
theorem Width.bankGather (c : CoreId) (b : BankId) : Width.Statement (.bankGather c b) := of_none rfl rfl
theorem Width.bankScatter (c : CoreId) (b : BankId) : Width.Statement (.bankScatter c b) := of_none rfl rfl
theorem Width.bankZero (c : CoreId) (b : BankId) : Width.Statement (.bankZero c b) := of_none rfl rfl
theorem Width.bankOwn (c : CoreId) (b : BankId) : Width.Statement (.bankOwn c b) := of_none rfl rfl
theorem Width.bankDrn (c : CoreId) (b : BankId) : Width.Statement (.bankDrn c b) := of_none rfl rfl
theorem Width.bankSreadRead (c : CoreId) (b : BankId) : Width.Statement (.bankSreadRead c b) := of_none rfl rfl
theorem Width.patrolRead (w : PatrolTarget) (corrected : Bool) : Width.Statement (.patrolRead w corrected) := of_none rfl rfl
theorem Width.faultRecordPost (c : CoreId) : Width.Statement (.faultRecordPost c) := of_none rfl rfl
theorem Width.wdogExpire (id : TaskId) : Width.Statement (.wdogExpire id) := of_none rfl rfl
theorem Width.taskStop (id : TaskId) : Width.Statement (.taskStop id) := of_none rfl rfl
theorem Width.launchReservation : Width.Statement (.launchReservation) := of_none rfl rfl
theorem Width.gangStart : Width.Statement (.gangStart) := of_none rfl rfl
theorem Width.firstIssue (id : TaskId) : Width.Statement (.firstIssue id) := of_none rfl rfl
theorem Width.taskEnd (id : TaskId) : Width.Statement (.taskEnd id) := of_none rfl rfl
theorem Width.sluiceRead (h : Ipv6) (m : Datagram) : Width.Statement (.sluiceRead h m) := of_none rfl rfl
theorem Width.attestationRead (h : Ipv6) (nonce : BitVec 256) : Width.Statement (.attestationRead h nonce) := of_none rfl rfl
theorem Width.sluiceWrite (h : Ipv6) (m : Datagram) : Width.Statement (.sluiceWrite h m) := of_none rfl rfl
theorem Width.submitLaunch (h : Ipv6) (m : Datagram) : Width.Statement (.submitLaunch h m) := of_none rfl rfl
theorem Width.submitGraph (h : Ipv6) (m : Datagram) : Width.Statement (.submitGraph h m) := of_none rfl rfl
theorem Width.timeMessage (h : Ipv6) (m : Datagram) (slewPpm : Int) : Width.Statement (.timeMessage h m slewPpm) := of_none rfl rfl
theorem Width.roundData (link : LinkId) (m : Datagram) : Width.Statement (.roundData link m) := of_none rfl rfl
theorem Width.roundCommit (c : CoreId) (k : StrmId) : Width.Statement (.roundCommit c k) := of_none rfl rfl
theorem Width.roundVoid (c : CoreId) (k : StrmId) : Width.Statement (.roundVoid c k) := of_none rfl rfl
theorem Width.peerCellSend (c : CoreId) (k : StrmId) : Width.Statement (.peerCellSend c k) := of_none rfl rfl
theorem Width.commitMsg (link : LinkId) (m : Datagram) : Width.Statement (.commitMsg link m) := of_none rfl rfl
theorem Width.voidMsg (link : LinkId) (m : Datagram) : Width.Statement (.voidMsg link m) := of_none rfl rfl
theorem Width.roundTimeout (c : CoreId) (k : StrmId) : Width.Statement (.roundTimeout c k) := of_none rfl rfl
theorem Width.ackMsg (link : LinkId) (m : Datagram) : Width.Statement (.ackMsg link m) := of_none rfl rfl
theorem Width.debugRequest (h : Ipv6) (m : Datagram) : Width.Statement (.debugRequest h m) := of_none rfl rfl
theorem Width.debugHostCommand (h : Ipv6) (m : Datagram) : Width.Statement (.debugHostCommand h m) := of_none rfl rfl
theorem Width.debugOutput (c : CoreId) : Width.Statement (.debugOutput c) := of_none rfl rfl
theorem Width.dbgWriteSt (c : CoreId) : Width.Statement (.dbgWriteSt c) := of_none rfl rfl
theorem Width.dbgWriteD (c : CoreId) : Width.Statement (.dbgWriteD c) := of_none rfl rfl
theorem Width.dbgWriteSf (c : CoreId) : Width.Statement (.dbgWriteSf c) := of_none rfl rfl
theorem Width.dbgWriteP (c : CoreId) : Width.Statement (.dbgWriteP c) := of_none rfl rfl
theorem Width.dbgWriteEsr (c : CoreId) : Width.Statement (.dbgWriteEsr c) := of_none rfl rfl
theorem Width.dbgWriteHead (c : CoreId) : Width.Statement (.dbgWriteHead c) := of_none rfl rfl
theorem Width.dbgWriteTable (c : CoreId) : Width.Statement (.dbgWriteTable c) := of_none rfl rfl
theorem Width.dbgTraceEnable (c : CoreId) : Width.Statement (.dbgTraceEnable c) := of_none rfl rfl
theorem Width.dbgSetBe (c : CoreId) : Width.Statement (.dbgSetBe c) := of_none rfl rfl
theorem Width.frameDiscard (port : EthPort) (f : Frame) : Width.Statement (.frameDiscard port f) := of_none rfl rfl
theorem Width.linkLoss (link : LinkId) : Width.Statement (.linkLoss link) := of_none rfl rfl
theorem Width.thermalReading (t0 t1 t2 t3 : Nat) : Width.Statement (.thermalReading t0 t1 t2 t3) := of_none rfl rfl
theorem Width.thermalTrip (temp : Nat) : Width.Statement (.thermalTrip temp) := of_none rfl rfl
theorem Width.thermalTripClear (temp : Nat) : Width.Statement (.thermalTripClear temp) := of_none rfl rfl
theorem Width.powerOnBoot : Width.Statement (.powerOnBoot) := of_none rfl rfl
theorem Width.firmwareModuleLoad (image : List Byte) : Width.Statement (.firmwareModuleLoad image) := of_none rfl rfl
theorem Width.moduleReset : Width.Statement (.moduleReset) := of_none rfl rfl
theorem Width.spareBringIn (r : Resource) : Width.Statement (.spareBringIn r) := of_none rfl rfl
theorem Width.regWrite (c : CoreId) (t : Tid) (sr : BitVec 5) (v : Word) : Width.Statement (.regWrite c t sr v) := of_none rfl rfl
theorem Width.tableFault : Width.Statement (.tableFault) := of_none rfl rfl
theorem Width.launchRecordQueued (c : CoreId) (t : Tid) : Width.Statement (.launchRecordQueued c t) := of_none rfl rfl
theorem Width.firmwarePolicySet (p : Policy) : Width.Statement (.firmwarePolicySet p) := of_none rfl rfl
theorem Width.datagramDiscard (m : Datagram) : Width.Statement (.datagramDiscard m) := of_none rfl rfl

end Sys2Proof.Laws
end

