-- ==== Sys2Proof/Tests/Slice0.lean ====
section
/-! SUPPORT. Tests: ill-formed terms refused, decoding of words and entries written out from the encoding tables, small steps with results from
the spec's own text, and a witness for the hypotheses of every statement. -/

namespace Sys2Proof.Tests

open Sys2Proof Sys2Proof.Machine Sys2Proof.Claims

set_option Elab.async false

/-! ## Ill-formed terms are refused, and reserved words by name -/

theorem test_ill_formed :
    WellFormed (.mfs 1 13) = false ∧ WellFormed (.mts 1 7) = false ∧ WellFormed (.mts 1 20) = false ∧ WellFormed (.sarg 47 1) = false ∧
    WellFormed (.sarg 80 1) = false ∧ WellFormed (.mxmode 7) = false ∧ WellFormed (.rbxmode 0 3 0) = false ∧
    WellFormed (.mcset 1 2 0) = false ∧ WellFormed (.mcsetX 1 2 0 0) = false ∧
    WellFormed (.fadd { sa := 24, sb := 0, da := 0, db := 0, ta := 0 }) = false ∧
    WellFormed (.mov { sa := 0, sb := 31, da := 0, db := 0, ta := 0 }) = false ∧
    WellFormed (.pass { sa := 0, sb := 0, da := 10, db := 0, ta := 0 }) = false ∧
    WellFormed (.iadd { sa := 0, sb := 0, da := 0, db := 30, ta := 0 }) = false ∧
    WellFormed (.ksel { sa := 0, sb := 0, da := 0, db := 0, ta := 10 }) = false := by decide

theorem test_reserved_words :
    decodeWord 0x54000000 = .error .reservedMajor ∧ decodeWord 0xFC000000 = .error .reservedMajor ∧
    decodeWord 0x00000160 = .error .reservedFunction ∧ decodeWord 0x04000400 = .error .reservedFunction ∧
    decodeWord 0x00000001 = .error .nonzeroField ∧ decodeWord 0x30010000 = .error .nonzeroField ∧
    decodeWord 0x000068A0 = .error .reservedSubfield ∧ decodeEntry 0xFF00000000000000 = none ∧ decodeEntry (0x10 * 2 ^ 56 + 24 * 2 ^ 51) = none := by
  decide

theorem test_table_word : decodeTableWord 32 0x04853000 = some (.add 4 5 6) ∧ decodeTableWord 64 0x104249F00BF08CE1 =
    some (.fadd { sa := 8, sb := 9, da := 4, db := 31, ta := 0 }) := by decide
/-! ## Decoding: one word of every sequencer form, its fields written out from the encoding tables (R56-R70) -/

theorem test_decode_sys_0 :
    decodeWord 0b000000_00000_00000_00000_000000_00000 = .ok (.nop) ∧
    decodeWord 0b000000_00000_11010_01011_000001_00000 = .ok (.trap 843) ∧
    decodeWord 0b000000_00000_00000_00000_000010_00000 = .ok (.eret) ∧
    decodeWord 0b000000_00000_00000_00000_000011_00000 = .ok (.wfe) ∧
    decodeWord 0b000000_00000_00000_00000_000100_00000 = .ok (.fenceT) ∧
    decodeWord 0b000000_00000_00000_00000_000100_00001 = .ok (.fenceC) ∧
    decodeWord 0b000000_00000_00000_00000_000100_00010 = .ok (.fenceL) ∧
    decodeWord 0b000000_00000_00000_00000_000100_00011 = .ok (.fenceD) ∧
    decodeWord 0b000000_00000_00000_00000_000100_00100 = .ok (.fenceP) ∧
    decodeWord 0b000000_00000_00000_00000_000100_00101 = .ok (.fenceS) ∧
    decodeWord 0b000000_01011_00000_01100_000101_00000 = .ok (.mfs 11 12) ∧
    decodeWord 0b000000_00000_01011_10001_000110_00000 = .ok (.mts 11 17) ∧
    decodeWord 0b000000_00000_01011_00111_000110_00000 = .ok (.mtsTime 11) ∧
    decodeWord 0b000000_00000_01011_10000_000110_00000 = .ok (.mtsAgelim 11) ∧
    decodeWord 0b000000_00000_01011_10010_000110_00000 = .ok (.mtsSpill 11) ∧
    decodeWord 0b000000_00000_01011_10011_000110_00000 = .ok (.mtsWdog 11) := by decide

theorem test_decode_sys_1 :
    decodeWord 0b000000_01011_10101_01001_000111_00000 = .ok (.tlbinv 11 21 9) ∧
    decodeWord 0b000000_00000_01011_00000_001000_00000 = .ok (.resume 11) ∧
    decodeWord 0b000000_00000_01011_00000_001001_00000 = .ok (.kill 11) := by decide

theorem test_decode_alu_0 :
    decodeWord 0b000001_01011_10101_01001_000000_00000 = .ok (.add 11 21 9) ∧
    decodeWord 0b000001_01011_10101_01001_000001_00000 = .ok (.sub 11 21 9) ∧
    decodeWord 0b000001_01011_10101_01001_000010_00000 = .ok (.mul 11 21 9) ∧
    decodeWord 0b000001_01011_10101_01001_000011_00000 = .ok (.mulh 11 21 9) ∧
    decodeWord 0b000001_01011_10101_01001_000100_00000 = .ok (.mulhu 11 21 9) ∧
    decodeWord 0b000001_01011_10101_01001_000101_00000 = .ok (.div 11 21 9) ∧
    decodeWord 0b000001_01011_10101_01001_000110_00000 = .ok (.divu 11 21 9) ∧
    decodeWord 0b000001_01011_10101_01001_000111_00000 = .ok (.rem 11 21 9) ∧
    decodeWord 0b000001_01011_10101_01001_001000_00000 = .ok (.remu 11 21 9) ∧
    decodeWord 0b000001_01011_10101_01001_001001_00000 = .ok (.and_ 11 21 9) ∧
    decodeWord 0b000001_01011_10101_01001_001010_00000 = .ok (.or_ 11 21 9) ∧
    decodeWord 0b000001_01011_10101_01001_001011_00000 = .ok (.xor_ 11 21 9) ∧
    decodeWord 0b000001_01011_10101_01001_001100_00000 = .ok (.andn 11 21 9) ∧
    decodeWord 0b000001_01011_10101_01001_001101_00000 = .ok (.shl 11 21 9) ∧
    decodeWord 0b000001_01011_10101_01001_001110_00000 = .ok (.shr 11 21 9) ∧
    decodeWord 0b000001_01011_10101_01001_001111_00000 = .ok (.sar 11 21 9) := by decide

theorem test_decode_alu_1 :
    decodeWord 0b000001_01011_10101_01001_010000_00001 = .ok (.shli 11 21 9 1) ∧
    decodeWord 0b000001_01011_10101_01001_010001_00001 = .ok (.shri 11 21 9 1) ∧
    decodeWord 0b000001_01011_10101_01001_010010_00001 = .ok (.sari 11 21 9 1) ∧
    decodeWord 0b000001_01011_10101_01001_010011_00000 = .ok (.min 11 21 9) ∧
    decodeWord 0b000001_01011_10101_01001_010100_00000 = .ok (.max 11 21 9) ∧
    decodeWord 0b000001_01011_10101_01001_010101_00000 = .ok (.minu 11 21 9) ∧
    decodeWord 0b000001_01011_10101_01001_010110_00000 = .ok (.maxu 11 21 9) ∧
    decodeWord 0b000001_01011_10101_00000_010111_00000 = .ok (.clz 11 21) ∧
    decodeWord 0b000001_01011_10101_00000_011000_00000 = .ok (.ctz 11 21) ∧
    decodeWord 0b000001_01011_10101_00000_011001_00000 = .ok (.popc 11 21) ∧
    decodeWord 0b000001_01011_10101_00000_011010_00000 = .ok (.sextb 11 21) ∧
    decodeWord 0b000001_01011_10101_00000_011011_00000 = .ok (.sexth 11 21) ∧
    decodeWord 0b000001_01011_10101_00000_011100_00000 = .ok (.sextw 11 21) ∧
    decodeWord 0b000001_01011_10101_00000_011101_00000 = .ok (.zextw 11 21) := by decide

theorem test_decode_cmp :
    decodeWord 0b000010_00011_10101_01001_000000_00000 = .ok (.ceq 3 21 9) ∧
    decodeWord 0b000010_00011_10101_01001_000001_00000 = .ok (.cne 3 21 9) ∧
    decodeWord 0b000010_00011_10101_01001_000010_00000 = .ok (.clt 3 21 9) ∧
    decodeWord 0b000010_00011_10101_01001_000011_00000 = .ok (.cltu 3 21 9) ∧
    decodeWord 0b000010_00011_10101_01001_000100_00000 = .ok (.cle 3 21 9) ∧
    decodeWord 0b000010_00011_10101_01001_000101_00000 = .ok (.cleu 3 21 9) := by decide

theorem test_decode_pred :
    decodeWord 0b000011_00011_00101_00001_000000_00000 = .ok (.pand 3 5 1) ∧
    decodeWord 0b000011_00011_00101_00001_000001_00000 = .ok (.por 3 5 1) ∧
    decodeWord 0b000011_00011_00101_00001_000010_00000 = .ok (.pxor 3 5 1) ∧
    decodeWord 0b000011_00011_00101_00001_000011_00000 = .ok (.pandn 3 5 1) ∧
    decodeWord 0b000011_00011_00101_00000_000100_00000 = .ok (.pnot 3 5) ∧
    decodeWord 0b000011_00011_00000_00000_000101_00001 = .ok (.pset 3 1) ∧
    decodeWord 0b000011_01011_10101_01001_000110_00011 = .ok (.sel 11 21 9 3) ∧
    decodeWord 0b000011_00011_10101_00000_000111_00000 = .ok (.pmovg 3 21) ∧
    decodeWord 0b000011_01011_00101_00000_001000_00000 = .ok (.gmovp 11 5) := by decide

theorem test_decode_imm :
    decodeWord 0b001000_01011_10101_00101_101011_01001 = .ok (.addi 11 21 11625) ∧
    decodeWord 0b001001_01011_10101_00101_101011_01001 = .ok (.andi 11 21 11625) ∧
    decodeWord 0b001010_01011_10101_00101_101011_01001 = .ok (.ori 11 21 11625) ∧
    decodeWord 0b001011_01011_10101_00101_101011_01001 = .ok (.xori 11 21 11625) ∧
    decodeWord 0b001100_01011_00000_10110_100101_10101 = .ok (.li 11 46261) ∧
    decodeWord 0b001101_01011_00000_10110_100101_10101 = .ok (.lih 11 46261) := by decide

theorem test_decode_cmpi :
    decodeWord 0b001110_01100_10101_00101_101011_01001 = .ok (.cmpiEq 3 21 11625) ∧
    decodeWord 0b001110_01101_10101_00101_101011_01001 = .ok (.cmpiNe 3 21 11625) ∧
    decodeWord 0b001110_01110_10101_00101_101011_01001 = .ok (.cmpiLt 3 21 11625) ∧
    decodeWord 0b001110_01111_10101_00101_101011_01001 = .ok (.cmpiLtu 3 21 11625) := by decide

theorem test_decode_branch :
    decodeWord 0b010000_01110_01101_00101_101011_01001 = .ok (.br 3 1 863593) ∧
    decodeWord 0b010001_00000_01011_01001_011010_01011 = .ok (.jmp 740171) ∧
    decodeWord 0b010010_00000_01011_01001_011010_01011 = .ok (.call 740171) := by decide

theorem test_decode_jreg :
    decodeWord 0b010011_00000_01011_00000_000000_00000 = .ok (.jr 11) ∧
    decodeWord 0b010011_00000_01011_00000_000001_00000 = .ok (.callr 11) ∧
    decodeWord 0b010011_00000_00000_00000_000010_00000 = .ok (.ret) := by decide

theorem test_decode_load :
    decodeWord 0b011000_01011_10101_00101_101011_01001 = .ok (.ldb 11 21 11625) ∧
    decodeWord 0b011001_01011_10101_00101_101011_01001 = .ok (.ldh 11 21 11625) ∧
    decodeWord 0b011010_01011_10101_00101_101011_01001 = .ok (.ldw 11 21 11625) ∧
    decodeWord 0b011011_01011_10101_00101_101011_01001 = .ok (.ldd 11 21 11625) ∧
    decodeWord 0b011100_01011_10101_00101_101011_01001 = .ok (.ldbu 11 21 11625) ∧
    decodeWord 0b011101_01011_10101_00101_101011_01001 = .ok (.ldhu 11 21 11625) ∧
    decodeWord 0b011110_01011_10101_00101_101011_01001 = .ok (.ldwu 11 21 11625) := by decide

theorem test_decode_store :
    decodeWord 0b100000_01011_10101_00101_101011_01001 = .ok (.stb 11 21 11625) ∧
    decodeWord 0b100001_01011_10101_00101_101011_01001 = .ok (.sth 11 21 11625) ∧
    decodeWord 0b100010_01011_10101_00101_101011_01001 = .ok (.stw 11 21 11625) ∧
    decodeWord 0b100011_01011_10101_00101_101011_01001 = .ok (.std 11 21 11625) := by decide

theorem test_decode_pool :
    decodeWord 0b100100_01011_10101_00101_101011_01001 = .ok (.ldp 11 21 11625) ∧
    decodeWord 0b100101_01011_10101_00101_101011_01001 = .ok (.stp 11 21 11625) := by decide

theorem test_decode_amo :
    decodeWord 0b100110_01011_10101_01001_000000_00011 = .ok (.aadd 11 21 9 1 1) ∧
    decodeWord 0b100110_01011_10101_01001_000001_00011 = .ok (.aand 11 21 9 1 1) ∧
    decodeWord 0b100110_01011_10101_01001_000010_00011 = .ok (.aor 11 21 9 1 1) ∧
    decodeWord 0b100110_01011_10101_01001_000011_00011 = .ok (.axor 11 21 9 1 1) ∧
    decodeWord 0b100110_01011_10101_01001_000100_00011 = .ok (.amin 11 21 9 1 1) ∧
    decodeWord 0b100110_01011_10101_01001_000101_00011 = .ok (.amax 11 21 9 1 1) ∧
    decodeWord 0b100110_01011_10101_01001_000110_00011 = .ok (.aminu 11 21 9 1 1) ∧
    decodeWord 0b100110_01011_10101_01001_000111_00011 = .ok (.amaxu 11 21 9 1 1) ∧
    decodeWord 0b100110_01011_10101_01001_001000_00011 = .ok (.axchg 11 21 9 1 1) ∧
    decodeWord 0b100110_01011_10101_01001_001001_00011 = .ok (.acas 11 21 9 1 1) ∧
    decodeWord 0b100110_01011_10101_01001_001010_00011 = .ok (.fxaddAmo 11 21 9 1) := by decide

theorem test_decode_pref :
    decodeWord 0b100111_00000_01011_10110_100101_10101 = .ok (.prefR 11 46261) ∧
    decodeWord 0b100111_00001_01011_10110_100101_10101 = .ok (.prefW 11 46261) := by decide

theorem test_decode_thr :
    decodeWord 0b101000_01011_10101_00000_000000_00000 = .ok (.join 11 21) ∧
    decodeWord 0b101000_00000_01011_00000_000001_00000 = .ok (.leave 11) ∧
    decodeWord 0b101000_00000_01011_00000_000010_00000 = .ok (.arrive 11) ∧
    decodeWord 0b101000_00000_01011_00000_000011_00000 = .ok (.gwait 11) ∧
    decodeWord 0b101000_01011_10101_00000_000100_00000 = .ok (.gsize 11 21) ∧
    decodeWord 0b101000_00000_00000_00000_000101_00000 = .ok (.yield) ∧
    decodeWord 0b101000_00000_00000_00000_000110_00000 = .ok (.exit) ∧
    decodeWord 0b101000_00000_00000_00000_000111_00001 = .ok (.setrole 1) ∧
    decodeWord 0b101000_01011_00000_00000_001000_00000 = .ok (.tidOf 11) ∧
    decodeWord 0b101000_01011_10101_00000_001001_00000 = .ok (.launch 11 21) := by decide

theorem test_decode_tags :
    decodeWord 0b101001_01011_10101_00000_000000_00000 = .ok (.twaitany 11 21) ∧
    decodeWord 0b101001_00000_01011_00000_000001_00000 = .ok (.twaitall 11) ∧
    decodeWord 0b101001_01011_10101_00000_000010_00000 = .ok (.tffr 11 21) ∧
    decodeWord 0b101001_00000_01011_00000_000011_00000 = .ok (.tclr 11) ∧
    decodeWord 0b101001_00011_10101_00000_000100_00000 = .ok (.ttest 3 21) := by decide

theorem test_decode_aps :
    decodeWord 0b101010_01011_10101_00000_000000_00000 = .ok (.apbase 11 21) ∧
    decodeWord 0b101010_01011_10101_01001_000001_00011 = .ok (.apdim 11 21 9 3) ∧
    decodeWord 0b101010_01011_10101_00000_000010_00000 = .ok (.apmode 11 21) ∧
    decodeWord 0b101010_01011_10101_00000_000011_00000 = .ok (.apidx 11 21) ∧
    decodeWord 0b101010_01011_00101_00000_000100_00001 = .ok (.apget 11 5 1) := by decide

theorem test_decode_dbg :
    decodeWord 0b111000_01011_10101_00000_000000_00000 = .ok (.node 11 21) ∧
    decodeWord 0b111000_00000_01011_00000_000001_00000 = .ok (.trc 11) ∧
    decodeWord 0b111000_01011_10101_00000_000010_00000 = .ok (.walk 11 21) ∧
    decodeWord 0b111000_00000_01011_00000_000011_00000 = .ok (.step 11) ∧
    decodeWord 0b111000_00000_11010_01011_000100_00000 = .ok (.brk 843) := by decide

theorem test_decode_strm :
    decodeWord 0b110000_00001_00101_10101_101001_11011 = .ok (.sload 75 5 41 27) ∧
    decodeWord 0b110000_00011_00101_10101_101001_11011 = .ok (.sread 75 5 41 27) ∧
    decodeWord 0b110000_00101_00101_10101_101001_11011 = .ok (.sstore 75 5 41 27) ∧
    decodeWord 0b110000_00111_00101_10101_101001_11011 = .ok (.sgather 75 5 41 27) ∧
    decodeWord 0b110000_01001_00101_10101_101001_11011 = .ok (.sscatter 75 5 41 27) ∧
    decodeWord 0b110000_01011_00101_10101_000001_11011 = .ok (.scell 75 5 1 27) ∧
    decodeWord 0b110000_01100_00000_01011_000000_00000 = .ok (.sbar 11) ∧
    decodeWord 0b110000_01110_00000_00000_000000_00001 = .ok (.sdrain 1) ∧
    decodeWord 0b110000_10000_00000_01011_110101_00000 = .ok (.sedge 11 53) ∧
    decodeWord 0b110000_10010_00000_01011_110101_00000 = .ok (.sqry 11 53) ∧
    decodeWord 0b110000_10100_00000_01011_110101_00001 = .ok (.scfg 11 53 1) ∧
    decodeWord 0b110000_10110_00000_01011_000000_00001 = .ok (.sswap 11 1) ∧
    decodeWord 0b110000_11000_11001_00101_000000_00000 = .ok (.sarg 50 5) ∧
    decodeWord 0b110000_11010_00000_01011_110101_00000 = .ok (.ssplice 11 53) ∧
    decodeWord 0b110000_11100_00000_01011_110101_00000 = .ok (.scancel 11 53) := by decide

theorem test_decode_mx :
    decodeWord 0b110001_00000_00000_00000_000000_01001 = .ok (.mxmode 9) ∧
    decodeWord 0b110001_00001_00000_00000_000000_00001 = .ok (.mxpanel 1) ∧
    decodeWord 0b110001_00010_01011_00000_000000_01111 = .ok (.mxrun 11 1 1 3) ∧
    decodeWord 0b110001_00011_01011_00000_000001_10011 = .ok (.mxdrain 11 1 9 1) ∧
    decodeWord 0b110001_00100_00000_00000_000000_00001 = .ok (.mxzero 1) ∧
    decodeWord 0b110001_00101_01011_10101_000000_01001 = .ok (.mxadp 11 21 9) ∧
    decodeWord 0b110001_00110_01011_00000_000000_00011 = .ok (.mxcode 11 3) ∧
    decodeWord 0b110001_00111_01011_00000_000000_00101 = .ok (.mxstat 11 5) := by decide

theorem test_decode_rb :
    decodeWord 0b110010_00000_01011_00000_000000_00101 = .ok (.rbload 11 5) ∧
    decodeWord 0b110010_00001_00000_00000_000000_00011 = .ok (.rbctx 3) ∧
    decodeWord 0b110010_00010_01011_00000_000000_00000 = .ok (.rbrun 11) ∧
    decodeWord 0b110010_00011_00000_00000_000011_10001 = .ok (.rbxmode 3 2 1) ∧
    decodeWord 0b110010_00100_01011_00000_000000_00101 = .ok (.rbstat 11 5) := by decide

theorem test_decode_ox :
    decodeWord 0b110011_00000_01011_00000_000000_00101 = .ok (.oxdecl 11 5) ∧
    decodeWord 0b110011_00001_00000_00000_000000_00011 = .ok (.oxsplit 3) ∧
    decodeWord 0b110011_00010_00000_00000_000000_00011 = .ok (.oxmerge 3) ∧
    decodeWord 0b110011_00011_00000_00000_000000_01101 = .ok (.oxpin 1 5) ∧
    decodeWord 0b110011_00100_01011_00000_000000_00101 = .ok (.oxqry 11 5) := by decide

theorem test_decode_rte :
    decodeWord 0b110100_00000_01011_00000_000101_10101 = .ok (.rtset 11 181) ∧
    decodeWord 0b110100_00001_01011_10101_000001_01001 = .ok (.mcset 11 21 41) ∧
    decodeWord 0b110100_00001_01011_10101_000111_01001 = .ok (.mcsetX 11 21 1 41) ∧
    decodeWord 0b110100_00010_01011_00000_000000_00001 = .ok (.racecfg 11 1) ∧
    decodeWord 0b110100_00011_01011_00000_000000_00101 = .ok (.gateset 11 5) ∧
    decodeWord 0b110100_00100_01011_00000_000000_00101 = .ok (.loopset 11 5) := by decide

/-! ## Entries: every operation of R74 over the selects of the spec's own example, SA C0.P, SB C1.P, DA O0, DB NONE, TA 0 (R71-R74) -/

def exampleAct : ElemAct := { sa := 8, sb := 9, da := 4, db := 31, ta := 0 }

/-- The entry of an OP value with those selects, over the example's trigger. -/
def exampleEntry (op : Nat) : Nat := op * 2 ^ 56 + 0b01000_01001_00100_11111_0000 * 2 ^ 32 + 0x0BF08CE1

theorem test_example_entry : exampleEntry 0x10 = 0x104249F00BF08CE1 := by decide
theorem test_example_trigger : decodeTrigger 0x104249F00BF08CE1 =
    { sv := 2, sm := 0x3F, ns := 2, rdy := 3, tch := 0, tcl := 7, pv := 0, pm := 0, en := 1 } := by decide

theorem test_decode_entry_00 :
    decodeEntry (exampleEntry 0x00) = some (.elemNop exampleAct) ∧
    decodeEntry (exampleEntry 0x01) = some (.mov exampleAct) ∧
    decodeEntry (exampleEntry 0x02) = some (.pass exampleAct) ∧
    decodeEntry (exampleEntry 0x03) = some (.keyx exampleAct) ∧
    decodeEntry (exampleEntry 0x04) = some (.keys exampleAct) ∧
    decodeEntry (exampleEntry 0x05) = some (.cntdn exampleAct) ∧
    decodeEntry (exampleEntry 0x06) = some (.oxpiv exampleAct) ∧
    decodeEntry (exampleEntry 0x07) = some (.oxend exampleAct) := by decide

theorem test_decode_entry_10 :
    decodeEntry (exampleEntry 0x10) = some (.fadd exampleAct) ∧
    decodeEntry (exampleEntry 0x11) = some (.fsub exampleAct) ∧
    decodeEntry (exampleEntry 0x12) = some (.fmul exampleAct) ∧
    decodeEntry (exampleEntry 0x13) = some (.fma exampleAct) ∧
    decodeEntry (exampleEntry 0x14) = some (.fms exampleAct) ∧
    decodeEntry (exampleEntry 0x15) = some (.fmin exampleAct) ∧
    decodeEntry (exampleEntry 0x16) = some (.fmax exampleAct) ∧
    decodeEntry (exampleEntry 0x17) = some (.fabs exampleAct) := by decide

theorem test_decode_entry_18 :
    decodeEntry (exampleEntry 0x18) = some (.fneg exampleAct) ∧
    decodeEntry (exampleEntry 0x19) = some (.fscl exampleAct) ∧
    decodeEntry (exampleEntry 0x1A) = some (.fred exampleAct) ∧
    decodeEntry (exampleEntry 0x1B) = some (.frmax exampleAct) ∧
    decodeEntry (exampleEntry 0x1C) = some (.fcmpeq exampleAct) ∧
    decodeEntry (exampleEntry 0x1D) = some (.fcmplt exampleAct) ∧
    decodeEntry (exampleEntry 0x1E) = some (.fcmple exampleAct) ∧
    decodeEntry (exampleEntry 0x1F) = some (.fsel exampleAct) := by decide

theorem test_decode_entry_20 :
    decodeEntry (exampleEntry 0x20) = some (.iadd exampleAct) ∧
    decodeEntry (exampleEntry 0x21) = some (.isub exampleAct) ∧
    decodeEntry (exampleEntry 0x22) = some (.imul exampleAct) ∧
    decodeEntry (exampleEntry 0x23) = some (.imac4 exampleAct) ∧
    decodeEntry (exampleEntry 0x24) = some (.asub3 exampleAct) ∧
    decodeEntry (exampleEntry 0x25) = some (.imin exampleAct) ∧
    decodeEntry (exampleEntry 0x26) = some (.imax exampleAct) ∧
    decodeEntry (exampleEntry 0x27) = some (.ishl exampleAct) := by decide

theorem test_decode_entry_28 :
    decodeEntry (exampleEntry 0x28) = some (.ishr exampleAct) ∧
    decodeEntry (exampleEntry 0x29) = some (.isar exampleAct) ∧
    decodeEntry (exampleEntry 0x2A) = some (.iand exampleAct) ∧
    decodeEntry (exampleEntry 0x2B) = some (.ior exampleAct) ∧
    decodeEntry (exampleEntry 0x2C) = some (.ixor exampleAct) ∧
    decodeEntry (exampleEntry 0x2D) = some (.inot exampleAct) ∧
    decodeEntry (exampleEntry 0x2E) = some (.icmpeq exampleAct) ∧
    decodeEntry (exampleEntry 0x2F) = some (.icmplt exampleAct) := by decide

theorem test_decode_entry_30 :
    decodeEntry (exampleEntry 0x30) = some (.cvt exampleAct) ∧
    decodeEntry (exampleEntry 0x31) = some (.qnt8 exampleAct) ∧
    decodeEntry (exampleEntry 0x32) = some (.dqnt exampleAct) ∧
    decodeEntry (exampleEntry 0x33) = some (.unp3 exampleAct) ∧
    decodeEntry (exampleEntry 0x34) = some (.pk3 exampleAct) ∧
    decodeEntry (exampleEntry 0x35) = some (.lmul exampleAct) ∧
    decodeEntry (exampleEntry 0x36) = some (.lacc exampleAct) ∧
    decodeEntry (exampleEntry 0x37) = some (.fxcvt exampleAct) := by decide

theorem test_decode_entry_38 :
    decodeEntry (exampleEntry 0x38) = some (.fxadd exampleAct) ∧
    decodeEntry (exampleEntry 0x39) = some (.perm exampleAct) ∧
    decodeEntry (exampleEntry 0x3A) = some (.bcast exampleAct) ∧
    decodeEntry (exampleEntry 0x3B) = some (.clamp exampleAct) := by decide

theorem test_decode_entry_40 :
    decodeEntry (exampleEntry 0x40) = some (.kcmp exampleAct) ∧
    decodeEntry (exampleEntry 0x41) = some (.ksel exampleAct) := by decide


/-! ## States for the witnesses -/

/-- A launch record on one core, two threads. -/
def rec1 : LaunchRec :=
  { cores := 1, place := none, tenant := 1, nthr := 2, scrub := false, ctlmask := 0, roles := 0, fring := none, limit := 1000,
    entry := 0x10000, trapva := 0x40000, image := 0, oxres := 0, args := Vector.replicate 8 0, prints := [], id := 1, host := none }

/-- Its task, running on core 0. -/
def task1 : Task := { lrec := rec1, cores := [0], phase := .running, startAt := 0, first := some 1, wdog := 5, groups := [] }

/-- The module after its boot, no act left in the slot. -/
def upState : State := { State.reset with boot := .running, agenda := [] }

/-- Slot 10 of that task: thread 0 of core 0 is f of a READY thread, core 0 is g of a core that holds the task. -/
def base (f : Thread → Thread) (g : Core → Core) : State :=
  { upState with tasks := [task1], slot := 10 }.setCore 0 (g ({ Core.reset with task := some 1 }.setThr 0 (f { st := .ready })))

def th (f : Thread → Thread) : State := base f id
def co (g : Core → Core) : State := base id g

/-- A thread with registers G1 and G2. -/
def two (x y : Word) : State := th (fun t => (t.wr 1 x).wr 2 y)

/-- The translation of page 0 of tenant 1 into frame 0. -/
def page0 : Xlat := { block := false, no := 0, frame := 0, w := true, x := true, dirty := true, ten := 1 }

/-! ## Witnesses -/

theorem wit_WordRoundTrip : WellFormed (.add 4 5 6) = true ∧ encode (.add 4 5 6) = some 0x04853000 := by decide

theorem wit_EntryRoundTrip :
    let i : Instr := .fadd { sa := 8, sb := 9, da := 4, db := 31, ta := 0 }
    WellFormed i = true ∧ encodeAction i = some 0x104249F000000000 ∧ (2 ^ 32 - 1 < 2 ^ 32) := by decide

theorem wit_DecodeSound : 0x04853000 < 2 ^ 32 ∧ decodeWord 0x04853000 = .ok (.add 4 5 6) := by decide

theorem wit_StepIssuesDecoded :
    let s := State.reset.withFetchWord 32 0x04853000
    s.agenda = [.issue 0] ∧ ({ s with agenda := [] } : State).issuer? 0 = some 0 ∧
    ({ s with agenda := [] } : State).fetch 0 0 = .word 0x04853000 ∧ decodeWord 0x04853000 = .ok (.add 4 5 6) := by decide +kernel

theorem wit_StepIllegalWord :
    let s := State.reset.withFetchWord 32 0x54000000
    s.agenda = [.issue 0] ∧ ({ s with agenda := [] } : State).issuer? 0 = some 0 ∧
    ({ s with agenda := [] } : State).fetch 0 0 = .word 0x54000000 ∧ decodeWord 0x54000000 = .error .reservedMajor := by decide +kernel

theorem wit_StepIssuesInPlace :
    let b (m : VA) : State :=
      base (fun t => t) (fun x => { (x.setThr 1 { st := .ready, pc := m }) with tlb := [page0], icache := [{ no := 1, data := 0 }] })
    let s (m : VA) : State := { b m with agenda := [.issue 0] }
    let p (m : VA) : State := (b m).modThr 0 0 (fun y => { y with st := .parked, pend := .ifetch 0 })
    let one := base (fun t => t) (fun x => { (x.setThr 1 { st := .idle }) with tlb := [page0] })
    (s 64).agenda = [.issue 0] ∧ ({ s 64 with agenda := [] } : State).issuer? 0 = some 0 ∧ ({ s 64 with agenda := [] } : State).fetch 0 0 = .miss 0 ∧
    (p 64).issuer? 0 = some 1 ∧ (p 64).fetch 0 1 = .word 0 ∧ decodeWord 0 = .ok .nop ∧
    one.issuer? 0 = some 0 ∧ one.fetch 0 0 = .miss 0 ∧
    (one.modThr 0 0 (fun y => { y with st := .parked, pend := .ifetch 0 })).issuer? 0 = none := by decide +kernel

theorem wit_StepFiresEntry :
    let s := State.reset.withFetchWord 64 0x100049F00BF08CE1
    s.agenda = [.fire 0 0] ∧ ({ s with agenda := [] } : State).select 0 0 = some 0 ∧ entryLegal ((s.core 0).entryAt 0 0) = true ∧
    decodeEntry ((s.core 0).entryAt 0 0) = some (.fadd { sa := 0, sb := 1, da := 4, db := 31, ta := 0 }) ∧
    ({ s with agenda := [] } : State).engineStopped 0 = false ∧
    ({ s with tasks := s.tasks.map (fun z => { z with phase := .ending }), agenda := [] } : State).engineStopped 0 = true := by decide +kernel

theorem wit_StepRunsEvent :
    ({ State.reset with agenda := [.ev (.storePerformed 0)] } : State).agenda = [.ev (.storePerformed 0)] ∧
    (Instr.storePerformed 0).event? = some (.storePerformed 0) ∧
    ({ State.reset with agenda := [.ev (.meFire 0)] } : State).agenda = [.ev (.meFire 0)] ∧ (Instr.meFire 0).event? = some (.meFire 0) ∧
    engineOf? (.meFire 0) = some 0 ∧
    ({ th id with tasks := [{ task1 with phase := .stopping 0 9 }], agenda := [] } : State).engineStopped 0 = true := by decide +kernel

theorem wit_StepEndsSlot : upState.agenda = [] := by decide +kernel

theorem wit_StepKeepsMemory : upState.memWf = true ∧ step upState = .next upState.tick := ⟨by decide +kernel, rfl⟩

theorem wit_ResetSettings : bucketCeiling 96 = some (1024, 4096) ∧ bucketCeiling 121 = some (256, 64) := by decide

theorem wit_BitCounts : (two 0 0).me.rd 1 = 0 ∧ (two 1 0).me.rd 1 ≠ 0 ∧ (two (1#64 <<< 63) 0).me.rd 1 ≠ 0 := by decide +kernel

theorem wit_Quotients :
    (two 7 0).me.rd 2 = 0 ∧ (two (BitVec.ofInt 64 (-(2 ^ 63))) (BitVec.allOnes 64)).me.rd 1 = BitVec.ofInt 64 (-(2 ^ 63)) ∧
    (two (BitVec.ofInt 64 (-(2 ^ 63))) (BitVec.allOnes 64)).me.rd 2 = BitVec.allOnes 64 ∧
    (two 7 3).me.rd 2 ≠ 0 ∧ (two 7 3).me.rd 1 ≠ BitVec.ofInt 64 (-(2 ^ 63)) ∧ (two 7 3).me.rd 1 ≠ 0 ∧ (two 0 3).me.rd 1 = 0 := by decide +kernel

theorem wit_BusyEnds :
    let s := th (fun t => { t with st := .busy, pend := .result 4 9 10 })
    let u := th (fun t => { t with st := .busy, pend := .result 4 9 11 })
    (s.thr 0 0).st = .busy ∧ (s.thr 0 0).pend = .result 4 9 10 ∧ 10 ≤ s.slot ∧
    (u.thr 0 0).st = .busy ∧ (u.thr 0 0).pend = .result 4 9 11 ∧ u.slot < 11 := by decide +kernel

theorem wit_Branches : (th id).me.pc.toNat % 4 = 0 ∧ (th (fun t => { t with pc := 0x7FFFFFFFFFFFFC })).me.pc.toNat % 4 = 0 := by
  decide +kernel

theorem wit_RegisterJumps : ((two 8 0).me.rd 1).toNat % 4 = 0 ∧ ((two 9 0).me.rd 1).toNat % 4 ≠ 0 ∧ ((two 8 0).me.rd 31).toNat % 4 = 0 ∧
    ((th (fun t => t.wr 31 3)).me.rd 31).toNat % 4 ≠ 0 := by decide +kernel

theorem wit_TrapWords : (th (fun t => { t with be := true })).me.be = true ∧ (th id).me.be = false := by decide +kernel

theorem wit_Eret : (th (fun t => { t with cm := true })).me.cm = true ∧ (th id).me.cm = false := by decide +kernel

theorem wit_WaitForms : (th (fun t => { t with ev := true })).me.ev = true ∧ (th id).me.ev = false := by decide +kernel

theorem wit_FenceEnds :
    let f (t : Thread) : Thread := { t with st := .parked, pend := .fence .d [] }
    let b : BufStore := { t := 0, va := 0, pa := 0, w := 8, v := 1 }
    let s := th f
    let u := base f (fun x => { x with wbuf := [b] })
    (s.thr 0 0).st = .parked ∧ (s.thr 0 0).pend = .fence .d [] ∧ (s.core 0).fenceMet 0 0 .d [] = true ∧
    (u.thr 0 0).st = .parked ∧ (u.thr 0 0).pend = .fence .d [] ∧ (u.core 0).fenceMet 0 0 .d [] = false := by decide +kernel

theorem wit_FencesComplete :
    let x := (th id).myCore
    x.fenceMet 0 0 .c [] = true ∧ x.fenceMet 0 0 .l [] = true ∧ x.fenceMet 0 0 .d [] = true ∧ x.fenceMet 0 0 .s [] = true ∧
    x.fenceMet 0 0 .p x.wholeRounds = true := by decide +kernel

theorem wit_ReadSpecial :
    let s := th (fun t => { t with cm := true })
    sregListed 13 = false ∧ (th id).me.cm = false ∧ s.me.cm = true ∧ s.taskOf s.cur.1 = some task1 ∧ s.myCore.task = some task1.lrec.id ∧
    task1.first = some 1 ∧ task1.phase = .running ∧
    (let e := { base (fun t => { t with cm := true }) (fun x => { x with lastTask := some (7, 3), task := none }) with tasks := [] }
     e.taskOf e.cur.1 = none ∧ e.myCore.lastTask = some (7, 3) ∧ e.me.cm = true) := by decide +kernel

theorem wit_WriteRegisters : sregListed 31 = false ∧ (th id).me.cm = false ∧ (th (fun t => { t with cm := true })).me.cm = true := by
  decide +kernel

theorem wit_WriteWindows :
    let s := th (fun t => { t.wr 1 108 with cm := true })
    (th id).me.cm = false ∧ s.me.cm = true ∧ bucketCeiling ((s.me.rd 1).toNat % 128) = some (1024, 4096) ∧
    s.taskOf s.cur.1 = some task1 ∧ task1.phase = .running ∧ task1.wdogNext = none ∧
    ({ task1 with wdogNext := some 0 } : Task).wdogNext = some 0 ∧ ({ rate := 0, depth := 1, level := 0, late := some (2, 3) } : Bucket).late = some (2, 3) := by decide +kernel

/-- Thread 0 with G1 an address, and the core's TLB and data-cache lines. -/
def acc (a : Word) (tlb : List Xlat) (d : List Line) : State :=
  base (fun t => (t.wr 1 a).wr 2 5) (fun x => { x with tlb := tlb, dcache := d })

theorem wit_Loads :
    let va (s : State) : Nat := (s.me.rd 1 + (0 : BitVec 16).signExtend 64).toNat % 2 ^ 55
    va (acc 1 [] []) % 2 ≠ 0 ∧ va (acc 8 [] []) % 8 = 0 ∧ (acc 8 [] []).translate 0 8 .read = none ∧
    (acc 8 [page0] []).translate 0 8 .read = some 8 ∧ (acc 8 [page0] []).myCore.loadBytes? 8 8 = none ∧
    (acc 8 [page0] [{ no := 0, data := 0x7F#512 <<< 64 }]).myCore.loadBytes? 8 8 = some 0x7F := by decide +kernel

theorem wit_Stores :
    let va (s : State) : Nat := (s.me.rd 1 + (0 : BitVec 16).signExtend 64).toNat % 2 ^ 55
    let b : BufStore := { t := 0, va := 8, pa := 8, w := 8, v := 1 }
    let full := base (fun t => t.wr 1 8) (fun x => { x with tlb := [page0], wbuf := List.replicate 8 b })
    va (acc 1 [] []) % 2 ≠ 0 ∧ va (acc 8 [] []) % 8 = 0 ∧ (acc 8 [] []).translate 0 8 .write = none ∧
    (acc 8 [page0] []).translate 0 8 .write = some 8 ∧ (acc 8 [page0] []).myCore.wbuf.length < 8 ∧
    full.translate 0 8 .write = some 8 ∧ 8 ≤ full.myCore.wbuf.length := by decide +kernel

theorem wit_StorePerformed :
    let b : BufStore := { t := 0, va := 8, pa := 8, w := 8, v := 1 }
    let s := co (fun x => { x with wbuf := [b] })
    let u := base (fun t => { t with st := .parked, pend := .store 16 16 4 2 }) (fun x => { x with wbuf := [b], waitq := [0] })
    (s.core 0).wbuf = b :: [] ∧ s.memWf = true ∧ (s.core 0).storeWaiter? = none ∧
    (u.core 0).wbuf = b :: [] ∧ u.memWf = true ∧ (u.core 0).storeWaiter? = some (0, 16, 16, 4, 2) := by decide +kernel

theorem wit_DataFill :
    let s := th (fun t => { t with st := .parked, pend := .load 64 8 false 4 true })
    let u := { s with ecc := { hbm := [8] } }
    let m := th (fun t => { t with st := .parked, pend := .load 64 8 false 4 true, readyAt := 11 })
    (s.thr 0 0).st = .parked ∧ (s.thr 0 0).pend = .load 64 8 false 4 true ∧ (s.core 0).loadBytes? 64 8 = none ∧ 64 % 8 = 0 ∧
    s.lineBad (64 / 64) = false ∧ (s.thr 0 0).readyAt ≤ s.slot ∧ (m.thr 0 0).st = .parked ∧ (m.thr 0 0).pend = .load 64 8 false 4 true ∧
    (m.core 0).loadBytes? 64 8 = none ∧ m.slot < (m.thr 0 0).readyAt ∧ (u.thr 0 0).readyAt ≤ u.slot ∧
    (u.thr 0 0).st = .parked ∧ (u.thr 0 0).pend = .load 64 8 false 4 true ∧ (u.core 0).loadBytes? 64 8 = none ∧
    u.lineBad (64 / 64) = true := by decide +kernel

theorem wit_FetchFill :
    let s := th (fun t => { t with st := .parked, pend := .ifetch 1 })
    let u := { s with ecc := { hbm := [15] } }
    (s.thr 0 0).st = .parked ∧ (s.thr 0 0).pend = .ifetch 1 ∧ s.lineBad 1 = false ∧
    (u.thr 0 0).st = .parked ∧ (u.thr 0 0).pend = .ifetch 1 ∧ u.lineBad 1 = true := by decide +kernel

/-- Page tables for VA 0: frame 1 names frame 2, frame 2 names frame 3, and its leaf is a writable page of frame 5. -/
def tables : Memory :=
  Memory.writeN (Memory.writeN (Memory.writeN [] 0x10000 8 0x20001) 0x20000 8 0x30001) 0x30000 8 0x5000F

/-- A thread that waits for a walk of VA 8, with PTBASE and memory. -/
def walking (pt : BitVec 28) (m : Memory) : State :=
  { base (fun t => { t with st := .parked, pend := .walk 8 .write }) (fun x => { x with ptbase := pt }) with hbm := m }

theorem wit_ThreadWalk :
    ((walking 1 tables).thr 0 0).st = .parked ∧ ((walking 1 tables).thr 0 0).pend = .walk 8 .write ∧
    (walking 1 tables).walk 0 8 .write = .leaf 0x30000 0x5003F true 3 5 true true true ∧
    ((walking 1 []).thr 0 0).st = .parked ∧ ((walking 1 []).thr 0 0).pend = .walk 8 .write ∧
    (walking 1 []).walk 0 8 .write = .fault kXLAT 0x10000 ∧
    ((walking (2 ^ 24) []).thr 0 0).st = .parked ∧ ((walking (2 ^ 24) []).thr 0 0).pend = .walk 8 .write ∧
    (walking (2 ^ 24) []).walk 0 8 .write = .absent := by decide +kernel

/-- Thread 0 with G1 a pool address and a mailbox. -/
def pl (a : Word) (m : List Cell) : State := th (fun t => { t.wr 1 a with mailbox := m })

theorem wit_PoolIssue :
    let p (s : State) : Nat := (s.me.rd 1 + (0 : BitVec 16).signExtend 64).toNat % 2 ^ 28
    let mine (s : State) : Prop := p s / 2 ^ 22 = s.cur.1.val
    p (pl 1 []) % 8 ≠ 0 ∧ (p (pl 0x400000 []) % 8 = 0 ∧ ¬mine (pl 0x400000 [])) ∧
    (p (pl 0x300000 []) % 8 = 0 ∧ 48 ≤ p (pl 0x300000 []) / 2 ^ 16 % 64 ∧ p (pl 0x3D0000 []) / 2 ^ 16 % 64 ≤ 61) ∧
    (p (pl 0x2FFFF8 []) % 8 = 0 ∧ mine (pl 0x2FFFF8 []) ∧ p (pl 0x2FFFF8 []) / 2 ^ 16 % 64 < 48) ∧
    (p (pl 0x3F0178 []) % 8 = 0 ∧ mine (pl 0x3F0178 []) ∧ p (pl 0x3F0178 []) / 2 ^ 16 % 64 = 63 ∧ p (pl 0x3F0178 []) % 2 ^ 16 / 8 < 48) ∧
    (p (pl 0x3E0100 []) % 8 = 0 ∧ mine (pl 0x3E0100 []) ∧ p (pl 0x3E0100 []) / 2 ^ 16 % 64 = 62 ∧ (pl 0x3E0100 []).me.mailbox = [] ∧
      p (pl 0x3E0100 []) % 2 ^ 16 ≤ 0x100) ∧
    ((pl 0x3E00F8 [{}]).me.mailbox = {} :: [] ∧ p (pl 0x3E00F8 [{}]) % 2 ^ 16 < 0x100) ∧ p (pl 0x3E0100 [{}]) % 2 ^ 16 = 0x100 ∧
    p (pl 0x3E0200 [{}]) % 2 ^ 16 = 0x200 := by decide +kernel

theorem wit_PoolAccess :
    let st := co (fun x => { x with direct := [{ t := 0, addr := 8, op := .store 3 }] })
    let ld := base (fun t => { t with st := .parked, pend := .ldp 4 }) (fun x => { x with direct := [{ t := 0, addr := 8, op := .load }] })
    let bad := { ld with ecc := { pool := [1] } }
    (st.core 0).directOf? 0 10 0 = some { t := 0, addr := 8, op := .store 3 } ∧ st.memWf = true ∧ st.slot = 10 ∧
    (ld.core 0).directOf? 0 10 0 = some { t := 0, addr := 8, op := .load } ∧ ld.memWf = true ∧ ld.slot = 10 ∧
    (ld.thr 0 0).st = .parked ∧ (ld.thr 0 0).pend = .ldp 4 ∧ ld.poolBad 8 8 = false ∧
    (bad.core 0).directOf? 0 10 0 = some { t := 0, addr := 8, op := .load } ∧ bad.memWf = true ∧ bad.slot = 10 ∧
    (bad.thr 0 0).st = .parked ∧ (bad.thr 0 0).pend = .ldp 4 ∧ bad.poolBad 8 8 = true := by decide +kernel

theorem wit_AtomicIssue :
    ((acc 1 [] []).me.rd 1).toNat % 2 ^ 55 % 4 ≠ 0 ∧ ((acc 16 [] []).me.rd 1).toNat % 2 ^ 55 % 16 = 0 ∧
    (acc 16 [] []).translate 0 16 .write = none ∧ (acc 16 [page0] []).translate 0 16 .write = some 16 ∧
    ((acc 1 [] []).me.rd 1).toNat % 2 ^ 28 % 4 ≠ 0 ∧ ((acc 0x400000 [] []).me.rd 1).toNat % 2 ^ 28 / 2 ^ 22 ≠ 0 ∧
    ((acc 0x300000 [] []).me.rd 1).toNat % 2 ^ 28 / 2 ^ 16 % 64 = 48 ∧ ((acc 0x2FFFF0 [] []).me.rd 1).toNat % 2 ^ 28 % 16 = 0 ∧
    ((acc 0x2FFFF0 [] []).me.rd 1).toNat % 2 ^ 28 / 2 ^ 22 = 0 ∧ ((acc 0x2FFFF0 [] []).me.rd 1).toNat % 2 ^ 28 / 2 ^ 16 % 64 < 48 := by
  decide +kernel

theorem wit_AtomicDone :
    let s := th (fun t => { t with st := .parked, pend := .amo .cas 8 false 16 1 4 0 false 0 })
    let x : Direct := { t := 0, addr := 16, op := .amo }
    let u := base (fun t => { t with st := .parked, pend := .amo .fxadd 16 true 16 1 4 0 true 0 }) (fun y => { y with direct := [x] })
    (s.thr 0 0).st = .parked ∧ (s.thr 0 0).pend = .amo .cas 8 false 16 1 4 0 false 0 ∧ (s.core 0).storesDone 0 = true ∧
    (s.core 0).direct.all (fun y => y.t != 0) = true ∧ s.memWf = true ∧ s.hbmBad 16 8 = false ∧
    (u.thr 0 0).st = .parked ∧ (u.thr 0 0).pend = .amo .fxadd 16 true 16 1 4 0 true 0 ∧ u.memWf = true ∧
    (u.core 0).directOf? 0 u.slot 0 = some x ∧ u.poolBad 16 16 = false := by decide +kernel

theorem wit_AtomicCompletes :
    let s := acc 16 [page0] []
    let p := acc 0x2FFFF0 [] []
    s.memWf = true ∧ s.myCore.storesDone 0 = true ∧ (s.me.rd 1).toNat % 2 ^ 55 % 16 = 0 ∧ s.translate 0 16 .write = some 16 ∧ s.myCore.direct = [] ∧
    s.hbmBad 16 16 = false ∧ p.memWf = true ∧ p.myCore.storesDone 0 = true ∧ (p.me.rd 1).toNat % 2 ^ 28 = 0x2FFFF0 ∧ 0x2FFFF0 % 16 = 0 ∧
    0x2FFFF0 / 2 ^ 22 = p.cur.1.val ∧ 0x2FFFF0 / 2 ^ 16 % 64 = 47 ∧ BankOpen p 0 47 ∧ p.poolBad 0x2FFFF0 16 = false := by
  unfold BankOpen; decide +kernel

theorem wit_PoolCompletes :
    let s := pl 0x2FFFF8 []
    (s.me.rd 1 + (0 : BitVec 16).signExtend 64).toNat % 2 ^ 28 = 0x2FFFF8 ∧ 0x2FFFF8 % 8 = 0 ∧ 0x2FFFF8 / 2 ^ 22 = s.cur.1.val ∧
    0x2FFFF8 / 2 ^ 16 % 64 = 47 ∧ BankOpen s s.cur.1 47 ∧ s.poolBad 0x2FFFF8 8 = false := by unfold BankOpen; decide +kernel

/-- The task with group 3 as given, thread 0 with G1 and parked on a group operation. -/
def grp (y : Group) (g : Word) (p : Pend) : State :=
  { th (fun t => { t.wr 1 g with st := .parked, pend := p }) with tasks := [{ task1 with groups := [(3, y)] }] }

theorem wit_GroupForms :
    255 < ((two 256 0).me.rd 1).toNat ∧ ((two 255 0).me.rd 1).toNat ≤ 255 ∧ (grp { members := [0] } 3 .none).member 3 = true ∧
    (two 3 0).member 3 = false ∧ (th id).taskOf 0 = some task1 ∧ task1.groups = [] ∧ task1.cores = [0] ∧
    (grp { members := [0] } 3 .none).taskOf 0 = some { task1 with groups := [(3, { members := [0] })] } ∧
    (({ task1 with groups := [(3, { members := [0] })] } : Task).groups.any (fun y => y.2.members.contains (threadNo 0 0)) = true) := by
  decide +kernel

theorem wit_GroupApplied :
    let z (y : Group) : Task := { task1 with groups := [(3, y)] }
    ((grp {} 3 (.group .gsize 3 4)).thr 0 0).st = .parked ∧ ((grp {} 3 (.group .gsize 3 4)).thr 0 0).pend = .group .gsize 3 4 ∧
    (grp {} 3 (.group .gsize 3 4)).taskOf 0 = some (z {}) ∧ (z {}).phase = .running ∧ (z {}).wdog ≠ 0 ∧ ((z {}).group 3).members.length < 2048 ∧
    ((grp {} 3 (.group .join 3 4)).thr 0 0).pend = .group .join 3 4 ∧ 0 * 16 + 0 ∉ ((z {}).group 3).members ∧
    ((grp { members := [0, 1], arrived := [1] } 3 (.group .arrive 3 0)).thr 0 0).pend = .group .arrive 3 0 ∧
    0 ∈ ((z { members := [0, 1], arrived := [1] }).group 3).members ∧ 0 ∉ ((z { members := [0, 1], arrived := [1] }).group 3).arrived ∧
    ((z { members := [0, 1], arrived := [1] }).group 3).members.length < 2048 ∧
    (let y : Group := { members := [0, 1], arrived := [1] }
     let w := (grp y 3 (.group .arrive 3 0)).setThr 0 1 { st := .parked, pend := .gwait 3 0 }
     (w.thr 0 0).pend = .group .arrive 3 0 ∧ w.taskOf 0 = some (z y) ∧ (0 : CoreId) ∈ (z y).cores ∧ (1 : Tid) ≠ 0 ∧ (w.thr 0 1).st = .parked ∧
     (w.thr 0 1).pend = .gwait 3 y.phase ∧ y.arrived.length + 1 = y.members.length) ∧
    (let y : Group := { members := [0, 1, 2], arrived := [1] }
     let w := (grp y 3 (.group .arrive 3 0)).setThr 0 1 { st := .parked, pend := .gwait 3 0 }
     (w.thr 0 1).pend = .gwait 3 y.phase ∧ y.arrived.length + 1 ≠ y.members.length) := by decide +kernel

theorem wit_GroupStopped :
    let s := grp {} 3 (.group .gsize 3 4)
    let u : State := { s with tasks := [{ task1 with phase := .stopping 0 9 }] }
    let v : State := { s with tasks := [{ task1 with wdog := 0 }] }
    (u.thr 0 0).st = .parked ∧ (u.thr 0 0).pend = .group .gsize 3 4 ∧ u.taskOf 0 = some { task1 with phase := .stopping 0 9 } ∧
    ({ task1 with phase := .stopping 0 9 } : Task).phase.stopped = true ∧ (v.thr 0 0).st = .parked ∧ (v.thr 0 0).pend = .group .gsize 3 4 ∧
    v.taskOf 0 = some { task1 with wdog := 0 } := by decide +kernel

theorem wit_GroupLeaves :
    let y : Group := { members := [0, 1], arrived := [1] }
    let w : Group := { members := [0, 1, 2], arrived := [1] }
    let z (y : Group) : Task := { task1 with groups := [(3, y)] }
    let s (y : Group) (p : Pend) (a : Option (Nat × BitVec 16)) : State := (grp y 3 p).modThr 0 0 (fun t => { t with arm := a })
    ((s y (.group .leave 3 0) none).thr 0 0).st = .parked ∧ ((s y (.group .leave 3 0) none).thr 0 0).pend = .group .leave 3 0 ∧
    (s y (.group .leave 3 0) none).taskOf 0 = some (z y) ∧ (z y).phase = .running ∧ (z y).wdog ≠ 0 ∧ (0 : CoreId) ∈ (z y).cores ∧
    0 ∈ ((z y).group 3).members ∧ 0 ∉ ((z {}).group 3).members ∧
    ((s y (.group .gwait 3 0) none).thr 0 0).pend = .group .gwait 3 0 ∧ ((s y (.group .gwait 3 0) none).thr 0 0).arm = none ∧
    0 ∉ ((z y).group 3).arrived ∧ ((z y).group 3).arrived.length + 1 = ((z y).group 3).members.length ∧
    ((z w).group 3).arrived.length + 1 ≠ ((z w).group 3).members.length ∧
    ((s y (.group .gwait 3 0) (some (3, 0))).thr 0 0).arm = some (3, ((z y).group 3).phase) ∧
    ((s y (.group .gwait 3 0) (some (3, 1))).thr 0 0).arm = some (3, 1) ∧ 1 ≠ ((z y).group 3).phase ∧
    ((s y (.group .exit 0 0) none).thr 0 0).pend = .group .exit 0 0 := by decide +kernel

theorem wit_GroupCompletes :
    let y : Group := { members := [0, 1], arrived := [1] }
    let z (y : Group) : Task := { task1 with groups := [(3, y)] }
    (grp y 3 .none).taskOf 0 = some (z y) ∧ (z y).phase = .running ∧ (z y).wdog ≠ 0 ∧ (0 : CoreId) ∈ (z y).cores ∧
    ((grp y 3 .none).me.rd 1).toNat ≤ 255 ∧ 0 ∉ ((z {}).group 3).members ∧ 0 ∈ ((z y).group 3).members ∧ 0 ∉ ((z y).group 3).arrived ∧
    ((z y).group 3).arrived.length + 1 = ((z y).group 3).members.length ∧ (grp y 3 .none).me.arm = none ∧
    ((grp y 3 .none).modThr 0 0 (fun t => { t with arm := some (3, 1) })).me.arm = some (3, 1) ∧ 1 ≠ ((z y).group 3).phase ∧
    (∀ e ∈ (z {}).groups, 0 ∉ e.2.members) ∧ (∀ j ∈ (z y).cores, (0 : CoreId) ≤ j) := by decide +kernel

/-- Thread 0 with G1 a mask, TB, and what it waits for. -/
def tagged (m tb : Word) (p : Pend) : State := base (fun t => { t.wr 1 m with st := .parked, pend := p }) (fun x => { x with tb := tb })

theorem wit_TagForms :
    (tagged 0 1 .none).me.rd 1 = 0 ∧ (tagged 3 2 .none).myCore.tb &&& (tagged 3 2 .none).me.rd 1 ≠ 0 ∧
    (tagged 3 4 .none).me.rd 1 ≠ 0 ∧ (tagged 3 4 .none).myCore.tb &&& (tagged 3 4 .none).me.rd 1 = 0 ∧
    (tagged 3 7 .none).myCore.tb &&& (tagged 3 7 .none).me.rd 1 = (tagged 3 7 .none).me.rd 1 ∧
    (tagged 3 1 .none).myCore.tb &&& (tagged 3 1 .none).me.rd 1 ≠ (tagged 3 1 .none).me.rd 1 ∧
    ((tagged (1#64 <<< 63) (1#64 <<< 63) .none).myCore.tb &&& (tagged (1#64 <<< 63) (1#64 <<< 63) .none).me.rd 1).getLsbD 63 = true ∧
    (∀ i : Fin 63, ((tagged (1#64 <<< 63) (1#64 <<< 63) .none).myCore.tb &&&
      (tagged (1#64 <<< 63) (1#64 <<< 63) .none).me.rd 1).getLsbD i.val = false) := by decide +kernel

theorem wit_TagWaitEnds :
    ((tagged 0 2 (.tagAny 4 3)).thr 0 0).st = .parked ∧ ((tagged 0 2 (.tagAny 4 3)).thr 0 0).pend = .tagAny 4 3 ∧
    ((tagged 0 2 (.tagAny 4 3)).core 0).tb &&& 3 ≠ 0 ∧ ((tagged 0 4 (.tagAny 4 3)).core 0).tb &&& 3 = 0 ∧
    ((tagged 0 7 (.tagAll 3)).thr 0 0).pend = .tagAll 3 ∧ ((tagged 0 7 (.tagAll 3)).core 0).tb &&& 3 = 3 ∧
    ((tagged 0 1 (.tagAll 3)).core 0).tb &&& 3 ≠ 3 := by decide +kernel

/-- A second task, of tenant t, running on core 1, whose thread 1 is f of a FROZEN one; thread 0 of core 0 is in controller mode. -/
def pair (t : Tenant) (a b : Word) : State :=
  { th (fun x => { (x.wr 1 a).wr 2 b with cm := true }) with
    tasks := [task1, { task1 with lrec := { rec1 with id := 2, tenant := t }, cores := [1] }] }.setCore 1
    ({ Core.reset with task := some 2 }.setThr 1 { st := .frozen })

theorem wit_ControllerIssue :
    let u (s : State) : Nat := (s.me.rd 1).toNat % 2 ^ 32
    let mine : Task := { task1 with lrec := { rec1 with id := 2 }, cores := [1] }
    let other : Task := { task1 with lrec := { rec1 with id := 2, tenant := 2 }, cores := [1] }
    (th id).me.cm = false ∧
    ((pair 2 0x4C00001 0).me.cm = true ∧ (pair 2 0x4C00001 0).taskOf 1 = some other ∧ other.lrec.tenant ≠ (pair 2 0x4C00001 0).tenantOf 0 ∧
      (Fin.ofNat 64 (u (pair 2 0x4C00001 0) / 2 ^ 26) : CoreId) = 1) ∧
    ((pair 1 0 0).me.rd 2 = 0 ∧ (pair 1 0 5).me.rd 2 ≠ 0 ∧ (pair 1 0 5).me.cm = true) ∧
    ((pair 1 0x4C00001 0).taskOf 1 = some mine ∧ mine.lrec.tenant = (pair 1 0x4C00001 0).tenantOf 0 ∧ mine.phase = .running ∧
      u (pair 1 0x4C00001 0) / 2 ^ 22 % 16 = 3 ∧ (1 : CoreId) ≠ (pair 1 0x4C00001 0).cur.1 ∧
      ((pair 1 0x4C00001 0).thr 1 (Fin.ofNat 16 (u (pair 1 0x4C00001 0) % 2 ^ 22))).st = .frozen) ∧
    u (pair 1 0x7800000 0) / 2 ^ 22 % 16 = 14 ∧ (Fin.ofNat 64 (u (pair 1 0x7800000 0) / 2 ^ 26) : CoreId) = 1 ∧
    (pair 1 2 0).taskById (((pair 1 2 0).me.rd 1).setWidth 32) = some mine ∧
    (pair 1 9 0).taskById (((pair 1 9 0).me.rd 1).setWidth 32) = none := by decide +kernel

theorem wit_InvalidateEnds :
    let s := th (fun t => { t with st := .parked, pend := .tlbinv 1 0 (2 ^ 55) })
    (s.thr 0 0).st = .parked ∧ (s.thr 0 0).pend = .tlbinv 1 0 (2 ^ 55) ∧ (s.core 0).storesDone 0 = true ∧
    (∀ j : CoreId, s.taskOf j = some task1 → (s.core j).invDone 1 0 (2 ^ 55) = true) ∧ s.taskOf 0 = some task1 := by decide +kernel

theorem wit_ControllerCompletes :
    let s := pair 1 0x4C00001 0x1000
    let t : Task := { task1 with lrec := { rec1 with id := 2 }, cores := [1] }
    s.me.cm = true ∧ s.me.rd 2 ≠ 0 ∧ s.myCore.storesDone 0 = true ∧
    (∀ j : CoreId, (s.core j).invDone 1 0x4C00001 0x4C01001 = true) ∧ (s.me.rd 1).toNat % 2 ^ 22 = 1 ∧
    s.taskOf 1 = some t ∧ t.lrec.tenant = s.tenantOf 0 ∧ t.phase = .running ∧ (s.me.rd 1).toNat / 2 ^ 22 % 16 = 3 ∧ (1 : CoreId) ≠ 0 ∧
    (s.thr 1 1).st = .frozen ∧ (match s.atStart.linkOf 0x4C00001 with | .stop _ => true | _ => false) = true ∧
    ((pair 1 0x7800000 0).me.rd 1).toNat / 2 ^ 22 % 16 = 14 ∧ (pair 1 2 0).taskById (((pair 1 2 0).me.rd 1).setWidth 32) = some t := by
  decide +kernel

theorem wit_NodeAndWalk :
    let w (s : State) : Nat := (s.me.rd 1).toNat
    let n := th (fun t => { t with st := .parked, pend := .node 4 0 })
    let l := th (fun t => { t with st := .parked, pend := .sounding 4 [0] })
    w (two 0x3C00000 0) / 2 ^ 22 % 16 = 15 ∧ w (pair 1 0x3800000 0) / 2 ^ 22 % 16 = 14 ∧ (pair 1 0x3800000 0).me.cm = true ∧
    (Fin.ofNat 64 (w (pair 1 0x3800000 0) % 2 ^ 32 / 2 ^ 26) : CoreId) = (pair 1 0x3800000 0).cur.1 ∧
    (Fin.ofNat 64 (w (pair 1 0x7800000 0) % 2 ^ 32 / 2 ^ 26) : CoreId) ≠ (pair 1 0x7800000 0).cur.1 ∧
    (n.thr 0 0).st = .parked ∧ (n.thr 0 0).pend = .node 4 0 ∧ (l.thr 0 0).st = .parked ∧ (l.thr 0 0).pend = .sounding 4 [0] ∧
    (match l.atStart.linkOf 0 with | .stop _ => true | _ => false) = true ∧
    (two 0x7800000 0).taskOf 0 = some task1 ∧ (two 0x7800000 0).me.cm = false ∧ task1.cores.contains 1 = false ∧ task1.cores.contains 0 = true ∧
    (let v := base id (fun x => x.setThr 1 { st := .parked, pend := .load 8 8 false 0 true })
     v.taskOf 0 = some task1) := by decide +kernel

theorem wit_GatesAndTraces :
    let s (g : Gate) : State := co (fun x => { x with gates := x.gates.set 3 g, trace := true })
    ((two 1 0).me.rd 1).getLsbD 63 = false ∧ (two 1 0).myCore.trace = false ∧ (s {}).myCore.trace = true ∧
    (s { arm := 1#64 <<< 62 }).gateDue (((s { arm := 1#64 <<< 62 }).core 0).gates[3]).arm = true ∧
    (((s { arm := 1#64 <<< 62 }).core 0).gates[3]).arm.getLsbD 62 = true ∧
    (s {}).gateDue (((s {}).core 0).gates[3]).arm = false ∧ inReserved 120 = false ∧
    ((two ((1#64 <<< 63) + (120#64 <<< 41)) 0).me.rd 1).getLsbD 63 = true ∧ inReserved ((((1#64 <<< 63) + (126#64 <<< 41)).toNat) / 2 ^ 41 % 2 ^ 7) = true ∧
    ((s {}).core 0).controller? = none ∧
    PortOpen (s {}) 0 123 ((s {}).traceCell 0 0 0) := by unfold PortOpen; decide +kernel

/-- Thread 0 with G2 = v, G3 = w (the pair at register 2). -/
def gp (v w : Word) : State := th (fun t => (t.wr 2 v).wr 3 w)

theorem wit_PatternForms :
    ((two (2 ^ 20 - 1) (2 ^ 27 - 1)).me.rd 1).toNat < 2 ^ 20 ∧ -(2 ^ 27) ≤ ((two 0 (2 ^ 27 - 1)).me.rd 2).toInt ∧
    ((two 0 (2 ^ 27 - 1)).me.rd 2).toInt < 2 ^ 27 ∧ 2 ^ 20 ≤ ((two (2 ^ 20) 0).me.rd 1).toNat ∧
    ((two 0 (BitVec.ofInt 64 (-(2 ^ 27) - 1))).me.rd 2).toInt < -(2 ^ 27) ∧ 2 ^ 27 ≤ ((two 0 (2 ^ 27)).me.rd 2).toInt := by decide +kernel

/-- One whole cell of 256 bytes at an address. -/
def cellPat (a : Nat) : BitVec 256 := BitVec.ofNat 256 (a + 5 * 2 ^ 55)

def patd (p : BitVec 256) : State := th (fun t => t.wrAP 1 p)

theorem wit_BindIssue :
    bindIll 0 48 ((patd (BitVec.ofNat 256 (7 * 2 ^ 55))).me.rdAP 1) 0 = true ∧
    (bindIll 0 48 (cellPat 1) 0 = false ∧ bindMisaligned? (cellPat 1) 0 = some 1) ∧
    (bindIll 1 48 (cellPat 0x400000) 0 = false ∧ bindMisaligned? (cellPat 0x400000) 0 = none ∧
      decide (patBase (cellPat 0x400000) % 2 ^ 28 / 2 ^ 22 ≠ 0 ∨ 48 ≤ patBase (cellPat 0x400000) % 2 ^ 28 / 2 ^ 16 % 64) = true) ∧
    (bindIll 2 108 (cellPat 256) 0 = false ∧ bindMisaligned? (cellPat 256) 0 = none) ∧ (patd (cellPat 256)).me.rdAP 1 = cellPat 256 := by
  decide +kernel

/-- A request for a load of one cell to element 0. -/
def req1 : BindReq := { fn := 0, port := 48, pat := cellPat 0, aux := 0, tag := 5, vc := 0 }

/-- Core 0 with every stream slot holding y. -/
def allStrms (y : Strm) : Core → Core := fun x => { x with strms := Vector.replicate 32 y }
/-- Core 0 with stream slot 0 holding y. -/
def strm0 (y : Strm) : Core → Core := fun x => x.modStrm 0 (fun _ => y)

theorem wit_BindTakes :
    let s := th (fun t => { t with st := .parked, pend := .bind req1 none })
    let e := th (fun t => { t with st := .parked, pend := .edge 0 1 5 0 })
    let rd : BitVec 512 := BitVec.ofNat 512 (2 ^ 168 + 64 * 2 ^ 384)
    let rv (m : Memory) : State :=
      { base (fun t => { t with st := .parked, pend := .edge rd 1 5 0 }) (fun x => { x with tlb := [page0] }) with hbm := m }
    let cfg := th (fun t => { t with st := .parked, pend := .scfg 256 true 5 })
    let sp (y : Strm) : State := base (fun t => { t with st := .parked, pend := .splice 0 1 2 5 9 }) (strm0 y)
    let busy := base (fun t => { t with st := .parked, pend := .splice 0 1 2 5 9 }) (fun x => { (strm0 { st := .running } x) with
      splices := (List.finRange 8).map (fun q => { strm := 1, page := 0, frame := 0, tag := 0, storer := q }) })
    let dap (s : State) : BitVec 256 := match s.readDap 0 64 with | .ok (_, v) => BitVec.ofNat 256 v | _ => 0
    let f := base (fun t => { t with st := .parked, pend := .bind req1 none }) (allStrms { st := .wait })
    (s.thr 0 0).st = .parked ∧ (s.thr 0 0).pend = .bind req1 none ∧ (s.core 0).freeStrm? = some 0 ∧
    (s.core 0).bindUnit? req1 = some (some 0, none) ∧
    (e.thr 0 0).st = .parked ∧ (e.thr 0 0).pend = .edge 0 1 5 0 ∧ (e.core 0).freeStrm? = some 0 ∧ (e.core 0).loaderIdle? = some 0 ∧
    (e.core 0).storerIdle? = some 0 ∧ (edgeOf (0 : BitVec 512).toNat 1).send = true ∧
    ((rv []).thr 0 0).st = .parked ∧ ((rv []).thr 0 0).pend = .edge rd 1 5 0 ∧ ((rv []).core 0).freeStrm? = some 0 ∧
    ((rv []).core 0).loaderIdle? = some 0 ∧ ((rv []).core 0).storerIdle? = some 0 ∧ (edgeOf rd.toNat 1).send = false ∧
    rd.toNat / 2 ^ 384 % 2 ^ 55 = 64 ∧ (match (rv []).readDap 0 64 with | .ok _ => true | _ => false) = true ∧ patEsz (dap (rv [])) ≠ 7 ∧
    patMode (dap (rv [])) = 0 ∧ patBase (dap (rv [])) % 2 = 0 ∧
    patEsz (dap (rv (Memory.writeN [] 64 8 (7 * 2 ^ 55)))) = 7 ∧
    (cfg.thr 0 0).st = .parked ∧ (cfg.thr 0 0).pend = .scfg 256 true 5 ∧ (cfg.core 0).freeStrm? = some 0 ∧ (cfg.core 0).loaderIdle? = some 0 ∧
    ((sp { st := .running }).thr 0 0).pend = .splice 0 1 2 5 9 ∧ (((sp { st := .running }).core 0).strms[(0 : StrmId)]).spliceable = true ∧
    ((sp { st := .running }).core 0).storerIdle? = some 0 ∧ ((busy.core 0).strms[(0 : StrmId)]).spliceable = true ∧
    (busy.core 0).storerIdle? = none ∧ (((sp { st := .frozen }).core 0).strms[(0 : StrmId)]).spliceable = false ∧
    (f.thr 0 0).pend = .bind req1 none ∧ (f.core 0).freeStrm? = none := by decide +kernel

theorem wit_StreamRegisters :
    let s := co (fun x => x.modStrm 2 (fun _ => { st := .running, tag := 5 }))
    let v := { s with seenCores := s.cores, seenTasks := s.tasks }.atStart
    ((v.myCore.strms[(2 : StrmId)]).st ≠ .free ∧ (v.myCore.strms[(2 : StrmId)]).tag = 5 ∧
      ∀ r : StrmId, r < 2 → (v.myCore.strms[r]).st = .free ∨ (v.myCore.strms[r]).tag ≠ 5) ∧
    (∀ q : StrmId, ((th id).atStart.myCore.strms[q]).st = .free ∨ ((th id).atStart.myCore.strms[q]).tag ≠ 5) ∧
    (s.myCore.strms[(2 : StrmId)]).st ≠ .free ∧ (s.myCore.strms[(2 : StrmId)]).tag = 5 ∧ (s.myCore.strms[(2 : StrmId)]).live = true ∧
    (∀ r : StrmId, r < 2 → (s.myCore.strms[r]).st = .free ∨ (s.myCore.strms[r]).tag ≠ 5) ∧
    (∀ r : StrmId, r < 2 → (s.myCore.strms[r]).live = false ∨ (s.myCore.strms[r]).tag ≠ 5) ∧
    (∀ q : StrmId, ((th id).myCore.strms[q]).st = .free ∨ ((th id).myCore.strms[q]).tag ≠ 5) ∧
    (∀ q : StrmId, ((th id).myCore.strms[q]).live = false ∨ ((th id).myCore.strms[q]).tag ≠ 5) := by decide +kernel

/-- Core 0 with slot 0 in a state. -/
def slot0 (st : SlotState) : Core → Core := fun x => x.modSlot false (fun g => { g with st := st, drain := [{ inp := 48, out := 49, vc := 0 }] })

theorem wit_StreamControl :
    let x (s : State) : Nat := (s.me.rd ((2 : BitVec 4).setWidth 5)).toNat
    let y (s : State) : Nat := (s.me.rd ((2 : BitVec 4).setWidth 5 + 1)).toNat
    let cm := base (fun t => { (t.wr 2 0).wr 3 ((2 ^ 24 - 1) * 2 ^ 16) with cm := true }) (strm0 { st := .running })
    let cf := base (fun t => { (t.wr 2 0).wr 3 (2 ^ 24 * 2 ^ 16) with cm := true }) (fun x => { (strm0 { st := .running } x) with
      splices := (List.finRange 8).map (fun q => { strm := 1, page := 0, frame := 0, tag := 0, storer := q }) })
    let no := th (fun t => { t.wr 2 0 with cm := true })
    let tl := base (fun t => t.wr 3 64) (fun z => { z with tlb := [page0] })
    (th id).me.cm = false ∧ x (gp 1 0) % 2 ^ 28 % 256 ≠ 0 ∧ (x (gp 0x400000 0) % 256 = 0 ∧ x (gp 0x400000 0) % 2 ^ 28 / 2 ^ 22 ≠ 0) ∧
    (x (gp 0x2FFF00 0) % 256 = 0 ∧ x (gp 0x2FFF00 0) % 2 ^ 28 / 2 ^ 22 = 0 ∧ x (gp 0x2FFF00 0) % 2 ^ 28 / 2 ^ 16 % 64 < 48) ∧
    ((th id).myCore.slotAt false).st = .empty ∧ ((co (slot0 .loaded)).myCore.slotAt false).st = .loaded ∧
    ((co (slot0 .loaded)).myCore.slotAt false).drain ≠ [] ∧ (co (slot0 .active)).myCore.activeSlot? = some false ∧
    (th id).myCore.activeSlot? ≠ some false ∧ (th id).myCore.swap = none ∧
    (let w : Swap := { slot := true, count := 1 }
     let p := co (fun z => { z with swap := some w })
     x p % 2 ^ 55 % 256 = 0 ∧ p.myCore.activeSlot? ≠ some true ∧ p.myCore.activeSlot? ≠ some false ∧ p.myCore.swap = some w ∧ w.slot = true ∧ w.slot ≠ false) ∧
    (cm.me.cm = true ∧ (cm.myCore.strms[(Fin.ofNat 32 (x cm % 32) : StrmId)]).spliceable = true ∧ cm.myCore.storerIdle? = some 0) ∧
    (cf.me.cm = true ∧ (cf.myCore.strms[(Fin.ofNat 32 (x cf % 32) : StrmId)]).spliceable = true ∧ cf.myCore.storerIdle? = none) ∧
    (no.me.cm = true ∧ (no.myCore.strms[(Fin.ofNat 32 (x no % 32) : StrmId)]).spliceable = false) ∧
    (∀ d ∈ ((co (slot0 .active)).myCore.slotAt false).drain, (co (slot0 .active)).myCore.ahead d = []) ∧
    y (gp 0 1) % 64 ≠ 0 ∧ (y (gp 0 64) % 64 = 0 ∧ (gp 0 64).translate 0 (y (gp 0 64) % 2 ^ 55) .read = none) ∧
    (y tl % 64 = 0 ∧ tl.translate 0 (y tl % 2 ^ 55) .read = some 64) := by decide +kernel

theorem wit_StreamLife :
    let w : Strm := { st := .wait, kind := .sload }
    let d : Strm := { st := .running, doneAt := some 9 }
    let e : Strm := { st := .running, doneAt := some 10 }
    ((co (strm0 w)).core 0).strms[(0 : StrmId)] = w ∧ w.st = .wait ∧ w.mask = 0 ∧ w.kind ≠ .sread ∧ d.st ≠ .wait ∧
    (let h (b o : Bool) : State := co (fun x => (strm0 { st := .wait, kind := .sread, own := some b } x).modBank 0 (fun g => { g with owner := o }))
     let p := co (fun x => { (strm0 { st := .wait, kind := .sread, own := some true } x) with swap := some { slot := true, count := 1 } })
     (((h true true).core 0).strms[(0 : StrmId)]).own = some true ∧ (((h true true).core 0).strms[(0 : StrmId)]).mask = 0 ∧
     (((h true true).core 0).bankAt (patBase (((h true true).core 0).strms[(0 : StrmId)]).pat / 2 ^ 16 % 64)).owner = true ∧
     ((h true true).core 0).swap = none ∧ (((h true false).core 0).bankAt 0).owner ≠ true ∧ (p.core 0).swap = some { slot := true, count := 1 } ∧
     ((p.core 0).strms[(0 : StrmId)]).own = some true) ∧
    (let k : Strm := { st := .running, cancel := true }
     let z := base (fun t => { t with st := .parked, pend := .scancel 4 0 }) (strm0 k)
     (z.core 0).strms[(0 : StrmId)] = k ∧ k.live = true ∧ k.outLeft = [] ∧ k.writes = [] ∧ (z.thr 0 0).st = .parked ∧
     (z.thr 0 0).pend = .scancel 4 0) ∧
    ((co (strm0 d)).core 0).strms[(0 : StrmId)] = d ∧ d.live = true ∧ d.doneAt = some 9 ∧ 9 < (co (strm0 d)).slot ∧
    (co (strm0 d)).taskOf 0 = some task1 ∧ task1.phase = .running ∧
    ((co (strm0 e)).core 0).strms[(0 : StrmId)] = e ∧ e.live = true ∧ e.cancel = false ∧ e.doneAt = some 10 ∧ (co (strm0 e)).slot ≤ 10 := by
  decide +kernel

/-- A cell at the head of channel 0 of a port. -/
def head0 (p : Nat) (y : Cell) : Core → Core :=
  fun x => x.modEg p (fun g => { g with chans := Vector.replicate 4 { cells := [y] } })

theorem wit_LoadersAndStorers :
    let r : Strm := { st := .running, kind := .sload, inflight := [{}], ncells := 1, asked := 1, loader := some 0, pat := cellPat 0 }
    let l : Strm := { st := .running, kind := .sload, ncells := 1, total := 1, port := 48, loader := some 0, pat := cellPat 0, extents := [page0] }
    let w : Strm := { st := .running, kind := .sstore, writes := [{ addr := 8, bytes := [1] }] }
    let z : Strm := { st := .running, kind := .sstore, storer := some 0, ncells := 1, total := 1, pat := cellPat 0, extents := [page0] }
    let s := co (strm0 r)
    let u := co (strm0 l)
    let v := co (strm0 w)
    let t := co (fun x => head0 108 { data := 7 } (strm0 z x))
    ((s.core 0).strms[(0 : StrmId)] = r ∧ r.inflight = {} :: [] ∧ r.live = true ∧ r.cancel = false ∧ ({} : Cell).m.since ≤ s.slot ∧
      ((s.core 0).ingAt r.srcPort).obuf.length < 16 ∧ r.srcPort < 128) ∧
    ((u.core 0).strms[(0 : StrmId)] = l ∧ l.st = .running ∧ l.kind = .sload ∧ l.cancel = false ∧ l.walk = none ∧ l.asked < l.ncells ∧
      ((u.core 0).ingAt l.srcPort).frozen = none ∧ 0 < (u.core 0).credit 0 0 ∧ (u.core 0).loaderFree l.loader u.slot = true ∧
      u.pathsFree false (u.cellPas 0 l) = true ∧ (t.core 0).storerReady (some 0) t.slot = true ∧ (u.core 0).splicesOf 0 = [] ∧
      (match u.nextCell 0 0 l with | (_, .ok _) => true | _ => false) = true) ∧
    ((v.core 0).strms[(0 : StrmId)] = w ∧ w.writes = { addr := 8, bytes := [1] } :: [] ∧ v.memWf = true) ∧
    ((t.core 0).strms[(0 : StrmId)] = z ∧ z.storer = some 0 ∧ (t.core 0).head? t.slot 108 0 = some { data := 7 } ∧ z.st = .running ∧
      z.kind = .sstore ∧ z.cancel = false ∧ z.walk = none ∧ z.cells < z.ncells ∧ (((t.core 0).egAt 108).chan 0).moved = false ∧
      ({ data := 7 } : Cell).h.vc = z.vc ∧ ({ data := 7 } : Cell).h.tag ≠ tDRN ∧
      (match t.emptyCell 0 z 7 (z.upTo z.cells - z.elems) with
        | (q, none) => (match t.keyWrites 0 q q.cells 0 with
          | .ok w => t.pathsFree true (((q.writes ++ w).drop z.writes.length).map (fun w => w.addr))
          | _ => false)
        | _ => false) = true) := by decide +kernel

theorem wit_StreamWalk :
    let y : Strm := { st := .running, walk := some (8, .write) }
    let s (m : Memory) : State := { co (fun x => strm0 y { x with ptbase := 1 }) with hbm := m }
    ((s tables).core 0).strms[(0 : StrmId)] = y ∧ (s tables).walk 0 8 .write = .leaf 0x30000 0x5003F true 3 5 true true true ∧
    ((s []).core 0).strms[(0 : StrmId)] = y ∧ y.st = .running ∧ y.writes = [] ∧ (s []).walk 0 8 .write = .fault kXLAT 0x10000 ∧
    ((((s []).walked 0 8).sinkUpTo 0 0).core 0).strms[(0 : StrmId)].writes = [] ∧
    ((s []).walked 0 8).sinkWaits 0 0 = false := by decide +kernel

/-- A sink whose cell lies half on a page that it cannot have, while its storer is taken in the slot. -/
theorem wit_StreamWalk_waits :
    let pt : BitVec 256 := BitVec.ofNat 256 (65536 - 128 + 2 * 2 ^ 55 + 64 * 2 ^ 64 + 4 * 2 ^ 84)
    let y : Strm := { st := .running, kind := .sstore, storer := some 0, walk := some (65536, .write), extents := [page0], ncells := 1, total := 64, pat := pt }
    let s := co (fun x => head0 108 { data := 7 } (strm0 y { x with ptbase := 1, storerAt := Vector.replicate 8 11 }))
    (s.core 0).strms[(0 : StrmId)] = y ∧ s.walk 0 65536 .write = .fault kXLAT 0x10000 ∧ (s.walked 0 65536).sinkWaits 0 0 = true := by decide +kernel

/-- An image with no section, and one with a POOL section of eight bytes at address 0. -/
def img0 : Memory := Memory.writeN (Memory.writeN [] 0 4 1) 4 4 32
def imgP : Memory :=
  Memory.writeN (Memory.writeN (Memory.writeN (Memory.writeN (Memory.writeN [] 0 4 1) 4 4 64) 16 2 10) 20 4 16) 24 8 (2 ^ 35)

/-- A configuration load at a phase, with so many cells asked, of memory m. -/
def load (m : Memory) (ph asked len : Nat) : State :=
  let y : Strm := { st := .running, kind := .scfg, extents := [page0], loader := some 0, cfgVa := 0, cfgPhase := ph, cfgAsked := asked, cfgLen := len }
  { co (strm0 { y with img := if asked = 0 then [] else [(0, BitVec.ofNat 2048 (Memory.readN m 0 64))] }) with hbm := m }

theorem wit_ImageLoads :
    let y (s : State) : Strm := (s.core 0).strms[(0 : StrmId)]
    let rd (s : State) : Img := (y s).image
    let ready (s : State) : Prop := (y s).st = .running ∧ (y s).kind = .scfg ∧ (y s).cancel = false ∧ (y s).walk = none
    let sec : Sec := { type := 10, len := 16, arg := 2 ^ 35, off := 32 }
    ready (load img0 0 0 0) ∧ (y (load img0 0 0 0)).cfgPhase = 0 ∧ 256 * 0 < (load img0 0 0 0).imgBytes 0 (y (load img0 0 0 0)) ∧
    ((load img0 0 0 0).core 0).loaderFree (some 0) 10 = true ∧ (load img0 0 0 0).pathsFree false ((y (load img0 0 0 0)).pa? ((load img0 0 0 0).tenantOf 0) ((y (load img0 0 0 0)).imgVa 0) .read).toList = true ∧
    (load img0 0 0 0).strmReadPage 0 (y (load img0 0 0 0)) ((y (load img0 0 0 0)).imgVa 0) 32 = .val (Memory.readN img0 0 32) ∧
    ((load [] 0 1 0).imgBytes 0 (y (load [] 0 1 0)) ≤ 256 * 1 ∧ imgCheck (rd (load [] 0 1 0)) = none ∧ ((load [] 0 1 0).core 0).swap = none) ∧
    ((load img0 0 1 0).imgBytes 0 (y (load img0 0 1 0)) ≤ 256 * 1 ∧ imgCheck (rd (load img0 0 1 0)) = some []) ∧
    (ready (load img0 1 1 32) ∧ (y (load img0 1 1 32)).cfgPhase = 1 ∧ 32 ≤ 256 * (y (load img0 1 1 32)).cfgAsked ∧
      imgLength? (rd (load img0 1 1 32)) = some 32 ∧ ((load img0 1 1 32).core 0).loadLeft 0 = false ∧
      imgPool (rd (load img0 1 1 32)) [] 0 (some 0) = []) ∧
    (imgLength? (rd (load imgP 1 1 64)) = some 64 ∧ imgCheck (rd (load imgP 1 1 64)) = some [sec] ∧
      imgPool (rd (load imgP 1 1 64)) [sec] 0 (some 0) ≠ []) ∧
    (ready (load img0 2 1 32) ∧ (y (load img0 2 1 32)).cfgPhase = 2 ∧ ((load img0 2 1 32).core 0).loadLeft 0 = false) ∧
    (let q := (load img0 2 1 32).modCore 0 (fun x => x.sysWrite { addr := 0, bytes := [1], load := some 0 })
     ready q ∧ (y q).cfgPhase = 2 ∧ (q.core 0).loadLeft 0 = true) := by decide +kernel

theorem wit_ImageSections :
    (∀ t : Fin 11, ({ type := t.val, len := 32, arg := 1, off := 0 } : Sec).type = t.val) ∧
    (({ type := 1, len := 0, arg := 31, off := 0 } : Sec).arg = (31 : ElemId).val) ∧ 3 < 4 ∧ 31 < 32 ∧ 7 < 8 ∧
    (2 ^ 7 / 2 ^ 7 % 2 = 1) ∧ (({ type := 4, len := 32, arg := 255, off := 0 } : Sec).arg ≤ 255 ∧ 255 < 255 + 32 / 32) ∧
    (({ type := 9, len := 16, arg := 158, off := 0 } : Sec).arg ≤ 159 ∧ 159 < 158 + 16 / 8) := by decide

theorem wit_StreamsComplete :
    let s := patd (cellPat 0x2F0000)
    let m := s.myCore
    let r (fn : BitVec 4) (p : BitVec 7) : BindReq := { fn := fn, port := p, pat := cellPat 0x2F0000, aux := s.me.rdAP (patAux (cellPat 0x2F0000)), tag := 5, vc := 0 }
    let q (fn : Nat) (p : BitVec 7) : Prop := bindIll fn p.toNat (cellPat 0x2F0000) (s.me.rdAP (patAux (cellPat 0x2F0000))) = false ∧
      (m.bindUnit? (r (BitVec.ofNat 4 fn) p)).isSome = true
    s.me.rdAP 1 = cellPat 0x2F0000 ∧ bindMisaligned? (cellPat 0x2F0000) (s.me.rdAP (patAux (cellPat 0x2F0000))) = none ∧ m.freeStrm? = some 0 ∧
    q 0 48 ∧ q 1 48 ∧ q 2 108 ∧ patBase (cellPat 0x2F0000) % 2 ^ 28 / 2 ^ 22 = s.cur.1.val ∧
    patBase (cellPat 0x2F0000) % 2 ^ 28 / 2 ^ 16 % 64 < 48 ∧
    ((gp 0 0).me.rd 2).toNat % 2 ^ 55 % 256 = 0 ∧ m.activeSlot? ≠ some true ∧ m.swap = none ∧ m.loaderIdle? = some 0 := by decide +kernel

theorem wit_StreamsComplete_indexed :
    let ix (i : Nat) : BitVec 256 := BitVec.ofNat 256 (5 * 2 ^ 55 + 2 ^ 58 + i * 2 ^ 60)
    let s := th (fun t => (t.wrAP 1 (ix 2)).wrAP 2 (BitVec.ofNat 256 (2 * 2 ^ 55)))
    let r (fn : BitVec 4) (p : BitVec 7) : BindReq := { fn := fn, port := p, pat := s.me.rdAP 1, aux := s.me.rdAP (patAux (s.me.rdAP 1)), tag := 5, vc := 0 }
    bindIll 3 48 (s.me.rdAP 1) (s.me.rdAP (patAux (s.me.rdAP 1))) = false ∧ bindIll 4 108 (s.me.rdAP 1) (s.me.rdAP (patAux (s.me.rdAP 1))) = false ∧
    bindMisaligned? (s.me.rdAP 1) (s.me.rdAP (patAux (s.me.rdAP 1))) = none ∧ s.myCore.bindUnit? (r 3 48) = some (some 0, none) ∧
    s.myCore.bindUnit? (r 4 108) = some (none, some 0) := by decide +kernel

theorem wit_StreamsComplete_edge :
    let m := Memory.writeN [] 64 64 (4 * 2 ^ 160)
    let s : State := { base (fun t => t.wr 3 64) (fun x => { x with tlb := [page0], routes := vset x.routes 0 (BitVec.ofNat 256 (5 * 2 ^ 28)) }) with hbm := m }
    let e := edgeOf (BitVec.ofNat 512 (s.readOwn 0 64 64)).toNat (BitVec.ofNat 8 (s.me.rd 2).toNat)
    (s.me.rd 3).toNat % 64 = 0 ∧ s.translate 0 64 .read = some 64 ∧ s.hbmBad 64 64 = false ∧ s.myCore.freeStrm? = some 0 ∧
    s.myCore.loaderIdle? = some 0 ∧ s.myCore.storerIdle? = some 0 ∧ 4 ≤ e.rlog ∧ e.rlog ≤ 12 ∧ e.qs ≠ 3 ∧ e.rarea % 256 = 0 ∧ e.send = true ∧
    rtMode (vget s.myCore.routes e.entry.toNat 0) = 5 := by decide +kernel

theorem wit_StreamsComplete_cells :
    let s := gp 0x2FFF00 0
    let at_ := 0x2FFF00
    let h : Header := { Header.ofWord (s.me.rd 3) with ep := 0, vc := 0, tag := tDATA, ip := 0, seq := 0 }
    let a := co (slot0 .active)
    let d : Drain := { inp := 48, out := 49, vc := 0 }
    let w := co (fun x => (slot0 .active x).modSlot false (fun g => { g with drain := [{ inp := 48, out := 0, vc := 0 }] }))
    let k : Strm := { st := .running, tag := 5 }
    (s.me.rd 2).toNat % 2 ^ 28 = at_ ∧ at_ % 256 = 0 ∧ at_ / 2 ^ 22 = s.cur.1.val ∧ at_ / 2 ^ 16 % 64 < 48 ∧ s.myCore.direct = [] ∧
    s.poolBad at_ 256 = false ∧ PortOpen s 0 118 { h := h, data := BitVec.ofNat 2048 (Memory.readN s.pool at_ 256) } ∧
    (a.myCore.slotAt false).st = .active ∧ (a.myCore.slotAt false).drain = [d] ∧ a.myCore.ahead d = [] ∧ a.myCore.pendDrn = [] ∧
    (∀ i : Fin 128, (a.myCore.ingAt i.val).obuf = []) ∧ PortOpen w 0 48 { h := { ep := 0, vc := 0, tag := tDRN } } ∧
    ((co (strm0 k)).core 0).strms[(0 : StrmId)] = k ∧ k.live = true ∧ k.outLeft = [] ∧ k.writes = [] ∧ ((co (strm0 k)).core 0).edge? 0 = none := by
  unfold PortOpen; decide +kernel

theorem wit_Splices :
    let z (l : List Nat) : Splice := { strm := 0, page := 0, frame := 9, tag := 5, storer := 0, lines := l }
    let s (l : List Nat) : State := co (fun x => { (strm0 { st := .running, kind := .sload, extents := [page0] } x) with splices := [z l] })
    (th id).spliceReady? 0 0 = none ∧ (s []).spliceReady? 0 0 = some (0, z []) ∧ (z []).gone = false ∧
    findXlat (((s []).core 0).strms[(0 : StrmId)]).extents ((s []).tenantOf 0) (0 * 2 ^ 16) = some page0 ∧ page0.pa (0 * 2 ^ 16) < 2 ^ 44 ∧
    (z []).frame < 2 ^ 24 ∧ (s []).memWf = true ∧ (∀ n ∈ List.range 4, (s []).hbmBad (page0.pa 0 + 64 * n) 64 = false) ∧
    (s []).pathsFree false ((List.range 4).map (fun n => page0.pa 0 + 64 * n)) = true ∧
    (s []).pathsFree true ((List.range 4).map (fun n => 9 * 2 ^ 16 + 64 * n)) = true := by decide +kernel

/-- A splice whose page lacks its last four lines. -/
def lastFour : Splice := { strm := 0, page := 0, frame := 9, tag := 5, storer := 0, lines := List.range 1020 }

theorem wit_Splices_last :
    ((co (fun x => { (strm0 { st := .running, kind := .sload, extents := [page0] } x) with splices := [lastFour] })).spliceReady? 0 0 = some (0, lastFour)) ∧
    ((List.range 1024).filter (fun n => !lastFour.lines.contains n)).length ≤ 4 ∧
    4 < ((List.range 1024).filter (fun n => !([] : List Nat).contains n)).length := by
  refine ⟨by decide +kernel, ?_, by decide +kernel⟩
  rw [List.filter_congr (q := fun n => decide (1020 ≤ n)) (fun n _ => by simp only [lastFour, List.contains_eq_mem, List.mem_range, ← decide_not, Nat.not_lt])]
  decide +kernel

/-! ### The Weir -/

theorem wit_RoutingIssue :
    (th id).xgroupForeign 0 63 = false ∧ ((two 0 0x10000).me.rd 2).toNat / 2 ^ 16 % 2 ^ 16 ≠ 0 ∧
    ((two 32 0).translate 0 (((two 32 0).me.rd 1).toNat % 2 ^ 55) .read = none ∧ ((two 32 0).me.rd 1).toNat % 32 = 0) ∧
    (acc 32 [page0] []).translate 0 (((acc 32 [page0] []).me.rd 1).toNat % 2 ^ 55) .read = some 32 := by decide +kernel

theorem wit_DescriptorRead :
    let s := th (fun t => { t with st := .parked, pend := .desc (.rtset 9) 32 0 })
    let u := { s with ecc := { hbm := [7] } }
    (s.thr 0 0).st = .parked ∧ (s.thr 0 0).pend = .desc (.rtset 9) 32 0 ∧ s.hbmBad 32 32 = false ∧ (s.core 0).wbuf = [] ∧
    (u.thr 0 0).st = .parked ∧ (u.thr 0 0).pend = .desc (.rtset 9) 32 0 ∧ u.hbmBad 32 32 = true := by decide +kernel

theorem wit_RoutesComplete :
    let s := acc 32 [page0] []
    (s.me.rd 1).toNat % 2 ^ 55 % 32 = 0 ∧ s.translate 0 32 .read = some 32 ∧ s.hbmBad 32 32 = false ∧ s.myCore.wbuf = [] ∧
    s.xgroupForeign 0 63 = false ∧ (s.me.rd 2).toNat / 2 ^ 16 % 2 ^ 16 = 0 ∧
    (let u := { (pair 2 0 0) with xgroups := s.xgroups.set 0 ((s.xgroups[0]).set 63 { mask := 1, owner := some 2 }) }
     u.xgroupForeign 0 63 = true) := by decide +kernel

theorem wit_LateWrites :
    let s (w : Late) : State := co (fun x => { x with late := [w] })
    let e := co (fun x => { x with late := [.step (some 3) true] })
    let f := co (fun x => { (x.modElem 3 (fun g => { g with frozen := some { kind := 1 } })) with late := [.step (some 3) true] })
    let h := co (fun x => { x with late := [.step none false], weirHalted := true })
    (∀ w ∈ [Late.route 9 1, .group 5 1, .budget 2 7, .code 3 9, .gate 4 1, .table true 31 31 [5], .trace true, .be 0 true, .ranges 1 (Vector.replicate 8 5),
      .xgroup 5 false 1 1, .step none true, .step none false], ((s w).core 0).late = [w]) ∧
    ((s (.step none false)).core 0).weirHalted = false ∧ (h.core 0).weirHalted = true ∧ (e.core 0).elems[(3 : ElemId)].frozen = none ∧
    (f.core 0).elems[(3 : ElemId)].frozen ≠ none ∧ 31 + 1 ≤ 32 := by decide +kernel

/-- Core 0 whose active slot's elements map every VC to channel 0. -/
def allMapped (x : Core) : Core :=
  x.modSlot false (fun g => { g with st := .active, elems := Vector.replicate 32 { vcmap := Vector.replicate 32 0x8001 } })

theorem wit_WeirWork :
    let s := co (fun x => { x with weirHalted := true })
    let f := co (fun x => x.modEg 48 (fun g => { g with frozen := some { kind := 1 } }))
    ((s.core 0).weirHalted = true ∧ (s.core 0).weirCredit = false) ∧ (((th id).core 0).ingAt 127).first? = none ∧
    ((f.core 0).egAt 48).frozen ≠ none ∧ (((th id).core 0).egAt 127).frozen = none ∧
    (let q : Queued := { cell := {}, place := .shared }
     let m := (co (fun x => x.modIng 5 (fun g => { g with buf := [q] }))).mark
     (m.core 0).weirHalted = false ∧ ((m.core 0).ingAt 5).buf = [q] ∧ ((m.core 0).ingAt 5).mcq = [] ∧
     (∀ j : PortId, j ≠ 5 → ((m.core 0).ingAt j.val).buf = [] ∧ ((m.core 0).ingAt j.val).mcq = []) ∧ q.cell.m.since ≤ m.slot ∧
     (∀ y ∈ ((m.core 0).egAt q.cell.h.ep.toNat).flight, y.1 ≠ m.slot) ∧ (m.atStart.core 0).space q.cell.h.ep.toNat q.cell = true ∧
     (m.core 0).fits q.cell.h.ep.toNat q.cell = true ∧ m.vcShut 0 = []) ∧
    (let m := co (fun x => x.modIng 5 (fun g => { g with obuf := [{ cell := {} }] }))
     ((m.core 0).ingAt 5).obuf = [{ cell := {} }] ∧ ({} : Cell).m = {} ∧
     PortOpen (m.modCore 0 (fun x => x.modIng 5 (fun g => { g with obuf := [] }))) 0 5 {}) ∧
    (let m := co (fun x => (allMapped x).modEg 79 (fun g => { g with flight := [(9, {})] }))
     ((m.core 0).egAt 79).flight = [(9, {})] ∧ 9 < m.slot ∧ ((m.core 0).egAt 79).frozen = none ∧ ((m.core 0).egAt 79).holding = none ∧
     (m.core 0).chanOf? 79 ({} : Cell).h = some 0) := by unfold PortOpen; decide +kernel

theorem wit_RendezvousAndLoops :
    let s (l : List RdvSet) (n : Nat) : State := co (fun x => (x.modEg 79 (fun g => { g with rdv := l, rdvStall := n })).modLoop 15
      (fun b => { b with stall := n }))
    let full : RdvSet := { rid := 1, opn := 1, ops := [{}, { h := { opx := 1 } }] }
    let part : RdvSet := { rid := 1, opn := 1, ops := [{}] }
    let g (l : List RdvSet) (n : Nat) : Egress := ((s l n).core 0).egAt (48 + (31 : ElemId).val)
    (g [full] 0).frozen = none ∧ (g [full] 0).rdv = full :: [] ∧ full.ops.length = full.opn.toNat + 1 ∧
    (∀ y ∈ full.ops, y.m.since ≤ (s [full] 0).slot) ∧
    (∀ y ∈ full.ops, placeFor (((s [full] 0).core 0).classOf y) (8 - ((s [full] 0).core 0).chanUsed 79 y.h.opx.toNat) = true) ∧
    (g [part] 0).rdv = part :: [] ∧ part.ops.length < part.opn.toNat + 1 ∧
    (g (List.replicate 32 part) 1024).rdv.length = 32 ∧
    4 * ((s (List.replicate 32 part) 1024).core 0).agelim.toNat ≤ (g (List.replicate 32 part) 1024).rdvStall ∧
    (((s [] 1024).core 0).loops[(15 : LoopId)]).frozen = false ∧
    4 * ((s [] 1024).core 0).agelim.toNat ≤ (((s [] 1024).core 0).loops[(15 : LoopId)]).stall ∧
    (((s [] 1023).core 0).loops[(15 : LoopId)]).stall < 4 * ((s [] 1023).core 0).agelim.toNat := by decide +kernel

theorem wit_MailboxDelivery :
    let s (p : Pend) (st : TState) : State := base (fun t => { t with st := st, pend := p }) (head0 118 {})
    ((s (.mailbox 4 0x100) .parked).core 0).head? 10 118 0 = some {} ∧ (s (.mailbox 4 0x100) .parked).slot = 10 ∧
    ((s (.mailbox 4 0x100) .parked).thr 0 0).st = .parked ∧ ((s (.mailbox 4 0x100) .parked).thr 0 0).pend = .mailbox 4 0x100 ∧
    ((s (.mailbox 4 0x100) .parked).thr 0 0).mailbox = [] ∧ ((s .none .ready).thr 0 0).st = .ready ∧
    ((s .none .ready).core 0).head? 10 118 0 = some {} := by decide +kernel

theorem wit_Crossbar :
    let y : XCell := { src := 1, net := 0, here := 0, inp := 12, outp := 11, cell := {} }
    let z : Cell := { h := { mc := 5 } }
    let here (y : XCell) : Bool := y.here == (0 : CoreId).cluster && y.outp == 12 * 0 + 11 && decide (y.since ≤ 10)
    let s := { th id with xbar := [y] }
    let came := { co (fun x => x.modIng 107 (fun g => { g with came := true })) with xbar := [y] }
    let u := co (head0 107 z)
    let o (t : TaskId) : State := { u with xgroups := u.xgroups.set 0 ((u.xgroups[0]).set 5 { mask := 3, owner := some t }) }
    (s.xbar.find? here = some y ∧ (s.core 0).obufFree 107 ≠ 0 ∧ ((s.core 0).ingAt 107).came = false) ∧
    (th id).xbar.find? here = none ∧ ((came.core 0).ingAt 107).came = true ∧
    ((u.core 0).head? u.slot 107 0 = some z ∧ z.h.mc ≠ 0 ∧ ((u.core 0).egAt 107).frozen = none ∧ (((u.core 0).egAt 107).chan 0).moved = false ∧
      (vget u.xgroups[(0 : CoreId).cluster] z.h.mc.toNat {}).mask = 0) ∧
    (vget (o 2).xgroups[(0 : CoreId).cluster] z.h.mc.toNat {}).owner ≠ ((o 2).core 0).task ∧
    ((vget (o 1).xgroups[(0 : CoreId).cluster] z.h.mc.toNat {}).mask ≠ 0 ∧ (vget (o 1).xgroups[(0 : CoreId).cluster] z.h.mc.toNat {}).owner = some 1 ∧
      ((o 1).core 0).task = some 1 ∧ (vget (o 1).xgroups[(0 : CoreId).cluster] z.h.mc.toNat {}).mask.getLsbD 0 = true) := by decide +kernel

theorem wit_Races :
    let y (k : BitVec 3) : Cell := { h := { tag := k } }
    let s (k : BitVec 3) (r : Option Race) : State := co (fun x => (head0 117 (y k) x).modRace 1 (fun u => { u with cfg := 1, cur := r }))
    let u := co (fun x => x.modRace 1 (fun r => { r with out := [(10, {})] }))
    let z : Race := { cfg := 1, key := 5, scores := List.replicate 192 0 }
    let Head (k : BitVec 3) (r : Option Race) : Prop := ((s k r).core 0).head? (s k r).slot 117 0 = some (y k) ∧
      (((s k r).core 0).races[(1 : Fin 2)]).frozen = none ∧ (((s k r).core 0).races[(1 : Fin 2)]).goAt ≤ (s k r).slot ∧
      ((((s k r).core 0).egAt 117).chan 0).moved = false ∧ (((s k r).core 0).races[(1 : Fin 2)]).cur = r
    Head tSTEER none ∧ Head tEOR (some z) ∧ Head tDATA none ∧ Head tDATA (some z) ∧ raceFmt z.cfg = 1 ∧ laneCount 1 = 64 ∧
    z.scores.length + 64 = 256 ∧ ((th id).core 0).head? 10 117 0 = none ∧
    ((u.core 0).races[(1 : Fin 2)]).out = (10, {}) :: [] ∧ 10 ≤ u.slot := by decide +kernel

/-! ### Banks -/

/-- Core 0 with a cell at bank 47, whose replies on VC 0 go by entry 9, and VC 0 in the format code f. -/
def atBank (y : Cell) (f : BitVec 16) : Core → Core := fun x =>
  head0 47 y (x.modSlot false (fun g => { g with
    st := .active, vct := Vector.replicate 32 f, reply := Vector.replicate 48 (Vector.replicate 32 0x8009) }))

def bcell (cop : BitVec 4) (key : Key) (d : Payload) : Cell := { h := { cop := cop, key := key }, data := d }

theorem wit_BankOperations :
    let ok (cop : BitVec 4) (key : Key) (d : Payload) : Bool :=
      let s := co (atBank (bcell cop key d) 3)
      let x := s.core 0
      s.memWf && x.bankRequest? s.slot 47 == some (bcell cop key d) && x.bankPick 0 s.slot 47 == some 0 && x.replyEntry? 47 0 == some 9
    let s (cop : BitVec 4) (key : Key) (d : Payload) : State := co (atBank (bcell cop key d) 3)
    ok 0 0xFF00 1 = true ∧ (s 0 0xFF00 1).poolBad (47 * 2 ^ 16 + 0xFF00) 256 = false ∧ ok 11 0 0 = true ∧ ok 1 0 0 = true ∧ ok 8 0 0 = true ∧
    ok 3 0 0 = true ∧ ok 2 0 0 = true ∧ ok 4 0 0 = true ∧ ok 5 0 0 = true ∧ copFmtOk ((s 2 0 0).fmtOfVc 0 0) = true ∧
    ok 0 1 0 = true ∧ ok 1 0xFFFF 0 = true ∧ ok 7 0xFFF8 0 = true ∧ (s 7 0xFFF8 0).poolBad (47 * 2 ^ 16 + 0xFFF8) 8 = false ∧
    ok 12 1 0 = true ∧ ok 9 0 0 = true ∧ idxFault (bcell 9 0 0) 64 = none ∧
    (∀ i : Fin 64, (s 9 0 0).poolBad (47 * 2 ^ 16 + 0 + 0 / 2 ^ (32 * i.val) % 2 ^ 32) 4 = false) ∧
    ok 10 0xFFFC 0 = true ∧ idxFault (bcell 10 0xFFFC 0) 32 = none ∧ ok 6 0 (BitVec.allOnes 2048) = true ∧
    (∀ i : Fin 64, tasbBit (bcell 6 0 (BitVec.allOnes 2048)) i.val = none) ∧
    ok 6 0xFFFF (BitVec.allOnes 2048 - 0xFFFFFFF8) = true ∧ tasbBit (bcell 6 0xFFFF (BitVec.allOnes 2048 - 0xFFFFFFF8)) 0 = some (2 ^ 19 - 1) ∧
    (∀ i : Fin 64, 0 < i.val → tasbBit (bcell 6 0xFFFF (BitVec.allOnes 2048 - 0xFFFFFFF8)) i.val = none) ∧
    (s 6 0xFFFF 0).poolBad (47 * 2 ^ 16 + (2 ^ 19 - 1) / 8) 1 = false := by decide +kernel

theorem wit_BankOthers :
    let y : Cell := { h := { tag := tDRN } }
    let s := co (head0 47 y)
    let g : Strm := { st := .running, kind := .sread, pat := cellPat 0x2F0000, ncells := 1, total := 1, port := 48 }
    let u := co (strm0 g)
    ((s.core 0).head? s.slot 47 0 = some y ∧ y.h.tag = tDRN ∧ ((s.core 0).bankAt 47).frozen = none ∧ ((s.core 0).bankAt 47).ops = 0) ∧
    ((th id).core 0).head? 10 47 0 = none ∧
    ((u.core 0).bankGen? 0 47 = some 0 ∧ (u.core 0).bankPick 0 u.slot 47 = some 1 ∧ (u.core 0).strms[(0 : StrmId)] = g ∧ g.cancel = false ∧
      (match u.nextCell 0 0 g with | (_, .ok _) => true | _ => false) = true) ∧
    (((th id).core 0).bankPick 0 10 47 = none ∧ (((th id).core 0).bankAt 47).served = false ∧
      (((th id).core 0).bankAt 47).cecnt ≠ BitVec.allOnes 32) := by decide +kernel

/-! ### Elements -/

/-- ElemOk, computed. -/
def elemOkB (s : State) (x : ElemAct) (op : Nat) : Bool :=
  let u := opUse op
  let c := s.fire.core
  let e := s.fire.elem
  x.legal && actOk x u && (s.fireEcc? (u.mask x) op).isNone && !(s.core c).unboundO e (u.mask x).da &&
  !(s.core c).unboundO e (u.mask x).db &&
  (!u.b || u.rawB || (match s.srcFmt? c e (u.mask x).sb with | some g => g == s.opFormat c e (u.mask x) u | none => true))

theorem elemOk_of {s : State} {x : ElemAct} {op : Nat} (h : elemOkB s x op = true) : ElemOk s x op := by
  simp only [elemOkB, Bool.and_eq_true, Bool.not_eq_true', Bool.or_eq_true, Option.isNone_iff_eq_none] at h
  obtain ⟨⟨⟨⟨⟨h1, h2⟩, h3⟩, h4⟩, h5⟩, h6⟩ := h
  refine ⟨h1, h2, h3, h4, h5, fun hb hr g hg => ?_⟩
  simpa [hb, hr, hg] using h6

/-- Element 0 about to fire, its D registers as given. -/
def el (a b c : DReg) : State := co (fun x => x.modElem 0 (fun e => { e with d := #v[a, b, c, {}] }))

/-- D0 in format f and D1 in format g with data v; D2 as D0. -/
def fm (f g : Fmt) (v : Payload) : State := el { fmt := f } { data := v, fmt := g } { fmt := f }

/-- SA D0, SB D1, DA D2, DB discarded. -/
def act : ElemAct := { sa := 0, sb := 1, da := 2, db := 31, ta := 0 }

/-- The hypotheses of Op at an operation: ElemOk and its operand condition as told. -/
def meets (s : State) (x : ElemAct) (op : Nat) (ok : OpIn → Bool) (v : Bool) : Bool :=
  elemOkB s x op && ok (s.opIn ((opUse op).mask x) (opUse op)) == v

theorem wit_ElementFloats :
    [0x10, 0x11, 0x12, 0x13, 0x14, 0x15, 0x16, 0x17, 0x18, 0x1C, 0x1D, 0x1E].all (fun op =>
      meets (fm 1 1 0) act op fltOk true && meets (fm 3 3 0) act op fltOk true && meets (fm 6 6 0) act op fltOk false) = true := by
  decide +kernel

theorem wit_ElementFloatSpecial :
    [0x19, 0x1A, 0x1B].all (fun op => meets (fm 1 1 0) act op fltOk true && meets (fm 8 8 0) act op fltOk false) = true ∧
    meets (fm 14 14 0) act 0x1F anyOk true = true := by decide +kernel

theorem wit_FloatCodesExact : ffmt? 1 = some fp32 ∧ 0x80000000 < 2 ^ fp32.width ∧ decodeF fp32 0x80000000 ≠ .nan ∧
    1 < 2 ^ fp32.width ∧ decodeF fp32 1 ≠ .nan := by decide +kernel

theorem wit_ElementInteger :
    [0x20, 0x21, 0x22, 0x25, 0x26, 0x27, 0x28, 0x29, 0x2E, 0x2F].all (fun op =>
      meets (fm 8 8 0) act op intOk true && meets (fm 1 1 0) act op intOk false) = true ∧
    [0x2A, 0x2B, 0x2C, 0x2D].all (fun op => meets (fm 14 14 0) act op anyOk true) = true ∧
    meets (fm 1 1 0) act 0x3B (fun i => fltOk i || intOk i) true = true ∧ meets (fm 9 9 0) act 0x3B (fun i => fltOk i || intOk i) false = true := by
  decide +kernel

theorem wit_ElementProducts :
    meets (fm 6 7 0) act 0x23 (fun i => (i.a.fmt == 6 || i.a.fmt == 7) && (i.b.fmt == 6 || i.b.fmt == 7)) true = true ∧
    meets (fm 6 6 0) act 0x24 (fun i => i.a.fmt == 6 && (i.b.fmt == 6 || i.b.fmt == 7)) true = true ∧
    meets (fm 10 8 4) act 0x33 (fun i => i.f == 10 && decide (i.scalB % 8 ≤ 4)) true = true ∧
    meets (fm 10 8 5) act 0x33 (fun i => i.f == 10 && decide (i.scalB % 8 ≤ 4)) false = true ∧
    meets (fm 6 8 4) act 0x34 (fun i => i.f == 6 && decide (i.scalB % 8 ≤ 4)) true = true ∧
    [0x35, 0x36].all (fun op => meets (fm 9 9 0) act op (fun i => i.f == 9) true && meets (fm 1 1 0) act op (fun i => i.f == 9) false) = true ∧
    meets (fm 11 11 0) act 0x38 (fun i => i.f == 11) true = true ∧ meets (fm 1 1 0) act 0x38 (fun i => i.f == 11) false = true := by
  decide +kernel

theorem wit_ElementConvert :
    meets (fm 1 8 2) act 0x30 (fun i => decide (1 ≤ i.f.toNat ∧ i.f.toNat ≤ 9) && decide (1 ≤ i.scalB % 16 ∧ i.scalB % 16 ≤ 9) &&
      decide (i.scalB / 16 % 16 < 2)) true = true ∧
    meets (fm 1 8 0x34) act 0x30 (fun i => decide (i.scalB / 16 % 16 < 4)) true = true ∧
    meets (fm 4 8 1) act 0x32 (fun i => (i.f == 4 || i.f == 5 || i.f == 12 || i.f == 13) && (BitVec.ofNat 4 i.scalB == 1)) true = true ∧
    meets (fm 11 8 1) act 0x37 (fun i => i.f == 11 && isFlt (BitVec.ofNat 4 i.scalB)) true = true ∧
    meets (fm 8 8 11) act 0x37 (fun i => isIntF i.f && BitVec.ofNat 4 i.scalB == 11) true = true ∧
    meets (fm 1 1 0) act 0x31 (fun i => fltOk i && !(i.fb.isNone && i.selB != 13)) true = true ∧
    meets (fm 6 6 0) act 0x31 (fun i => fltOk i && !(i.fb.isNone && i.selB != 13)) false = true := by decide +kernel

theorem wit_ElementMovers :
    [0x00, 0x01, 0x02, 0x03, 0x04, 0x39, 0x3A, 0x40].all (fun op => meets (fm 10 10 0) act op anyOk true) = true ∧
    meets (fm 8 8 0) act 0x05 intOk true = true ∧ meets (fm 1 1 0) act 0x05 intOk false = true ∧
    meets (fm 8 8 0) { act with sa := 8, sb := 9 } 0x41 anyOk true = true := by decide +kernel

/-- A stage with element 0 that splits LO..HI 0..100. -/
def splitting : Stage := { decl := BitVec.ofNat 1024 (1 + 100 * 2 ^ 112), st := .splitting }

theorem wit_ElementRoutines :
    let x : ElemAct := { act with da := 8 }
    let s (st : OxState) (v : Payload) : State :=
      co (fun y => { (head0 48 { h := { tag := tSPL }, m := { spl := true } } (y.modElem 0 (fun e => { e with splSeen := true, d := #v[{ data := v, fmt := 8 }, {}, {}, {}] }))) with
        stages := y.stages.set 0 { splitting with st := st } })
    (elemOkB (s .whole 9) x 0x06 = true ∧ (s .whole 9).pivotStage? 0 0 ((s .whole 9).opIn x (opUse 0x06)).scalA = none) ∧
    (elemOkB (s .splitting 9) x 0x06 = true ∧ (s .splitting 9).pivotStage? 0 0 ((s .splitting 9).opIn x (opUse 0x06)).scalA = some 0 ∧
      ((s .splitting 9).core 0).elems[(0 : ElemId)].frozen = none) ∧
    (elemOkB (s .whole 9) x 0x07 = true ∧ (s .whole 9).endsRoutine 0 0 = false) ∧
    (elemOkB (s .splitting 9) x 0x07 = true ∧ (s .splitting 9).endsRoutine 0 0 = true) := by decide +kernel

theorem wit_FiringFaults :
    let e : State := { fm 1 1 0 with ecc := { spots := [.dreg 0 0 1 31] } }
    ({ act with sa := 24 } : ElemAct).legal = false ∧
    (({ act with da := 4 } : ElemAct).legal = true ∧ [0x13, 0x14, 0x1F, 0x23, 0x24, 0x36, 0x41, 0x06, 0x07].all (fun op => !actOk { act with da := 4 } (opUse op)) = true) ∧
    (act.legal = true ∧ e.fireEcc? act 0x10 ≠ none ∧ e.fireEcc? act 0x2A ≠ none) ∧
    ((fm 1 1 0).fireEcc? { act with da := 7 } 0x10 = none ∧ (fm 1 1 0).fireEcc? { act with da := 7 } 0x02 = none ∧
      ((fm 1 1 0).core 0).unboundO 0 ({ act with da := 7 } : ElemAct).da = true) ∧
    (act.da.toNat ≤ 3 ∧ (fm 1 2 0).fireEcc? act 0x10 = none ∧ (fm 1 2 0).fireEcc? act 0x13 = none ∧ ((fm 1 2 0).core 0).unboundO 0 act.db = false ∧ (fm 1 2 0).srcFmt? 0 0 act.sb = some 2 ∧
      (2 : Fmt) ≠ (fm 1 2 0).opFormat 0 0 act (opUse 0x10)) := by decide +kernel

/-- Element 0 with O0 bound to route entry 1, which sends to a port of core 0. -/
def emits (port : Nat) (f : Fmt) : State :=
  (fm f f 0).modCore 0 (fun x => { (x.modSlot false (fun g => { g with st := .active, elems := g.elems.set 0 { out := #v[0x8001, 0, 0, 0] } })) with
    routes := x.routes.set 1 (BitVec.ofNat 256 (2 ^ 28 + 2 ^ 64 * (2 ^ 31 + port * 2 ^ 14))) })

/-- A result of zeros. -/
def res0 : Res := { v := { data := 0, fmt := 1, key := 0 } }

/-- A result for O0 names a reserved port, or not, and nothing else stops the firing: PortsOk fails, or holds. -/
theorem wit_Op_port :
    [0x10, 0x12, 0x13, 0x15, 0x19, 0x1F, 0x20, 0x23, 0x2A, 0x31, 0x33, 0x36, 0x38, 0x39].all (fun op =>
      [124, 127].all (fun p => elemOkB (emits p 1) { act with db := 4 } op && (emits p 1).emitsReserved ((opUse op).mask { act with db := 4 }).db res0) &&
      elemOkB (emits 48 1) { act with db := 4 } op && !(emits 48 1).emitsReserved ((opUse op).mask { act with db := 4 }).db res0 &&
      !(emits 127 1).emitsReserved ((opUse op).mask act).da res0 && !(emits 127 1).emitsReserved ((opUse op).mask act).db res0) = true := by
  decide +kernel

theorem wit_ElementBoundary :
    let s := co (fun x => head0 79 { h := { tag := tDRN } } (x.modSlot false (fun g => { g with
      st := .active, elems := g.elems.set 31 { vcmap := Vector.replicate 32 0x8000, out := #v[0x8001, 0, 0, 0] } })))
    (s.elemRuns 0 31 = true ∧ s.drainReady 0 31 = true) ∧ (th id).drainReady 0 31 = false := by decide +kernel

/-! ### The engines -/

/-- Core 0 with an engine, a cell at the head of port p, and a job queue. -/
def eng (p : Nat) (y : Cell) (m : Me → Me) : State := co (fun x => head0 p y { x with me := m x.me })
def tagd (t : BitVec 3) (key : Key) : Cell := { h := { tag := t, key := key }, data := 9 }
def runJob : MeJob := { kind := .run, tile := false, rows := 1 }
def drainJob : MeJob := { kind := .drain, tile := false, rows := 1, fmt := 1, route := some 7 }

theorem wit_EngineForms :
    let full := co (fun x => { x with me := { x.me with jobs := List.replicate 8 runJob } })
    (decide ((th id).myCore.me.jobs.length < 8) && !(th id).myCore.meWaiting) = true ∧
    (decide (full.myCore.me.jobs.length < 8) && !full.myCore.meWaiting) = false ∧
    ((two 0 1).me.rd 2).toNat % 32 ≠ 0 ∧ ((acc 32 [page0] []).me.rd 1).toNat % 32 = 0 ∧
    (acc 32 [page0] []).translate 0 (((acc 32 [page0] []).me.rd 1).toNat % 2 ^ 55) .read = some 32 ∧ (acc 32 [page0] []).hbmBad 32 32 = false ∧
    (acc 32 [page0] []).myCore.wbuf = [] := by decide +kernel

theorem wit_EngineLate :
    let m : Me := Core.reset.me
    let p : Me := { m with late := [.preload 3 true 255 7 1] }
    let a (i : BitVec 6) : Me := { m with late := [.adapter 15 i 1] }
    p.late = [.preload 3 true 255 7 1] ∧ 3 ≤ 3 ∧ 2 < 3 ∧ 7 < 8 ∧ (a 62).late = [.adapter 15 62 1] ∧ (62 : BitVec 6) ≠ 63 ∧ (0 : BitVec 6) ≠ 62 ∧
    (a 63).late = [.adapter 15 63 1] := by decide +kernel

def engAt (p : Nat) (y : Cell) (m : Me → Me) : Bool :=
  let x := (eng p y m).core 0
  !x.me.off 10 && x.head? 10 p 0 == some y && !((x.egAt p).chan 0).moved
def jobs (l : List MeJob) : Me → Me := fun m => { m with jobs := l }

theorem wit_EngineWork :
    let w := base (fun t => { t with st := .parked, pend := .meJob runJob }) (fun x => { x with waitq := [0] })
    let z : MeJob := { kind := .zero, tile := false, rows := 256, done := 255 }
    (w.thr 0 0).st = .parked ∧ (w.thr 0 0).pend = .meJob runJob ∧ (w.core 0).me.jobs.length < 8 ∧
    (w.core 0).waitq.find? (fun q => match ((w.core 0).thr q).st, ((w.core 0).thr q).pend with | .parked, .meJob _ => true | _, _ => false) = some 0 ∧
    engAt 85 (tagd tDATA 0) id = true ∧ engAt 87 (tagd tDATA 0xFF87) id = true ∧ engAt 86 (tagd tSTEER 0) id = true ∧
    engAt 87 (tagd tSPL 0) id = true ∧ engAt 82 (tagd tDRN 0) id = true ∧ engAt 87 (tagd tDRN 0) id = true ∧
    (engAt 80 (tagd tDRN 0) id = true ∧ ((eng 80 (tagd tDRN 0) id).core 0).mxdRoom = true ∧ (eng 80 (tagd tDRN 0) id).fatalAt (shadowSpots 0) = false ∧
      ({ eng 80 (tagd tDRN 0) id with ecc := { spots := shadowSpots 0 ++ shadowSpots 0 } } : State).fatalAt (shadowSpots 0) = true) ∧
    (((eng 90 {} (jobs [z])).core 0).me.off 10 = false ∧ ((eng 90 {} (jobs [z])).core 0).me.jobs = [z] ∧ ((eng 90 {} (jobs [z])).core 0).me.mayAct 0 z 10 = true) := by decide +kernel

theorem wit_EngineWork_fire :
    let fire : Me → Me := fun m => { m with jobs := [runJob], pb := m.pb.set 0 { full := true } }
    let f := eng 80 (tagd tDATA 63) fire
    engAt 80 (tagd tDATA 63) fire = true ∧ (f.core 0).me.takeToken 10 = (f.core 0).me ∧ (f.core 0).me.run? = some (0, runJob) ∧
    ((f.core 0).me.panel runJob.buf).full = true ∧ ((f.core 0).me.panel runJob.buf).since ≤ f.slot ∧ (f.core 0).me.mayAct 0 runJob 10 = true ∧
    runJob.pass = false ∧ f.fatalAt (.panel 0 runJob.buf :: (f.core 0).me.fireSpots 0 runJob 63) = false ∧
    (f.core 0).me.hasU f.slot 63 runJob.kpanel = true := by decide +kernel

theorem wit_EngineWork_pass :
    let j : MeJob := { runJob with pass := true, fmt := 1, route := some 7 }
    let f := eng 80 (tagd tDATA 63) (fun m => { m with jobs := [j], pb := m.pb.set 0 { full := true } })
    (f.core 0).me.off 10 = false ∧ (f.core 0).me.takeToken 10 = (f.core 0).me ∧ (f.core 0).me.run? = some (0, j) ∧ (f.core 0).me.mayAct 0 j 10 = true ∧ j.pass = true ∧
    (f.core 0).me.drain? = some (0, j) ∧ mxFmtBad j.fmt = false ∧ j.route = some 7 ∧ (f.core 0).me.hasV f.slot 63 j.npanel = true ∧
    (f.core 0).mxdRoom = true ∧ (f.core 0).me.drainAt ≤ f.slot := by decide +kernel

theorem wit_EngineWork_drain :
    let d := eng 90 {} (jobs [drainJob])
    (d.core 0).me.off 10 = false ∧ (d.core 0).me.takeToken 10 = (d.core 0).me ∧ (d.core 0).me.drain? = some (0, drainJob) ∧ (d.core 0).me.mayAct 0 drainJob 10 = true ∧
    drainJob.kind = .drain ∧ drainJob.rows ≠ 0 ∧ drainJob.route = some 7 ∧ (d.core 0).me.drainAt ≤ d.slot ∧
    mxFmtBad drainJob.fmt = false ∧ d.fatalAt ((d.core 0).me.drainSpots 0 false 0 63 false) = false ∧ (Sparse.getD ((d.core 0).me.tile false).rows 0 {}).lp = false ∧
    (d.core 0).mxdRoom = true := by decide +kernel

theorem wit_EngineWork_adapter :
    let g : Fetch := { slot := 3, id := 5, index := 0, loader := 0, vc := 0, va := 0, asked := 32, next := 31, total := 32 }
    let q : Fetch := { g with asked := 0, next := 0 }
    let a := eng 86 (tagd tCTRL 0) (fun m => { m with fetchU := [g], slots := m.slots.set 3 { id := 5 } })
    let f (m : Memory) : State := { co (fun x => { x with ptbase := 1, me := { x.me with fetchU := [q] } }) with hbm := m }
    let n := { co (fun x => head0 80 (tagd tDATA 5) { x with ptbase := 1, me := { x.me with jobs := [runJob], dir := [(5, BitVec.ofNat 256 (2 ^ 192))] } }) with
      hbm := tables }
    let new : Fetch := (Core.newFetch? (n.atStart.core 0) (n.core 0) n.slot false).getD g
    let n1 := (n.modCore 0 (fun x => x.modMe (fun m => m.beginFetch false new))).clearSpots ((n.core 0).me.lostSpots 0 false new)
    let free (s : State) (l : Fin 8) : Prop := ((s.core 0).ingAt (108 + l.val)).frozen = none ∧ (s.core 0).loaderFree (some l) s.slot = true ∧
      ((s.core 0).ingAt (108 + l.val)).obuf.length < 16
    ((a.core 0).head? 10 86 0 = some (tagd tCTRL 0) ∧ (a.core 0).me.fetchU = g :: [] ∧ g.id ≠ 63 ∧ ((a.core 0).me.slots[g.slot]).id = g.id ∧
      31 = g.next ∧ g.total ≤ 31 + 1) ∧
    ((f tables).core 0).me.fetchV = [] ∧ (∀ z ∈ ((f tables).core 0).sliceNeeds, z.v = false) ∧
    (((f tables).core 0).me.asking? false = some (0, q) ∧ free (f tables) q.loader ∧
      (match (f tables).genRead 0 ((q.va + 256 * q.asked) % vaTop) 256 (((f tables).core 0).demands false q) with | .dropped _ => true | _ => false) = true ∧
      (f tables).pathsFree false ((f tables).genPlaces 0 ((q.va + 256 * q.asked) % vaTop) 256) = true) ∧
    ((n.core 0).me.off n.slot = false ∧ (n.core 0).me.fetchV = [] ∧ (∀ z ∈ (n.core 0).sliceNeeds, z.v = false) ∧ (n.core 0).me.asking? false = none ∧
      Core.newFetch? (n.atStart.core 0) (n.core 0) n.slot false = some new ∧ free n new.loader ∧ new.asked = 0 ∧
      n1.pathsFree false (n1.genPlaces 0 (new.va % vaTop) 256) = true ∧
      (match n1.genRead 0 (new.va % vaTop) 256 ((n1.core 0).demands false new) with | .ok _ _ => true | _ => false) = true) ∧
    (let b := n1
     (b.core 0).me.off b.slot = false ∧ (b.core 0).me.asking? false = some (0, new) ∧ free b new.loader ∧
      b.pathsFree false (b.genPlaces 0 ((new.va + 256 * new.asked) % vaTop) 256) = true ∧
      (match b.genRead 0 ((new.va + 256 * new.asked) % vaTop) 256 ((b.core 0).demands false new) with | .ok _ _ => true | _ => false) = true) := by
  decide +kernel

def rbd (m : Rb → Rb) : State := co (fun x => { x with rb := m x.rb })

theorem wit_ReedbedForms :
    let full := rbd (fun r => { r with jobs := List.replicate 8 { kind := .mode 0 } })
    let act := rbd (fun r => { r with active := some 2, states := r.states.set 7 .loaded })
    (th id).myCore.rb.jobs.length < 8 ∧ (th id).myCore.rbWaiters = [] ∧ 8 ≤ full.myCore.rb.jobs.length ∧
    (((two 256 0).me.rd 1).toNat % 256 = 0 ∧ 129 < ((two 130 0).me.rd 1).toNat % 256) ∧ ((two 129 0).me.rd 1).toNat % 256 ≤ 129 ∧
    ((th id).myCore.rb.states[(7 : Fin 8)]) = .empty ∧ (act.myCore.rb.states[(7 : Fin 8)]) ≠ .empty ∧
    ((th id).myCore.rb.active = none ∧ (th id).myCore.rbctxPending = false) ∧ act.myCore.rb.active ≠ none := by decide +kernel

theorem wit_ReedbedWork :
    let c1 : RbCtx := { hdr := BitVec.ofNat 2048 (1 + 2 ^ 32 + 2 ^ 80) }
    let one (j : RbJob) : Rb → Rb := fun r => { r with jobs := [j], ctxs := r.ctxs.set 2 c1, states := r.states.set 2 .loaded, active := some 2, runCtx := 2 }
    let job (k : RbKind) : RbJob := { kind := k }
    (∀ i : Fin 5, ((rbd (one (job ([.load 3 129, .ctx 2, .mode 1, .run 256, .run 0][i])))).core 0).rb.off 10 = false) ∧
    (((rbd (one (job (.load 3 129)))).core 0).rb.load = none ∧ ((rbd (one (job (.load 3 129)))).core 0).rb.active ≠ some 3 ∧
      (∀ q : Fin 4, ((rbd (one (job (.load 3 129)))).core 0).head? 10 (92 + q.val) 0 = none)) ∧
    (((rbd (fun r => { one (job (.load 3 129)) r with load := some (3, 0) })).core 0).rb.load = some (3, 0) ∧ ((rbd id).core 0).rbWaiters = []) ∧
    (((rbd (one (job (.ctx 2)))).core 0).rb.phase = .idle ∧ ((rbd (one (job (.ctx 2)))).core 0).rb.jobs = [job (.ctx 2)] ∧
      (((rbd (one (job (.ctx 2)))).core 0).rb.states[(2 : Fin 8)]) ≠ .empty ∧ ((rbd (one (job (.ctx 2)))).core 0).rbWaiters = [] ∧
      (((rbd (one (job (.ctx 3)))).core 0).rb.runJob? = some (job (.ctx 3)) ∧ (((rbd (one (job (.ctx 3)))).core 0).rb.states[(3 : Fin 8)]) = .empty) ∧
      (let q : RbJob := { kind := .ctx 2, seq := 1 }
       let l := rbd (fun r => { one q r with jobs := [job (.load 2 129), q] })
       (l.core 0).rb.off 10 = false ∧ (l.core 0).rb.runJob? = some q ∧ ∃ z ∈ (l.core 0).rb.jobs, z.seq < q.seq ∧ z.kind = .load 2 129) ∧
      ((rbd (one (job (.ctx 2)))).core 0).rb.since ≤ 10 ∧ (job (.ctx 2)).since ≤ 10) ∧
    (((rbd (one (job (.mode 0xFF)))).core 0).rb.jobs = [job (.mode 0xFF)] ∧ ((rbd (one (job (.mode 0xFF)))).core 0).rbWaiters = []) ∧
    (((rbd (one (job (.run 256)))).core 0).rb.active = some 2 ∧ (rbd (one (job (.run 256)))).fatalAt [.context 0 2 1024] = false ∧
      (∀ q : Fin 4, ((rbd (one (job (.run 256)))).core 0).head? 10 (88 + q.val) 0 = none) ∧
      (((rbd (one (job (.run 256)))).core 0).rb.ctx 2).nin ≠ 0) := by decide +kernel

theorem wit_ReedbedWork_run :
    let c1 : RbCtx := { hdr := BitVec.ofNat 2048 (1 + 2 ^ 32 + 2 ^ 80) }
    let one (j : RbJob) : Rb → Rb := fun r => { r with jobs := [j], ctxs := r.ctxs.set 2 c1, states := r.states.set 2 .loaded, active := some 2, runCtx := 2 }
    let job (k : RbKind) : RbJob := { kind := k }
    let out (v : Vector Nat 4) : Rb → Rb := fun r => { one (job (.run 256)) r with phase := .output v }
    let bound := co (fun x => { x.modSlot false (fun g => { g with st := .active, portbind := Vector.replicate 12 0x8001 }) with
      rb := out (Vector.replicate 4 0) x.rb })
    (((rbd (fun r => { one (job (.run 256)) r with phase := .eval 7 })).core 0).rb.phase = .eval 7) ∧
    ((bound.core 0).rb.phase = .output (Vector.replicate 4 0) ∧ vget (Vector.replicate 4 0) 0 0 < (bound.core 0).rb.outTotal 0 ∧
      (bound.core 0).rbUnbound = false ∧ bound.ecc.spots = [] ∧ (bound.core 0).rb.since ≤ bound.slot ∧
      (∀ q : Fin 4, q ≠ 0 → (bound.core 0).rb.outTotal q.val ≤ vget (Vector.replicate 4 0) q.val 0) ∧ 0 < (bound.core 0).obufFree 88 ∧
      (bound.core 0).rb.frozen = none) ∧
    (let e := { rbd (fun r => { one (job (.run 256)) r with phase := .eval 7 }) with ecc := { spots := [.context 0 2 0] } }
     (e.core 0).rb.evalAt = 0 ∧ (e.core 0).rb.staged = [] ∧ (e.core 0).rb.since ≤ e.slot ∧ (e.core 0).rb.evalAt < ((e.core 0).rb.ctx (e.core 0).rb.runCtx).nl ∧
      e.fatalAt (recordSpots 0 2 0 (((e.core 0).rb.ctx 2).record 0) 7 (e.core 0).rb.batch) = true ∧
      (rbd (fun r => { one (job (.run 256)) r with phase := .eval 7 })).ecc.spots = []) ∧
    (let l := co (fun x => head0 92 (tagd tDATA 0x80) { x with rb := { x.rb with load := some (3, 1) } })
     (l.core 0).rb.load = some (3, 0 + 1) ∧ (l.core 0).head? 10 92 0 = some (tagd tDATA 0x80) ∧ (((l.core 0).egAt 92).chan 0).moved = false ∧
      (∀ q : Fin 4, q ≠ 0 → (l.core 0).head? 10 (92 + q.val) 0 = none)) ∧
    (let l := co (fun x => head0 88 (tagd tDATA 2047) { x with rb := { x.rb with phase := .input 1 } })
     (l.core 0).rb.phase = .input (0 + 1) ∧ (l.core 0).head? 10 88 0 = some (tagd tDATA 2047) ∧ (((l.core 0).egAt 88).chan 0).moved = false ∧
      (∀ q : Fin 4, q ≠ 0 → (l.core 0).head? 10 (88 + q.val) 0 = none)) := by decide +kernel

theorem wit_ReedbedWork_done :
    let c1 : RbCtx := { hdr := BitVec.ofNat 2048 (1 + 2 ^ 32 + 2 ^ 80) }
    let one (j : RbJob) : Rb → Rb := fun r => { r with jobs := [j], ctxs := r.ctxs.set 2 c1, states := r.states.set 2 .loaded, active := some 2, runCtx := 2 }
    let job (k : RbKind) : RbJob := { kind := k }
    let out (v : Vector Nat 4) : Rb → Rb := fun r => { one (job (.run 256)) r with phase := .output v }
    let drn (p : Nat) := co (fun x => head0 p (tagd tDRN 0) (x.modSlot false (fun g => { g with st := .active, drain := [{ inp := 48, out := 88, vc := 0 }] })))
    (((rbd (out (Vector.replicate 4 2048))).core 0).rb.runJob? = some (job (.run 256)) ∧
      (∀ q : Fin 4, ((rbd (out (Vector.replicate 4 2048))).core 0).rb.outTotal q.val ≤ vget (Vector.replicate 4 2048) q.val 0)) ∧
    (((drn 88).core 0).rbBound = [88] ∧ ((drn 88).core 0).head? 10 88 0 = some (tagd tDRN 0) ∧ (((drn 88).core 0).egAt 88 |>.chan 0).moved = false ∧
      ((drn 88).core 0).rb.phase = .idle ∧ (∀ q : Fin 4, boundEntry? (vget ((drn 88).core 0).cfg.portbind (8 + q.val) 0) = none) ∧
      ((drn 88).core 0).rb.runEnd ≤ 10 ∧ ((drn 88).core 0).rb.off 10 = false) ∧
    ((drn 92).core 0).head? 10 92 0 = some (tagd tDRN 0) ∧ ((drn 95).core 0).head? 10 95 0 = some (tagd tDRN 0) := by decide +kernel

/-! ### The Oxbow -/

/-- A stage of element 0, LO..HI 0..100, twin candidate core 1, overload and underload thresholds set, IVC 0. -/
def stage0 (st : OxState) (twin : Option CoreId) (f : Stage → Stage) : Core → Core := fun x => { x with
  stages := x.stages.set 0 (f { decl := BitVec.ofNat 1024 (1 + 100 * 2 ^ 112 + 2 ^ 160 + 2 ^ 192 + 0x81 * 2 ^ 224), st := st, twin := twin }) }

def ox (st : OxState) (twin : Option CoreId) (f : Stage → Stage) : State := co (stage0 st twin f)

theorem wit_OxbowForms :
    let y (s : State) : Stage := s.myCore.stages[(0 : StageId)]
    let bare := ox .whole none (fun g => { g with decl := 1 })
    (y (th id)).st = .none ∧ ((y (ox .whole none id)).st = .whole ∧ (ox .whole none id).cloneFail? 0 (y (ox .whole none id)) = none) ∧
    ((y (ox .asked none id)).st = .asked ∧ (ox .asked none id).cloneFail? 0 (y (ox .asked none id)) = none) ∧
    ((y bare).st = .whole ∧ bare.cloneFail? 0 (y bare) = some 1) ∧ (y (ox .cloning (some 1) id)).st = .cloning ∧
    ((y (ox .split (some 1) id)).st = .split ∧ (y (ox .split (some 1) id)).twin = some 1) ∧ ((two 64 0).me.rd 1).toNat % 128 ≠ 0 ∧
    (((acc 128 [page0] []).me.rd 1).toNat % 128 = 0 ∧ (acc 128 [page0] []).translate 0 128 .read = some 128 ∧ (acc 128 [page0] []).hbmBad 128 128 = false ∧
      (acc 128 [page0] []).myCore.wbuf = []) ∧
    (let z : Stage := { decl := BitVec.ofNat 1024 (1 + 2 ^ 80 + 100 * 2 ^ 112) }
     (acc 128 [page0] []).declOk 0 z = true ∧ z.st = .none ∧ (acc 128 [page0] []).declOk 0 { z with decl := 0 } = false ∧
      (Stage.st { z with st := .split }) ≠ .none ∧ (Stage.st { z with st := .split }) ≠ .whole) := by decide +kernel

def stg (s : State) : Stage := (s.core 0).stages[(0 : StageId)]
def live : Core → Core :=
  fun x => x.modSlot false (fun g => { g with st := .active, elems := g.elems.set 0 { vcmap := Vector.replicate 32 0x8000 } })

theorem wit_OxbowLife_ask :
    let bare := ox .asked none (fun g => { g with decl := 1 })
    (ox .whole none id).oxRuns 0 = true ∧ (ox .asked none id).oxRuns 0 = true ∧ State.reset.oxRuns 0 = false ∧ ((stg (ox .whole none id)).ovd ≠ 0 ∧ (stg (ox .whole none id)).pin = false ∧ (stg (ox .whole none id)).ovw ≤ (stg (ox .whole none id)).ovTimer) ∧
    (stg (ox .whole none (fun g => { g with pin := true }))).pin = true ∧
    ((stg (ox .asked none id)).st = .asked ∧ (ox .asked none id).cloneFail? 0 (stg (ox .asked none id)) = none) ∧
    ((stg bare).st = .asked ∧ bare.cloneFail? 0 (stg bare) = some 1) ∧ (stg (ox .whole none id)).st ≠ .asked ∧
    ((stg (ox .cloning (some 1) id)).twin = some 1 ∧ (1 : CoreId) ≠ 0 ∧ ((ox .cloning (some 1) id).core 1).cloneSlot? = some false) := by
  decide +kernel

theorem wit_OxbowLife_split :
    let spl : Cell := { h := { tag := tSPL }, m := { spl := true } }
    let w := co (fun x => head0 48 spl (live x))
    let ended := co (fun x => (stage0 .splitting (some 1) id x).modElem 0 (fun e => { e with ended := true }))
    (w.splWaiting 0 0 = true ∧ w.elemRuns 0 0 = true ∧ (w.core 0).head? w.slot 48 0 = some spl) ∧
    (let a := co (fun x => head0 48 spl (stage0 .splitting (some 1) id (live x)))
     a.splWaiting 0 0 = true ∧ a.elemRuns 0 0 = true ∧ spl.data.getLsbD 48 = false ∧ (a.core 0).sourceStage? 0 (fun t => t == .splitting) = some 0) ∧
    (let m : Cell := { spl with data := 1#2048 <<< 48 }
     let b := (co (fun x => head0 48 m (live x))).setCore 1 (stage0 .merging (some 0) id { Core.reset with task := some 1 })
     let b : State := { b with tasks := [{ task1 with cores := [0, 1] }] }
     b.splWaiting 0 0 = true ∧ b.elemRuns 0 0 = true ∧ m.data.getLsbD 48 = true ∧ b.twinStage? 0 0 (fun t => t == .merging) = some (1, 0)) ∧
    ((stg ended).st = .splitting ∧ (stg ended).twin = some 1 ∧ (stg ended).since < ended.slot ∧
      (∀ f ∈ (stg ended).elems, (ended.core 0).elems[f].ended = true) ∧ ended.oxRuns 0 = true) ∧
    ((ox .splitting (some 1) id).core 0).elems[(0 : ElemId)].ended = false ∧ (0 : ElemId) ∈ (stg (ox .splitting (some 1) id)).elems ∧
    (((ox .draining (some 1) (fun g => { g with rtn := 1 })).core 0).drainingStage? 0 = some (0, stg (ox .draining (some 1) (fun g => { g with rtn := 1 })))) := by
  decide +kernel

theorem wit_OxbowLife_forward :
    let moved : Stage → Stage := fun g => { g with ranges := Vector.replicate 8 (BitVec.ofNat 64 (2 ^ 63 + 100 * 2 ^ 16 + 2 ^ 36)) }
    let fwd := co (fun x => head0 48 {} (stage0 .draining (some 1) moved x))
    (fwd.core 0).drainingStage? 0 = some (0, stg fwd) ∧ (stg fwd).twin = some 1 ∧ (stg fwd).rtn = 0 ∧ (stg fwd).since < fwd.slot ∧ fwd.oxRuns 0 = true ∧
    (List.range 4).find? (fun ch => match (fwd.core 0).head? fwd.slot 48 ch with
      | some w => w.h.vc == (stg fwd).ivc && (stg fwd).moved 0 w.h.key
      | none => false) = some 0 ∧
    (fwd.core 0).head? fwd.slot 48 0 = some {} ∧ ((fwd.core 0).egAt 48).rdeSent = false ∧ ((fwd.core 0).egAt 48).pending = 0 := by decide +kernel

theorem wit_OxbowLife_hold :
    let rel (h : List Cell) := co (fun x => (live x).modEg 48 (fun g => { g with holdOpen := true, hold := h }))
    let old := co (fun x => (live x).modEg 48 (fun g => { g with holdOld := true, holdFrom := 9, hold := [{ m := { since := 10 } }, {}] }))
    ((((old.core 0).egAt 48).holdOld = true ∧ ((old.core 0).egAt 48).holdAt ≤ 10 ∧ ((old.core 0).egAt 48).frozen = none ∧
      ((old.core 0).egAt 48).hold.filter (fun w => decide (w.m.since ≤ ((old.core 0).egAt 48).holdFrom)) = {} :: [] ∧
      (old.core 0).chanOf? 48 ({} : Cell).h = some 0 ∧ placeFor ((old.core 0).classOf {}) (8 - (old.core 0).chanUsed 48 0) = true) ∧ (((rel [{}]).core 0).egAt 48).holdOld = false) ∧
    (((co (fun x => x.modEg 48 (fun g => { g with rdeIn := some {} }))).core 0).egAt 48).rdeIn = some {} ∧
    (((th id).core 0).egAt 48).rdeIn = none ∧
    ((((rel []).core 0).egAt 48).holdOpen = true ∧ (((rel []).core 0).egAt 48).holdAt ≤ 10 ∧ (((rel []).core 0).egAt 48).frozen = none ∧
      (((rel []).core 0).egAt 48).hold = [] ∧ (((rel []).core 0).egAt 48).flight = []) ∧
    ((((rel [{}]).core 0).egAt 48).hold = {} :: [] ∧ ({} : Cell).h.rid = 0 ∧ ((rel [{}]).core 0).chanOf? 48 {} = some 0 ∧
      placeFor (((rel [{}]).core 0).classOf {}) (8 - ((rel [{}]).core 0).chanUsed 48 0) = true) := by decide +kernel

theorem wit_OxbowLife :
    let twin := (co (stage0 .merging (some 1) id)).setCore 1 (Core.reset.modElem 0 (fun e => { e with ended := true }))
    ((stg (ox .split (some 1) id)).und ≠ 0 ∧ (stg (ox .split (some 1) id)).pin = false ∧ (stg (ox .split (some 1) id)).unw ≤ (stg (ox .split (some 1) id)).unTimer) ∧
    ((stg (ox .split (some 1) (fun g => { g with mergeP := true }))).mergeP = true ∧ (stg (ox .split (some 1) id)).mergeP = false) ∧
    (let q := ox .returning (some 1) (fun g => { g with quietAt := some 9 })
     (stg q).st = .returning ∧ (stg q).twin = some 1 ∧ (stg q).quietAt = some 9 ∧ 9 < q.slot ∧ q.quiescent 0 (stg q) = true ∧ q.oxRuns 0 = true ∧
      (stg (ox .returning (some 1) id)).quietAt = none) ∧ twin.oxRuns 0 = true ∧ (ox .split (some 1) id).oxRuns 0 = true ∧
    ((stg twin).st = .merging ∧ (stg twin).twin = some 1 ∧ (∀ f ∈ (stg twin).elems, (twin.core 1).elems[f].ended = true) ∧ (stg twin).rtn = 0) := by
  decide +kernel

/-! ### Tasks -/

/-- A launch record of one core and one thread of tenant 1 at PA 0. -/
def recMem : Memory := Memory.writeN (Memory.writeN [] 0 4 0x01010000) 16 8 1

theorem wit_LaunchForms :
    let va (s : State) : Nat := (s.me.rd 1).toNat % 2 ^ 55
    let s (m : Memory) : State := { th (fun t => { t with st := .parked, pend := .launch 4 0 }) with hbm := m }
    va (two 64 0) % 128 ≠ 0 ∧ va (acc 128 [page0] []) % 128 = 0 ∧ (acc 128 [page0] []).translate 0 128 .read = some 128 ∧
    (two 128 0).translate 0 128 .read = none ∧
    ((s []).thr 0 0).st = .parked ∧ ((s []).thr 0 0).pend = .launch 4 0 ∧ (s []).hbmBad 0 128 = false ∧
    ({ (s []) with ecc := { hbm := [15] } } : State).hbmBad 0 128 = true ∧
    (let f : State := { (s recMem) with lq := State.reset.lq.set 1 { recs := List.replicate 256 rec1 } }
     f.recordReason (f.ownBytes 0 0 128) (.thread (f.tenantOf 0) (f.thr 0 0).cm) = none ∧
      256 ≤ f.queueLen (recordOf (f.ownBytes 0 0 128) (Sparse.get? f.owners (byteField (f.ownBytes 0 0 128) 2 1))).tenant) ∧
    (s []).recordReason ((s []).ownBytes 0 0 128) (.thread ((s []).tenantOf 0) ((s []).thr 0 0).cm) = some 1 ∧
    (s recMem).recordReason ((s recMem).ownBytes 0 0 128) (.thread ((s recMem).tenantOf 0) ((s recMem).thr 0 0).cm) = none ∧
    byteField ((s recMem).ownBytes 0 0 128) 5 1 = 0 ∧ (s recMem).queueLen (recordOf ((s recMem).ownBytes 0 0 128) none).tenant < 256 := by
  decide +kernel

/-- recMem with one footprint, at VA 128. -/
def printMem (w : Nat) : Memory := Memory.writeN (Memory.writeN (Memory.writeN recMem 5 1 1) 48 8 128) 136 8 w

theorem wit_LaunchPrints :
    let s (z : State) (w : Nat) : State := { (z.modThr 0 0 (fun t => { t with st := .parked, pend := .launch 4 0 })) with hbm := printMem w }
    let arr (z : State) := (z.softHbm 0 128).readPrints 0 (byteField (z.ownBytes 0 0 128) 48 8) (byteField (z.ownBytes 0 0 128) 5 1)
    let a := s (acc 0 [page0] []) (1 + 2 ^ 56)
    let b := s (acc 0 [page0] []) 1
    let bad : State := { a with ecc := { hbm := [16] } }
    let why (z : State) : Option Nat := z.recordReason (z.ownBytes 0 0 128) (.thread (z.tenantOf 0) (z.thr 0 0).cm)
    why a = none ∧ a.hbmBad 0 128 = false ∧ why bad = none ∧ bad.hbmBad 0 128 = false ∧ why b = none ∧ why (s (th id) 1) = none ∧
    (match arr a with | .ok (u, fp) => (printsOf? fp 1).isSome && decide (u.queueLen 1 < 256) | _ => false) = true ∧
    (match arr b with | .ok (_, fp) => (printsOf? fp 1).isNone | _ => false) = true ∧
    (match arr bad with | .error (.bad _ _) => true | _ => false) = true ∧
    (match arr (s (th id) 1) with | .error (.walk _) => true | _ => false) = true := by
  decide +kernel

theorem wit_LaunchCompletes :
    let s (m : Memory) : State := { acc 0 [page0] [] with hbm := m }
    ((s []).me.rd 1).toNat % 2 ^ 55 % 128 = 0 ∧ (s []).translate 0 0 .read = some 0 ∧ (s []).hbmBad 0 128 = false ∧
    (s []).recordReason ((s []).ownBytes 0 0 128) (.thread ((s []).tenantOf 0) (s []).me.cm) = some 1 ∧
    (s recMem).recordReason ((s recMem).ownBytes 0 0 128) (.thread ((s recMem).tenantOf 0) (s recMem).me.cm) = none ∧
    byteField ((s recMem).ownBytes 0 0 128) 5 1 = 0 ∧ (s recMem).queueLen (recordOf ((s recMem).ownBytes 0 0 128) none).tenant < 256 := by
  decide +kernel

theorem wit_TaskLife :
    let ph (p : TaskPhase) (w : Nat) : State := { th id with tasks := [{ task1 with phase := p, wdog := w }] }
    let g : State := { upState with resv := some { queue := 1, cores := [0] }, lq := State.reset.lq.set 1 { recs := [rec1] } }
    let r : FaultRec := { kind := 1, detail := 0, unit := 0, pos := 0, arg := 0, time := 0, ten := 1, at_ := 9 }
    (upState.resv = none ∧ upState.boot = .running ∧ ∀ q : Fin 64, (upState.lq[q]).recs = []) ∧
    (g.boot = .running ∧ g.resv = some { queue := 1, cores := [0] } ∧ (vget g.lq 1 {}).head? = some rec1 ∧ g.edgesMet rec1 = true ∧
      g.coreFree 0 = true) ∧
    ((ph .starting 5).taskById 1 = some { task1 with phase := .starting } ∧ task1.startAt < (ph .starting 5).slot ∧ rec1.image = 0) ∧
    (ph .running 0).taskById 1 = some { task1 with wdog := 0 } ∧ (ph .running 5).taskById 1 = some task1 ∧ task1.wdog ≠ 0 ∧
    ((ph (.stopping 0 9) 5).taskById 1 = some { task1 with phase := .stopping 0 9 } ∧ task1.cores = [0] ∧ 9 < (ph (.stopping 0 9) 5).slot) ∧
    ((ph (.stopping 0 10) 5).taskById 1 = some { task1 with phase := .stopping 0 10 } ∧ (ph (.stopping 0 10) 5).slot ≤ 10) ∧
    ((0 : CoreId) ∈ task1.cores ∧ ((ph .running 5).core 0).workDone = false) ∧
    ((ph .ending 5).taskById 1 = some { task1 with phase := .ending } ∧ (∀ k ∈ task1.cores, ((ph .ending 5).core k).writesDone = true) ∧
      ∀ k ∈ task1.cores, ∀ g : StageId, (((ph .ending 5).core k).stages[g]).twin = none) ∧
    ((co (fun x => { x with faults := [r] })).core 0).dueRecord? 10 = some r ∧ ((th id).core 0).dueRecord? 10 = none := by decide +kernel

theorem wit_TaskLife_reservation :
    let r : LaunchRec := { rec1 with waited := 2 ^ 32 }
    let s : State := { upState with lq := State.reset.lq.set 1 { recs := [r] } }
    s.resv = none ∧ s.boot = .running ∧ (s.lq[(1 : Fin 64)]).recs.head? = some r ∧ s.tres ≤ r.waited ∧ r.waited < 2 ^ 64 ∧ r.sets ≠ [] ∧
    (∀ l ∈ r.sets, l.length ≤ 64) ∧ ∀ p : Fin 64, ∀ w ∈ (s.lq[p]).recs.head?, w.waited < r.waited ∨ w.waited = r.waited ∧ 1 ≤ p := by decide +kernel

theorem wit_TaskLife_start :
    (let q (d : Nat) (fr : Bool) : State := { upState with lq := State.reset.lq.set 0 { recs := [rec1], def_ := d, fresh := fr } }
     (vget (q 1 false).lq (q 1 false).lqPtr.val {}).head? = some rec1 ∧ (q 1 false).mayStart? (q 1 false).lqPtr.val rec1 = some [0] ∧
      (vget (q 1 false).lq 0 {}).fresh = false ∧ rec1.cores ≤ (vget (q 1 false).lq 0 {}).def_ ∧
      (let full : State := { q 1 false with cores := Vector.replicate 64 { Core.reset with task := some 9 } }
       full.boot = .running ∧ full.resv = none ∧ (vget full.lq full.lqPtr.val {}).head? = some rec1 ∧ full.mayStart? full.lqPtr.val rec1 = none)) := by decide +kernel

theorem wit_TaskLife_record :
    let r : FaultRec := { kind := 1, detail := 0, unit := 0, pos := 0, arg := 0, time := 0, ten := 1, at_ := 9 }
    (let f (m : Memory) : State :=
       { base (fun t => { t with cm := true }) (fun x => { x with faults := [r] }) with pool := m, tasks := [{ task1 with lrec := { rec1 with fring := some 0 } }] }
     ((f []).core 0).dueRecord? (f []).slot = some r ∧ r.toFw = false ∧ (f []).taskOf 0 = some { task1 with lrec := { rec1 with fring := some 0 } } ∧
      ((f []).core 0).controller? ≠ none ∧ poolBank (ringPlace 0 0 ((f []).core 0).ringNext) < 48 ∧
      (f []).ringFull 0 (ringPlace 0 0 0) = false ∧ (f [(0, 1)]).ringFull 0 (ringPlace 0 0 0) = true) := by decide +kernel

/-! ### Hosts, peers, the debug port, the module -/

/-- A datagram of tenant 1. -/
def dg (type : BitVec 8) (payload : List Byte) : Datagram :=
  { ver := 1, type := type, ten := 1, que := 0, edge := 0, seq := 0, pos := 0, len := BitVec.ofNat 32 payload.length, resv := 0, payload := payload }

/-- The bytes of the launch record of recMem. -/
def recBytes : List Byte := (List.range 128).map (Memory.get recMem)

def owned : State := { th id with owners := [(1, 7)] }

theorem wit_HostMessages :
    (∀ t ∈ [(1 : BitVec 8), 2, 3, 4, 6, 11], dgOk (dg t []) = true) ∧ (1 : Tenant) = (dg 1 []).ten.setWidth 6 ∧ (th id).boot = .running ∧
    (th id).owns 7 1 = false ∧ owned.owns 7 1 = true ∧ owned.boot = .running ∧
    (th id).recordReason ((dgBody (dg 3 [])).take 128) (.host 7) = some 1 ∧
    (dgOk (dg 3 recBytes) = true ∧ owned.recordReason ((dgBody (dg 3 recBytes)).take 128) (.host 7) = none ∧
      byteField ((dgBody (dg 3 recBytes)).take 128) 5 1 = 0 ∧ owned.queueLen (recordOf ((dgBody (dg 3 recBytes)).take 128) none).tenant < 256) ∧
    ((dg 11 []).len = 0 ∧ (dg 11 []).pos = 0 ∧ ({ dg 11 [] with pos := 1 } : Datagram).pos = 1 ∧ dgOk { dg 11 [] with pos := 1 } = true) ∧
    (dgOk (dg 11 [0, 0, 0, 0]) = true ∧ (dg 11 [0, 0, 0, 0]).len ≠ 0 ∧ (dg 11 [0, 0, 0, 0]).pos.toNat < 64 ∧ owned.taskOf 0 = some task1 ∧
      owned.owns 7 task1.lrec.tenant = true ∧ task1.cores.contains (uidCore (byteField (dgBody (dg 11 [0, 0, 0, 0])) 0 4)) = true) := by decide +kernel

/-- Whichever port a host is reached by, it is free from reset on, and busy while it carries a message. -/
theorem wit_HostMessages_port : owned.hostInFree 7 = true ∧ owned.hostOutFree 7 = true ∧
    ({ owned with hostIn := Vector.replicate 2 11 } : State).hostInFree 7 = false := by
  have h : ∀ d : Fin 2, decide (owned.hostIn[d] ≤ owned.slot) = true ∧ decide (owned.hostOut[d] ≤ owned.slot) = true ∧
      decide ((Vector.replicate 2 11)[d] ≤ owned.slot) = false := by decide +kernel
  exact ⟨(h _).1, (h _).2.1, (h _).2.2⟩

theorem wit_DiscardedTraffic : dgOk { dg 1 [] with ver := 2 } = false ∧ dgOk { dg 1 [] with resv := 1 } = false ∧ dgOk { dg 1 [] with que := 8 } = true ∧
    dgOk (dg 12 []) = false ∧ dgOk (dg 11 []) = true ∧
    (25 : EthPort).val < 26 := by decide +kernel

/-- Core 0 with an edge end on stream slot 0. -/
def edged (e : Edge) (y : Strm) : State :=
  { co (fun x => (strm0 y x).setEdge 0 e) with linkQs := [{ tenant := 1, link := 0, queue := 0 }] }

def edge0 (send : Bool) : Edge :=
  { peer := 0, edge := 0, rlog := 0, send := send, qs := 0, total := 0, rarea := 0, clog := 0, dap := 0, sbase := 0, entry := 0 }

/-- The tenant's queue on link 0. -/
def lq0 : LinkQ := { tenant := 1, link := 0, queue := 0 }
def sendY : Strm := { st := .running, kind := .edgeSend, extents := [page0] }
def recvY : Strm := { sendY with kind := .edgeRecv }

theorem wit_PeerRounds :
    let a := edged { edge0 true with outq := [{}] } sendY
    let o : Edge := { edge0 true with sentAt := [(0, 0)], sent := 1 }
    let b := edged o sendY
    let late := { b with slot := 2 ^ 20 }
    let v := edged { edge0 false with landed := [(0, (0, 0))] } recvY
    ((a.core 0).edge? 0 = some { edge0 true with outq := [{}] } ∧ (a.core 0).strms[(0 : StrmId)] = sendY ∧ sendY.st = .running ∧
      sendY.cancel = false ∧ (edge0 true).send = true ∧ (edge0 true).again = [] ∧ (a.core 0).storerReady sendY.storer a.slot = true ∧ a.memWf = true ∧
      a.linkOutFree lq0.link = true ∧ a.pathsFree true (a.strmPlaces 0 0 ((edge0 true).place 0) .write) = true ∧
      (a.linkOutUsed lq0.link).linkOutFree lq0.link = false ∧
      a.peerQueue? (a.tenantOf 0) = some lq0 ∧ a.edgeQuant? 0 0 {} = some {} ∧
      (match a.strmTouch 0 0 ((edge0 true).place 0) .write with | .ok _ _ => true | _ => false) = true) ∧
    (sendY.live = true ∧ o.send = true ∧ o.overdue? late.slot = some 0 ∧ o.overdue? b.slot = none) ∧
    (recvY.live = true ∧ (v.core 0).edge? 0 = some { edge0 false with landed := [(0, (0, 0))] } ∧ (edge0 false).row = 0 ∧ (edge0 false).send = false) ∧
    (let e : Edge := { edge0 false with rxq := [{ round := 0, link := 0, head := 0, data := 5 }] }
     let l := edged e recvY
     (l.core 0).edge? 0 = some e ∧ e.rxq ≠ [] ∧ recvY.st = .running ∧ recvY.cancel = false ∧ l.canLand 0 0 e = true ∧
      (match l.edgeWrite 0 0 (e.place (e.first 0 + e.landedOf 0)) (bytesOf 256 5) with | .ok _ => true | _ => false) = true) := by
  decide +kernel

theorem wit_PeerRounds_commit :
    let e (r : Nat) : Edge := { edge0 false with landed := [(0, (0, 0))], row := r }
    let w (r : Nat) := edged (e r) recvY
    recvY.st = .running ∧ (e 0).send = false ∧ recvY.cancel = false ∧ ((w 0).core 0).loaderFree recvY.loader (w 0).slot = true ∧
    (w 0).canLand 0 0 (e 0) = false ∧ (w 1).canLand 0 0 (e 1) = false ∧ ((w 0).core 0).storerReady recvY.storer (w 0).slot = true ∧
    (w 1).pathsFree true ((w 1).strmPlaces 0 0 (e 1).clog .write) = true ∧
    (e 0).whole (e 0).committed = true ∧ (e 1).whole 0 = true ∧
    ((e 0).row < (e 0).roundLen 0 ∧ Sparse.get? (e 0).landed ((e 0).first 0 + 0) = some (0, 0) ∧
      (match (w 0).strmTouch 0 0 ((e 0).place 0) .read with
        | .ok u pa => !u.hbmBad pa 256 && u.pathsFree false [pa] &&
          (u.softHbm pa 256).pathsFree true (((e 0).rowWrites 0 0 (BitVec.ofNat 2048 (Memory.readN u.hbm pa 256))).flatMap (fun w =>
            (u.softHbm pa 256).strmPlaces 0 0 w.1 .write)) && (match (u.softHbm pa 256).edgeWrites 0 0 ((e 0).rowWrites 0 0 (BitVec.ofNat 2048 (Memory.readN u.hbm pa 256))) with
          | .ok _ => true | _ => false)
        | _ => false) = true) ∧
    ((e 1).roundLen 0 ≤ (e 1).row ∧
      (match (w 1).edgeWrite 0 0 0 (bytesOf 8 1) with | .ok u => u.peerQueue? (u.tenantOf 0) == some lq0 | _ => false) = true) := by
  decide +kernel

theorem wit_PeerRounds_messages :
    let o : Edge := { edge0 true with sentAt := [(0, 0)], sent := 1 }
    let b := edged o sendY
    let r (n : Nat) := edged { edge0 false with committed := n } recvY
    let none_ := { r 0 with linkQs := [] }
    let m (t : BitVec 8) (q : BitVec 64) : Datagram := { dg t [] with seq := q }
    let done := edged { edge0 false with committed := 1 } { recvY with st := .done }
    (dgOk (dg 10 []) = true ∧ dgOk (dg 8 []) = true ∧ dgOk (dg 9 []) = true ∧ dgOk (dg 7 []) = true) ∧
    (b.rxQueue? 0 (dg 8 []) = some lq0 ∧ vget b.rxSeq lq0.at_ 0 = (m 8 0).seq.toNat ∧ vget b.rxSeq lq0.at_ 0 ≠ (m 8 1).seq.toNat ∧
      b.endsOf ((dg 8 []).ten.setWidth 6) (dg 8 []).edge true = [(0, 0)] ∧ b.endsOf ((dg 8 []).ten.setWidth 6) (dg 8 []).edge false = [] ∧
      o.committed ≤ 0 ∧ o.first 0 + o.roundLen 0 ≤ o.sent) ∧
    ((r 1).rxQueue? 0 (dg 7 []) = some lq0 ∧ (r 1).endsOf ((dg 7 []).ten.setWidth 6) (dg 7 []).edge false = [(0, 0)] ∧ (dg 7 []).pos.toNat < 1) ∧
    (done.endsOf ((dg 7 []).ten.setWidth 6) (dg 7 []).edge false = [] ∧ done.endsWith ((dg 7 []).ten.setWidth 6) (dg 7 []).edge false false = [(0, 0)]) ∧
    ((r 0).endsOf ((dg 9 []).ten.setWidth 6) (dg 9 []).edge true = [] ∧ (r 0).endsOf ((dg 9 []).ten.setWidth 6) (dg 9 []).edge false = [(0, 0)] ∧
      (r 0).rxQueue? 0 (dg 9 []) = some lq0) ∧
    (let d : Datagram := dg 7 (List.replicate 264 1)
     let e1 := (edge0 false).receive 0 0 (cellsOfBytes (dgBody d) 32)
     let s1 := ((r 0).rxNext lq0 d).modCore 0 (fun x => x.setEdge 0 e1)
     let v := edged { edge0 false with await := [0] } recvY
     let f := ((r 0).linkInUsed 0).rxNext lq0 d |>.modCore 0 (fun x => x.setEdge 0 e1)
     dgOk d = true ∧ (r 0).rxQueue? 0 d = some lq0 ∧ (r 0).endsOf (d.ten.setWidth 6) d.edge false = [(0, 0)] ∧ d.pos.toNat < 0 + 2 ∧
      recvY.live = true ∧ recvY.cancel = false ∧ (edge0 false).await.contains 0 = false ∧ e1.rxq.length = 1 ∧ s1.canLand 0 0 e1 = true ∧
      (match s1.edgeWrite 0 0 (e1.place 0) (bytesOf 256 (e1.rxq.headD { round := 0, link := 0, head := 0, data := 0 }).data.toNat) with
        | .ok _ => true | _ => false) = true ∧ f.canLand 0 0 e1 = false ∧
      (v.core 0).edge? 0 = some { edge0 false with await := [0] } ∧ ({ edge0 false with await := [0] } : Edge).await.contains 0 = true ∧
      0 + 2 ≤ ({ d with pos := 2 } : Datagram).pos.toNat ∧ dgOk { d with pos := 2 } = true) ∧
    (none_.rxQueue? 0 (dg 7 []) = none ∧ (none_.endsOf ((dg 7 []).ten.setWidth 6) (dg 7 []).edge false).head? = some (0, 0)) := by
  decide +kernel

/-- A debug command cell for target t of element 0, or of unit kind k, one byte or eight. -/
def dbg (kind t cnt : Nat) : Cell :=
  { h := { tag := tCTRL }, data := BitVec.ofNat 2048 ((unitId 0 kind (if kind = 0 then 48 else 0)).toNat + t * 2 ^ 32 + cnt * 2 ^ 64 + 2 ^ 256) }

theorem wit_DebugPort :
    let s (y : Cell) : State := co (fun x => head0 123 y (head0 48 {} ((x.modElem 0 (fun e => { e with halted := true })).modSlot false
      (fun g => { g with st := .active }))))
    let ok (kind t cnt : Nat) : Bool :=
      let u := s (dbg kind t cnt)
      (u.core 0).dbgHead? u.slot == some (dbg kind t cnt) && (dbgCmd (dbg kind t cnt)).tgt == t && !u.dbgRefuses 0 (dbgCmd (dbg kind t cnt))
    ((s (dbg 0 0 0)).dbgRefuses 0 (dbgCmd (dbg 0 0 0)) = true ∧ (dbgCmd (dbg 0 0 0)).tgt = 0 ∧
      ((s (dbg 0 0 0)).core 0).dbgHead? 10 = some (dbg 0 0 0)) ∧
    [0, 1, 4, 8, 11, 12, 15].all (fun t => let u := s (dbg 0 t 0)
      (u.core 0).dbgHead? u.slot == some (dbg 0 t 0) && (dbgCmd (dbg 0 t 0)).tgt == t && u.dbgRefuses 0 (dbgCmd (dbg 0 t 0))) = true ∧
    ((s (dbg 0 12 8)).core 0).activeSlot? = some false ∧
    [0, 1, 4, 5, 6, 7, 8, 11].all (fun t => ok 0 t 1) = true ∧ ok 0 12 8 = true ∧ ok 14 13 1 = true ∧ ok 3 14 1 = true := by decide +kernel

theorem wit_DebugWrites :
    let s (t o : Nat) (l : List Byte) : State := co (fun x => { (head0 48 { data := 1 } x) with late := [.elem 0 t o l] })
    let m := co (fun x => { (x.modEg 48 (fun g => { g with chans := Vector.replicate 4 { cells := [{}], moved := true } })) with late := [.elem 0 8 0 [5]] })
    (∀ t ∈ [0, 1, 4, 5, 6, 7, 8, 11], ((s t 0 [1, 2, 3, 4]).core 0).late = [.elem 0 t 0 [1, 2, 3, 4]]) ∧ ((s 4 255 [7]).core 0).late = [.elem 0 4 255 [7]] ∧
    (((s 8 0 [5]).core 0).egAt 48 |>.chan 0).moved = false ∧ (((s 8 0 [5]).core 0).egAt 48 |>.chan 0).cells = { data := 1 } :: [] ∧
    ((m.core 0).egAt 48 |>.chan 0).moved = true ∧ (m.core 0).late = [.elem 0 8 0 [5]] := by decide +kernel

theorem wit_DebugOutput :
    let s (l : List (Tenant × Ipv6)) : State := { co (head0 123 {}) with owners := [(1, 7)], debugReq := l }
    ((s []).core 0).dbgHead? (s []).slot = some {} ∧ ({} : Cell).h.tag = tDATA ∧ Sparse.get? (s []).owners ((s []).tenantOf 0).toNat = some 7 ∧
    (s [(1, 7)]).debugReq.contains ((s [(1, 7)]).tenantOf 0, 7) = true ∧ (s [(1, 8)]).debugReq.contains ((s [(1, 8)]).tenantOf 0, 7) = false := by decide +kernel

theorem wit_ModuleEvents :
    let hot (n : Nat) : Nat := max (max n 0) (max 0 0)
    16 * State.reset.alert ≤ hot (16 * 95) ∧ (hot (16 * 95 - 80) + 80 ≤ 16 * State.reset.alert ∧ 0 < ({ State.reset with throttle := 8 } : State).throttle.val) ∧
    (State.reset.thermAt ≤ State.reset.slot ∧ State.reset.throttle.val < 8 ∧ State.reset.throttle.val = 0 ∧ ({ State.reset with throttle := 8 } : State).throttle.val = 8 ∧
      ({ State.reset with thermAt := 2 ^ 20, slot := 2 ^ 20 - 1 } : State).slot < 2 ^ 20) ∧
    (hot (16 * 95 - 1) < 16 * State.reset.alert ∧ 16 * State.reset.alert < hot (16 * 95 - 1) + 80) ∧
    State.reset.boot = .off ∧ upState.boot ≠ .off ∧ upState.boot = .running ∧
    ({ State.reset with throttleNext := some 8 } : State).throttleNext = some 8 ∧ State.reset.coreFree 63 = true ∧ State.reset.repair = [] ∧ (th id).coreFree 0 = false := by decide +kernel

/-- Either case of a module at power-on is met, whatever the boot flash holds. -/
theorem wit_ModuleEvents_boot : (∃ i, bootImage? = some i) ∨ bootImage? = none := by
  cases h : bootImage? with
  | none => exact .inr rfl
  | some i => exact .inl ⟨i, rfl⟩

/-- Tables of frame f that map block 1, page 2 of VA onto frame f itself, for reading. -/
def selfTables (f : Nat) : Memory :=
  Memory.writeN (Memory.writeN (Memory.writeN [] (f * 65536) 8 (f * 65536 + 1)) (f * 65536 + 8) 8 (f * 65536 + 1)) (f * 65536 + 16) 8 (f * 65536 + 23)

theorem selfTables_reads (f : Nat) (hf : f < 2 ^ 24) :
    Memory.readN (selfTables f) (f * 65536) 8 = f * 65536 + 1 ∧ Memory.readN (selfTables f) (f * 65536 + 8) 8 = f * 65536 + 1 ∧
    Memory.readN (selfTables f) (f * 65536 + 16) 8 = f * 65536 + 23 := by
  have b (k : Nat) (h : k < 24) : (f * 65536 + k) % 256 ^ 8 = f * 65536 + k := Nat.mod_eq_of_lt (by omega)
  have w1 : Memory.wf (Memory.writeN [] (f * 65536) 8 (f * 65536 + 1)) = true := Memory.wf_writeN _ _ _ _ rfl
  have w2 := Memory.wf_writeN 8 (f * 65536 + 8) (f * 65536 + 1) _ w1
  refine ⟨?_, ?_, ?_⟩
  · rw [selfTables, Memory.readN_writeN_ne w2 _ _ _ _ _ (.inl (Nat.add_le_add_left (by decide) _)),
      Memory.readN_writeN_ne w1 _ _ _ _ _ (.inl (Nat.le_refl _)), Memory.readN_writeN rfl, b 1 (by decide)]
  · rw [selfTables, Memory.readN_writeN_ne w2 _ _ _ _ _ (.inl (by omega)), Memory.readN_writeN w1, b 1 (by decide)]
  · rw [selfTables, Memory.readN_writeN w2, b 23 (by decide)]

/-- A table entry that names its own frame keeps the walk in it. -/
theorem walk_self (m : Memory) (va idx f n : Nat) (hn : n ≠ 0) (hi : va / 2 ^ (16 + 13 * n) % 8192 = idx) (hf : f < 2 ^ 24)
    (hr : Memory.readN m (f * 65536 + 8 * idx) 8 = f * 65536 + 1) :
    walkFrom m [] va .read f (n + 1) = walkFrom m [] va .read f n := by
  have hx : idx < 8192 := by omega
  have e1 : (f * 65536 + 1) / 65536 % 268435456 = f := by omega
  rw [walkFrom]
  simp only [hbmTop, Nat.reducePow, hi, hr, List.contains_nil, Bool.false_eq_true, if_false, hn, e1]
  rw [if_neg (by omega), if_neg (by omega), if_neg (by omega), if_pos (by omega)]

/-- The last level's leaf names the frame again. -/
theorem walk_last (m : Memory) (f : Nat) (hf : f < 2 ^ 24) (hr : Memory.readN m (f * 65536 + 16) 8 = f * 65536 + 23) :
    walkFrom m [] 0x20020100 .read f 1 = .leaf (f * 65536 + 16) (f * 65536 + 23) false 3 f true false false := by
  have e3 : (f * 65536 + 23) / 65536 % 268435456 = f := by omega
  have b0 : (f * 65536 + 23) / 4 % 2 = 1 := by omega
  have b1 : (f * 65536 + 23) / 8 % 2 = 0 := by omega
  have b2 : (f * 65536 + 23) / 16 % 2 = 1 := by omega
  have b3 : (f * 65536 + 23) / 32 % 2 = 0 := by omega
  rw [walkFrom]
  simp only [Nat.reduceMul, Nat.reduceAdd, hbmTop, Nat.reducePow, Nat.reduceDiv, Nat.reduceMod, hr, List.contains_nil, Bool.false_eq_true,
    if_false, walkLeaf]
  rw [if_neg (by omega), if_neg (by omega), if_neg (by omega), if_neg (by omega)]
  simp [b0, b1, b2, b3, e3]

theorem selfTables_walk (f : Nat) (hf : f < 2 ^ 24) :
    walkFrom (selfTables f) [] 0x20020100 .read f 3 = .leaf (f * 65536 + 16) (f * 65536 + 23) false 3 f true false false := by
  obtain ⟨r1, r2, r3⟩ := selfTables_reads f hf
  rw [walk_self _ _ 0 f 2 (by decide) (by decide) hf (by rw [Nat.mul_zero, Nat.add_zero]; exact r1),
    walk_self _ _ 1 f 1 (by decide) (by decide) hf (by rw [Nat.mul_one]; exact r2)]
  exact walk_last _ f hf r3

theorem tenantWalk_of (s : State) (t : Tenant) (va : Nat) (k : Kind) (m : Memory) (hm : s.hbm = m) (he : s.ecc.hbm = []) :
    s.tenantWalk t va k = walkFrom m [] va k (Config.tenantTable t).toNat 3 := by
  subst hm; simp only [State.tenantWalk, he]

/-- With no correctable error outstanding a read of HBM corrects nothing. -/
theorem softHbm_none (s : State) (a n : Nat) (h : s.ecc.hbmSoft = []) : s.softHbm a n = s := by
  have hl : markHits s.ecc.hbmSoft a n = [] := by rw [h]; rfl
  have he : ({ s.ecc with hbmSoft := [] } : EccMarks) = s.ecc := by rw [← h]
  rw [State.softHbm, hl]
  simp only [h, List.filter_nil, he, List.foldl_nil]

/-- So with a walk: its entries are read and none corrected. -/
theorem tenantWalked_none (s : State) (t : Tenant) (va : Nat) (h : s.ecc.hbmSoft = []) : s.tenantWalked t va = s := by
  rw [State.tenantWalked, State.walkSoft]
  generalize walkReads _ _ _ _ _ = l
  induction l with
  | nil => rfl
  | cons a r ih => rw [List.foldl_cons, softHbm_none s _ _ h, ih]

/-- A read of one mapped page. -/
theorem tenantRead_of (s : State) (va n ea e f : Nat) (hv : va < 2 ^ 55) (hw : s.tenantWalk 1 va .read = .leaf ea e false 3 f true false false)
    (he : s.ecc.hbm = []) (hs : s.ecc.hbmSoft = []) (hn : n ≠ 0) (hp : va % 65536 + n ≤ 65536) (fuel : Nat) :
    s.tenantRead 1 va n (fuel + 2) = .ok (s, Memory.readBytes s.hbm ((xlatOf va 3 f true false false 1).pa va) n) := by
  have hb (a k : Nat) : s.hbmBad a k = false := by rw [State.hbmBad, he]; rfl
  have hmin : min n (65536 - va % 65536) = n := by omega
  rw [State.tenantRead, if_neg hn]
  simp only [Nat.reducePow, Nat.mod_eq_of_lt (show va < 36028797018963968 from hv), hw, tenantWalked_none s _ _ hs, hb, Bool.false_eq_true, if_false,
    State.walkWrite, hmin, Nat.sub_self, softHbm_none s _ _ hs]
  rw [State.tenantRead, if_pos rfl]
  simp only [List.append_nil]

/-- A state whose tenant 1 has such tables, its host bound. -/
def mapped : State := { owned with hbm := selfTables (Config.tenantTable 1).toNat }

theorem mapped_ecc : mapped.ecc.hbm = [] := rfl
theorem mapped_soft : mapped.ecc.hbmSoft = [] := rfl
theorem hbm_of (s : State) (m : Memory) : ({ s with hbm := m } : State).hbm = m := rfl
theorem mapped_hbm : mapped.hbm = selfTables (Config.tenantTable 1).toNat := by rw [mapped, hbm_of]

theorem pieces_none (s : State) (va : Nat) : s.tenantPieces 1 va 0 2 = .ok (s, []) := by rw [State.tenantPieces, if_pos rfl]

theorem mapped_walk : mapped.tenantWalk 1 0x20020100 .read = .leaf ((Config.tenantTable 1).toNat * 65536 + 16)
    ((Config.tenantTable 1).toNat * 65536 + 23) false 3 (Config.tenantTable 1).toNat true false false := by
  rw [tenantWalk_of mapped 1 0x20020100 .read _ mapped_hbm mapped_ecc]
  exact selfTables_walk _ (Config.tenantTable 1).isLt

/-- The bytes behind the tables are zero. -/
theorem selfTables_zero (f i : Nat) (h : 24 ≤ i) : Memory.get (selfTables f) (f * 65536 + i) = 0 := by
  have w1 : Memory.wf (Memory.writeN [] (f * 65536) 8 (f * 65536 + 1)) = true := Memory.wf_writeN _ _ _ _ rfl
  have w2 := Memory.wf_writeN 8 (f * 65536 + 8) (f * 65536 + 1) _ w1
  rw [selfTables, Memory.get_writeN _ _ _ _ w2, if_neg (by omega), Memory.get_writeN _ _ _ _ w1, if_neg (by omega),
    Memory.get_writeN _ _ _ _ rfl, if_neg (by omega)]
  rfl

theorem mapped_read (fuel : Nat) : mapped.tenantRead 1 0x20020100 8 (fuel + 2) = .ok (mapped, List.replicate 8 0) := by
  have hf := (Config.tenantTable 1).isLt
  have hx : (xlatOf 0x20020100 3 (Config.tenantTable 1).toNat true false false 1).pa 0x20020100 = (Config.tenantTable 1).toNat * 65536 + 256 := by
    simp only [xlatOf, Xlat.pa]
    rw [BitVec.toNat_ofNat, Nat.mod_eq_of_lt (by omega)]
    simp
  rw [tenantRead_of mapped _ _ _ _ _ (by decide) mapped_walk mapped_ecc mapped_soft (by decide) (by decide) fuel, hx, mapped_hbm]
  generalize (Config.tenantTable 1).toNat = f
  refine congrArg (fun b => Except.ok (mapped, b)) (List.ext_getElem (by simp [Memory.readBytes]) (fun i h1 h2 => ?_))
  simp only [Memory.readBytes, List.getElem_map, List.getElem_range, List.getElem_replicate]
  rw [Nat.add_assoc]
  exact selfTables_zero f _ (by omega)

theorem vas_of (s : State) (va : Nat) (h : s.tenantRead 1 va 8 4 = .ok (s, List.replicate 8 0)) : s.graphVas 1 va = .ok (s, []) := by
  rw [State.graphVas, h]
  have h0 : byteField (List.replicate 8 (0 : Byte)) 0 4 = 0 := by decide
  have h1 : byteField (List.replicate 8 (0 : Byte)) 4 4 = 0 := by decide
  simp only [h0, h1, Nat.mul_zero]
  rw [if_neg (by decide), State.tenantRead, if_pos rfl]
  rfl

theorem records_none (s : State) : s.graphRecords 7 1 [] = .ok (s, []) := rfl

theorem queue_of (s : State) (h : s.lq = State.reset.lq) : s.queueLen 1 + ([] : List LaunchRec).length ≤ 256 := by
  rw [State.queueLen, h]; decide +kernel
theorem mapped_lq : mapped.lq = State.reset.lq := rfl

/-- A table of nothing: the walk finds no translation. -/
theorem owned_walk : ∃ a, owned.tenantWalk 1 0 .read = .fault kXLAT a := by
  have hf := (Config.tenantTable 1).isLt
  rw [tenantWalk_of owned 1 0 .read [] rfl rfl, walkFrom]
  have hr (a : Nat) : Memory.readN [] a 8 = 0 := by simp [Memory.readN, Memory.get]
  simp only [List.contains_nil, Bool.false_eq_true, if_false, hr, hbmTop]
  rw [if_neg (by simp only [Nat.zero_div, Nat.zero_mod, Nat.mul_zero, Nat.add_zero, Nat.reducePow]; omega), if_pos (by decide)]
  exact ⟨_, rfl⟩

theorem owned_read : owned.tenantRead 1 0 8 2 = .error (some (owned, kXLAT)) := by
  obtain ⟨a, h⟩ := owned_walk
  rw [State.tenantRead, if_neg (by decide)]
  simp only [Nat.zero_mod, h, tenantWalked_none owned _ _ rfl]

/-- A READ of 8 bytes, as its body asks. -/
def ask (va : BitVec 64) : Datagram := { dg 1 [8, 0, 0, 0, 0, 0, 0, 0] with pos := va }

theorem wit_HostRead :
    dgOk (ask 0x20020100) = true ∧ (ask 0).type = 1 ∧ owned.owns 7 1 = true ∧ numOf (dgBody (ask 0)) = 8 ∧ 8 / 2 ^ 16 + 2 = 2 ∧
    (ask 0x20020100).pos.toNat = 0x20020100 ∧ (ask 0).pos.toNat = 0 ∧ owned.tenantRead 1 0 8 2 = .error (some (owned, kXLAT)) :=
  ⟨by decide +kernel, rfl, by decide +kernel, by decide +kernel, rfl, by decide, by decide, owned_read⟩

theorem wit_HostMapped :
    mapped.tenantRead 1 0x20020100 8 2 = .ok (mapped, List.replicate 8 0) ∧ mapped.tenantPieces 1 0x20020100 0 2 = .ok (mapped, []) ∧
    mapped.owns 7 1 = true ∧ mapped.graphVas 1 0x20020100 = .ok (mapped, []) ∧ mapped.graphRecords 7 1 [] = .ok (mapped, []) ∧
    mapped.queueLen 1 + ([] : List LaunchRec).length ≤ 256 :=
  ⟨mapped_read 0, pieces_none _ _, by decide +kernel, vas_of _ _ (mapped_read 2), records_none _, queue_of _ mapped_lq⟩

/-! ## One step: results from the spec's own examples and rules -/

/-- What a completed instruction left. -/
def ran {α : Type} (i : Instr) (s : State) (f : State → α) : Option α :=
  match exec i s with
  | .next t => some (f t)
  | _ => none

/-- R3: integers wrap. -/
theorem test_add_wraps : ran (.add 4 1 2) (two (BitVec.allOnes 64) 2) (fun t => t.me.rd 4) = some 1 := by decide +kernel
theorem test_add_same_register : ran (.add 1 1 1) (two 5 0) (fun t => (t.me.rd 1, t.me.pc)) = some (10, 4) := by decide +kernel
/-- R93: SAR by Gb[5:0]. -/
theorem test_sar_low_six_bits : ran (.sar 4 1 2) (two (BitVec.ofInt 64 (-8)) 65) (fun t => t.me.rd 4) = some (BitVec.ofInt 64 (-4)) := by decide +kernel
/-- R94: division by zero, and the one overflow. -/
theorem test_rem_by_zero : ran (.rem 4 1 2) (two 7 0) (fun t => t.me.pend) = some (.result 4 7 15) := by decide +kernel
theorem test_div_overflow : ran (.div 4 1 2) (two (1#64 <<< 63) (BitVec.allOnes 64)) (fun t => t.me.pend) =
    some (.result 4 (1#64 <<< 63) 76) := by decide +kernel
/-- R96: CMPI.LTU with -1 holds for every Ga but 2^64 - 1. -/
theorem test_cmpi_ltu : ran (.cmpiLtu 1 2 0xFFFF) (two 0 5) (fun t => t.me.rdP 1) = some true ∧
    ran (.cmpiLtu 1 2 0xFFFF) (two 0 (BitVec.allOnes 64)) (fun t => t.me.rdP 1) = some false := by decide +kernel
/-- Chapter 04, the listing with LI and LIH: 0x123 then 0x4567. -/
theorem test_lih : ran (.lih 5 0x4567) (th (fun t => t.wr 5 0x123)) (fun t => t.me.rd 5) = some 0x1234567 := by decide +kernel
/-- Chapter 03, worked encodings: the BR at 0x4008 with offset -2 goes to 0x4000. -/
theorem test_br_back : ran (.br 1 1 0x3FFFFE) (th (fun t => { t.wrP 1 true with pc := 0x4008 })) (fun t => t.me.pc) = some 0x4000 := by decide +kernel
/-- R107 and chapter 04's example: the word 0xFC000000 at 0x8010 in task mode. -/
theorem test_illegal_word : ran (.illDecode 0xFC000000) (th (fun t => { t with pc := 0x8010 }))
    (fun t => (t.me.st, t.me.epc, t.me.ecause, t.me.eval)) = some (.frozen, 0x8010, 1, 0xFC000000) := by decide +kernel
/-- R328: two TFFRs of one bit in successive clocks; the second finds none. -/
theorem test_tffr : ran (.tffr 4 1) (tagged 0x30 0x20 .none) (fun t => (t.me.rd 4, t.myCore.tb)) = some (5, 0x20) ∧
    ran (.tffr 4 1) (tagged 0x30 0 .none) (fun t => t.me.rd 4) = some 64 := by decide +kernel

/-- Chapter 09's worked walk. -/
def walkMem : Memory :=
  Memory.writeN (Memory.writeN (Memory.writeN [] 0x100008 8 0x110001) 0x110018 8 0x120001) 0x120028 8 0xA000000007
theorem test_worked_walk : walkFrom walkMem [] 0x40060050040 .write 0x10 3 =
    .leaf 0x120028 0xA000000037 true 3 0xA00000 true false true := by decide +kernel
theorem test_worked_walk_pa : (xlatOf 0x40060050040 3 0xA00000 true false true 1).pa 0x40060050040 = 0xA000000040 := by decide +kernel
/-- R48's worked byte. -/
theorem test_ternary_byte : (List.range 5).map (tritAt 196) = [1, -1, 0, 1, -1] := by decide +kernel
/-- Chapter 02's worked cell: 3.0, 0.1 and -0.001 to E4M3S. -/
theorem test_worked_cell :
    let l := ((List.range 64).map (fun i => decodeF fp32 ([0x40400000, 0x3DCCCCCD, 0xBA83126F].getD i 0)))
    let q := quantise l false 0
    q.1 = 120 ∧ (List.range 4).map (fun i => lane 8 i q.2.1.toNat) = [0x7C, 0x55, 0xA0, 0] := by decide +kernel
/-- Chapter 13's table: the cut of entry 0 at pivot 8. -/
theorem test_cut : cutRange 0x8000E05000100000 8 6 = [0x8000E05000080000, 0x8000E06000100008] := by decide +kernel
/-- Chapter 05's worked table, clock 1: D0 + the head of C0, key of D0. -/
theorem test_element_sum :
    let s : State := { co (fun x => head0 52 { h := { key := 9 }, data := 0x3E800000 + 0xBF800000 <<< 32 } ((x.modSlot false (fun g => { g with
      st := .active, elems := g.elems.set 4 { vcmap := Vector.replicate 32 0x8001, table := Vector.replicate 32 0x100201F007F040E1 } })).modElem 4 (fun e =>
        { e with st := 1, d := #v[{ data := 0x3FC00000 + 0x40000000 <<< 32, fmt := 1, key := 7 }, {}, {}, {}] }))) with
      fire := { core := 0, elem := 4, entry := 3 } }
    decodeEntry 0x100201F007F040E1 = some (.fadd { sa := 0, sb := 8, da := 0, db := 31, ta := 0 }) ∧
    ran (.fadd { sa := 0, sb := 8, da := 0, db := 31, ta := 0 }) s (fun t =>
      let e := (t.core 0).elems[(4 : ElemId)]
      (e.d[0].data, e.d[0].fmt, e.d[0].key, e.st, ((t.core 0).egAt 52 |>.chan 0).cells.length)) =
      some (0x3FE00000#2048 + 0x3F800000#2048 <<< 32, 1, 7, 1, 0) := by
  decide +kernel
/-- Chapter 15's worked record passes the checks of R345 for tenant 9 in controller mode. -/
theorem test_worked_record :
    let bs : List Byte := [0x01, 0x00, 0x09, 0x04, 0x01, 0x02, 0x01, 0x00, 0xFE, 0x00, 0x00, 0x00, 0x00, 0xFF, 0x2F, 0x80] ++
      [0x40, 0x42, 0x0F, 0, 0, 0, 0, 0] ++ [0, 0, 0, 0, 0, 1, 0, 0] ++ [0, 4, 0, 0, 0, 1, 0, 0] ++ [0, 0, 1, 0, 0, 1, 0, 0] ++
      [0, 0, 2, 0, 0, 1, 0, 0] ++ [2, 0, 0, 0, 0, 0, 0, 0] ++ [0x28, 0, 0, 0, 0, 0, 0, 0] ++ List.replicate 56 0
    let r := recordOf bs none
    recordOk bs = true ∧ r.cores = 2 ∧ r.tenant = 9 ∧ r.nthr = 4 ∧ r.scrub = true ∧ r.ctlmask = 1 ∧ r.fring = some 0x2FFF00 ∧
    r.limit = 1000000 ∧ r.roles = 0xFE ∧ r.oxres = 2 ∧
    r.entry = 0x10000000000 ∧ r.trapva = 0x10000000400 ∧ r.args[0] = 40 := by decide +kernel

end Sys2Proof.Tests
end

section
/-! SUPPORT. The operations that leave both memories as they are: the ones that Laws/State.lean has no lemma for. -/

namespace Sys2Proof.Machine

@[simp] theorem State.mem_with_xbar (s : State) (v) : State.mem { s with xbar := v } = s.mem := rfl
@[simp] theorem State.mem_with_timeStep (s : State) (v) : State.mem { s with timeStep := v } = s.mem := rfl
@[simp] theorem State.mem_with_resv (s : State) (v) : State.mem { s with resv := v } = s.mem := rfl
@[simp] theorem State.mem_with_discards (s : State) (v) : State.mem { s with discards := v } = s.mem := rfl
@[simp] theorem State.mem_with_debugReq (s : State) (v) : State.mem { s with debugReq := v } = s.mem := rfl
@[simp] theorem State.mem_with_attest (s : State) (v) : State.mem { s with attest := v } = s.mem := rfl
@[simp] theorem State.mem_with_boot (s : State) (v) : State.mem { s with boot := v } = s.mem := rfl
@[simp] theorem State.mem_with_thermAt (s : State) (v) : State.mem { s with thermAt := v } = s.mem := rfl
@[simp] theorem State.mem_with_tripped (s : State) (v) : State.mem { s with tripped := v } = s.mem := rfl
@[simp] theorem State.mem_with_weights (s : State) (v) : State.mem { s with weights := v } = s.mem := rfl
@[simp] theorem State.mem_with_tres (s : State) (v) : State.mem { s with tres := v } = s.mem := rfl
@[simp] theorem State.mem_with_alert (s : State) (v) : State.mem { s with alert := v } = s.mem := rfl
@[simp] theorem State.mem_with_ctlRights (s : State) (v) : State.mem { s with ctlRights := v } = s.mem := rfl
@[simp] theorem State.mem_with_owners (s : State) (v) : State.mem { s with owners := v } = s.mem := rfl
@[simp] theorem State.mem_with_linkQs (s : State) (v) : State.mem { s with linkQs := v } = s.mem := rfl
@[simp] theorem State.mem_with_repair (s : State) (v) : State.mem { s with repair := v } = s.mem := rfl
@[simp] theorem State.mem_with_fire (s : State) (v) : State.mem { s with fire := v } = s.mem := rfl
@[simp] theorem State.mem_with_agenda (s : State) (v) : State.mem { s with agenda := v } = s.mem := rfl

@[simp] theorem State.mem_mark (s : State) : s.mark.mem = s.mem := rfl
@[simp] theorem State.mem_atStart (s : State) : s.atStart.mem = s.mem := rfl
@[simp] theorem State.mem_hostOutUsed (s : State) (h : Ipv6) (n : Nat) : (s.hostOutUsed h n).mem = s.mem := rfl
@[simp] theorem State.mem_hostInUsed (s : State) (h : Ipv6) (n : Nat) : (s.hostInUsed h n).mem = s.mem := rfl

@[simp] theorem State.mem_controller (s f : State) (i : Instr) : (s.controller i f).mem = if s.me.cm then f.mem else s.mem := by
  unfold State.controller; split <;> simp

@[simp] theorem State.mem_onStage (s f : State) (i : Instr) (g : BitVec 3) :
    (s.onStage i g f).mem = if (s.myCore.stages[stageOf g]).st = .none then s.mem else f.mem := by
  unfold State.onStage; split <;> simp

@[simp] theorem State.mem_deliver (s : State) (c : CoreId) (ps : List Nat) : (s.deliver c ps).mem = s.mem := by
  unfold State.deliver
  dsimp only
  rw [mem_foldl _ (fun s y => State.mem_land s c _ _)]
  exact mem_foldl _ (fun s q => s.mem_modCore c _) _ _

@[simp] theorem State.mem_netTake (s : State) (c : CoreId) (n : Nat) (y : Cell) : (s.netTake c n y).mem = s.mem := rfl

@[simp] theorem State.mem_ringHop (s : State) (y : XCell) : (s.ringHop y).mem = s.mem := by
  unfold State.ringHop; dsimp only; (repeat' split) <;> rfl

@[simp] theorem State.mem_ringTick (s : State) : s.ringTick.mem = s.mem :=
  mem_foldl _ (fun s y => State.mem_ringHop { s with xbar := s.xbar.erase y } y) _ s

@[simp] theorem State.mem_amoEnd (s : State) (c : CoreId) (t : Tid) (f : Thread → Thread) : (s.amoEnd c t f).mem = s.mem := by
  unfold State.amoEnd; split <;> rfl

@[simp] theorem State.mem_amoTrap (s : State) (c : CoreId) (t : Tid) (a : Nat) : (s.amoTrap c t a).mem = s.mem := by
  unfold State.amoTrap; split <;> simp

@[simp] theorem State.mem_fireOp (s : State) (x : ElemAct) (op : Nat) (f : OpIn → Except OpFault OpOut) :
    (s.fireOp x op f).mem = s.mem := by
  unfold State.fireOp; dsimp only; (repeat' split) <;> simp

@[simp] theorem State.mem_softRead (s : State) (c : CoreId) (y : Strm) (a n : Nat) : (s.softRead c y a n).mem = s.mem := by
  unfold State.softRead; dsimp only; (repeat' split) <;> simp

@[simp] theorem State.mem_softElems (s : State) (c : CoreId) (y : Strm) (a b : Nat) : (s.softElems c y a b).mem = s.mem := by
  unfold State.softElems
  split
  · rfl
  · refine mem_foldl _ (fun s i => ?_) _ _
    dsimp only
    (repeat' split) <;> simp

@[simp] theorem State.mem_softKey (s : State) (c : CoreId) (y : Strm) (j : Nat) : (s.softKey c y j).mem = s.mem := by
  unfold State.softKey; split <;> simp

@[simp] theorem State.mem_sinkIssue (s : State) (c : CoreId) (k : StrmId) (z : Strm) : (s.sinkIssue c k z).mem = s.mem := by
  simp [State.sinkIssue]

@[simp] theorem State.mem_sinkUpTo (s : State) (c : CoreId) (k : StrmId) : (s.sinkUpTo c k).mem = s.mem := by
  unfold State.sinkUpTo; split <;> simp

@[simp] theorem State.mem_spliceFault (s : State) (c : CoreId) (k : StrmId) (i : Nat) (z : Splice) (code : BitVec 8) :
    (s.spliceFault c k i z code).mem = s.mem := by
  unfold State.spliceFault; dsimp only; split <;> simp

@[simp] theorem State.mem_spliceEnd (s : State) (c : CoreId) (k : StrmId) (i : Nat) (z : Splice) (w x d : Bool) :
    (s.spliceEnd c k i z w x d).mem = s.mem := rfl

@[simp] theorem State.mem_imgPull (s : State) (c : CoreId) (k : StrmId) (y : Strm) (n : Nat) : (s.imgPull c k y n).mem = s.mem := by
  unfold State.imgPull
  dsimp only
  split
  · rfl
  · split
    · rw [State.mem_modCore, State.mem_pathsUsed]
      exact mem_foldl _ (fun s pa => s.mem_softHbm pa _) _ _
    · split <;> simp

@[simp] theorem State.mem_rewindRound (s : State) (c : CoreId) (k : StrmId) (e : Edge) (r : Nat) :
    (s.rewindRound c k e r).mem = s.mem := by
  simp [State.rewindRound]

@[simp] theorem State.mem_noQueue (s : State) (m : Datagram) : (s.noQueue m).mem = s.mem := by
  unfold State.noQueue; (repeat' split) <;> simp

@[simp] theorem State.mem_voidAtSenders (s : State) (m : Datagram) : (s.voidAtSenders m).mem = s.mem := by
  refine mem_foldl _ (fun s y => ?_) _ _
  (repeat' split) <;> simp

@[simp] theorem State.mem_voidAtReceivers (s : State) (m : Datagram) : (s.voidAtReceivers m).mem = s.mem := by
  refine mem_foldl _ (fun s y => ?_) _ _
  (repeat' split) <;> simp

@[simp] theorem State.mem_lossAtReceivers (s : State) (m : Datagram) : (s.lossAtReceivers m).mem = s.mem := by
  refine mem_foldl _ (fun s y => ?_) _ _
  (repeat' split) <;> simp

@[simp] theorem State.mem_commitAtSenders (s : State) (m : Datagram) : (s.commitAtSenders m).mem = s.mem := by
  refine mem_foldl _ (fun s y => ?_) _ _
  (repeat' split) <;> simp

@[simp] theorem State.mem_linkReply (s : State) (link : LinkId) (m : Datagram) (type : Nat) (f : State → State) (hf : ∀ s, (f s).mem = s.mem) :
    (s.linkReply link m type f).mem = s.mem := by
  unfold State.linkReply; dsimp only; (repeat' split) <;> simp [hf]

@[simp] theorem State.mem_freezeMeRun (s : State) (c : CoreId) (kind : BitVec 8) (arg : BitVec 64) :
    (s.freezeMeRun c kind arg).mem = s.mem := rfl
@[simp] theorem State.mem_rbReads (s : State) (c : CoreId) (l : List Spot) : (s.rbReads c l).mem = s.mem := rfl

@[simp] theorem State.mem_rbEval (s : State) (c : CoreId) (g r n : Nat) (w : Rb) (outs : List Nat) :
    (s.rbEval c g r n w outs).mem = s.mem := by
  induction n generalizing s r w outs with
  | zero => rfl
  | succ n ih =>
    simp only [State.rbEval]
    split
    · rfl
    · simp [ih]

@[simp] theorem State.mem_rbEmit (s : State) (c : CoreId) (k n : Nat) : (s.rbEmit c k n).mem = s.mem := by
  induction n generalizing s k with
  | zero => rfl
  | succ n ih =>
    simp only [State.rbEmit]
    (repeat' split) <;> simp [ih]

@[simp] theorem State.mem_tenantWalked (s : State) (ten : Tenant) (va : Nat) : (s.tenantWalked ten va).mem = s.mem := by
  simp [State.tenantWalked]

@[simp] theorem State.mem_queueRecord (s : State) (r : LaunchRec) (prints : List Byte) (n : Nat) :
    (s.queueRecord r prints n).1.mem = s.mem := by
  unfold State.queueRecord; (repeat' split) <;> simp

@[simp] theorem State.mem_dropTwins (s : State) (c : CoreId) : (s.dropTwins c).mem = s.mem := by
  refine mem_foldl _ (fun s g => ?_) _ _
  dsimp only
  split <;> rfl

@[simp] theorem State.mem_freeCores (s : State) (t : Task) : (s.freeCores t).mem = s.mem :=
  calc (s.freeCores t).mem
    _ = (((t.cores.foldl State.dropTwins s).leaveXbar t.lrec.id)).mem :=
      mem_foldl (fun s c => s.modCore c _) (fun _ _ => rfl) t.cores _
    _ = s.mem := mem_foldl _ State.mem_dropTwins _ _

@[simp] theorem State.mem_post (s : State) (c : CoreId) (r : FaultRec) : (s.post c r).mem = s.mem := by
  unfold State.post; dsimp only; (repeat' split) <;> simp

@[simp] theorem State.mem_postBoth (s : State) (c : CoreId) (r : FaultRec) : (s.postBoth c r).mem = s.mem := by
  unfold State.postBoth; dsimp only; (repeat' split) <;> simp

@[simp] theorem State.mem_sendParts (s : State) (h : Ipv6) (ten que pos : Nat) (bs : List Byte) (n : Nat) :
    (s.sendParts h ten que pos bs n).mem = s.mem := by
  induction n generalizing s pos bs with
  | zero => simp [State.sendParts]
  | succ n ih => simp only [State.sendParts]; split <;> simp [ih]

@[simp] theorem State.mem_readAnswer (s : State) (h : Ipv6) (m : Datagram) (bs : List Byte) : (s.readAnswer h m bs).mem = s.mem := by
  simp [State.readAnswer]

@[simp] theorem State.mem_follow (s : State) (ppm : Int) : (s.follow ppm).mem = s.mem := rfl

@[simp] theorem State.mem_dbgRun (s : State) (c : CoreId) (tgts : Nat → Bool) (f : State → DbgCmd → State) (hf : ∀ s k, (f s k).mem = s.mem) :
    (s.dbgRun c tgts f).mem = s.mem := by
  unfold State.dbgRun; dsimp only; (repeat' split) <;> simp [hf]

@[simp] theorem State.mem_upset (s : State) (u : Upset) : (s.upset u).mem = s.mem := by
  unfold State.upset; split <;> rfl

@[simp] theorem State.mem_throttleTick (s : State) : s.throttleTick.mem = s.mem := rfl
@[simp] theorem State.mem_hbmMarks (s : State) (a n : Nat) : (s.hbmMarks a n).mem = s.mem := rfl

@[simp] theorem State.mem_poolMarks (s : State) (a n : Nat) : (s.poolMarks a n).mem = s.mem := State.mem_softPool _ a n

end Sys2Proof.Machine
end

section
/-! SUPPORT. The instructions and events that write no memory. Each proof opens the branches of one meaning; what stands at a branch is a chain of
operations that the lemmas State.mem_… say leave both memories. -/

namespace Sys2Proof.Machine

/-- Every next state of an outcome has both memories of s. -/
def LeavesMem (s : State) (o : Out) : Prop := ∀ t, o = .next t → t.mem = s.mem

@[simp] theorem leavesMem_next {s t : State} : LeavesMem s (.next t) ↔ t.mem = s.mem := by simp [LeavesMem]

@[simp] theorem leavesMem_fault {s : State} (f : Fault) : LeavesMem s (.fault f) := by simp [LeavesMem]

theorem LeavesMem.ite {s : State} {p : Prop} [Decidable p] {a b : Out} (ha : LeavesMem s a) (hb : LeavesMem s b) :
    LeavesMem s (if p then a else b) := by
  split <;> assumption

theorem execMulticlockDone_leavesMem (c : CoreId) (t : Tid) (s : State) : LeavesMem s (execMulticlockDone c t s) := by
  unfold execMulticlockDone; (repeat' split) <;> simp

theorem execIcacheLineFill_leavesMem (c : CoreId) (t : Tid) (s : State) : LeavesMem s (execIcacheLineFill c t s) := by
  unfold execIcacheLineFill; dsimp only; (repeat' split) <;> simp

theorem execDcacheLineFill_leavesMem (c : CoreId) (t : Tid) (s : State) : LeavesMem s (execDcacheLineFill c t s) := by
  unfold execDcacheLineFill; dsimp only; (repeat' split) <;> simp

theorem execLdp_leavesMem (d a : BitVec 5) (i : BitVec 16) (s : State) : LeavesMem s (execLdp d a i s) := by
  unfold execLdp; dsimp only; (repeat' split) <;> simp

theorem execStp_leavesMem (d a : BitVec 5) (i : BitVec 16) (s : State) : LeavesMem s (execStp d a i s) := by
  unfold execStp; dsimp only; (repeat' split) <;> simp

theorem execCellAdmit_leavesMem (c : CoreId) (p : PortId) (s : State) : LeavesMem s (execCellAdmit c p s) := by
  unfold execCellAdmit; dsimp only; (repeat' split) <;> simp

theorem execWeirMatch_leavesMem (c : CoreId) (s : State) : LeavesMem s (execWeirMatch c s) := by
  unfold execWeirMatch
  dsimp only
  split
  · exact leavesMem_next.2 rfl
  · rw [leavesMem_next, mem_foldl _ (fun s y => ?_), State.mem_setCore, mem_foldl _ (fun s y => ?_)]
    all_goals split <;> simp

theorem execCellDelivery_leavesMem (c : CoreId) (p : PortId) (s : State) : LeavesMem s (execCellDelivery c p s) := by
  unfold execCellDelivery; dsimp only; (repeat' split) <;> simp

theorem execRdvSetRelease_leavesMem (c : CoreId) (e : ElemId) (s : State) : LeavesMem s (execRdvSetRelease c e s) := by
  unfold execRdvSetRelease; dsimp only; (repeat' split) <;> simp

theorem execRdvStallFault_leavesMem (c : CoreId) (e : ElemId) (s : State) : LeavesMem s (execRdvStallFault c e s) := by
  unfold execRdvStallFault; dsimp only; (repeat' split) <;> simp

theorem execLoopFault_leavesMem (c : CoreId) (l : LoopId) (s : State) : LeavesMem s (execLoopFault c l s) := by
  unfold execLoopFault; dsimp only; (repeat' split) <;> simp

theorem execMailboxDelivery_leavesMem (c : CoreId) (q : Fin 4) (s : State) : LeavesMem s (execMailboxDelivery c q s) := by
  unfold execMailboxDelivery; dsimp only; (repeat' split) <;> simp

theorem execCrossbarArrival_leavesMem (c : CoreId) (n : Fin 12) (s : State) : LeavesMem s (execCrossbarArrival c n s) := by
  unfold execCrossbarArrival; dsimp only; (repeat' split) <;> simp

theorem execCrossbarFanout_leavesMem (c : CoreId) (n : Fin 12) (s : State) : LeavesMem s (execCrossbarFanout c n s) := by
  unfold execCrossbarFanout; dsimp only; (repeat' split) <;> simp

theorem execBrk_leavesMem (i : BitVec 10) (s : State) : LeavesMem s (execBrk i s) := by
  unfold execBrk; (repeat' split) <;> simp

theorem execEret_leavesMem (s : State) : LeavesMem s (execEret s) := by
  unfold execEret; simp

theorem execWfe_leavesMem (s : State) : LeavesMem s (execWfe s) := by
  unfold execWfe; (repeat' split) <;> simp

theorem execMfs_leavesMem (d r : BitVec 5) (s : State) : LeavesMem s (execMfs d r s) := by
  unfold execMfs; (repeat' split) <;> simp

theorem execMts_leavesMem (a r : BitVec 5) (s : State) : LeavesMem s (execMts a r s) := by
  unfold execMts; (repeat' split) <;> simp

theorem execMtsTime_leavesMem (a : BitVec 5) (s : State) : LeavesMem s (execMtsTime a s) := by
  unfold execMtsTime; (repeat' split) <;> simp

theorem execMtsAgelim_leavesMem (a : BitVec 5) (s : State) : LeavesMem s (execMtsAgelim a s) := by
  unfold execMtsAgelim; (repeat' split) <;> simp

theorem execMtsSpill_leavesMem (a : BitVec 5) (s : State) : LeavesMem s (execMtsSpill a s) := by
  unfold execMtsSpill; dsimp only; (repeat' split) <;> simp

theorem execMtsWdog_leavesMem (a : BitVec 5) (s : State) : LeavesMem s (execMtsWdog a s) := by
  unfold execMtsWdog; (repeat' split) <;> simp

theorem execFenceComplete_leavesMem (c : CoreId) (t : Tid) (s : State) : LeavesMem s (execFenceComplete c t s) := by
  unfold execFenceComplete; dsimp only; (repeat' split) <;> simp

theorem execBankDrn_leavesMem (c : CoreId) (b : BankId) (s : State) : LeavesMem s (execBankDrn c b s) := by
  unfold execBankDrn; dsimp only; (repeat' split) <;> simp

theorem execPatrolRead_leavesMem (w : PatrolTarget) (corrected : Bool) (s : State) : LeavesMem s (execPatrolRead w corrected s) := by
  unfold execPatrolRead
  (repeat' split) <;> exact leavesMem_next.2 rfl

theorem execElementDrain_leavesMem (c : CoreId) (e : ElemId) (s : State) : LeavesMem s (execElementDrain c e s) := by
  unfold execElementDrain
  dsimp only
  split
  · rw [leavesMem_next, State.mem_modCore]
    split
    · rw [State.mem_clearSpots, mem_foldl _ (fun s en => s.mem_modCore c _), mem_foldl _ (fun s ch => s.mem_popHead c _ ch)]
    · rw [mem_foldl _ (fun s en => s.mem_modCore c _), mem_foldl _ (fun s ch => s.mem_popHead c _ ch)]
  · exact leavesMem_next.2 rfl

theorem execApdim_leavesMem (d : BitVec 4) (a b : BitVec 5) (n : BitVec 2) (s : State) : LeavesMem s (execApdim d a b n s) := by
  unfold execApdim; dsimp only; (repeat' split) <;> simp

theorem execStreamRelease_leavesMem (c : CoreId) (k : StrmId) (s : State) : LeavesMem s (execStreamRelease c k s) := by
  unfold execStreamRelease; dsimp only; (repeat' split) <;> simp

theorem execLoaderReadReturn_leavesMem (c : CoreId) (k : StrmId) (s : State) : LeavesMem s (execLoaderReadReturn c k s) := by
  unfold execLoaderReadReturn; dsimp only; (repeat' split) <;> simp

theorem execBankSreadRead_leavesMem (c : CoreId) (b : BankId) (s : State) : LeavesMem s (execBankSreadRead c b s) := by
  unfold execBankSreadRead; dsimp only; (repeat' split) <;> simp

theorem execSinkCellConsume_leavesMem (c : CoreId) (k : StrmId) (s : State) : LeavesMem s (execSinkCellConsume c k s) := by
  unfold execSinkCellConsume; dsimp only; (repeat' split) <;> simp

theorem execSqry_leavesMem (n : BitVec 4) (t : BitVec 6) (s : State) : LeavesMem s (execSqry n t s) := by
  unfold execSqry; dsimp only; (repeat' split) <;> simp

theorem execStreamComplete_leavesMem (c : CoreId) (k : StrmId) (s : State) : LeavesMem s (execStreamComplete c k s) := by
  unfold execStreamComplete
  refine .ite ?_ (leavesMem_next.2 rfl)
  rw [leavesMem_next, mem_foldl _ (fun s z => s.mem_finish c _ _), State.mem_modCore]

theorem execScell_leavesMem (p : BitVec 7) (n : BitVec 4) (k : BitVec 3) (v : BitVec 5) (s : State) : LeavesMem s (execScell p n k v s) := by
  unfold execScell; dsimp only; (repeat' split) <;> simp

theorem execSdrain_leavesMem (b : BitVec 1) (s : State) : LeavesMem s (execSdrain b s) := by
  unfold execSdrain; dsimp only; (repeat' split) <;> simp

theorem execSsplice_leavesMem (n : BitVec 4) (t : BitVec 6) (s : State) : LeavesMem s (execSsplice n t s) := by
  unfold execSsplice; dsimp only; (repeat' split) <;> simp

theorem execScfg_leavesMem (n : BitVec 4) (t : BitVec 6) (b : BitVec 1) (s : State) : LeavesMem s (execScfg n t b s) := by
  unfold execScfg; dsimp only; (repeat' split) <;> simp

theorem execScfgCheckDone_leavesMem (c : CoreId) (k : StrmId) (s : State) : LeavesMem s (execScfgCheckDone c k s) := by
  unfold execScfgCheckDone; dsimp only; (repeat' split) <;> simp

theorem execScfgLoadDone_leavesMem (c : CoreId) (k : StrmId) (s : State) : LeavesMem s (execScfgLoadDone c k s) := by
  unfold execScfgLoadDone; dsimp only; (repeat' split) <;> simp

theorem execSswap_leavesMem (n : BitVec 4) (b : BitVec 1) (s : State) : LeavesMem s (execSswap n b s) := by
  unfold execSswap; dsimp only; (repeat' split) <;> simp

theorem execRoundTimeout_leavesMem (c : CoreId) (k : StrmId) (s : State) : LeavesMem s (execRoundTimeout c k s) := by
  unfold execRoundTimeout; (repeat' split) <;> simp

theorem execDatagramDiscard_leavesMem (m : Datagram) (s : State) : LeavesMem s (execDatagramDiscard m s) := by
  unfold execDatagramDiscard; (repeat' split) <;> simp

theorem execRoundVoid_leavesMem (c : CoreId) (k : StrmId) (s : State) : LeavesMem s (execRoundVoid c k s) := by
  unfold execRoundVoid; (repeat' split) <;> simp

theorem execScancel_leavesMem (n : BitVec 4) (t : BitVec 6) (s : State) : LeavesMem s (execScancel n t s) := by
  unfold execScancel; dsimp only; (repeat' split) <;> simp

theorem execMcsetX_leavesMem (a b : BitVec 5) (h : BitVec 1) (g : BitVec 6) (s : State) : LeavesMem s (execMcsetX a b h g s) := by
  unfold execMcsetX; dsimp only; (repeat' split) <;> simp

theorem execRaceScore_leavesMem (c : CoreId) (u : Fin 2) (s : State) : LeavesMem s (execRaceScore c u s) := by
  unfold execRaceScore; dsimp only; (repeat' split) <;> simp

theorem execMxrun_leavesMem (a : BitVec 5) (t m : BitVec 1) (ch : BitVec 2) (s : State) : LeavesMem s (execMxrun a t m ch s) := by
  unfold execMxrun; dsimp only; (repeat' split) <;> simp

theorem execMxdrain_leavesMem (a : BitVec 5) (d : BitVec 1) (f : BitVec 4) (t : BitVec 1) (s : State) :
    LeavesMem s (execMxdrain a d f t s) := by
  unfold execMxdrain; dsimp only; (repeat' split) <;> simp

theorem execMxzero_leavesMem (t : BitVec 1) (s : State) : LeavesMem s (execMxzero t s) := by
  unfold execMxzero; dsimp only; simp

theorem execMeJobQueueFree_leavesMem (c : CoreId) (t : Tid) (s : State) : LeavesMem s (execMeJobQueueFree c t s) := by
  unfold execMeJobQueueFree; dsimp only; (repeat' split) <;> simp

theorem execMeDrainRow_leavesMem (c : CoreId) (s : State) : LeavesMem s (execMeDrainRow c s) := by
  unfold execMeDrainRow; dsimp only; (repeat' split) <;> simp

theorem execMeFire_leavesMem (c : CoreId) (s : State) : LeavesMem s (execMeFire c s) := by
  unfold execMeFire
  dsimp only
  generalize hu : s.modCore c (fun x => if x.me.off s.slot then x else x.modMe (fun m => m.takeToken s.slot)) = u
  have h : u.mem = s.mem := by rw [← hu, State.mem_modCore]
  split
  · exact leavesMem_next.2 h
  · refine .ite (by simp [h]) (.ite (by simp [h]) ?_)
    split
    · exact leavesMem_next.2 h
    · refine .ite (by simp [h]) (.ite (by simp [h]) (.ite (by simp [h]) (.ite (by simp [h]) (.ite (by simp [h]) (.ite (by simp [h]) ?_)))))
      (repeat' split) <;> simp [h]

theorem execMeZeroRow_leavesMem (c : CoreId) (s : State) : LeavesMem s (execMeZeroRow c s) := by
  unfold execMeZeroRow; dsimp only; (repeat' split) <;> simp

theorem execMePanelCell_leavesMem (c : CoreId) (q : Fin 4) (s : State) : LeavesMem s (execMePanelCell c q s) := by
  unfold execMePanelCell; dsimp only; (repeat' split) <;> simp

theorem execMePreload_leavesMem (c : CoreId) (x : Fin 2) (s : State) : LeavesMem s (execMePreload c x s) := by
  unfold execMePreload; dsimp only; (repeat' split) <;> simp

theorem execMeSteerToken_leavesMem (c : CoreId) (x : Fin 2) (s : State) : LeavesMem s (execMeSteerToken c x s) := by
  unfold execMeSteerToken; dsimp only; (repeat' split) <;> simp

theorem execMeDrnDiscard_leavesMem (c : CoreId) (p : PortId) (s : State) : LeavesMem s (execMeDrnDiscard c p s) := by
  unfold execMeDrnDiscard; dsimp only; (repeat' split) <;> simp

theorem execMePassBoundary_leavesMem (c : CoreId) (s : State) : LeavesMem s (execMePassBoundary c s) := by
  unfold execMePassBoundary
  dsimp only
  (repeat' split) <;> try simp
  rw [mem_foldl _ (fun s k => ?_), State.mem_setCore, State.mem_clearSpots]
  split <;> simp

theorem execAdapterFactorCell_leavesMem (c : CoreId) (x : Fin 2) (s : State) : LeavesMem s (execAdapterFactorCell c x s) := by
  unfold execAdapterFactorCell; dsimp only; (repeat' split) <;> simp

theorem execOxpiv_leavesMem (x : ElemAct) (s : State) : LeavesMem s (execOxpiv x s) := by
  unfold execOxpiv; dsimp only; (repeat' split) <;> simp

theorem execOxend_leavesMem (x : ElemAct) (s : State) : LeavesMem s (execOxend x s) := by
  unfold execOxend; dsimp only; (repeat' split) <;> simp

theorem execOverloadDetect_leavesMem (c : CoreId) (g : StageId) (s : State) : LeavesMem s (execOverloadDetect c g s) := by
  unfold execOverloadDetect; dsimp only; (repeat' split) <;> simp

theorem execOxbowApproval_leavesMem (c : CoreId) (g : StageId) (s : State) : LeavesMem s (execOxbowApproval c g s) := by
  unfold execOxbowApproval; (repeat' split) <;> simp

theorem execOxbowRefusal_leavesMem (c : CoreId) (g : StageId) (s : State) : LeavesMem s (execOxbowRefusal c g s) := by
  unfold execOxbowRefusal; (repeat' split) <;> simp

theorem execSplHead_leavesMem (c : CoreId) (e : ElemId) (s : State) : LeavesMem s (execSplHead c e s) := by
  unfold execSplHead; dsimp only; (repeat' split) <;> simp

theorem execOxbowSwitch_leavesMem (c : CoreId) (g : StageId) (s : State) : LeavesMem s (execOxbowSwitch c g s) := by
  unfold execOxbowSwitch; dsimp only; (repeat' split) <;> simp

theorem execOxbowForward_leavesMem (c : CoreId) (e : ElemId) (s : State) : LeavesMem s (execOxbowForward c e s) := by
  unfold execOxbowForward; dsimp only; (repeat' split) <;> simp

theorem execRdeInject_leavesMem (c : CoreId) (e : ElemId) (s : State) : LeavesMem s (execRdeInject c e s) := by
  unfold execRdeInject; dsimp only; (repeat' split) <;> simp

theorem execRdeConsumed_leavesMem (c : CoreId) (e : ElemId) (s : State) : LeavesMem s (execRdeConsumed c e s) := by
  unfold execRdeConsumed; dsimp only; (repeat' split) <;> simp

theorem execHoldRelease_leavesMem (c : CoreId) (e : ElemId) (s : State) : LeavesMem s (execHoldRelease c e s) := by
  unfold execHoldRelease; dsimp only; (repeat' split) <;> simp

theorem execUnderloadDetect_leavesMem (c : CoreId) (g : StageId) (s : State) : LeavesMem s (execUnderloadDetect c g s) := by
  unfold execUnderloadDetect; dsimp only; (repeat' split) <;> simp

theorem execMergeStart_leavesMem (c : CoreId) (g : StageId) (s : State) : LeavesMem s (execMergeStart c g s) := by
  unfold execMergeStart; (repeat' split) <;> simp

theorem execTwinQuiescent_leavesMem (c : CoreId) (g : StageId) (s : State) : LeavesMem s (execTwinQuiescent c g s) := by
  unfold execTwinQuiescent; dsimp only; (repeat' split) <;> simp

theorem execOxsplit_leavesMem (g : BitVec 3) (s : State) : LeavesMem s (execOxsplit g s) := by
  unfold execOxsplit; dsimp only; (repeat' split) <;> simp

theorem execOxmerge_leavesMem (g : BitVec 3) (s : State) : LeavesMem s (execOxmerge g s) := by
  unfold execOxmerge; dsimp only; (repeat' split) <;> simp

theorem execOxpin_leavesMem (p : BitVec 1) (g : BitVec 3) (s : State) : LeavesMem s (execOxpin p g s) := by
  unfold execOxpin; (repeat' split) <;> simp

theorem execRbload_leavesMem (a : BitVec 5) (k : BitVec 3) (s : State) : LeavesMem s (execRbload a k s) := by
  unfold execRbload; dsimp only; (repeat' split) <;> simp

theorem execRbctx_leavesMem (k : BitVec 3) (s : State) : LeavesMem s (execRbctx k s) := by
  unfold execRbctx; dsimp only; (repeat' split) <;> simp

theorem execRbrun_leavesMem (a : BitVec 5) (s : State) : LeavesMem s (execRbrun a s) := by
  unfold execRbrun; dsimp only; (repeat' split) <;> simp

theorem execRbLoadCell_leavesMem (c : CoreId) (s : State) : LeavesMem s (execRbLoadCell c s) := by
  unfold execRbLoadCell; dsimp only; (repeat' split) <;> simp

theorem execRbLoadDone_leavesMem (c : CoreId) (s : State) : LeavesMem s (execRbLoadDone c s) := by
  unfold execRbLoadDone; dsimp only; (repeat' split) <;> simp

theorem execRbInput_leavesMem (c : CoreId) (s : State) : LeavesMem s (execRbInput c s) := by
  unfold execRbInput; dsimp only; (repeat' split) <;> simp

theorem execRbEvalGroup_leavesMem (c : CoreId) (s : State) : LeavesMem s (execRbEvalGroup c s) := by
  unfold execRbEvalGroup; dsimp only; (repeat' split) <;> simp

theorem execRbOutput_leavesMem (c : CoreId) (s : State) : LeavesMem s (execRbOutput c s) := by
  unfold execRbOutput; dsimp only; (repeat' split) <;> simp

theorem execRbRunDone_leavesMem (c : CoreId) (s : State) : LeavesMem s (execRbRunDone c s) := by
  unfold execRbRunDone; dsimp only; (repeat' split) <;> simp

theorem execRbContextSwitch_leavesMem (c : CoreId) (s : State) : LeavesMem s (execRbContextSwitch c s) := by
  unfold execRbContextSwitch; dsimp only; (repeat' split) <;> simp

theorem execRbModeApply_leavesMem (c : CoreId) (s : State) : LeavesMem s (execRbModeApply c s) := by
  unfold execRbModeApply; dsimp only; (repeat' split) <;> simp

theorem execRbPassBoundary_leavesMem (c : CoreId) (s : State) : LeavesMem s (execRbPassBoundary c s) := by
  unfold execRbPassBoundary; dsimp only; (repeat' split) <;> simp [mem_foldl]

theorem execRbDrnDiscard_leavesMem (c : CoreId) (p : PortId) (s : State) : LeavesMem s (execRbDrnDiscard c p s) := by
  unfold execRbDrnDiscard; dsimp only; (repeat' split) <;> simp

theorem execTlbinv_leavesMem (d a b : BitVec 5) (s : State) : LeavesMem s (execTlbinv d a b s) := by
  unfold execTlbinv; dsimp only; (repeat' split) <;> simp

theorem execTlbinvComplete_leavesMem (c : CoreId) (t : Tid) (s : State) : LeavesMem s (execTlbinvComplete c t s) := by
  unfold execTlbinvComplete; dsimp only; (repeat' split) <;> simp

theorem execResume_leavesMem (a : BitVec 5) (s : State) : LeavesMem s (execResume a s) := by
  unfold execResume; dsimp only; (repeat' split) <;> simp

theorem execKill_leavesMem (a : BitVec 5) (s : State) : LeavesMem s (execKill a s) := by
  unfold execKill; dsimp only; (repeat' split) <;> simp

theorem execDescriptorReadDone_leavesMem (c : CoreId) (t : Tid) (s : State) : LeavesMem s (execDescriptorReadDone c t s) := by
  unfold execDescriptorReadDone; dsimp only; (repeat' split) <;> simp

theorem execTwaitany_leavesMem (d a : BitVec 5) (s : State) : LeavesMem s (execTwaitany d a s) := by
  unfold execTwaitany; (repeat' split) <;> simp

theorem execTwaitall_leavesMem (a : BitVec 5) (s : State) : LeavesMem s (execTwaitall a s) := by
  unfold execTwaitall; (repeat' split) <;> simp

theorem execTffr_leavesMem (d a : BitVec 5) (s : State) : LeavesMem s (execTffr d a s) := by
  unfold execTffr; dsimp only; (repeat' split) <;> simp

theorem execTagWaitSatisfied_leavesMem (c : CoreId) (t : Tid) (s : State) : LeavesMem s (execTagWaitSatisfied c t s) := by
  unfold execTagWaitSatisfied; dsimp only; (repeat' split) <;> simp

theorem execGroupOpApplied_leavesMem (c : CoreId) (t : Tid) (s : State) : LeavesMem s (execGroupOpApplied c t s) := by
  unfold execGroupOpApplied; (repeat' split) <;> simp

theorem execArrive_leavesMem (a : BitVec 5) (s : State) : LeavesMem s (execArrive a s) := by
  unfold execArrive; (repeat' split) <;> simp

theorem execExit_leavesMem (s : State) : LeavesMem s (execExit s) := by
  unfold execExit; dsimp only; (repeat' split) <;> simp

theorem execNode_leavesMem (d a : BitVec 5) (s : State) : LeavesMem s (execNode d a s) := by
  unfold execNode; dsimp only; (repeat' split) <;> simp

theorem execNodeRemoteReturn_leavesMem (c : CoreId) (t : Tid) (s : State) : LeavesMem s (execNodeRemoteReturn c t s) := by
  unfold execNodeRemoteReturn; (repeat' split) <;> simp

theorem execGateset_leavesMem (a : BitVec 5) (g : BitVec 4) (s : State) : LeavesMem s (execGateset a g s) := by
  unfold execGateset; dsimp only; (repeat' split) <;> simp

theorem execGateFire_leavesMem (c : CoreId) (g : GateId) (s : State) : LeavesMem s (execGateFire c g s) := by
  unfold execGateFire; dsimp only; (repeat' split) <;> simp

theorem execTrc_leavesMem (a : BitVec 5) (s : State) : LeavesMem s (execTrc a s) := by
  unfold execTrc; dsimp only; (repeat' split) <;> simp

theorem execStep_leavesMem (a : BitVec 5) (s : State) : LeavesMem s (execStep a s) := by
  unfold execStep; dsimp only; (repeat' split) <;> simp

theorem execWalk_leavesMem (d a : BitVec 5) (s : State) : LeavesMem s (execWalk d a s) := by
  unfold execWalk; dsimp only; (repeat' split) <;> simp

theorem execWalkLink_leavesMem (c : CoreId) (t : Tid) (s : State) : LeavesMem s (execWalkLink c t s) := by
  unfold execWalkLink; dsimp only; (repeat' split) <;> simp

theorem execLaunch_leavesMem (d a : BitVec 5) (s : State) : LeavesMem s (execLaunch d a s) := by
  unfold execLaunch; dsimp only; (repeat' split) <;> simp

theorem execSubmitLaunch_leavesMem (h : Ipv6) (m : Datagram) (s : State) : LeavesMem s (execSubmitLaunch h m s) := by
  unfold execSubmitLaunch; dsimp only; (repeat' split) <;> simp

theorem execLaunchReservation_leavesMem (s : State) : LeavesMem s (execLaunchReservation s) := by
  unfold execLaunchReservation; dsimp only; (repeat' split) <;> simp

theorem execTaskEnd_leavesMem (id : TaskId) (s : State) : LeavesMem s (execTaskEnd id s) := by
  unfold execTaskEnd
  split
  · exact leavesMem_next.2 rfl
  · next t _ =>
    dsimp only
    generalize hu : (t.cores.foldl (fun s c => s.modCore c (fun x => x.quiet.dropStages)) s).leaveXbar id = u
    have h : u.mem = s.mem := by rw [← hu, State.mem_leaveXbar, mem_foldl _ (fun s c => s.mem_modCore c _)]
    (repeat' split) <;> simp [h]

theorem execTaskStop_leavesMem (id : TaskId) (s : State) : LeavesMem s (execTaskStop id s) := by
  unfold execTaskStop; (repeat' split) <;> simp [mem_foldl]

theorem execWdogExpire_leavesMem (id : TaskId) (s : State) : LeavesMem s (execWdogExpire id s) := by
  unfold execWdogExpire; (repeat' split) <;> simp

theorem execFaultRecordPost_leavesMem (c : CoreId) (s : State) : LeavesMem s (execFaultRecordPost c s) := by
  unfold execFaultRecordPost; dsimp only; (repeat' split) <;> simp

theorem execAttestationRead_leavesMem (h : Ipv6) (nonce : BitVec 256) (s : State) : LeavesMem s (execAttestationRead h nonce s) := by
  unfold execAttestationRead; dsimp only; (repeat' split) <;> simp

theorem execTimeMessage_leavesMem (h : Ipv6) (m : Datagram) (ppm : Int) (s : State) : LeavesMem s (execTimeMessage h m ppm s) := by
  unfold execTimeMessage; (repeat' split) <;> simp

theorem execDebugRequest_leavesMem (h : Ipv6) (m : Datagram) (s : State) : LeavesMem s (execDebugRequest h m s) := by
  unfold execDebugRequest; dsimp only; (repeat' split) <;> simp

theorem execDebugHostCommand_leavesMem (h : Ipv6) (m : Datagram) (s : State) : LeavesMem s (execDebugHostCommand h m s) := by
  unfold execDebugHostCommand; dsimp only; (repeat' split) <;> simp

theorem execDebugOutput_leavesMem (c : CoreId) (s : State) : LeavesMem s (execDebugOutput c s) := by
  unfold execDebugOutput
  split
  · exact leavesMem_next.2 rfl
  · refine .ite (leavesMem_next.2 rfl) ?_
    dsimp only
    generalize hu : s.popHead c 123 0 = u
    have h : u.mem = s.mem := by rw [← hu, State.mem_popHead]
    (repeat' split) <;> exact leavesMem_next.2 h

theorem execFrameDiscard_leavesMem (port : EthPort) (f : Frame) (s : State) : LeavesMem s (execFrameDiscard port f s) := by
  unfold execFrameDiscard; dsimp only; (repeat' split) <;> simp

theorem execThermalReading_leavesMem (t0 t1 t2 t3 : Nat) (s : State) : LeavesMem s (execThermalReading t0 t1 t2 t3 s) := by
  unfold execThermalReading; dsimp only; (repeat' split) <;> simp

theorem execThermalTrip_leavesMem (temp : Nat) (s : State) : LeavesMem s (execThermalTrip temp s) := by
  unfold execThermalTrip; (repeat' split) <;> simp

theorem execThermalTripClear_leavesMem (temp : Nat) (s : State) : LeavesMem s (execThermalTripClear temp s) := by
  unfold execThermalTripClear; (repeat' split) <;> simp

theorem execPowerOnBoot_leavesMem (s : State) : LeavesMem s (execPowerOnBoot s) := by
  unfold execPowerOnBoot
  (repeat' split) <;> exact leavesMem_next.2 rfl

theorem execFirmwareModuleLoad_leavesMem (image : List Byte) (s : State) : LeavesMem s (execFirmwareModuleLoad image s) := by
  unfold execFirmwareModuleLoad; (repeat' split) <;> simp

theorem execFirmwarePolicySet_leavesMem (p : Policy) (s : State) : LeavesMem s (execFirmwarePolicySet p s) := by
  unfold execFirmwarePolicySet; dsimp only; (repeat' split) <;> simp

theorem execSpareBringIn_leavesMem (r : Resource) (s : State) : LeavesMem s (execSpareBringIn r s) := by
  unfold execSpareBringIn; dsimp only; (repeat' split) <;> simp

end Sys2Proof.Machine
end

section
/-! SUPPORT. The operations that write HBM or the pool: each write is canonical, so the canonical form of both memories stays. -/

namespace Sys2Proof.Machine

/-- Two memories in canonical form. -/
def Canonical (m : Memory × Memory) : Prop := Memory.wf m.1 = true ∧ Memory.wf m.2 = true

theorem State.memWf_iff (s : State) : s.memWf = true ↔ Canonical s.mem := Bool.and_eq_true_iff

theorem Canonical.of_mem {s t : State} (h : Canonical s.mem) (e : t.mem = s.mem) : Canonical t.mem := e ▸ h

theorem Canonical.ite {p : Prop} [Decidable p] {a b : State} (ha : Canonical a.mem) (hb : Canonical b.mem) :
    Canonical (if p then a else b).mem := by
  split <;> assumption

/-- A fold of updates that each keep the canonical form keeps it. -/
theorem canonical_foldl {α : Type} (f : State → α → State) (hf : ∀ s a, Canonical s.mem → Canonical (f s a).mem) :
    ∀ (l : List α) (s : State), Canonical s.mem → Canonical (l.foldl f s).mem := by
  intro l
  induction l with
  | nil => intro s h; exact h
  | cons a r ih => intro s h; exact ih _ (hf s a h)

/-! ## Writes of HBM -/

section hbm
variable {s : State} (h : Canonical s.mem)
include h

theorem canonical_hbmStore (a n v : Nat) : Canonical (s.hbmStore a n v).mem := ⟨Memory.wf_writeN _ _ _ _ h.1, h.2⟩

theorem canonical_hbmPut (a : Nat) (b : List Byte) : Canonical (s.hbmPut a b).mem := ⟨Memory.wf_writeBytes _ _ _ h.1, h.2⟩

theorem canonical_hbmWrite (w : SinkWrite) : Canonical (s.hbmWrite w).mem := canonical_hbmPut h _ _

theorem canonical_walkWrite (ea e : Nat) (changed : Bool) : Canonical (s.walkWrite ea e changed).mem := by
  unfold State.walkWrite
  split
  · exact canonical_hbmStore h _ _ _
  · exact h

theorem canonical_copyLine (old new off : Nat) : Canonical (s.copyLine old new off).mem := by
  unfold State.copyLine
  dsimp only
  split
  · exact h
  · exact canonical_hbmStore (s := s.softHbm _ _) h _ _ _

theorem canonical_forkCell (c : CoreId) (k : StrmId) (a b : Nat) : Canonical (s.forkCell c k a b).mem := by
  refine canonical_foldl _ (fun t z ht => ?_) _ _ h
  dsimp only
  rw [State.mem_modCore]
  split
  · exact ht
  · exact canonical_foldl _ (fun u q hu => canonical_hbmStore hu _ _ _) _ _ ht

theorem canonical_amoHbm (c : CoreId) (t : Tid) (op : AmoOp) (w pa : Nat) (b : Word) (d : BitVec 5) (cmp : Word) :
    Canonical (s.amoHbm c t op w pa b d cmp).mem := by
  unfold State.amoHbm
  split
  · exact h.of_mem (by simp)
  · rw [State.mem_amoEnd, State.mem_modCore]
    exact canonical_hbmStore (s := s.softHbm _ _) h _ _ _

end hbm

theorem canonical_writePieces (l : List (Nat × Nat)) :
    ∀ (s : State) (bs : List Byte), Canonical s.mem → Canonical (s.writePieces l bs).mem := by
  induction l with
  | nil => intro s bs h; exact h
  | cons p r ih => intro s bs h; exact ih _ _ (canonical_hbmWrite h _)

/-! ## Writes of the pool -/

section pool
variable {s : State} (h : Canonical s.mem)
include h

/-- A write of the pool keeps the form of HBM, whatever it does to the marks of errors. -/
theorem canonical_withPool (a n : Nat) {p : Memory} (hp : Memory.wf p = true) :
    Canonical (State.mem { (s.poolMarks a n) with pool := p }) :=
  ⟨(h.of_mem (s.mem_poolMarks a n)).1, hp⟩

theorem canonical_poolWrite (a n v : Nat) : Canonical (s.poolWrite a n v).mem :=
  canonical_withPool h _ _ (Memory.wf_writeN _ _ _ _ h.2)

theorem canonical_zeroBank (c : CoreId) (b : Nat) : Canonical (s.zeroBank c b).mem :=
  canonical_withPool h _ _ (Memory.wf_clear _ _ _ h.2)

theorem canonical_poolWrites (l : List SysWrite) : Canonical (s.poolWrites l).mem :=
  canonical_foldl _ (fun _ _ hs => canonical_withPool hs _ _ (Memory.wf_writeBytes _ _ _ hs.2)) l s h

theorem canonical_sysPath (c : CoreId) (b : Nat) : Canonical (s.sysPath c b).mem := by
  unfold State.sysPath
  dsimp only
  split
  · split
    · exact h
    · next w r _ =>
      have hw : Canonical (State.mem { ((s.modCore c (fun x => (x.bankServed b 3).modBank b (fun g =>
          { g with sys := r }))).poolMarks w.addr w.bytes.length) with pool := Memory.writeBytes s.pool w.addr w.bytes }) :=
        canonical_withPool (s := s.modCore c _) h _ _ (Memory.wf_writeBytes _ _ _ h.2)
      split
      · split <;> exact hw
      · exact hw
  · exact h

theorem canonical_bankCop (c : CoreId) (b : Nat) (cops : List Nat) (f : State → Nat → Cell → CopRes) :
    Canonical (s.bankCop c b cops f).mem := by
  unfold State.bankCop
  dsimp only
  split
  · exact h
  · next y _ =>
    split
    · split
      · exact h
      · rw [State.mem_popHead]
        have hw (l : List (Nat × Nat)) (m : List (Nat × Nat × Nat)) := canonical_foldl _
          (fun t w ht => canonical_poolWrite ht (bankBase c b + w.1) w.2.1 w.2.2) m _
          (h.of_mem (mem_foldl (fun t w => t.softPool (bankBase c b + w.1) w.2) (fun t w => t.mem_softPool _ _) l s))
        split <;> exact hw _ _
    · exact h

theorem canonical_amoPool (c : CoreId) (t : Tid) (dd : Direct) (op : AmoOp) (w : Nat) (b : Word) (d : BitVec 5) (cmp : Word) :
    Canonical (s.amoPool c t dd op w b d cmp).mem := by
  unfold State.amoPool
  dsimp only
  split
  · exact h.of_mem (by simp)
  · rw [State.mem_amoEnd]
    exact canonical_poolWrite (h.of_mem (by simp)) _ _ _

theorem canonical_scrubCore (c : CoreId) (r : LaunchRec) : Canonical (s.scrubCore c r).mem :=
  canonical_foldl _ (fun _ b hs => canonical_zeroBank hs c b) _ _ h

theorem canonical_startGang (q : Nat) (r : LaunchRec) (l : List CoreId) (deficit : Nat) :
    Canonical (s.startGang q r l deficit).mem :=
  canonical_foldl _ (fun _ c hs => canonical_scrubCore hs c r) _ _ h

theorem canonical_drr : Canonical s.drr.mem := by
  unfold State.drr
  dsimp only
  split
  · exact h
  · split
    · refine .ite (canonical_startGang ?_ _ _ _ _) h
      exact h
    · exact h

end pool

end Sys2Proof.Machine
end

section
/-! SUPPORT. The operations that end in a state or in a failure: the state in each of their outcomes has canonical memories. -/

namespace Sys2Proof.Machine

/-! ## Outcomes that carry a state -/

/-- The next state of an outcome, where it has one, has canonical memories. -/
def CanonOut (o : Out) : Prop := ∀ t, o = .next t → Canonical t.mem

@[simp] theorem canonOut_next {t : State} : CanonOut (.next t) ↔ Canonical t.mem := by simp [CanonOut]

@[simp] theorem canonOut_fault (f : Fault) : CanonOut (.fault f) := by simp [CanonOut]

theorem LeavesMem.canon {s : State} {o : Out} (ho : LeavesMem s o) (h : Canonical s.mem) : CanonOut o :=
  fun t e => h.of_mem (ho t e)

theorem CanonOut.ite {p : Prop} [Decidable p] {a b : Out} (ha : CanonOut a) (hb : CanonOut b) : CanonOut (if p then a else b) := by
  split <;> assumption

/-- The state that a translation at once leaves has canonical memories. -/
def CanonTouch (r : Touch) : Prop :=
  match r with
  | .ok s _ | .fault s _ => Canonical s.mem
  | .absent => True

/-- The state that a write through a stream's extents leaves has canonical memories. -/
def CanonLanded (r : Landed) : Prop :=
  match r with
  | .ok s | .fault s _ => Canonical s.mem
  | .absent => True

/-- The state that a generator's read leaves has canonical memories. -/
def CanonGen (r : GenRead) : Prop :=
  match r with
  | .ok s _ | .fault s _ | .dropped s => Canonical s.mem
  | .absent => True

/-- The state that a read of footprints leaves has canonical memories. -/
def CanonPrints (r : Except PrintsErr (State × List Byte)) : Prop :=
  match r with
  | .ok (s, _) | .error (.walk s) | .error (.bad s _) => Canonical s.mem
  | .error .absent => True

/-- The state that a result holds, in its value (by state) or beside the reason of its failure, has canonical memories. -/
def CanonExcept {α β : Type} (state : β → State) (r : Except (Option (State × α)) β) : Prop :=
  match r with
  | .ok b => Canonical (state b).mem
  | .error (some (s, _)) => Canonical s.mem
  | .error none => True

theorem CanonExcept.ok {α β : Type} {state : β → State} {r : Except (Option (State × α)) β} {b : β} (e : r = .ok b)
    (h : CanonExcept state r) : Canonical (state b).mem := by
  subst e; exact h

theorem CanonExcept.fst {α β : Type} {r : Except (Option (State × α)) (State × β)} {s : State} {b : β} (e : r = .ok (s, b))
    (h : CanonExcept Prod.fst r) : Canonical s.mem := by
  subst e; exact h

theorem CanonExcept.failed {α β : Type} {state : β → State} {r : Except (Option (State × α)) β} {s : State} {k : α}
    (e : r = .error (some (s, k))) (h : CanonExcept state r) : Canonical s.mem := by
  subst e; exact h

/-- A failure handed on is canonical where the result that failed is. -/
theorem CanonExcept.error {α β γ : Type} {state : β → State} {state' : γ → State} {r : Except (Option (State × α)) β}
    {x : Option (State × α)} (e : r = .error x) (h : CanonExcept state r) : CanonExcept state' (.error x) := by
  subst e
  cases x with
  | none => trivial
  | some p => exact h

/-! ## Translations at once -/

section walks
variable {s : State} (h : Canonical s.mem)
include h

theorem canonical_walked (c : CoreId) (va : Nat) : Canonical (s.walked c va).mem := h.of_mem (by simp)

theorem canonical_tenantWalked (ten : Tenant) (va : Nat) : Canonical (s.tenantWalked ten va).mem := h.of_mem (by simp)

theorem canonTouch_strmTouch (c : CoreId) (k : StrmId) (va : Nat) (kd : Kind) : CanonTouch (s.strmTouch c k va kd) := by
  unfold State.strmTouch
  split
  · exact h
  · split
    · trivial
    · exact canonical_walked h c va
    · exact canonical_walkWrite (canonical_walked h c va) _ _ _

theorem canonTouch_touch (c : CoreId) (va : Nat) (kd : Kind) : CanonTouch (s.touch c va kd) := by
  unfold State.touch
  split
  · exact h
  · split
    · trivial
    · exact canonical_walked h c va
    · exact canonical_walkWrite (canonical_walked h c va) _ _ _

theorem canonLanded_edgeWrite (c : CoreId) (k : StrmId) (va : Nat) (bs : List Byte) : CanonLanded (s.edgeWrite c k va bs) := by
  have ht := canonTouch_strmTouch h c k va .write
  unfold State.edgeWrite
  cases e : s.strmTouch c k va .write with rw [e] at ht
  | absent => trivial
  | fault t code => exact ht
  | ok t pa => exact canonical_hbmWrite ht _

theorem canonGen_genPage (c : CoreId) (va n : Nat) (demand : Bool) : CanonGen (s.genPage c va n demand) := by
  have hw := canonical_walked h c va
  unfold State.genPage
  dsimp only
  split
  · split
    · trivial
    · exact hw
  · split <;> exact hw
  · have hl := fun ea e changed => canonical_walkWrite hw ea e changed
    split
    · exact hw
    · split
      · split <;> exact hl _ _ _
      · split
        · split <;> exact hl _ _ _
        · exact hl _ _ _

theorem canonGen_genRead (c : CoreId) (va n : Nat) (demand : Bool) : CanonGen (s.genRead c va n demand) := by
  have h1 := canonGen_genPage h c va (onPage va n) demand
  unfold State.genRead
  dsimp only
  cases e : s.genPage c va (onPage va n) demand with rw [e] at h1
  | absent => trivial
  | fault t code => exact h1
  | dropped t => exact h1
  | ok t v =>
    have h2 := canonGen_genPage h1 c ((va + onPage va n) % vaTop) (n - onPage va n) demand
    dsimp only
    split
    · exact h1
    · cases e : t.genPage c ((va + onPage va n) % vaTop) (n - onPage va n) demand with (rw [e] at h2; exact h2)

end walks

theorem canonLanded_edgeWrites (c : CoreId) (k : StrmId) (l : List (Nat × List Byte)) :
    ∀ s : State, Canonical s.mem → CanonLanded (s.edgeWrites c k l) := by
  induction l with
  | nil => intro s h; exact h
  | cons w r ih =>
    intro s h
    have ht := canonLanded_edgeWrite h c k w.1 w.2
    unfold State.edgeWrites
    cases e : s.edgeWrite c k w.1 w.2 with rw [e] at ht
    | absent => trivial
    | fault t code => exact ht
    | ok t => exact ih t ht

theorem canonPrints_readPrints (c : CoreId) (n : Nat) : ∀ (s : State) (va : Nat), Canonical s.mem → CanonPrints (s.readPrints c va n) := by
  induction n with
  | zero => intro s va h; exact h
  | succ n ih =>
    intro s va h
    have ht := canonTouch_touch h c (va % 2 ^ 55) .read
    unfold State.readPrints
    cases e : s.touch c (va % 2 ^ 55) .read with rw [e] at ht
    | absent => trivial
    | fault t code => exact ht
    | ok t pa =>
      have hr := ih (t.softHbm pa 16) (va + 16) ht
      dsimp only
      split
      · exact ht
      · cases e : (t.softHbm pa 16).readPrints c (va + 16) n with (rw [e] at hr; exact hr)

theorem canonExcept_tenantRead (ten : Tenant) (fuel : Nat) :
    ∀ (s : State) (va n : Nat), Canonical s.mem → CanonExcept Prod.fst (s.tenantRead ten va n fuel) := by
  induction fuel with
  | zero => intro s va n h; exact h
  | succ f ih =>
    intro s va n h
    have hw := canonical_tenantWalked h ten (va % 2 ^ 55)
    unfold State.tenantRead
    dsimp only
    split
    · exact h
    · split
      · trivial
      · exact hw
      · next ea e changed level frame w x d _ =>
        have hl := canonical_walkWrite hw ea e changed
        split
        · exact hl
        · split
          · next er => exact CanonExcept.fst er (ih _ _ _ hl)
          · next er => exact CanonExcept.error er (ih _ _ _ hl)

theorem canonExcept_tenantPieces (ten : Tenant) (fuel : Nat) :
    ∀ (s : State) (va n : Nat), Canonical s.mem → CanonExcept Prod.fst (s.tenantPieces ten va n fuel) := by
  induction fuel with
  | zero => intro s va n h; exact h
  | succ f ih =>
    intro s va n h
    have hw := canonical_tenantWalked h ten (va % 2 ^ 55)
    unfold State.tenantPieces
    dsimp only
    split
    · exact h
    · split
      · trivial
      · exact hw
      · next ea e changed level frame w x d _ =>
        have hl := canonical_walkWrite hw ea e changed
        split
        · next er => exact CanonExcept.fst er (ih _ _ _ hl)
        · next er => exact CanonExcept.error er (ih _ _ _ hl)

theorem canonExcept_mapPages (c : CoreId) (fuel : Nat) :
    ∀ (s : State) (va n : Nat), Canonical s.mem → CanonExcept Prod.fst (s.mapPages c va n fuel) := by
  induction fuel with
  | zero => intro s va n h; exact h
  | succ f ih =>
    intro s va n h
    have hw := canonical_walked h c (va % 2 ^ 55)
    unfold State.mapPages
    dsimp only
    split
    · exact h
    · split
      · trivial
      · exact hw
      · next ea e changed level frame w x d _ =>
        have hl := canonical_walkWrite hw ea e changed
        split
        · next er => exact CanonExcept.fst er (ih _ _ _ hl)
        · next er => exact CanonExcept.error er (ih _ _ _ hl)

theorem canonExcept_graphVas {s : State} (h : Canonical s.mem) (ten : Tenant) (va : Nat) :
    CanonExcept Prod.fst (s.graphVas ten va) := by
  have h1 := canonExcept_tenantRead ten 4 s va 8 h
  unfold State.graphVas
  split
  · trivial
  · next er => exact CanonExcept.failed er h1
  · next t b er =>
    have ht : Canonical t.mem := CanonExcept.fst er h1
    dsimp only
    split
    · exact ht
    · have h2 := canonExcept_tenantRead ten 4 t (va + 8) (8 * byteField b 0 4) ht
      split
      · trivial
      · next er => exact CanonExcept.failed er h2
      · next er => exact CanonExcept.fst er h2

/-- The case of a graph that has a record more: the equations of graphRecords are too large to be generated, so its functional is opened. -/
theorem canonExcept_graphRecords_cons {hst : Ipv6} {ten : Tenant} (va : Nat) {rest : List Nat}
    (ih : ∀ s : State, Canonical s.mem → CanonExcept Prod.fst (s.graphRecords hst ten rest)) {s : State} (h : Canonical s.mem) :
    CanonExcept Prod.fst (s.graphRecords hst ten (va :: rest)) := by
  have h1 := canonExcept_tenantRead ten 4 s va 128 h
  delta State.graphRecords at ih
  delta State.graphRecords
  delta State.graphRecords._f at ih
  delta State.graphRecords._f
  dsimp only at ih ⊢
  split
  · exact h
  · split
    · trivial
    · next er => exact CanonExcept.failed er h1
    · next t bs er =>
      have ht : Canonical t.mem := CanonExcept.fst er h1
      split
      · exact ht
      · have h2 := canonExcept_tenantRead ten 4 t (byteField bs 48 8) (16 * byteField bs 5 1) ht
        split
        · trivial
        · next er => exact CanonExcept.failed er h2
        · next u fp er =>
          have hu : Canonical u.mem := CanonExcept.fst er h2
          split
          · exact hu
          · split
            · next er => exact CanonExcept.fst er (ih u hu)
            · next er => exact CanonExcept.error er (ih u hu)

theorem canonExcept_graphRecords (hst : Ipv6) (ten : Tenant) (vas : List Nat) :
    ∀ s : State, Canonical s.mem → CanonExcept Prod.fst (s.graphRecords hst ten vas) := by
  induction vas with
  | nil => intro s h; exact h
  | cons va rest ih => intro s h; exact canonExcept_graphRecords_cons va ih h

theorem canonExcept_firstImage {s : State} (h : Canonical s.mem) (c : CoreId) (va : Nat) : CanonExcept id (s.firstImage c va) := by
  have h1 := canonExcept_mapPages c 2 s va 16 h
  unfold State.firstImage
  split
  · trivial
  · next er => exact CanonExcept.failed er h1
  · next t m er =>
    have ht : Canonical t.mem := CanonExcept.fst er h1
    split
    · exact ht
    · next n _ =>
      have h2 := canonExcept_mapPages c 258 t va n ht
      split
      · trivial
      · next er => exact CanonExcept.failed er h2
      · next u m er =>
        have hu : Canonical u.mem := CanonExcept.fst er h2
        split
        · exact hu
        · dsimp only
          split
          · exact hu
          · exact canonical_poolWrites (canonical_foldl _ (fun s y hs => hs.of_mem (s.mem_softHbm _ _)) _ _ hu) _

theorem canonExcept_firstImages (va : Nat) (l : List CoreId) :
    ∀ s : State, Canonical s.mem → CanonExcept id (s.firstImages l va) := by
  induction l with
  | nil => intro s h; exact h
  | cons c r ih =>
    intro s h
    have h1 := canonExcept_firstImage h c va
    unfold State.firstImages
    split
    · next er => exact ih _ (CanonExcept.ok er h1)
    · next er => exact CanonExcept.error er h1

theorem canonExcept_readDap {s : State} (h : Canonical s.mem) (c : CoreId) (va : Nat) : CanonExcept Prod.fst (s.readDap c va) := by
  have h1 := canonTouch_touch h c va .read
  unfold State.readDap
  cases e : s.touch c va .read with rw [e] at h1
  | absent => trivial
  | fault t code => exact h1
  | ok t pa =>
    have h2 := canonTouch_touch h1 c ((va + 31) % vaTop) .read
    dsimp only
    cases e : t.touch c ((va + 31) % vaTop) .read with rw [e] at h2
    | absent => trivial
    | fault u code => exact h2
    | ok u pb => exact h2

end Sys2Proof.Machine
end

section
/-! SUPPORT. The events that write memory: each keeps the canonical form of both memories. -/

namespace Sys2Proof.Machine

/-! ## The instructions that write memory -/

section writers
variable {s : State} (h : Canonical s.mem)
include h

theorem canonOut_storePerformed (c : CoreId) : CanonOut (execStorePerformed c s) := by
  unfold execStorePerformed
  split
  · exact canonOut_next.2 h
  · next b r _ =>
    have hb := canonical_hbmStore h b.pa b.w b.v.toNat
    dsimp only
    split <;> exact canonOut_next.2 (hb.of_mem (by simp))

theorem canonOut_poolAccessDone (c : CoreId) (t : Tid) : CanonOut (execPoolAccessDone c t s) := by
  unfold execPoolAccessDone
  split
  · exact canonOut_next.2 h
  · split
    · exact canonOut_next.2 h
    · exact canonOut_next.2 (canonical_poolWrite (s := s.modCore c _) h _ _ _)
    · refine LeavesMem.canon (s := s) ?_ h
      dsimp only
      (repeat' split) <;> simp

theorem canonOut_amoPerformed (c : CoreId) (t : Tid) : CanonOut (execAmoPerformed c t s) := by
  unfold execAmoPerformed
  dsimp only
  split
  · split
    · split
      · exact canonOut_next.2 (canonical_amoPool h _ _ _ _ _ _ _ _)
      · exact canonOut_next.2 h
    · refine .ite (.ite (canonOut_next.2 h) (canonOut_next.2 (canonical_amoHbm h _ _ _ _ _ _ _ _))) (canonOut_next.2 h)
  · exact canonOut_next.2 h

theorem canonOut_walkThread (c : CoreId) (t : Tid) : CanonOut (s.walkThread c t) := by
  unfold State.walkThread
  split
  · next va k _ _ =>
    have hw := canonical_walked h c va.toNat
    dsimp only
    split
    · simp
    · exact canonOut_next.2 (hw.of_mem (by simp))
    · exact canonOut_next.2 (canonical_walkWrite hw _ _ _)
  · exact canonOut_next.2 h

theorem canonOut_pageWalk (c : CoreId) (who : Walker) : CanonOut (execPageWalk c who s) := by
  unfold execPageWalk
  split
  · exact canonOut_walkThread h c _
  · dsimp only
    split
    · next va kd _ _ =>
      have hw := canonical_walked h c va.toNat
      split
      · simp
      · exact canonOut_next.2 (.ite h (hw.of_mem (by simp)))
      · exact canonOut_next.2 (canonical_walkWrite hw _ _ _)
    · exact canonOut_next.2 h

theorem canonOut_loaderReadIssue (c : CoreId) (k : StrmId) : CanonOut (execLoaderReadIssue c k s) := by
  unfold execLoaderReadIssue
  refine .ite ?_ (canonOut_next.2 h)
  split
  · exact canonOut_next.2 (canonical_forkCell (h.of_mem (by simp)) _ _ _ _)
  · refine canonOut_next.2 ?_
    rw [State.mem_strmStop]
    exact canonical_forkCell (h.of_mem (by simp)) _ _ _ _

theorem canonOut_sinkWritePerformed (c : CoreId) (k : StrmId) : CanonOut (execSinkWritePerformed c k s) := by
  unfold execSinkWritePerformed
  dsimp only
  split
  · exact canonOut_next.2 h
  · exact canonOut_next.2 (canonical_hbmWrite h _)

theorem canonOut_spliceDone (c : CoreId) (k : StrmId) : CanonOut (execSpliceDone c k s) := by
  unfold execSpliceDone
  split
  · exact canonOut_next.2 h
  · next i z _ =>
    have hw := canonical_walked h c (z.page * 2 ^ 16)
    dsimp only
    split
    · simp
    · exact canonOut_next.2 (hw.of_mem (by simp))
    · refine .ite (canonOut_next.2 hw) (.ite (canonOut_next.2 (hw.of_mem (by simp))) ?_)
      refine .ite (canonOut_next.2 ?_) (canonOut_next.2 ?_)
      all_goals
        simp only [State.mem_spliceEnd, State.mem_modCore, State.mem_pathsUsed]
        exact canonical_foldl _ (fun _ n hs => canonical_copyLine hs _ _ n) _ _ hw

theorem canonOut_fetchCell (c : CoreId) (v : Bool) (i : Nat) (f : Fetch) : CanonOut (s.fetchCell c v i f) := by
  unfold State.fetchCell
  refine .ite (canonOut_next.2 h) ?_
  have hr := canonGen_genRead h c ((f.va + 256 * f.asked) % vaTop) 256 ((s.core c).demands v f)
  cases e : s.genRead c ((f.va + 256 * f.asked) % vaTop) 256 ((s.core c).demands v f) with rw [e] at hr
  | absent => simp
  | dropped t => exact canonOut_next.2 (hr.of_mem (by simp))
  | fault t code => exact canonOut_next.2 (hr.of_mem (by simp))
  | ok t w => exact canonOut_next.2 (hr.of_mem (by simp))

theorem canonOut_fetchSide (c : CoreId) (v : Bool) : CanonOut (s.fetchSide c v) := by
  unfold State.fetchSide
  split
  · exact canonOut_fetchCell h _ _ _ _
  · split
    · exact canonOut_next.2 h
    · exact canonOut_fetchCell (s := (s.modCore c _).clearSpots _) h _ _ _ _

theorem canonOut_adapterFetch (c : CoreId) : CanonOut (execAdapterFetch c s) := by
  unfold execAdapterFetch
  refine .ite (canonOut_next.2 h) ?_
  have hf := canonOut_fetchSide h c false
  split
  · next e => exact canonOut_fetchSide (hf _ e) c true
  · exact hf

theorem canonical_zeroBanks (l : List Nat) (k : CoreId) : Canonical (l.foldl (fun s n => s.zeroBank k n) s).mem :=
  canonical_foldl _ (fun _ n hs => canonical_zeroBank hs k n) l s h

theorem canonOut_cloneDone (c : CoreId) (g : StageId) : CanonOut (execCloneDone c g s) := by
  unfold execCloneDone
  dsimp only
  split
  · refine .ite (canonOut_next.2 h) ?_
    split
    · exact canonOut_next.2 h
    · rw [canonOut_next, State.mem_modCore]
      exact canonical_zeroBanks (h.of_mem (by simp)) _ _
  · exact canonOut_next.2 h

theorem canonOut_mergeDone (c : CoreId) (g : StageId) : CanonOut (execMergeDone c g s) := by
  unfold execMergeDone
  dsimp only
  split
  · refine .ite ?_ (canonOut_next.2 h)
    rw [canonOut_next, State.mem_oxTag, State.mem_oxRecord, State.mem_modCore]
    exact canonical_zeroBanks (h.of_mem (by simp)) _ _
  · exact canonOut_next.2 h

theorem canonOut_gangStart : CanonOut (execGangStart s) := by
  unfold execGangStart
  refine .ite (canonOut_next.2 h) ?_
  split
  · split
    · refine .ite (canonOut_next.2 ?_) (canonOut_next.2 (canonical_drr h))
      rw [State.mem_raiseLmax]
      exact canonical_startGang h _ _ _ _
    · exact canonOut_next.2 h
  · exact canonOut_next.2 (canonical_drr h)

theorem canonOut_launchRecordQueued (c : CoreId) (t : Tid) : CanonOut (execLaunchRecordQueued c t s) := by
  unfold execLaunchRecordQueued
  split
  · next d pa _ _ =>
    refine .ite (canonOut_next.2 (h.of_mem (by simp))) ?_
    extract_lets +onlyGivenNames u bs
    have hu : Canonical u.mem := h.of_mem (State.mem_softHbm _ _ _)
    clear_value bs u
    revert bs u
    -- `id` keeps the statement for every record: the kernel must not compare it with the record's 128 bytes written in.
    refine id ?_
    intro u bs hu
    dsimp only
    split
    · exact canonOut_next.2 (hu.of_mem (State.mem_finish _ _ _ _))
    · have hp := canonPrints_readPrints c (byteField bs 5 1) u (byteField bs 48 8) hu
      split
      · simp
      · next e => rw [e] at hp; exact canonOut_next.2 (hp.of_mem (State.mem_finish _ _ _ _))
      · next e => rw [e] at hp; exact canonOut_next.2 (hp.of_mem (by simp))
      · next e => rw [e] at hp; exact canonOut_next.2 (hp.of_mem (by simp))
  · exact canonOut_next.2 h

theorem canonOut_submitGraph (hst : Ipv6) (m : Datagram) : CanonOut (execSubmitGraph hst m s) := by
  unfold execSubmitGraph
  refine .ite (canonOut_next.2 h) (.ite (canonOut_next.2 h) (.ite (canonOut_next.2 h) ?_))
  have h1 := canonExcept_graphVas h (dgTenant m) m.pos.toNat
  split
  · simp
  · next e => exact canonOut_next.2 ((CanonExcept.failed e h1).of_mem (by simp))
  · next t vas e =>
    have h2 := canonExcept_graphRecords hst (dgTenant m) vas t (CanonExcept.fst e h1)
    split
    · simp
    · next e => exact canonOut_next.2 ((CanonExcept.failed e h2).of_mem (by simp))
    · next e =>
      have ht := CanonExcept.fst e h2
      refine .ite (canonOut_next.2 (ht.of_mem (by simp))) (canonOut_next.2 ?_)
      rw [State.mem_hostInUsed, State.mem_answer]
      exact canonical_foldl _ (fun s r hs => hs.of_mem (s.mem_enqueue r)) _ _ ht

theorem canonOut_firstIssue (n : TaskId) : CanonOut (execFirstIssue n s) := by
  unfold execFirstIssue
  split
  · exact canonOut_next.2 h
  · next t _ =>
    refine .ite ?_ (canonOut_next.2 h)
    have hl : CanonExcept id (if t.lrec.image = 0 then Except.ok s else s.firstImages t.cores t.lrec.image.toNat) := by
      split
      · exact h
      · exact canonExcept_firstImages _ _ _ h
    dsimp only
    split
    · simp
    · next e => exact canonOut_next.2 ((CanonExcept.failed e hl).of_mem (by simp))
    · next e =>
      rw [canonOut_next, State.mem_modTask]
      exact canonical_foldl _ (fun s c hs => hs.of_mem (s.mem_modCore c _)) _ _ (CanonExcept.ok e hl)

theorem canonOut_sluiceRead (hst : Ipv6) (m : Datagram) : CanonOut (execSluiceRead hst m s) := by
  unfold execSluiceRead
  refine .ite (canonOut_next.2 h) (.ite (canonOut_next.2 h) (.ite (canonOut_next.2 h) (.ite (canonOut_next.2 (h.of_mem (by simp)))
    (.ite (canonOut_next.2 h) ?_))))
  have h1 := canonExcept_tenantRead (dgTenant m) (numOf (dgBody m) / 2 ^ 16 + 2) s m.pos.toNat (numOf (dgBody m)) h
  dsimp only
  split
  · simp
  · next e => exact canonOut_next.2 ((CanonExcept.failed e h1).of_mem (by simp))
  · next e => exact canonOut_next.2 ((CanonExcept.fst e h1).of_mem (by simp))

theorem canonOut_sluiceWrite (hst : Ipv6) (m : Datagram) : CanonOut (execSluiceWrite hst m s) := by
  unfold execSluiceWrite
  refine .ite (canonOut_next.2 h) (.ite (canonOut_next.2 h) (.ite (canonOut_next.2 h) ?_))
  have h1 := canonExcept_tenantPieces (dgTenant m) ((dgBody m).length / 2 ^ 16 + 2) s m.pos.toNat (dgBody m).length h
  dsimp only
  split
  · simp
  · next e => exact canonOut_next.2 ((CanonExcept.failed e h1).of_mem (by simp))
  · next t l e => exact canonOut_next.2 ((canonical_writePieces l t (dgBody m) (CanonExcept.fst e h1)).of_mem (by simp))

end writers

/-! ## Peer edges -/

section edges
variable {s : State} (h : Canonical s.mem)
include h

theorem canonOut_sendAgain (c : CoreId) (k : StrmId) (e : Edge) (link : LinkId) (m : Nat) (rest : List Nat) :
    CanonOut (s.sendAgain c k e link m rest) := by
  unfold State.sendAgain
  refine .ite (canonOut_next.2 h) ?_
  have ht := canonTouch_strmTouch h c k (e.place m) .read
  cases er : s.strmTouch c k (e.place m) .read with rw [er] at ht
  | absent => simp
  | fault t code => exact canonOut_next.2 ht
  | ok t pa => exact .ite (canonOut_next.2 (ht.of_mem (by simp))) (canonOut_next.2 (ht.of_mem (by simp)))

theorem canonOut_sendNew (c : CoreId) (k : StrmId) (e : Edge) (link : LinkId) (cell : Cell) (rest : List Cell) :
    CanonOut (s.sendNew c k e link cell rest) := by
  unfold State.sendNew
  refine .ite (canonOut_next.2 h) ?_
  split
  · exact canonOut_next.2 h
  · next q _ =>
    have ht := canonTouch_strmTouch h c k (e.place e.sent) .write
    cases er : s.strmTouch c k (e.place e.sent) .write with rw [er] at ht
    | absent => simp
    | fault t code => exact canonOut_next.2 ht
    | ok t pa => exact canonOut_next.2 ((canonical_hbmWrite ht { addr := pa, bytes := bytesOf 256 q.data.toNat }).of_mem (by simp))

theorem canonOut_peerCellSend (c : CoreId) (k : StrmId) : CanonOut (execPeerCellSend c k s) := by
  unfold execPeerCellSend
  dsimp only
  split
  · exact canonOut_next.2 h
  · refine .ite ?_ (canonOut_next.2 h)
    split
    · exact canonOut_next.2 h
    · refine .ite (canonOut_next.2 h) ?_
      split
      · exact canonOut_sendAgain h _ _ _ _ _ _
      · exact canonOut_sendNew h _ _ _ _ _ _
      · exact canonOut_next.2 h

theorem canonOut_landNext (c : CoreId) (k : StrmId) (e : Edge) : CanonOut (s.landNext c k e) := by
  unfold State.landNext
  split
  · exact canonOut_next.2 h
  · next y rest _ =>
    have hw := canonLanded_edgeWrite h c k (e.place (e.first y.round + e.landedOf y.round)) (bytesOf 256 y.data.toNat)
    dsimp only
    cases er : s.edgeWrite c k (e.place (e.first y.round + e.landedOf y.round)) (bytesOf 256 y.data.toNat) with rw [er] at hw
    | absent => simp
    | fault t code => exact canonOut_next.2 (hw.of_mem (by simp))
    | ok t => exact canonOut_next.2 (hw.of_mem (by simp))

theorem canonOut_commitRow (c : CoreId) (k : StrmId) (e : Edge) : CanonOut (s.commitRow c k e) := by
  unfold State.commitRow
  have ht := canonTouch_strmTouch h c k (e.place (e.first e.committed + e.row)) .read
  dsimp only
  cases er : s.strmTouch c k (e.place (e.first e.committed + e.row)) .read with rw [er] at ht
  | absent => simp
  | fault t code => exact canonOut_next.2 (ht.of_mem (by simp))
  | ok t pa =>
    refine .ite (canonOut_next.2 ht) (.ite (canonOut_next.2 (ht.of_mem (by simp))) (.ite (canonOut_next.2 ht) ?_))
    have hw (l : List (Nat × List Byte)) := canonLanded_edgeWrites c k l (t.softHbm pa 256) ht
    split
    · simp
    · next ew => exact canonOut_next.2 ((ew ▸ hw _ : CanonLanded (.fault _ _)).of_mem (by simp))
    · next ew => exact canonOut_next.2 ((ew ▸ hw _ : CanonLanded (.ok _)).of_mem (by simp))

theorem canonOut_commitLog (c : CoreId) (k : StrmId) (e : Edge) : CanonOut (s.commitLog c k e) := by
  unfold State.commitLog
  refine .ite (canonOut_next.2 h) ?_
  have hw := canonLanded_edgeWrite h c k e.clog (bytesOf 8 (e.committed + 1))
  cases er : s.edgeWrite c k e.clog (bytesOf 8 (e.committed + 1)) with rw [er] at hw
  | absent => simp
  | fault t code => exact canonOut_next.2 (hw.of_mem (by simp))
  | ok t => exact canonOut_next.2 (hw.of_mem (by simp))

theorem canonOut_roundCommit (c : CoreId) (k : StrmId) : CanonOut (execRoundCommit c k s) := by
  unfold execRoundCommit
  dsimp only
  split
  · exact canonOut_next.2 h
  · exact .ite (canonOut_next.2 h) (.ite (canonOut_landNext h _ _ _) (.ite (canonOut_next.2 h)
      (.ite (canonOut_commitRow h _ _ _) (canonOut_commitLog h _ _ _))))

theorem canonOut_roundData (link : LinkId) (m : Datagram) : CanonOut (execRoundData link m s) := by
  unfold execRoundData
  refine .ite (canonOut_next.2 h) ?_
  split
  · exact canonOut_next.2 (h.of_mem (by simp))
  · next q _ =>
    have hq : Canonical (s.rxNext q m).mem := h
    dsimp only
    split
    · exact canonOut_next.2 h
    · split
      · exact canonOut_next.2 h
      · refine .ite (canonOut_next.2 (hq.of_mem (by simp))) (.ite (canonOut_next.2 (hq.of_mem (by simp))) (.ite (canonOut_next.2 hq) ?_))
        refine .ite (canonOut_landNext ?_ _ _ _) (canonOut_next.2 ?_)
        all_goals exact hq

theorem canonOut_edgeTake (c : CoreId) (t : Tid) (d : BitVec 512) (entry : BitVec 8) (tag : BitVec 6) (word : Nat) :
    CanonOut (s.edgeTake c t d entry tag word) := by
  unfold State.edgeTake
  dsimp only
  split
  · refine .ite (canonOut_next.2 h) ?_
    have hr := canonExcept_readDap h c (dapVa d.toNat)
    split
    · simp
    · next e => exact canonOut_next.2 ((CanonExcept.failed e hr).of_mem (by simp))
    · next e =>
      have hu := CanonExcept.fst e hr
      exact .ite (canonOut_next.2 (hu.of_mem (by simp))) (.ite (canonOut_next.2 (hu.of_mem (by simp))) (canonOut_next.2 hu))
  · exact canonOut_next.2 h

theorem canonOut_bindSlotTaken (c : CoreId) (t : Tid) : CanonOut (execBindSlotTaken c t s) := by
  unfold execBindSlotTaken
  split
  · exact canonOut_next.2 (h.of_mem (by simp))
  · exact canonOut_next.2 (h.of_mem (by simp))
  · exact canonOut_edgeTake h _ _ _ _ _ _
  · exact canonOut_next.2 (h.of_mem (by simp))
  · exact canonOut_next.2 h

end edges

end Sys2Proof.Machine
end

section
/-! SUPPORT. Every instruction and every event keeps the canonical form of both memories. -/

namespace Sys2Proof.Machine

/-! ## Every instruction -/

/-- An instruction of a program changes no memory itself: a store waits in the buffer, and the events of the schedule do the writes (R245). -/
theorem exec_leavesMem (i : Instr) (s : State) (hi : i.event? = none) : LeavesMem s (exec i s) := by
  cases i
  case nop | fenceT | fenceC | fenceL | fenceD | fenceP | fenceS | add | sub | mul | mulh | mulhu | div | divu | rem | remu | and_ |
      or_ | xor_ | andn | shl | shr | sar | shli | shri | sari | min | max | minu | maxu | clz | ctz | popc | sextb | sexth | sextw |
      zextw | ceq | cne | clt | cltu | cle | cleu | pand | por | pxor | pandn | pnot | pset | sel | pmovg | gmovp | addi | andi |
      ori | xori | li | lih | cmpiEq | cmpiNe | cmpiLt | cmpiLtu | br | jmp | call | yield | setrole | tidOf | tclr | ttest | apbase |
      apmode | apidx | apget | sbar | sarg | mxmode | mxpanel | mxcode | mxstat | rbstat | oxqry | mcset | racecfg | loopset =>
    exact leavesMem_next.2 rfl
  case trap =>
    exact leavesMem_next.2 (State.mem_trapAt ..)
  case jr | callr | ret =>
    exact leavesMem_next.2 (State.mem_jumpReg ..)
  case ldb | ldh | ldw | ldd | ldbu | ldhu | ldwu =>
    exact leavesMem_next.2 (State.mem_load ..)
  case stb | sth | stw | std =>
    exact leavesMem_next.2 (State.mem_store ..)
  case aadd | aand | aor | axor | amin | amax | aminu | amaxu | axchg | acas | fxaddAmo =>
    exact leavesMem_next.2 (State.mem_amo ..)
  case prefR | prefW =>
    exact leavesMem_next.2 (State.mem_prefetch ..)
  case join | leave | gwait | gsize =>
    exact leavesMem_next.2 (State.mem_groupForm ..)
  case sload | sread | sstore | sgather | sscatter =>
    exact leavesMem_next.2 (State.mem_bindForm ..)
  case sedge | mxadp | oxdecl | rtset =>
    exact leavesMem_next.2 (State.mem_descRead ..)
  case rbxmode =>
    exact leavesMem_next.2 (State.mem_rbQueue ..)
  case elemNop | mov | pass | keyx | keys | cntdn | fadd | fsub | fmul | fma | fms | fmin | fmax | fabs | fneg | fscl | fred | frmax |
      fcmpeq | fcmplt | fcmple | fsel | iadd | isub | imul | imac4 | asub3 | imin | imax | ishl | ishr | isar | iand | ior | ixor |
      inot | icmpeq | icmplt | cvt | qnt8 | dqnt | unp3 | pk3 | lmul | lacc | fxcvt | fxadd | perm | bcast | clamp | kcmp | ksel =>
    exact leavesMem_next.2 (State.mem_fireOp ..)
  case eret => exact execEret_leavesMem _
  case wfe => exact execWfe_leavesMem _
  case mfs => exact execMfs_leavesMem _ _ _
  case mts => exact execMts_leavesMem _ _ _
  case mtsTime => exact execMtsTime_leavesMem _ _
  case mtsAgelim => exact execMtsAgelim_leavesMem _ _
  case mtsSpill => exact execMtsSpill_leavesMem _ _
  case mtsWdog => exact execMtsWdog_leavesMem _ _
  case tlbinv => exact execTlbinv_leavesMem _ _ _ _
  case resume => exact execResume_leavesMem _ _
  case kill => exact execKill_leavesMem _ _
  case ldp => exact execLdp_leavesMem _ _ _ _
  case stp => exact execStp_leavesMem _ _ _ _
  case arrive => exact execArrive_leavesMem _ _
  case exit => exact execExit_leavesMem _
  case launch => exact execLaunch_leavesMem _ _ _
  case twaitany => exact execTwaitany_leavesMem _ _ _
  case twaitall => exact execTwaitall_leavesMem _ _
  case tffr => exact execTffr_leavesMem _ _ _
  case apdim => exact execApdim_leavesMem _ _ _ _ _
  case node => exact execNode_leavesMem _ _ _
  case trc => exact execTrc_leavesMem _ _
  case walk => exact execWalk_leavesMem _ _ _
  case step => exact execStep_leavesMem _ _
  case brk => exact execBrk_leavesMem _ _
  case scell => exact execScell_leavesMem _ _ _ _ _
  case sdrain => exact execSdrain_leavesMem _ _
  case sqry => exact execSqry_leavesMem _ _ _
  case scfg => exact execScfg_leavesMem _ _ _ _
  case sswap => exact execSswap_leavesMem _ _ _
  case ssplice => exact execSsplice_leavesMem _ _ _
  case scancel => exact execScancel_leavesMem _ _ _
  case mxrun => exact execMxrun_leavesMem _ _ _ _ _
  case mxdrain => exact execMxdrain_leavesMem _ _ _ _ _
  case mxzero => exact execMxzero_leavesMem _ _
  case rbload => exact execRbload_leavesMem _ _ _
  case rbctx => exact execRbctx_leavesMem _ _
  case rbrun => exact execRbrun_leavesMem _ _
  case oxsplit => exact execOxsplit_leavesMem _ _
  case oxmerge => exact execOxmerge_leavesMem _ _
  case oxpin => exact execOxpin_leavesMem _ _ _
  case mcsetX => exact execMcsetX_leavesMem _ _ _ _ _
  case gateset => exact execGateset_leavesMem _ _ _
  case oxpiv => exact execOxpiv_leavesMem _ _
  case oxend => exact execOxend_leavesMem _ _
  -- What is left are the events.
  all_goals cases hi

/-- An event of the schedule keeps the canonical form of both memories. -/
theorem canonOut_runEvent {s : State} (h : Canonical s.mem) (e : Event) : CanonOut (runEvent e s) := by
  cases e
  case illDecode =>
    exact canonOut_next.2 (h.of_mem (State.mem_trap ..))
  case drainTokenInject | oxbowTagSet | raceEnd | moduleReset | regWrite | tableFault =>
    exact canonOut_next.2 h
  case commitMsg | voidMsg | ackMsg =>
    exact canonOut_next.2 (h.of_mem (State.mem_linkReply _ _ _ _ _ (fun s => by simp)))
  case dbgWriteSt | dbgWriteD | dbgWriteSf | dbgWriteP | dbgWriteEsr | dbgWriteHead | dbgWriteTable | dbgTraceEnable | dbgSetBe =>
    exact canonOut_next.2 (h.of_mem (State.mem_dbgRun _ _ _ _ (fun _ _ => rfl)))
  case linkLoss =>
    exact canonOut_next.2 (h.of_mem (State.mem_loseLink ..))
  case fenceComplete => exact (execFenceComplete_leavesMem _ _ _).canon h
  case tlbinvComplete => exact (execTlbinvComplete_leavesMem _ _ _).canon h
  case multiclockDone => exact (execMulticlockDone_leavesMem _ _ _).canon h
  case dcacheLineFill => exact (execDcacheLineFill_leavesMem _ _ _).canon h
  case icacheLineFill => exact (execIcacheLineFill_leavesMem _ _ _).canon h
  case mailboxDelivery => exact (execMailboxDelivery_leavesMem _ _ _).canon h
  case groupOpApplied => exact (execGroupOpApplied_leavesMem _ _ _).canon h
  case tagWaitSatisfied => exact (execTagWaitSatisfied_leavesMem _ _ _).canon h
  case nodeRemoteReturn => exact (execNodeRemoteReturn_leavesMem _ _ _).canon h
  case walkLink => exact (execWalkLink_leavesMem _ _ _).canon h
  case scfgCheckDone => exact (execScfgCheckDone_leavesMem _ _ _).canon h
  case scfgLoadDone => exact (execScfgLoadDone_leavesMem _ _ _).canon h
  case streamRelease => exact (execStreamRelease_leavesMem _ _ _).canon h
  case loaderReadReturn => exact (execLoaderReadReturn_leavesMem _ _ _).canon h
  case sinkCellConsume => exact (execSinkCellConsume_leavesMem _ _ _).canon h
  case streamComplete => exact (execStreamComplete_leavesMem _ _ _).canon h
  case meJobQueueFree => exact (execMeJobQueueFree_leavesMem _ _ _).canon h
  case meFire => exact (execMeFire_leavesMem _ _).canon h
  case meDrainRow => exact (execMeDrainRow_leavesMem _ _).canon h
  case meZeroRow => exact (execMeZeroRow_leavesMem _ _).canon h
  case mePanelCell => exact (execMePanelCell_leavesMem _ _ _).canon h
  case mePreload => exact (execMePreload_leavesMem _ _ _).canon h
  case meSteerToken => exact (execMeSteerToken_leavesMem _ _ _).canon h
  case mePassBoundary => exact (execMePassBoundary_leavesMem _ _).canon h
  case meDrnDiscard => exact (execMeDrnDiscard_leavesMem _ _ _).canon h
  case adapterFactorCell => exact (execAdapterFactorCell_leavesMem _ _ _).canon h
  case rbLoadCell => exact (execRbLoadCell_leavesMem _ _).canon h
  case rbLoadDone => exact (execRbLoadDone_leavesMem _ _).canon h
  case rbInput => exact (execRbInput_leavesMem _ _).canon h
  case rbEvalGroup => exact (execRbEvalGroup_leavesMem _ _).canon h
  case rbOutput => exact (execRbOutput_leavesMem _ _).canon h
  case rbRunDone => exact (execRbRunDone_leavesMem _ _).canon h
  case rbContextSwitch => exact (execRbContextSwitch_leavesMem _ _).canon h
  case rbModeApply => exact (execRbModeApply_leavesMem _ _).canon h
  case rbPassBoundary => exact (execRbPassBoundary_leavesMem _ _).canon h
  case rbDrnDiscard => exact (execRbDrnDiscard_leavesMem _ _ _).canon h
  case overloadDetect => exact (execOverloadDetect_leavesMem _ _ _).canon h
  case underloadDetect => exact (execUnderloadDetect_leavesMem _ _ _).canon h
  case oxbowApproval => exact (execOxbowApproval_leavesMem _ _ _).canon h
  case oxbowRefusal => exact (execOxbowRefusal_leavesMem _ _ _).canon h
  case splHead => exact (execSplHead_leavesMem _ _ _).canon h
  case oxbowSwitch => exact (execOxbowSwitch_leavesMem _ _ _).canon h
  case oxbowForward => exact (execOxbowForward_leavesMem _ _ _).canon h
  case rdeInject => exact (execRdeInject_leavesMem _ _ _).canon h
  case rdeConsumed => exact (execRdeConsumed_leavesMem _ _ _).canon h
  case holdRelease => exact (execHoldRelease_leavesMem _ _ _).canon h
  case mergeStart => exact (execMergeStart_leavesMem _ _ _).canon h
  case twinQuiescent => exact (execTwinQuiescent_leavesMem _ _ _).canon h
  case descriptorReadDone => exact (execDescriptorReadDone_leavesMem _ _ _).canon h
  case elementDrain => exact (execElementDrain_leavesMem _ _ _).canon h
  case cellAdmit => exact (execCellAdmit_leavesMem _ _ _).canon h
  case weirMatch => exact (execWeirMatch_leavesMem _ _).canon h
  case cellDelivery => exact (execCellDelivery_leavesMem _ _ _).canon h
  case rdvSetRelease => exact (execRdvSetRelease_leavesMem _ _ _).canon h
  case rdvStallFault => exact (execRdvStallFault_leavesMem _ _ _).canon h
  case loopFault => exact (execLoopFault_leavesMem _ _ _).canon h
  case crossbarArrival => exact (execCrossbarArrival_leavesMem _ _ _).canon h
  case crossbarFanout => exact (execCrossbarFanout_leavesMem _ _ _).canon h
  case raceScore => exact (execRaceScore_leavesMem _ _ _).canon h
  case gateFire => exact (execGateFire_leavesMem _ _ _).canon h
  case bankDrn => exact (execBankDrn_leavesMem _ _ _).canon h
  case bankSreadRead => exact (execBankSreadRead_leavesMem _ _ _).canon h
  case patrolRead => exact (execPatrolRead_leavesMem _ _ _).canon h
  case faultRecordPost => exact (execFaultRecordPost_leavesMem _ _).canon h
  case wdogExpire => exact (execWdogExpire_leavesMem _ _).canon h
  case taskStop => exact (execTaskStop_leavesMem _ _).canon h
  case launchReservation => exact (execLaunchReservation_leavesMem _).canon h
  case taskEnd => exact (execTaskEnd_leavesMem _ _).canon h
  case attestationRead => exact (execAttestationRead_leavesMem _ _ _).canon h
  case submitLaunch => exact (execSubmitLaunch_leavesMem _ _ _).canon h
  case timeMessage => exact (execTimeMessage_leavesMem _ _ _ _).canon h
  case roundVoid => exact (execRoundVoid_leavesMem _ _ _).canon h
  case roundTimeout => exact (execRoundTimeout_leavesMem _ _ _).canon h
  case debugRequest => exact (execDebugRequest_leavesMem _ _ _).canon h
  case debugHostCommand => exact (execDebugHostCommand_leavesMem _ _ _).canon h
  case debugOutput => exact (execDebugOutput_leavesMem _ _).canon h
  case frameDiscard => exact (execFrameDiscard_leavesMem _ _ _).canon h
  case thermalReading => exact (execThermalReading_leavesMem _ _ _ _ _).canon h
  case thermalTrip => exact (execThermalTrip_leavesMem _ _).canon h
  case thermalTripClear => exact (execThermalTripClear_leavesMem _ _).canon h
  case powerOnBoot => exact (execPowerOnBoot_leavesMem _).canon h
  case firmwareModuleLoad => exact (execFirmwareModuleLoad_leavesMem _ _).canon h
  case spareBringIn => exact (execSpareBringIn_leavesMem _ _).canon h
  case firmwarePolicySet => exact (execFirmwarePolicySet_leavesMem _ _).canon h
  case datagramDiscard => exact (execDatagramDiscard_leavesMem _ _).canon h
  case storePerformed => exact canonOut_storePerformed h _
  case poolAccessDone => exact canonOut_poolAccessDone h _ _
  case amoPerformed => exact canonOut_amoPerformed h _ _
  case pageWalk => exact canonOut_pageWalk h _ _
  case bindSlotTaken => exact canonOut_bindSlotTaken h _ _
  case spliceDone => exact canonOut_spliceDone h _ _
  case loaderReadIssue => exact canonOut_loaderReadIssue h _ _
  case sinkWritePerformed => exact canonOut_sinkWritePerformed h _ _
  case adapterFetch => exact canonOut_adapterFetch h _
  case cloneDone => exact canonOut_cloneDone h _ _
  case mergeDone => exact canonOut_mergeDone h _ _
  case gangStart => exact canonOut_gangStart h
  case firstIssue => exact canonOut_firstIssue h _
  case sluiceRead => exact canonOut_sluiceRead h _ _
  case sluiceWrite => exact canonOut_sluiceWrite h _ _
  case submitGraph => exact canonOut_submitGraph h _ _
  case roundData => exact canonOut_roundData h _ _
  case roundCommit => exact canonOut_roundCommit h _ _
  case peerCellSend => exact canonOut_peerCellSend h _ _
  case launchRecordQueued => exact canonOut_launchRecordQueued h _ _
  case bankWrite | bankRead | bankAdd | bankFxadd | bankMin | bankMax | bankTasb | bankCas | bankXchg | bankGather | bankScatter |
      bankZero | bankOwn =>
    exact canonOut_next.2 (canonical_bankCop h ..)

theorem canonOut_exec {s : State} (h : Canonical s.mem) (i : Instr) : CanonOut (exec i s) := by
  cases hi : i.event? with
  | none => exact (exec_leavesMem i s hi).canon h
  | some e => exact exec_event i e s hi ▸ canonOut_runEvent h e

end Sys2Proof.Machine
end

section
/-! SUPPORT. Both memories keep their canonical form over every step, from every state (O7). -/

namespace Sys2Proof.Machine

/-! ## One step -/

@[simp] theorem canonOut_refused (r : Refusal) : CanonOut (.refused r) := by simp [CanonOut]

@[simp] theorem State.mem_with_slot (s : State) (n : Nat) : State.mem { s with slot := n } = s.mem := rfl

section step
variable {s : State} (h : Canonical s.mem)
include h

theorem canonOut_runWord (w : Nat) : CanonOut (s.runWord w) := by
  unfold State.runWord
  split <;> exact canonOut_exec h _

theorem canonOut_runEntry (w : Nat) : CanonOut (s.runEntry w) := by
  unfold State.runEntry
  refine .ite ?_ (canonOut_exec h _)
  split <;> exact canonOut_exec h _

theorem canonOut_issueWord (c : CoreId) (t : Tid) (w : Nat) : CanonOut (s.issueWord c t w) := by
  have hw := canonOut_runWord (s := { (s.modCore c (fun x => x.tookIssue t s.slot)) with cur := (c, t) }) h w
  unfold State.issueWord
  split
  · next u e => exact canonOut_next.2 ((hw u e).of_mem (u.mem_modThr ..))
  · simp
  · simp

omit h in
theorem canonOut_issueFrom (c : CoreId) (n : Nat) : ∀ s : State, Canonical s.mem → CanonOut (s.issueFrom c n) := by
  induction n with
  | zero => intro s h; exact canonOut_next.2 h
  | succ n ih =>
    intro s h
    unfold State.issueFrom
    split
    · exact canonOut_next.2 h
    · split
      · exact ih _ (h.of_mem (State.mem_modThr ..))
      · exact ih _ (h.of_mem (State.mem_modThr ..))
      · exact canonOut_issueWord h _ _ _

theorem canonOut_fireElem (c : CoreId) (e : ElemId) : CanonOut (s.fireElem c e) := by
  unfold State.fireElem
  split
  · exact canonOut_next.2 h
  · exact canonOut_runEntry (h.of_mem (s.mem_with_fire _)) _

theorem canonOut_act (a : Act) : CanonOut (s.act a) := by
  cases a with
  | issue c => exact canonOut_issueFrom c 16 s h
  | fire c e => exact .ite (canonOut_next.2 h) (canonOut_fireElem h c e)
  | ev e => exact .ite (canonOut_next.2 h) (canonOut_runEvent h e)
  | upset u => exact canonOut_next.2 (h.of_mem (s.mem_upset u))

theorem canonical_tickCore (c : CoreId) : Canonical (s.tickCore c).mem := by
  unfold State.tickCore
  extract_lets loaded written timed entered fired forwarded stored banked taken was y counted
  have hf : Canonical fired.mem := h.of_mem (by simp [fired, entered, timed, written, loaded])
  have hn : Canonical forwarded.mem := hf.of_mem (mem_foldl _ (fun s n => s.mem_netForward c n) _ _)
  have hd : Canonical stored.mem := hn.of_mem (mem_foldl _ (fun s q => s.mem_storeDrn c q) _ _)
  have hb : Canonical banked.mem := canonical_foldl _ (fun t b ht => canonical_sysPath ht c b) _ _ hd
  have hc : Canonical counted.mem := hb.of_mem (by simp [counted, taken])
  split
  · exact .ite hc (hc.of_mem (by simp))
  · exact hc

omit h in
theorem State.mem_nextSlot : (State.mark { s with slot := s.slot + 1 }).nextAgenda.mem = s.mem := by simp

omit h in
/-- What follows the cores' part of the slot's end leaves both memories. -/
theorem State.mem_tick : s.tick.mem = ((List.finRange 64).foldl (fun s c => s.tickCore c) s).mem := by
  unfold State.tick
  generalize List.foldl _ s (List.finRange 64) = u
  calc _ = _ := State.mem_nextSlot
    _ = _ := State.mem_throttleTick _
    _ = _ := State.mem_timeTick _
    _ = _ := State.mem_ageHeads _
    _ = _ := State.mem_wdogTick _
    _ = _ := State.mem_ringTick _

theorem canonical_tick : Canonical s.tick.mem := by
  have hc := canonical_foldl _ (fun t c ht => canonical_tickCore ht c) (List.finRange 64) s h
  exact hc.of_mem State.mem_tick

end step

theorem canonOut_step {s : State} (h : Canonical s.mem) : CanonOut (step s) := by
  cases e : s.agenda with
  | nil => rw [step_nil s e]; exact canonOut_next.2 (canonical_tick h)
  | cons a r => rw [step_cons s a r e]; exact canonOut_act (h.of_mem (s.mem_with_agenda r)) a

/-- Settles O7: an act runs an instruction or an event, and each of these and the slot's end keeps the canonical form. -/
theorem stepKeepsMemory : Obligations.StepKeepsMemory := by
  intro s t h e
  rw [State.memWf_iff] at h ⊢
  exact canonOut_step h t e

end Sys2Proof.Machine
end

section
/-! SUPPORT. A buffered store is performed (O28). -/

namespace Sys2Proof.Machine

/-! ## A buffered store is performed -/

theorem State.core_hbmStore (s : State) (a n v : Nat) (k : CoreId) : (s.hbmStore a n v).core k = s.core k := rfl

/-- The waiting threads do not depend on the buffer. -/
theorem Core.storeWaiter?_with_wbuf (x : Core) (r : List BufStore) : Core.storeWaiter? { x with wbuf := r } = x.storeWaiter? := rfl

/-- The state in which the oldest store is performed and has left the buffer. -/
def State.storeOut (s : State) (c : CoreId) (b : BufStore) (r : List BufStore) : State :=
  (s.hbmStore b.pa b.w b.v.toNat).setCore c { (s.core c) with wbuf := r }

/-- The core when a waiting store has taken the freed place, and its thread goes on. -/
def Core.takePlace (x : Core) (k : Tid) (va pa w : Nat) (v : Word) (slot : Nat) : Core :=
  let y := (x.bufferStore k va pa w v).dequeueWait k
  y.setThr k ((y.thr k).next.wake slot)

section store
variable {s : State} {c : CoreId} {b : BufStore} {r : List BufStore} (hb : (s.core c).wbuf = b :: r)
include hb

theorem execStorePerformed_of_no_waiter (hn : (s.core c).storeWaiter? = none) : execStorePerformed c s = .next (s.storeOut c b r) := by
  simp only [execStorePerformed, hb, State.modCore_eq, State.core_setCore, State.core_hbmStore, Core.storeWaiter?_with_wbuf, hn]
  rfl

theorem execStorePerformed_of_waiter {k : Tid} {va pa w : Nat} {v : Word} (hw : (s.core c).storeWaiter? = some (k, va, pa, w, v)) :
    execStorePerformed c s = .next ((s.storeOut c b r).setCore c (Core.takePlace { (s.core c) with wbuf := r } k va pa w v s.slot)) := by
  simp only [execStorePerformed, hb, State.modCore_eq, State.core_setCore, State.core_hbmStore, Core.storeWaiter?_with_wbuf, hw,
    State.finish, State.modThr_eq]
  simp [State.storeOut, Core.takePlace]
  rfl

end store

/-- Settles O28: with or without a waiting store, HBM is what writeN leaves and only this core changes. -/
theorem storePerformed : Obligations.StorePerformed := by
  intro s c b r hb hm
  have hbytes := Memory.get_writeN b.w b.pa b.v.toNat s.hbm ((State.memWf_iff s).1 hm).1
  cases hw : (s.core c).storeWaiter? with
  | none =>
    refine ⟨_, execStorePerformed_of_no_waiter hb hw, hbytes, rfl, fun k hk => State.core_setCore_ne _ _ _ _ hk, fun _ => ?_, by simp⟩
    simp [State.storeOut]
  | some z =>
    obtain ⟨k, va, pa, w, v⟩ := z
    refine ⟨_, execStorePerformed_of_waiter hb hw, hbytes, rfl, fun k hk => ?_, by simp, ?_⟩
    · rw [State.core_setCore_ne _ _ _ _ hk, State.storeOut, State.core_setCore_ne _ _ _ _ hk, State.core_hbmStore]
    · rintro _ _ _ _ _ ⟨⟩
      exact ⟨by simp [Core.takePlace, Core.bufferStore, Core.dequeueWait], by simp [Core.takePlace, Thread.wake]⟩

end Sys2Proof.Machine
end

section
/-! SUPPORT. MTS and an event's own write of a special register (O25). -/

namespace Sys2Proof.Machine

open Sys2Proof.Claims

/-! ## The traps of a special register's write -/

theorem illEval_of_lt {word cause : Nat} (hw : word < 2 ^ 32) (hc : cause < 4) :
    illEval word cause = BitVec.ofNat 64 (word + cause * 2 ^ 32) := by
  unfold illEval
  congr 1
  omega

theorem does_ill {i : Instr} {s : State} {word cause : Nat} (h : exec i s = .next (s.ill i cause)) (he : encode i = some word)
    (hw : word < 2 ^ 32) (hc : cause < 4) :
    Does i s (fun s t => TookTrap s t s.cur.1 s.cur.2 kILL (BitVec.ofNat 64 (word + cause * 2 ^ 32)) s.me.pc) := by
  refine ⟨_, h, ?_⟩
  rw [State.ill, he, Option.getD_some, illEval_of_lt hw hc]
  exact tookTrap_trap s _ _

/-! ## A write of the executing thread's own core -/

theorem State.skip_setCore (s : State) (x : Core) :
    (s.setCore s.cur.1 x).skip = s.setCore s.cur.1 (x.setThr s.cur.2 (x.thr s.cur.2).next) := by
  simp [State.skip, State.modMe_eq]

theorem onlyCore_skip (s : State) (x : Core) : OnlyCore s.cur.1 s (s.setCore s.cur.1 x).skip := by
  rw [State.skip_setCore]; exact onlyCore_setCore _ _ _

theorem core_skip (s : State) (x : Core) :
    (s.setCore s.cur.1 x).skip.core s.cur.1 = x.setThr s.cur.2 (x.thr s.cur.2).next := by
  rw [State.skip_setCore, State.core_setCore]

theorem me_skip_self (s : State) : s.skip.me = { s.me with pc := s.me.pc + 4 } := State.me_modMe _ _

theorem me_skip (s : State) (x : Core) (hx : x.thr s.cur.2 = s.me) :
    (s.setCore s.cur.1 x).skip.me = { s.me with pc := s.me.pc + 4 } := by
  rw [State.skip_setCore, State.me_setCore, Core.thr_setThr, hx, Thread.next]

/-- A write of the executing thread and the step to the next word are one change of the thread. -/
theorem State.skip_modCore_modThr (s : State) (f : Thread → Thread) :
    (s.modCore s.cur.1 (fun x => x.modThr s.cur.2 f)).skip = s.modMe (fun t => (f t).next) := by
  simp [State.skip_setCore, State.modMe_eq]

/-! ## MTS of a register without a row of its own -/

section mts
variable {a r : BitVec 5} {s : State}

theorem exec_mts_of_unlisted (hl : sregListed r = false) : exec (.mts a r) s = .next (s.ill (.mts a r) 0) := by
  show execMts a r s = _
  simp [execMts, hl]

theorem exec_mts_of_cause {k : Nat} (hl : sregListed r = true) (hc : mtsCause r s.me.cm = some k) :
    exec (.mts a r) s = .next (s.ill (.mts a r) k) := by
  show execMts a r s = _
  simp [execMts, hl, hc]

theorem exec_mts_of_written (hl : sregListed r = true) (hc : mtsCause r s.me.cm = none) :
    exec (.mts a r) s = .next (s.modCore s.cur.1 (fun x => x.writeSreg s.cur.2 r (s.me.rd a))).skip := by
  show execMts a r s = _
  simp [execMts, hl, hc]

theorem does_mts_ill {k : Nat} (h : exec (.mts a r) s = .next (s.ill (.mts a r) k)) (hk : k < 4) :
    Does (.mts a r) s (fun s t =>
      TookTrap s t s.cur.1 s.cur.2 kILL (BitVec.ofNat 64 (0xC0 + a.toNat * 2 ^ 16 + r.toNat * 2 ^ 11 + k * 2 ^ 32)) s.me.pc) :=
  does_ill h rfl (by omega) hk

/-- MTS of a register that the thread holds changes the thread alone: f makes y of it. -/
theorem does_mts_thread (hl : sregListed r = true) (hc : mtsCause r s.me.cm = none) (f : Thread → Thread)
    (hf : ∀ x : Core, x.writeSreg s.cur.2 r (s.me.rd a) = x.modThr s.cur.2 f) {y : Thread} (hy : f s.me = y) (hpc : y.pc = s.me.pc) :
    Does (.mts a r) s (fun s t => OnlyMe s t ∧ t.me = { y with pc := s.me.pc + 4 }) := by
  subst hy
  refine ⟨_, exec_mts_of_written hl hc, ?_⟩
  simp only [hf, State.skip_modCore_modThr]
  exact ⟨onlyMe_modMe s _, by rw [State.me_modMe, Thread.next, hpc]⟩

end mts

theorem mtsCause_of_readOnly {r : BitVec 5} (h : sregReadOnly r = true) (cm : Bool) : mtsCause r cm = some 2 := by simp [mtsCause, h]

theorem sregReadOnly_of {r : BitVec 5} (h : r.toNat ≤ 4 ∨ r = 6 ∨ r = 8) : sregReadOnly r = true := by
  rcases h with h | rfl | rfl
  · simp [sregReadOnly, h]
  · rfl
  · rfl

theorem sregListed_of_readOnly {r : BitVec 5} (h : sregReadOnly r = true) : sregListed r = true := by
  simp only [sregReadOnly, sregListed, Bool.or_eq_true, decide_eq_true_eq] at h ⊢
  omega

/-- PTBASE takes the register's bits from 16 on. -/
theorem ofNat_getBits_ptbase (v : Word) : BitVec.ofNat 28 (getBits v 16 28) = BitVec.ofNat 28 (v.toNat / 2 ^ 16) :=
  BitVec.eq_of_toNat_eq (by simp [getBits])

theorem Thread.setStatus_controller {t : Thread} (h : t.cm = true) (v : Word) :
    t.setStatus v = { t with fxsat := v.getLsbD 4, be := v.getLsbD 3, exl := v.getLsbD 1 } := by
  simp [Thread.setStatus, h]

theorem Thread.setStatus_task {t : Thread} (h : t.cm = false) (v : Word) : t.setStatus v = { t with fxsat := v.getLsbD 4 } := by
  simp [Thread.setStatus, h]

theorem writeRegisters : WriteRegisters := by
  intro s a r
  refine ⟨fun hl => ?_, fun hr => ?_, ?_, ?_, ?_, ?_, ?_, ?_, ?_, ?_, ?_⟩
  · exact does_mts_ill (exec_mts_of_unlisted hl) (by decide)
  · have ho := sregReadOnly_of hr
    exact does_mts_ill (exec_mts_of_cause (sregListed_of_readOnly ho) (mtsCause_of_readOnly ho _)) (by decide)
  · intro hr hm
    refine does_mts_ill (exec_mts_of_cause ?_ ?_) (by decide)
    · rcases hr with rfl | rfl | rfl | rfl <;> rfl
    · rw [hm]; rcases hr with rfl | rfl | rfl | rfl <;> rfl
  · rintro rfl hm
    exact does_mts_ill (exec_mts_of_cause rfl (by rw [hm]; rfl)) (by decide)
  · rintro rfl hm
    exact does_mts_thread rfl (by rw [hm]; rfl) (fun y => { y with role := (s.me.rd a).setWidth 2 }) (fun _ => rfl) rfl rfl
  · rintro rfl hm
    exact does_mts_thread rfl (by rw [hm]; rfl) (fun y => y.setStatus (s.me.rd a)) (fun _ => rfl) (Thread.setStatus_controller hm _) rfl
  · rintro rfl hm
    exact does_mts_thread rfl (by rw [hm]; rfl) (fun y => y.setStatus (s.me.rd a)) (fun _ => rfl) (Thread.setStatus_task hm _) rfl
  · rintro rfl hm
    exact does_mts_thread rfl (by rw [hm]; rfl) (fun y => { y with epc := (s.me.rd a).setWidth 55 &&& ~~~3 }) (fun _ => rfl) rfl rfl
  · rintro rfl hm
    exact does_mts_thread rfl (by rw [hm]; rfl) (fun y => { y with ecause := (s.me.rd a).setWidth 8 }) (fun _ => rfl) rfl rfl
  · rintro rfl hm
    exact does_mts_thread rfl (by rw [hm]; rfl) (fun y => { y with eval := s.me.rd a &&& 0x037FFFFFFFFFFFFF }) (fun _ => rfl) rfl rfl
  · rintro rfl hm
    refine ⟨_, exec_mts_of_written rfl (by rw [hm]; rfl), onlyCore_skip _ _, ?_, me_skip _ _ rfl⟩
    rw [State.modCore_eq, core_skip]
    exact ofNat_getBits_ptbase _

/-! ## MTS TIME, AGELIM, SPILL and WDOG -/

section windows
variable {a : BitVec 5} {s : State}

/-- In task mode each of the four is illegal. -/
theorem writeWindows_task (hm : s.me.cm = false) :
    exec (.mtsTime a) s = .next (s.ill (.mtsTime a) 2) ∧ exec (.mtsAgelim a) s = .next (s.ill (.mtsAgelim a) 1) ∧
    exec (.mtsSpill a) s = .next (s.ill (.mtsSpill a) 1) ∧ exec (.mtsWdog a) s = .next (s.ill (.mtsWdog a) 1) := by
  refine ⟨?_, ?_, ?_, ?_⟩
  · show execMtsTime a s = _
    rw [execMtsTime, hm]; rfl
  · show execMtsAgelim a s = _
    rw [execMtsAgelim, hm]; rfl
  · show execMtsSpill a s = _
    rw [execMtsSpill, hm]; rfl
  · show execMtsWdog a s = _
    rw [execMtsWdog, hm]; rfl

theorem exec_mtsTime (hm : s.me.cm = true) : exec (.mtsTime a) s = .next (State.skip { s with timeStep := some (s.me.rd a) }) := by
  show execMtsTime a s = _
  rw [execMtsTime, hm]; rfl

theorem exec_mtsAgelim (hm : s.me.cm = true) : exec (.mtsAgelim a) s =
    .next (s.setCore s.cur.1 { (s.core s.cur.1) with agelimNext := some (clampAgelim ((s.me.rd a).toNat % 65536)) }).skip := by
  show execMtsAgelim a s = _
  rw [execMtsAgelim, hm]; rfl

/-- The core with a port's bucket written and the port selected. -/
def Core.writeSpill (x : Core) (v : Word) : Core :=
  { (x.modIng (getBits v 0 7) (fun g => { g with bucket := g.bucket.write (getBits v 0 7) (getBits v 8 11) (getBits v 32 16) })) with
    spillSel := BitVec.ofNat 7 (getBits v 0 7) }

theorem exec_mtsSpill (hm : s.me.cm = true) :
    exec (.mtsSpill a) s = .next (s.setCore s.cur.1 ((s.core s.cur.1).writeSpill (s.me.rd a))).skip := by
  show execMtsSpill a s = _
  rw [execMtsSpill, hm]; rfl

/-- The task's watchdog written, at most the record's cycle limit. -/
def Task.writeWdog (t : Task) (n : Nat) : Task := { t with wdogNext := some (min n t.lrec.limit) }

theorem exec_mtsWdog (hm : s.me.cm = true) {k : Task} (hk : s.taskOf s.cur.1 = some k) :
    exec (.mtsWdog a) s = .next (s.modTask k.lrec.id (fun y => y.writeWdog (s.me.rd a).toNat)).skip := by
  show execMtsWdog a s = _
  rw [execMtsWdog, hm, hk]; rfl

end windows

theorem State.taskOf_skip (s : State) (c : CoreId) : s.skip.taskOf c = s.taskOf c := by
  have h : (s.skip.core c).task = (s.core c).task := by
    rw [State.skip, State.modMe_eq, State.core_setCore_if]
    split
    · next e => rw [e, Core.setThr_task]
    · rfl
  unfold State.taskOf
  rw [h]
  rfl

theorem State.taskOf_of_task {s : State} {c : CoreId} {id : TaskId} (h : (s.core c).task = some id) : s.taskOf c = s.taskById id := by
  unfold State.taskOf; rw [h]; rfl

theorem State.task_of_taskOf {s : State} {c : CoreId} {k : Task} (h : s.taskOf c = some k) : ∃ id, (s.core c).task = some id := by
  cases e : (s.core c).task with
  | none => unfold State.taskOf at h; rw [e] at h; cases h
  | some id => exact ⟨id, rfl⟩

/-- A write of a task that keeps its record is seen in the task of a core. -/
theorem State.taskOf_modTask (s : State) (c : CoreId) {k : Task} (hk : s.taskOf c = some k) (f : Task → Task)
    (hf : ∀ t, (f t).lrec = t.lrec) : (s.modTask k.lrec.id f).taskOf c = some (f k) := by
  obtain ⟨id, e⟩ := State.task_of_taskOf hk
  have hid : (fun t => decide (t.lrec.id = id)) ∘ (fun t => if t.lrec.id = k.lrec.id then f t else t) =
      fun t => decide (t.lrec.id = id) := by
    funext t
    dsimp only [Function.comp]
    split <;> simp [hf]
  rw [State.taskOf_of_task e, State.taskById] at hk
  rw [State.taskOf_of_task (s := s.modTask k.lrec.id f) e, State.taskById, State.modTask, List.find?_map, hid, hk]
  simp

theorem clampAgelim_eq (n : Nat) : clampAgelim n = BitVec.ofNat 16 (max 16 n) := by
  unfold clampAgelim
  congr 1
  split <;> omega

theorem Bucket.write_of_ceiling (b : Bucket) {p rc dc : Nat} (h : bucketCeiling p = some (rc, dc)) (rate depth : Nat) :
    b.write p rate depth = { b with late := some (min rate rc, min (max depth 1) dc) } := by
  simp [Bucket.write, h]

theorem getBits_port (v : Word) : getBits v 0 7 = v.toNat % 128 := by simp [getBits]

theorem ofNat_getBits_port (v : Word) : BitVec.ofNat 7 (getBits v 0 7) = v.setWidth 7 :=
  BitVec.eq_of_toNat_eq (by simp [getBits])

theorem Core.ingAt_setThr (x : Core) (t : Tid) (y : Thread) (p : Nat) : (x.setThr t y).ingAt p = x.ingAt p := rfl

theorem Core.writeSpill_ingAt (x : Core) (v : Word) :
    (x.writeSpill v).ingAt (getBits v 0 7) =
      { x.ingAt (getBits v 0 7) with
        bucket := (x.ingAt (getBits v 0 7)).bucket.write (getBits v 0 7) (getBits v 8 11) (getBits v 32 16) } :=
  vmod_same _ _ _ _ (Nat.mod_lt _ (by decide))

theorem writeWindows : WriteWindows := by
  intro s a
  refine ⟨fun hm => ?_, fun hm => ⟨?_, ?_, ?_, fun k hk => ?_⟩, ?_, ?_, ?_⟩
  · obtain ⟨ht, hl, hs, hw⟩ := writeWindows_task (a := a) hm
    exact ⟨does_ill ht (congrArg some (by omega)) (by omega) (by decide), does_ill hl (congrArg some (by omega)) (by omega) (by decide),
      does_ill hs (congrArg some (by omega)) (by omega) (by decide), does_ill hw (congrArg some (by omega)) (by omega) (by decide)⟩
  · exact ⟨_, exec_mtsTime hm, rfl, me_skip_self _, SameMem.of_eq rfl rfl⟩
  · refine ⟨_, exec_mtsAgelim hm, onlyCore_skip _ _, ?_, me_skip _ _ rfl⟩
    rw [core_skip]
    exact congrArg some (clampAgelim_eq _)
  · refine ⟨_, exec_mtsSpill hm, onlyCore_skip _ _, ?_, me_skip _ _ rfl, fun rc dc hc => ?_⟩
    · rw [core_skip]
      exact ofNat_getBits_port _
    · rw [← getBits_port] at hc ⊢
      rw [core_skip, Core.ingAt_setThr, Core.writeSpill_ingAt, Bucket.write_of_ceiling _ hc]
      rfl
  · refine ⟨_, exec_mtsWdog hm hk, me_skip_self _, SameMem.of_eq rfl rfl, fun k' hk' => ?_⟩
    rw [State.taskOf_skip, State.taskOf_modTask s _ hk (fun y => y.writeWdog (s.me.rd a).toNat) (fun _ => rfl)] at hk'
    cases hk'
    exact ⟨rfl, rfl⟩
  · intro z n hp hn
    simp [Task.wdogTick, hp, hn]
  · intro z hp hn
    simp [Task.wdogTick, hp, hn]
  · intro b r d k trip hl
    simp [Bucket.tick, Bucket.gain, hl]

/-! ## An event's own write -/

theorem does_regWrite_thread (s : State) (c : CoreId) (k : Tid) (r : BitVec 5) (v : Word) (f : Thread → Thread)
    (hf : ∀ x : Core, x.writeSreg k r v = x.modThr k f) :
    Does (.regWrite c k r v) s (fun s t => OnlyThread c k s t ∧ t.thr c k = f (s.thr c k)) := by
  refine ⟨_, rfl, ?_⟩
  simp only [hf]
  exact ⟨onlyThread_modThr s c k f, by simp [State.thr]⟩

theorem registerEvent : RegisterEvent := by
  intro s c k v
  refine ⟨?_, ?_, _, rfl, onlyCore_setCore s c _, ?_⟩
  · exact does_regWrite_thread s c k 11 v (fun y => { y with ecause := v.setWidth 8 }) (fun _ => rfl)
  · exact does_regWrite_thread s c k 10 v (fun y => { y with epc := v.setWidth 55 &&& ~~~3 }) (fun _ => rfl)
  · rw [State.modCore_eq, State.core_setCore]
    exact ofNat_getBits_ptbase v

/-- Settles O25: each register's own write, the ILL causes by mode, and the counts of the next slot. -/
theorem writeSpecial : Obligations.WriteSpecial := ⟨writeRegisters, writeWindows, registerEvent⟩

end Sys2Proof.Machine
end

section
/-! SUPPORT. No instruction, no event and no step refuses (O6). Each proof opens the branches of one meaning: at every branch stands a next state
or a fault. -/

namespace Sys2Proof.Machine

/-- An outcome that is no refusal. -/
def Answers (o : Out) : Prop := ∀ r, o ≠ .refused r

@[simp] theorem answers_next (t : State) : Answers (.next t) := by simp [Answers]

@[simp] theorem answers_fault (f : Fault) : Answers (.fault f) := by simp [Answers]

theorem Answers.ite {p : Prop} [Decidable p] {a b : Out} (ha : Answers a) (hb : Answers b) : Answers (if p then a else b) := by
  split <;> assumption

/-! ## Meanings in parts -/

@[simp] theorem answers_walkThread (s : State) (c : CoreId) (t : Tid) : Answers (s.walkThread c t) := by
  unfold State.walkThread; dsimp only; (repeat' split) <;> simp

@[simp] theorem answers_sendAgain (s : State) (c : CoreId) (k : StrmId) (e : Edge) (link : LinkId) (m : Nat) (rest : List Nat) :
    Answers (s.sendAgain c k e link m rest) := by
  unfold State.sendAgain; dsimp only; (repeat' split) <;> simp

@[simp] theorem answers_sendNew (s : State) (c : CoreId) (k : StrmId) (e : Edge) (link : LinkId) (cell : Cell) (rest : List Cell) :
    Answers (s.sendNew c k e link cell rest) := by
  unfold State.sendNew; dsimp only; (repeat' split) <;> simp

@[simp] theorem answers_landNext (s : State) (c : CoreId) (k : StrmId) (e : Edge) : Answers (s.landNext c k e) := by
  unfold State.landNext; dsimp only; (repeat' split) <;> simp

@[simp] theorem answers_commitRow (s : State) (c : CoreId) (k : StrmId) (e : Edge) : Answers (s.commitRow c k e) := by
  unfold State.commitRow; dsimp only; (repeat' split) <;> simp

@[simp] theorem answers_commitLog (s : State) (c : CoreId) (k : StrmId) (e : Edge) : Answers (s.commitLog c k e) := by
  unfold State.commitLog; dsimp only; (repeat' split) <;> simp

@[simp] theorem answers_edgeTake (s : State) (c : CoreId) (t : Tid) (d : BitVec 512) (entry : BitVec 8) (tag : BitVec 6) (word : Nat) :
    Answers (s.edgeTake c t d entry tag word) := by
  unfold State.edgeTake; dsimp only; (repeat' split) <;> simp

@[simp] theorem answers_fetchCell (s : State) (c : CoreId) (v : Bool) (i : Nat) (f : Fetch) : Answers (s.fetchCell c v i f) := by
  unfold State.fetchCell; dsimp only; (repeat' split) <;> simp

@[simp] theorem answers_fetchSide (s : State) (c : CoreId) (v : Bool) : Answers (s.fetchSide c v) := by
  unfold State.fetchSide; dsimp only; (repeat' split) <;> simp

/-! ## Meanings that end in a part -/

theorem answers_execPageWalk (c : CoreId) (who : Walker) (s : State) : Answers (execPageWalk c who s) := by
  unfold execPageWalk; dsimp only; (repeat' split) <;> simp

theorem answers_execPeerCellSend (c : CoreId) (k : StrmId) (s : State) : Answers (execPeerCellSend c k s) := by
  unfold execPeerCellSend; dsimp only; (repeat' split) <;> simp

theorem answers_execRoundData (link : LinkId) (m : Datagram) (s : State) : Answers (execRoundData link m s) := by
  unfold execRoundData; dsimp only; (repeat' split) <;> simp

theorem answers_execRoundCommit (c : CoreId) (k : StrmId) (s : State) : Answers (execRoundCommit c k s) := by
  unfold execRoundCommit; dsimp only; (repeat' split) <;> simp

theorem answers_execBindSlotTaken (c : CoreId) (t : Tid) (s : State) : Answers (execBindSlotTaken c t s) := by
  unfold execBindSlotTaken; (repeat' split) <;> simp

theorem answers_execAdapterFetch (c : CoreId) (s : State) : Answers (execAdapterFetch c s) := by
  unfold execAdapterFetch
  refine .ite (answers_next _) ?_
  split
  · exact answers_fetchSide _ _ _
  · exact answers_fetchSide _ _ _

theorem answers_execMeFire (c : CoreId) (s : State) : Answers (execMeFire c s) := by
  unfold execMeFire
  dsimp only
  split
  · exact answers_next _
  · refine .ite (answers_next _) (.ite (answers_next _) ?_)
    split
    · exact answers_next _
    · refine .ite (answers_next _) (.ite (answers_next _) (.ite (answers_next _) (.ite (answers_next _) (.ite (answers_next _)
        (.ite (answers_next _) (.ite ?_ (answers_next _)))))))
      split
      · exact answers_next _
      · exact .ite (answers_next _) (answers_next _)

theorem answers_execLaunchRecordQueued (c : CoreId) (t : Tid) (s : State) : Answers (execLaunchRecordQueued c t s) := by
  unfold execLaunchRecordQueued
  split
  · refine .ite (answers_next _) ?_
    extract_lets +onlyGivenNames u bs
    clear_value bs u
    revert bs u
    -- `id` keeps the statement for every record: the kernel must not compare it with the record's 128 bytes written in.
    refine id fun u bs => ?_
    dsimp only
    split
    · exact answers_next _
    · split
      · exact answers_fault _
      all_goals exact answers_next _
  · exact answers_next _

/-! ## Meanings with branches -/

theorem answers_execMulticlockDone (c : CoreId) (t : Tid) (s : State) : Answers (execMulticlockDone c t s) := by
  unfold execMulticlockDone; (repeat' split) <;> exact answers_next _

theorem answers_execIcacheLineFill (c : CoreId) (t : Tid) (s : State) : Answers (execIcacheLineFill c t s) := by
  unfold execIcacheLineFill; dsimp only; (repeat' split) <;> exact answers_next _

theorem answers_execDcacheLineFill (c : CoreId) (t : Tid) (s : State) : Answers (execDcacheLineFill c t s) := by
  unfold execDcacheLineFill; dsimp only; (repeat' split) <;> exact answers_next _

theorem answers_execStorePerformed (c : CoreId) (s : State) : Answers (execStorePerformed c s) := by
  unfold execStorePerformed; dsimp only; (repeat' split) <;> exact answers_next _

theorem answers_execLdp (d a : BitVec 5) (i : BitVec 16) (s : State) : Answers (execLdp d a i s) := by
  unfold execLdp; dsimp only; (repeat' split) <;> exact answers_next _

theorem answers_execStp (d a : BitVec 5) (i : BitVec 16) (s : State) : Answers (execStp d a i s) := by
  unfold execStp; dsimp only; (repeat' split) <;> exact answers_next _

theorem answers_execWeirMatch (c : CoreId) (s : State) : Answers (execWeirMatch c s) := by
  unfold execWeirMatch; dsimp only; (repeat' split) <;> exact answers_next _

theorem answers_execCellDelivery (c : CoreId) (p : PortId) (s : State) : Answers (execCellDelivery c p s) := by
  unfold execCellDelivery; dsimp only; (repeat' split) <;> exact answers_next _

theorem answers_execRdvSetRelease (c : CoreId) (e : ElemId) (s : State) : Answers (execRdvSetRelease c e s) := by
  unfold execRdvSetRelease; dsimp only; (repeat' split) <;> exact answers_next _

theorem answers_execRdvStallFault (c : CoreId) (e : ElemId) (s : State) : Answers (execRdvStallFault c e s) := by
  unfold execRdvStallFault; dsimp only; (repeat' split) <;> exact answers_next _

theorem answers_execLoopFault (c : CoreId) (l : LoopId) (s : State) : Answers (execLoopFault c l s) := by
  unfold execLoopFault; dsimp only; (repeat' split) <;> exact answers_next _

theorem answers_execMailboxDelivery (c : CoreId) (q : Fin 4) (s : State) : Answers (execMailboxDelivery c q s) := by
  unfold execMailboxDelivery; dsimp only; (repeat' split) <;> exact answers_next _

theorem answers_execCrossbarArrival (c : CoreId) (n : Fin 12) (s : State) : Answers (execCrossbarArrival c n s) := by
  unfold execCrossbarArrival; dsimp only; (repeat' split) <;> exact answers_next _

theorem answers_execCrossbarFanout (c : CoreId) (n : Fin 12) (s : State) : Answers (execCrossbarFanout c n s) := by
  unfold execCrossbarFanout; dsimp only; (repeat' split) <;> exact answers_next _

theorem answers_execFenceComplete (c : CoreId) (t : Tid) (s : State) : Answers (execFenceComplete c t s) := by
  unfold execFenceComplete; dsimp only; (repeat' split) <;> exact answers_next _

theorem answers_execBankDrn (c : CoreId) (b : BankId) (s : State) : Answers (execBankDrn c b s) := by
  unfold execBankDrn; dsimp only; (repeat' split) <;> exact answers_next _

theorem answers_execPoolAccessDone (c : CoreId) (t : Tid) (s : State) : Answers (execPoolAccessDone c t s) := by
  unfold execPoolAccessDone; dsimp only; (repeat' split) <;> exact answers_next _

theorem answers_execAmoPerformed (c : CoreId) (t : Tid) (s : State) : Answers (execAmoPerformed c t s) := by
  unfold execAmoPerformed; dsimp only; (repeat' split) <;> exact answers_next _

theorem answers_execPatrolRead (w : PatrolTarget) (corrected : Bool) (s : State) : Answers (execPatrolRead w corrected s) := by
  unfold execPatrolRead; dsimp only; (repeat' split) <;> exact answers_next _

theorem answers_execElementDrain (c : CoreId) (e : ElemId) (s : State) : Answers (execElementDrain c e s) := by
  unfold execElementDrain; dsimp only; (repeat' split) <;> exact answers_next _

theorem answers_execLoaderReadIssue (c : CoreId) (k : StrmId) (s : State) : Answers (execLoaderReadIssue c k s) := by
  unfold execLoaderReadIssue; dsimp only; (repeat' split) <;> exact answers_next _

theorem answers_execLoaderReadReturn (c : CoreId) (k : StrmId) (s : State) : Answers (execLoaderReadReturn c k s) := by
  unfold execLoaderReadReturn; dsimp only; (repeat' split) <;> exact answers_next _

theorem answers_execBankSreadRead (c : CoreId) (b : BankId) (s : State) : Answers (execBankSreadRead c b s) := by
  unfold execBankSreadRead; dsimp only; (repeat' split) <;> exact answers_next _

theorem answers_execSinkCellConsume (c : CoreId) (k : StrmId) (s : State) : Answers (execSinkCellConsume c k s) := by
  unfold execSinkCellConsume; dsimp only; (repeat' split) <;> exact answers_next _

theorem answers_execSinkWritePerformed (c : CoreId) (k : StrmId) (s : State) : Answers (execSinkWritePerformed c k s) := by
  unfold execSinkWritePerformed; dsimp only; (repeat' split) <;> exact answers_next _

theorem answers_execStreamComplete (c : CoreId) (k : StrmId) (s : State) : Answers (execStreamComplete c k s) := by
  unfold execStreamComplete; dsimp only; (repeat' split) <;> exact answers_next _

theorem answers_execSsplice (n : BitVec 4) (t : BitVec 6) (s : State) : Answers (execSsplice n t s) := by
  unfold execSsplice; dsimp only; (repeat' split) <;> exact answers_next _

theorem answers_execSpliceDone (c : CoreId) (k : StrmId) (s : State) : Answers (execSpliceDone c k s) := by
  unfold execSpliceDone; dsimp only; (repeat' split) <;> simp

theorem answers_execScfgCheckDone (c : CoreId) (k : StrmId) (s : State) : Answers (execScfgCheckDone c k s) := by
  unfold execScfgCheckDone; dsimp only; (repeat' split) <;> exact answers_next _

theorem answers_execScfgLoadDone (c : CoreId) (k : StrmId) (s : State) : Answers (execScfgLoadDone c k s) := by
  unfold execScfgLoadDone; dsimp only; (repeat' split) <;> exact answers_next _

theorem answers_execRoundTimeout (c : CoreId) (k : StrmId) (s : State) : Answers (execRoundTimeout c k s) := by
  unfold execRoundTimeout; (repeat' split) <;> exact answers_next _

theorem answers_execRoundVoid (c : CoreId) (k : StrmId) (s : State) : Answers (execRoundVoid c k s) := by
  unfold execRoundVoid; (repeat' split) <;> exact answers_next _

theorem answers_execRaceScore (c : CoreId) (u : Fin 2) (s : State) : Answers (execRaceScore c u s) := by
  unfold execRaceScore; dsimp only; (repeat' split) <;> exact answers_next _

theorem answers_execMeJobQueueFree (c : CoreId) (t : Tid) (s : State) : Answers (execMeJobQueueFree c t s) := by
  unfold execMeJobQueueFree; dsimp only; (repeat' split) <;> exact answers_next _

theorem answers_execMeDrainRow (c : CoreId) (s : State) : Answers (execMeDrainRow c s) := by
  unfold execMeDrainRow; dsimp only; (repeat' split) <;> exact answers_next _

theorem answers_execMeZeroRow (c : CoreId) (s : State) : Answers (execMeZeroRow c s) := by
  unfold execMeZeroRow; dsimp only; (repeat' split) <;> exact answers_next _

theorem answers_execMePanelCell (c : CoreId) (q : Fin 4) (s : State) : Answers (execMePanelCell c q s) := by
  unfold execMePanelCell; dsimp only; (repeat' split) <;> exact answers_next _

theorem answers_execMePreload (c : CoreId) (x : Fin 2) (s : State) : Answers (execMePreload c x s) := by
  unfold execMePreload; dsimp only; (repeat' split) <;> exact answers_next _

theorem answers_execMeSteerToken (c : CoreId) (x : Fin 2) (s : State) : Answers (execMeSteerToken c x s) := by
  unfold execMeSteerToken; dsimp only; (repeat' split) <;> exact answers_next _

theorem answers_execMeDrnDiscard (c : CoreId) (p : PortId) (s : State) : Answers (execMeDrnDiscard c p s) := by
  unfold execMeDrnDiscard; dsimp only; (repeat' split) <;> exact answers_next _

theorem answers_execMePassBoundary (c : CoreId) (s : State) : Answers (execMePassBoundary c s) := by
  unfold execMePassBoundary; dsimp only; (repeat' split) <;> exact answers_next _

theorem answers_execAdapterFactorCell (c : CoreId) (x : Fin 2) (s : State) : Answers (execAdapterFactorCell c x s) := by
  unfold execAdapterFactorCell; dsimp only; (repeat' split) <;> exact answers_next _

theorem answers_execCloneDone (c : CoreId) (g : StageId) (s : State) : Answers (execCloneDone c g s) := by
  unfold execCloneDone; dsimp only; (repeat' split) <;> exact answers_next _

theorem answers_execSplHead (c : CoreId) (e : ElemId) (s : State) : Answers (execSplHead c e s) := by
  unfold execSplHead; dsimp only; (repeat' split) <;> exact answers_next _

theorem answers_execOxbowSwitch (c : CoreId) (g : StageId) (s : State) : Answers (execOxbowSwitch c g s) := by
  unfold execOxbowSwitch; dsimp only; (repeat' split) <;> exact answers_next _

theorem answers_execOxbowForward (c : CoreId) (e : ElemId) (s : State) : Answers (execOxbowForward c e s) := by
  unfold execOxbowForward; dsimp only; (repeat' split) <;> exact answers_next _

theorem answers_execRdeInject (c : CoreId) (e : ElemId) (s : State) : Answers (execRdeInject c e s) := by
  unfold execRdeInject; dsimp only; (repeat' split) <;> exact answers_next _

theorem answers_execHoldRelease (c : CoreId) (e : ElemId) (s : State) : Answers (execHoldRelease c e s) := by
  unfold execHoldRelease; dsimp only; (repeat' split) <;> exact answers_next _

theorem answers_execTwinQuiescent (c : CoreId) (g : StageId) (s : State) : Answers (execTwinQuiescent c g s) := by
  unfold execTwinQuiescent; dsimp only; (repeat' split) <;> exact answers_next _

theorem answers_execMergeDone (c : CoreId) (g : StageId) (s : State) : Answers (execMergeDone c g s) := by
  unfold execMergeDone; dsimp only; (repeat' split) <;> exact answers_next _

theorem answers_execRbLoadCell (c : CoreId) (s : State) : Answers (execRbLoadCell c s) := by
  unfold execRbLoadCell; dsimp only; (repeat' split) <;> exact answers_next _

theorem answers_execRbLoadDone (c : CoreId) (s : State) : Answers (execRbLoadDone c s) := by
  unfold execRbLoadDone; dsimp only; (repeat' split) <;> exact answers_next _

theorem answers_execRbInput (c : CoreId) (s : State) : Answers (execRbInput c s) := by
  unfold execRbInput; dsimp only; (repeat' split) <;> exact answers_next _

theorem answers_execRbEvalGroup (c : CoreId) (s : State) : Answers (execRbEvalGroup c s) := by
  unfold execRbEvalGroup; dsimp only; (repeat' split) <;> exact answers_next _

theorem answers_execRbOutput (c : CoreId) (s : State) : Answers (execRbOutput c s) := by
  unfold execRbOutput; dsimp only; (repeat' split) <;> exact answers_next _

theorem answers_execRbRunDone (c : CoreId) (s : State) : Answers (execRbRunDone c s) := by
  unfold execRbRunDone; dsimp only; (repeat' split) <;> exact answers_next _

theorem answers_execRbContextSwitch (c : CoreId) (s : State) : Answers (execRbContextSwitch c s) := by
  unfold execRbContextSwitch; dsimp only; (repeat' split) <;> exact answers_next _

theorem answers_execRbModeApply (c : CoreId) (s : State) : Answers (execRbModeApply c s) := by
  unfold execRbModeApply; dsimp only; (repeat' split) <;> exact answers_next _

theorem answers_execRbPassBoundary (c : CoreId) (s : State) : Answers (execRbPassBoundary c s) := by
  unfold execRbPassBoundary; dsimp only; (repeat' split) <;> exact answers_next _

theorem answers_execRbDrnDiscard (c : CoreId) (p : PortId) (s : State) : Answers (execRbDrnDiscard c p s) := by
  unfold execRbDrnDiscard; dsimp only; (repeat' split) <;> exact answers_next _

theorem answers_execTlbinvComplete (c : CoreId) (t : Tid) (s : State) : Answers (execTlbinvComplete c t s) := by
  unfold execTlbinvComplete; dsimp only; (repeat' split) <;> exact answers_next _

theorem answers_execDescriptorReadDone (c : CoreId) (t : Tid) (s : State) : Answers (execDescriptorReadDone c t s) := by
  unfold execDescriptorReadDone; dsimp only; (repeat' split) <;> exact answers_next _

theorem answers_execTagWaitSatisfied (c : CoreId) (t : Tid) (s : State) : Answers (execTagWaitSatisfied c t s) := by
  unfold execTagWaitSatisfied; dsimp only; (repeat' split) <;> exact answers_next _

theorem answers_execGroupOpApplied (c : CoreId) (t : Tid) (s : State) : Answers (execGroupOpApplied c t s) := by
  unfold execGroupOpApplied; (repeat' split) <;> exact answers_next _

theorem answers_execNodeRemoteReturn (c : CoreId) (t : Tid) (s : State) : Answers (execNodeRemoteReturn c t s) := by
  unfold execNodeRemoteReturn; (repeat' split) <;> exact answers_next _

theorem answers_execGateFire (c : CoreId) (g : GateId) (s : State) : Answers (execGateFire c g s) := by
  unfold execGateFire; dsimp only; (repeat' split) <;> exact answers_next _

theorem answers_execWalkLink (c : CoreId) (t : Tid) (s : State) : Answers (execWalkLink c t s) := by
  unfold execWalkLink; dsimp only; (repeat' split) <;> exact answers_next _

theorem answers_execSubmitGraph (h : Ipv6) (m : Datagram) (s : State) : Answers (execSubmitGraph h m s) := by
  unfold execSubmitGraph; dsimp only; (repeat' split) <;> simp

theorem answers_execGangStart (s : State) : Answers (execGangStart s) := by
  unfold execGangStart; dsimp only; (repeat' split) <;> exact answers_next _

theorem answers_execLaunchReservation (s : State) : Answers (execLaunchReservation s) := by
  unfold execLaunchReservation; dsimp only; (repeat' split) <;> exact answers_next _

theorem answers_execFirstIssue (id : TaskId) (s : State) : Answers (execFirstIssue id s) := by
  unfold execFirstIssue; dsimp only; (repeat' split) <;> simp

theorem answers_execTaskEnd (id : TaskId) (s : State) : Answers (execTaskEnd id s) := by
  unfold execTaskEnd; dsimp only; (repeat' split) <;> exact answers_next _

theorem answers_execTaskStop (id : TaskId) (s : State) : Answers (execTaskStop id s) := by
  unfold execTaskStop; (repeat' split) <;> exact answers_next _

theorem answers_execWdogExpire (id : TaskId) (s : State) : Answers (execWdogExpire id s) := by
  unfold execWdogExpire; (repeat' split) <;> exact answers_next _

theorem answers_execFaultRecordPost (c : CoreId) (s : State) : Answers (execFaultRecordPost c s) := by
  unfold execFaultRecordPost; dsimp only; (repeat' split) <;> simp

theorem answers_execSluiceRead (h : Ipv6) (m : Datagram) (s : State) : Answers (execSluiceRead h m s) := by
  unfold execSluiceRead; dsimp only; (repeat' split) <;> simp

theorem answers_execSluiceWrite (h : Ipv6) (m : Datagram) (s : State) : Answers (execSluiceWrite h m s) := by
  unfold execSluiceWrite; dsimp only; (repeat' split) <;> simp

theorem answers_execDebugOutput (c : CoreId) (s : State) : Answers (execDebugOutput c s) := by
  unfold execDebugOutput; dsimp only; (repeat' split) <;> exact answers_next _

theorem answers_execThermalReading (t0 t1 t2 t3 : Nat) (s : State) : Answers (execThermalReading t0 t1 t2 t3 s) := by
  unfold execThermalReading; dsimp only; (repeat' split) <;> exact answers_next _

theorem answers_execSpareBringIn (r : Resource) (s : State) : Answers (execSpareBringIn r s) := by
  unfold execSpareBringIn; dsimp only; (repeat' split) <;> exact answers_next _

/-! ## Every instruction and every step -/

/-- An instruction of a program has a meaning: a next state. -/
theorem answers_exec_of_none (i : Instr) (s : State) (hi : i.event? = none) : Answers (exec i s) := by
  cases i
  case nop | trap | eret | wfe | fenceT | fenceC | fenceL | fenceD | fenceP | fenceS | mfs | mts | mtsTime | mtsAgelim | mtsSpill |
      mtsWdog | tlbinv | resume | kill | add | sub | mul | mulh | mulhu | div | divu | rem | remu | and_ | or_ | xor_ | andn | shl | shr |
      sar | shli | shri | sari | min | max | minu | maxu | clz | ctz | popc | sextb | sexth | sextw | zextw | ceq | cne | clt | cltu |
      cle | cleu | pand | por | pxor | pandn | pnot | pset | sel | pmovg | gmovp | addi | andi | ori | xori | li | lih | cmpiEq | cmpiNe |
      cmpiLt | cmpiLtu | br | jmp | call | jr | callr | ret | ldb | ldh | ldw | ldd | ldbu | ldhu | ldwu | stb | sth | stw | std | aadd |
      aand | aor | axor | amin | amax | aminu | amaxu | axchg | acas | fxaddAmo | prefR | prefW | join | leave | arrive | gwait | gsize |
      yield | exit | setrole | tidOf | launch | twaitany | twaitall | tffr | tclr | ttest | apbase | apdim | apmode | apidx | apget |
      node | trc | walk | step | brk | sload | sread | sstore | sgather | sscatter | scell | sbar | sdrain | sedge | sqry | scfg | sswap |
      sarg | scancel | mxmode | mxpanel | mxrun | mxdrain | mxzero | mxadp | mxcode | mxstat | rbload | rbctx | rbrun | rbxmode | rbstat |
      oxdecl | oxsplit | oxmerge | oxpin | oxqry | rtset | mcset | mcsetX | racecfg | gateset | loopset | elemNop | mov | pass | keyx |
      keys | cntdn | oxpiv | oxend | fadd | fsub | fmul | fma | fms | fmin | fmax | fabs | fneg | fscl | fred | frmax | fcmpeq | fcmplt |
      fcmple | fsel | iadd | isub | imul | imac4 | asub3 | imin | imax | ishl | ishr | isar | iand | ior | ixor | inot | icmpeq | icmplt |
      cvt | qnt8 | dqnt | unp3 | pk3 | lmul | lacc | fxcvt | fxadd | perm | bcast | clamp | kcmp | ksel =>
    exact answers_next _
  case ldp => exact answers_execLdp _ _ _ _
  case stp => exact answers_execStp _ _ _ _
  case ssplice => exact answers_execSsplice _ _ _
  -- What is left are the events.
  all_goals cases hi

theorem answers_runEvent (e : Event) (s : State) : Answers (runEvent e s) := by
  cases e
  case illDecode | drainTokenInject | streamRelease | overloadDetect | underloadDetect | oxbowApproval | oxbowRefusal | rdeConsumed |
      mergeStart | oxbowTagSet | cellAdmit | raceEnd | bankWrite | bankRead | bankAdd | bankFxadd | bankMin | bankMax | bankTasb |
      bankCas | bankXchg | bankGather | bankScatter | bankZero | bankOwn | attestationRead | submitLaunch | timeMessage | commitMsg |
      voidMsg | ackMsg | debugRequest | debugHostCommand | dbgWriteSt | dbgWriteD | dbgWriteSf | dbgWriteP | dbgWriteEsr | dbgWriteHead |
      dbgWriteTable | dbgTraceEnable | dbgSetBe | frameDiscard | linkLoss | thermalTrip | thermalTripClear | powerOnBoot |
      firmwareModuleLoad | moduleReset | regWrite | tableFault | firmwarePolicySet | datagramDiscard =>
    exact answers_next _
  case fenceComplete => exact answers_execFenceComplete _ _ _
  case tlbinvComplete => exact answers_execTlbinvComplete _ _ _
  case multiclockDone => exact answers_execMulticlockDone _ _ _
  case dcacheLineFill => exact answers_execDcacheLineFill _ _ _
  case icacheLineFill => exact answers_execIcacheLineFill _ _ _
  case storePerformed => exact answers_execStorePerformed _ _
  case poolAccessDone => exact answers_execPoolAccessDone _ _ _
  case mailboxDelivery => exact answers_execMailboxDelivery _ _ _
  case amoPerformed => exact answers_execAmoPerformed _ _ _
  case pageWalk => exact answers_execPageWalk _ _ _
  case groupOpApplied => exact answers_execGroupOpApplied _ _ _
  case tagWaitSatisfied => exact answers_execTagWaitSatisfied _ _ _
  case nodeRemoteReturn => exact answers_execNodeRemoteReturn _ _ _
  case walkLink => exact answers_execWalkLink _ _ _
  case bindSlotTaken => exact answers_execBindSlotTaken _ _ _
  case scfgCheckDone => exact answers_execScfgCheckDone _ _ _
  case scfgLoadDone => exact answers_execScfgLoadDone _ _ _
  case spliceDone => exact answers_execSpliceDone _ _ _
  case loaderReadIssue => exact answers_execLoaderReadIssue _ _ _
  case loaderReadReturn => exact answers_execLoaderReadReturn _ _ _
  case sinkCellConsume => exact answers_execSinkCellConsume _ _ _
  case sinkWritePerformed => exact answers_execSinkWritePerformed _ _ _
  case streamComplete => exact answers_execStreamComplete _ _ _
  case meJobQueueFree => exact answers_execMeJobQueueFree _ _ _
  case meFire => exact answers_execMeFire _ _
  case meDrainRow => exact answers_execMeDrainRow _ _
  case meZeroRow => exact answers_execMeZeroRow _ _
  case mePanelCell => exact answers_execMePanelCell _ _ _
  case mePreload => exact answers_execMePreload _ _ _
  case meSteerToken => exact answers_execMeSteerToken _ _ _
  case mePassBoundary => exact answers_execMePassBoundary _ _
  case meDrnDiscard => exact answers_execMeDrnDiscard _ _ _
  case adapterFetch => exact answers_execAdapterFetch _ _
  case adapterFactorCell => exact answers_execAdapterFactorCell _ _ _
  case rbLoadCell => exact answers_execRbLoadCell _ _
  case rbLoadDone => exact answers_execRbLoadDone _ _
  case rbInput => exact answers_execRbInput _ _
  case rbEvalGroup => exact answers_execRbEvalGroup _ _
  case rbOutput => exact answers_execRbOutput _ _
  case rbRunDone => exact answers_execRbRunDone _ _
  case rbContextSwitch => exact answers_execRbContextSwitch _ _
  case rbModeApply => exact answers_execRbModeApply _ _
  case rbPassBoundary => exact answers_execRbPassBoundary _ _
  case rbDrnDiscard => exact answers_execRbDrnDiscard _ _ _
  case cloneDone => exact answers_execCloneDone _ _ _
  case splHead => exact answers_execSplHead _ _ _
  case oxbowSwitch => exact answers_execOxbowSwitch _ _ _
  case oxbowForward => exact answers_execOxbowForward _ _ _
  case rdeInject => exact answers_execRdeInject _ _ _
  case holdRelease => exact answers_execHoldRelease _ _ _
  case twinQuiescent => exact answers_execTwinQuiescent _ _ _
  case mergeDone => exact answers_execMergeDone _ _ _
  case descriptorReadDone => exact answers_execDescriptorReadDone _ _ _
  case elementDrain => exact answers_execElementDrain _ _ _
  case weirMatch => exact answers_execWeirMatch _ _
  case cellDelivery => exact answers_execCellDelivery _ _ _
  case rdvSetRelease => exact answers_execRdvSetRelease _ _ _
  case rdvStallFault => exact answers_execRdvStallFault _ _ _
  case loopFault => exact answers_execLoopFault _ _ _
  case crossbarArrival => exact answers_execCrossbarArrival _ _ _
  case crossbarFanout => exact answers_execCrossbarFanout _ _ _
  case raceScore => exact answers_execRaceScore _ _ _
  case gateFire => exact answers_execGateFire _ _ _
  case bankDrn => exact answers_execBankDrn _ _ _
  case bankSreadRead => exact answers_execBankSreadRead _ _ _
  case patrolRead => exact answers_execPatrolRead _ _ _
  case faultRecordPost => exact answers_execFaultRecordPost _ _
  case wdogExpire => exact answers_execWdogExpire _ _
  case taskStop => exact answers_execTaskStop _ _
  case launchReservation => exact answers_execLaunchReservation _
  case gangStart => exact answers_execGangStart _
  case firstIssue => exact answers_execFirstIssue _ _
  case taskEnd => exact answers_execTaskEnd _ _
  case sluiceRead => exact answers_execSluiceRead _ _ _
  case sluiceWrite => exact answers_execSluiceWrite _ _ _
  case submitGraph => exact answers_execSubmitGraph _ _ _
  case roundData => exact answers_execRoundData _ _ _
  case roundCommit => exact answers_execRoundCommit _ _ _
  case roundVoid => exact answers_execRoundVoid _ _ _
  case peerCellSend => exact answers_execPeerCellSend _ _ _
  case roundTimeout => exact answers_execRoundTimeout _ _ _
  case debugOutput => exact answers_execDebugOutput _ _
  case thermalReading => exact answers_execThermalReading _ _ _ _ _
  case spareBringIn => exact answers_execSpareBringIn _ _
  case launchRecordQueued => exact answers_execLaunchRecordQueued _ _ _

theorem answers_exec (i : Instr) (s : State) : Answers (exec i s) := by
  cases hi : i.event? with
  | none => exact answers_exec_of_none i s hi
  | some e => exact exec_event i e s hi ▸ answers_runEvent e s

theorem answers_runWord (s : State) (w : Nat) : Answers (s.runWord w) := by
  unfold State.runWord
  split <;> exact answers_exec _ _

theorem answers_runEntry (s : State) (w : Nat) : Answers (s.runEntry w) := by
  unfold State.runEntry
  refine .ite ?_ (answers_exec _ _)
  split <;> exact answers_exec _ _

theorem answers_issueWord (s : State) (c : CoreId) (t : Tid) (w : Nat) : Answers (s.issueWord c t w) := by
  unfold State.issueWord
  split
  · exact answers_next _
  · exact answers_fault _
  · next r e => exact absurd e (answers_runWord _ w r)

theorem answers_issueFrom (c : CoreId) (n : Nat) : ∀ s : State, Answers (s.issueFrom c n) := by
  induction n with
  | zero => intro s; exact answers_next _
  | succ n ih =>
    intro s
    unfold State.issueFrom
    split
    · exact answers_next _
    · split
      · exact ih _
      · exact ih _
      · exact answers_issueWord _ _ _ _

theorem answers_fireElem (s : State) (c : CoreId) (e : ElemId) : Answers (s.fireElem c e) := by
  unfold State.fireElem
  split
  · exact answers_next _
  · exact answers_runEntry _ _

theorem answers_act (s : State) (a : Act) : Answers (s.act a) := by
  cases a with
  | issue c => exact answers_issueFrom c 16 s
  | fire c e => exact .ite (answers_next _) (answers_fireElem s c e)
  | ev e => exact .ite (answers_next _) (answers_runEvent e s)
  | upset u => exact answers_next _

theorem answers_step (s : State) : Answers (step s) := by
  cases e : s.agenda with
  | nil => rw [step_nil s e]; exact answers_next _
  | cons a r => rw [step_cons s a r e]; exact answers_act _ a

/-! ## The end of a slot -/

/-- A fold of updates that each keep a part of the state keeps that part. -/
theorem State.foldl_keep {α β : Type} (g : State → β) (f : State → α → State) (h : ∀ s a, g (f s a) = g s) (l : List α) (s : State) :
    g (l.foldl f s) = g s := by
  induction l generalizing s with
  | nil => rfl
  | cons a r ih => rw [List.foldl_cons, ih, h]

/-! What acts at the end of a slot leaves the slot's number. -/

@[simp] theorem State.slot_clearHead (s : State) (c : CoreId) (p ch : Nat) : (s.clearHead c p ch).slot = s.slot := by
  unfold State.clearHead; split <;> rfl

theorem State.slot_clearSpots (s : State) (l : List Spot) : (s.clearSpots l).slot = s.slot := rfl

@[simp] theorem State.slot_oxConsumed (s : State) (y : Cell) : (s.oxConsumed y).slot = s.slot := by
  unfold State.oxConsumed; dsimp only; split <;> split <;> rfl

@[simp] theorem State.slot_consume (s : State) (c : CoreId) (y : Cell) : (s.consume c y).slot = s.slot := by
  unfold State.consume; dsimp only; split <;> simp

@[simp] theorem State.slot_popHead (s : State) (c : CoreId) (p ch : Nat) : (s.popHead c p ch).slot = s.slot := by
  unfold State.popHead; split <;> simp

@[simp] theorem State.slot_mgmtTake (s : State) (c : CoreId) : (s.mgmtTake c).slot = s.slot := by
  unfold State.mgmtTake; split <;> simp

@[simp] theorem State.slot_storeDrn (s : State) (c : CoreId) (q : Fin 8) : (s.storeDrn c q).slot = s.slot := by
  unfold State.storeDrn; dsimp only; (repeat' split) <;> simp

@[simp] theorem State.slot_netForward (s : State) (c : CoreId) (n : Nat) : (s.netForward c n).slot = s.slot := by
  unfold State.netForward; dsimp only; (repeat' split) <;> rfl

@[simp] theorem State.slot_meTick (s : State) (c : CoreId) : (s.meTick c).slot = s.slot := by
  unfold State.meTick; dsimp only; (repeat' split) <;> rfl

@[simp] theorem State.slot_oxTimers (s : State) (c : CoreId) : (s.oxTimers c).slot = s.slot := by
  unfold State.oxTimers
  refine State.foldl_keep State.slot _ (fun s g => ?_) _ _
  dsimp only; (repeat' split) <;> rfl

theorem State.slot_dbgWrite (s : State) (c : CoreId) (e : ElemId) (tgt off : Nat) (l : List Byte) :
    (s.dbgWrite c e tgt off l).slot = s.slot := by
  unfold State.dbgWrite; dsimp only; (repeat' split) <;> rfl

@[simp] theorem State.slot_applyLate (s : State) (c : CoreId) : (s.applyLate c).slot = s.slot := by
  unfold State.applyLate
  dsimp only
  split
  · rfl
  · refine State.foldl_keep State.slot _ (fun s w => ?_) _ _
    cases w with
    | elem => exact State.slot_dbgWrite ..
    | _ => rfl

theorem State.slot_softPool (s : State) (a n : Nat) : (s.softPool a n).slot = s.slot := by
  unfold State.softPool
  dsimp only
  rw [State.foldl_keep State.slot]
  intros; rfl

@[simp] theorem State.slot_poolMarks (s : State) (a n : Nat) : (s.poolMarks a n).slot = s.slot := State.slot_softPool _ a n

@[simp] theorem State.slot_sysPath (s : State) (c : CoreId) (b : Nat) : (s.sysPath c b).slot = s.slot := by
  unfold State.sysPath; dsimp only; (repeat' split) <;> simp only [State.modThr_eq, State.setCore_slot, State.slot_poolMarks, State.modCore_eq]

theorem State.slot_tickCore (s : State) (c : CoreId) : (s.tickCore c).slot = s.slot := by
  unfold State.tickCore
  extract_lets loaded written timed entered fired forwarded stored banked taken was y counted
  have hn : forwarded.slot = fired.slot := State.foldl_keep State.slot _ (fun s n => s.slot_netForward c n) _ _
  have hd : stored.slot = forwarded.slot := State.foldl_keep State.slot _ (fun s q => s.slot_storeDrn c q) _ _
  have hb : banked.slot = stored.slot := State.foldl_keep State.slot _ (fun s b => s.slot_sysPath c b) _ _
  have hc : counted.slot = s.slot := by
    calc counted.slot = taken.slot := State.setCore_slot _ _ _
      _ = banked.slot := banked.slot_mgmtTake c
      _ = fired.slot := (hb.trans hd).trans hn
      _ = s.slot := by simp [fired, entered, timed, written, loaded]
  split
  · split
    · exact hc
    · exact (counted.slot_clearSpots _).trans hc
  · exact hc

theorem State.slot_ringTick (s : State) : s.ringTick.slot = s.slot := by
  refine State.foldl_keep State.slot _ (fun s y => ?_) _ _
  unfold State.ringHop; dsimp only; (repeat' split) <;> rfl

theorem State.slot_ageHeads (s : State) : s.ageHeads.slot = s.slot := by
  unfold State.ageHeads; split <;> rfl

theorem State.slot_timeTick (s : State) : s.timeTick.slot = s.slot := by
  unfold State.timeTick; split <;> rfl

theorem State.slot_nextAgenda (s : State) : s.nextAgenda.slot = s.slot := by
  unfold State.nextAgenda; split <;> rfl

theorem State.slot_nextSlot (s : State) : (State.mark { s with slot := s.slot + 1 }).nextAgenda.slot = s.slot + 1 := State.slot_nextAgenda _

/-- What follows the cores' part of the slot's end leaves the slot's number, before the next slot begins. -/
theorem State.slot_afterCores (u : State) : u.ringTick.wdogTick.ageHeads.timeTick.throttleTick.slot = u.slot := by
  calc _ = u.ringTick.wdogTick.ageHeads.timeTick.slot := rfl
    _ = u.ringTick.wdogTick.ageHeads.slot := State.slot_timeTick _
    _ = u.ringTick.wdogTick.slot := State.slot_ageHeads _
    _ = u.ringTick.slot := rfl
    _ = u.slot := State.slot_ringTick u

theorem State.slot_tick_cores (s : State) : s.tick.slot = ((List.finRange 64).foldl (fun s c => s.tickCore c) s).slot + 1 := by
  unfold State.tick
  generalize List.foldl _ s (List.finRange 64) = u
  exact (State.slot_nextSlot _).trans (congrArg (· + 1) u.slot_afterCores)

theorem State.slot_tick (s : State) : s.tick.slot = s.slot + 1 :=
  s.slot_tick_cores.trans (congrArg (· + 1) (State.foldl_keep State.slot _ (fun s c => s.slot_tickCore c) (List.finRange 64) s))

/-- Settles O6: with no act left a step is the slot's end, which begins the next slot; and no branch of any meaning refuses. -/
theorem stepAnswers : Obligations.StepAnswers := by
  refine ⟨fun s h => ⟨s.tick, step_nil s h, s.slot_tick⟩, fun s r => answers_step s r⟩

end Sys2Proof.Machine
end

section
/-! SUPPORT. A step runs the decoded word, the selected entry or the event that the schedule names (O5). -/

namespace Sys2Proof.Machine

open Sys2Proof.Claims

/-! ## A sequencer's turn -/

section issue
variable {s : State} {c : CoreId} {t : Tid}

/-- A sequencer whose chosen thread has its word runs it, whatever threads were tried before. -/
theorem State.issueFrom_word {w : Nat} (n : Nat) (hi : s.issuer? c = some t) (hf : s.fetch c t = .word w) :
    s.issueFrom c (n + 1) = s.issueWord c t w := by
  simp only [State.issueFrom, hi, hf]

/-- A thread whose fetch misses parks, and the sequencer looks again (R91). -/
theorem State.issueFrom_miss {line : Nat} (n : Nat) (hi : s.issuer? c = some t) (hf : s.fetch c t = .miss line) :
    s.issueFrom c (n + 1) = (s.modThr c t (fun y => { y with st := .parked, pend := .ifetch line })).issueFrom c n := by
  simp only [State.issueFrom, hi, hf]
  rfl

/-- With no thread that may issue, the sequencer does nothing. -/
theorem State.issueFrom_none (n : Nat) (hi : s.issuer? c = none) : s.issueFrom c (n + 1) = .next s := by
  simp only [State.issueFrom, hi]

theorem State.issueWord_ok {w : Nat} {i : Instr} (hd : decodeWord w = .ok i) :
    s.issueWord c t w = match exec i { (s.modCore c (fun x => x.tookIssue t s.slot)) with cur := (c, t) } with
      | .next u => .next (u.modThr c t Thread.countIssue)
      | .fault f => .fault f
      | .refused q => .refused q := by
  simp only [State.issueWord, State.runWord, hd]
  rfl

theorem State.issueWord_error {w : Nat} {e : DecodeError} (hd : decodeWord w = .error e) :
    s.issueWord c t w = .next ((State.trap { (s.modCore c (fun x => x.tookIssue t s.slot)) with cur := (c, t) } kILL
      (illEval (BitVec.ofNat 32 w).toNat 0)).modThr c t Thread.countIssue) := by
  simp only [State.issueWord, State.runWord, hd]
  rfl

end issue

theorem step_issue {s : State} {c : CoreId} {r : List Act} (ha : s.agenda = .issue c :: r) :
    step s = ({ s with agenda := r } : State).issueFrom c 16 := step_cons s _ r ha

theorem stepIssuesDecoded : StepIssuesDecoded := by
  intro s c r t w i ha hi hf hd
  exact (step_issue ha).trans ((State.issueFrom_word 15 hi hf).trans (State.issueWord_ok hd))

theorem stepIllegalWord : StepIllegalWord := by
  intro s c r t w e ha hi hf hd u v
  refine ⟨rfl, ?_, ?_⟩
  · exact (step_issue ha).trans ((State.issueFrom_word 15 hi hf).trans (State.issueWord_error hd))
  · have hv : illEval (BitVec.ofNat 32 w).toNat 0 = BitVec.ofNat 64 (BitVec.ofNat 32 w).toNat :=
      illEval_of_lt (BitVec.isLt _) (by decide)
    exact hv ▸ tookTrap_trap u kILL _

theorem stepIssuesInPlace : StepIssuesInPlace := by
  intro s c r t u line w i a b ha hi hf
  have hb : step s = b.issueFrom c 15 := (step_issue ha).trans (State.issueFrom_miss 15 hi hf)
  refine ⟨fun hn => ?_, fun hu hw hd => ?_⟩
  · exact hb.trans (State.issueFrom_none 14 hn)
  · exact hb.trans ((State.issueFrom_word 14 hu hw).trans (State.issueWord_ok hd))

/-! ## Entries and events -/

theorem stepFiresEntry : StepFiresEntry := by
  intro s c e r n i ha hs hl hd
  rw [step_cons s _ r ha]
  have hl' : entryLegal ((({ s with agenda := r } : State).core c).entryAt e n.val) = true := hl
  have hd' : decodeEntry ((({ s with agenda := r } : State).core c).entryAt e n.val) = some i := hd
  simp only [State.act, State.fireElem, hs, State.runEntry, hl', hd', if_true]

theorem stepRunsEvent : StepRunsEvent := by
  intro s e r i ha hi
  rw [step_cons s _ r ha, exec_event i e _ hi]
  rfl

/-- Settles O5: the first act of the agenda is a sequencer's turn, an element's or an event, and each runs the meaning that it names. -/
theorem stepRunsDecoded : Obligations.StepRunsDecoded :=
  ⟨stepIssuesDecoded, stepIllegalWord, stepIssuesInPlace, stepFiresEntry, stepRunsEvent⟩

end Sys2Proof.Machine
end

section
/-! SUPPORT. What reads of memory leave: the marks of corrected errors and the stream paths taken, and nothing else of the state (R14, R258). -/

namespace Sys2Proof.Machine

/-! ## Memory, whatever its form -/

theorem Memory.get_set_ne (m : Memory) {a k : Nat} (v : Byte) (h : k ≠ a) : Memory.get (Memory.set m a v) k = Memory.get m k := by
  induction m with
  | nil => simp only [Memory.set]; split <;> simp [Memory.get, Ne.symm h]
  | cons p r ih =>
    obtain ⟨x, b⟩ := p
    simp only [Memory.set]
    split
    · split <;> simp [Memory.get, Ne.symm h]
    · split
      · next e => split <;> simp [Memory.get, Ne.symm h, ← e]
      · simp [Memory.get, ih]

/-- A write leaves every byte outside it, also of a memory that is in no canonical form. -/
theorem Memory.get_writeN_ne (n : Nat) : ∀ (m : Memory) (a v k : Nat), ¬(a ≤ k ∧ k < a + n) →
    Memory.get (Memory.writeN m a n v) k = Memory.get m k := by
  induction n with
  | zero => intro m a v k _; rfl
  | succ n ih =>
    intro m a v k h
    rw [Memory.writeN, ih _ _ _ _ (by omega), Memory.get_set_ne _ _ (by omega)]

/-! ## Vectors by index -/

@[simp] theorem Core.strms_modStrm (x : Core) (k : StrmId) (f : Strm → Strm) : (x.modStrm k f).strms[k] = f x.strms[k] := by
  simp [Core.modStrm]

@[simp] theorem Core.strms_loaderUsed (x : Core) (l : Option (Fin 8)) (n : Nat) (k : StrmId) : (x.loaderUsed l n).strms[k] = x.strms[k] := by
  cases l <;> rfl

@[simp] theorem Core.strms_storerUsed (x : Core) (q : Option (Fin 8)) (n : Nat) (k : StrmId) : (x.storerUsed q n).strms[k] = x.strms[k] := by
  cases q <;> rfl

/-! ## What reads leave -/

/-- Nothing but the marks and counts of corrected errors and the stream paths of the slot differs; no uncorrectable error comes or goes. -/
structure Aside (s t : State) : Prop where
  eq : t = { s with ecc := t.ecc, errs := t.errs, pathIn := t.pathIn, pathOut := t.pathOut }
  bad : t.ecc.hbm = s.ecc.hbm

theorem Aside.refl (s : State) : Aside s s := ⟨rfl, rfl⟩

theorem Aside.trans {s t u : State} (h : Aside s t) (g : Aside t u) : Aside s u := by
  refine ⟨?_, g.bad.trans h.bad⟩
  have := g.eq
  rw [h.eq] at this
  exact this

theorem Aside.foldl {α : Type} (f : State → α → State) (h : ∀ s a, Aside s (f s a)) (l : List α) (s : State) : Aside s (l.foldl f s) := by
  induction l generalizing s with
  | nil => exact .refl s
  | cons a r ih => exact (h s a).trans (ih _)

section aside
variable {s t : State} (h : Aside s t)
include h

theorem Aside.core (c : CoreId) : t.core c = s.core c := by rw [h.eq]; rfl
theorem Aside.thr (c : CoreId) (k : Tid) : t.thr c k = s.thr c k := by rw [h.eq]; rfl
theorem Aside.hbm : t.hbm = s.hbm := by rw [h.eq]
theorem Aside.pool : t.pool = s.pool := by rw [h.eq]
theorem Aside.mem : t.mem = s.mem := by rw [h.eq]; rfl
theorem Aside.slot : t.slot = s.slot := by rw [h.eq]
theorem Aside.fresh : t.fresh = s.fresh := by rw [h.eq]
theorem Aside.outbox : t.outbox = s.outbox := by rw [h.eq]
theorem Aside.tenantOf (c : CoreId) : t.tenantOf c = s.tenantOf c := by rw [h.eq]; rfl
theorem Aside.trapEntry (c : CoreId) : t.trapEntry c = s.trapEntry c := by rw [h.eq]; rfl

/-- A walk reads tables, their uncorrectable errors and its root, and none of these has changed. -/
theorem Aside.walk (c : CoreId) (va : Nat) (k : Kind) : t.walk c va k = s.walk c va k := by
  unfold State.walk
  rw [h.hbm, h.bad, h.core]

end aside

theorem aside_softHbm (s : State) (a n : Nat) : Aside s (s.softHbm a n) := ⟨rfl, rfl⟩

theorem aside_pathsUsed (s : State) (w : Bool) (l : List Nat) : Aside s (s.pathsUsed w l) := by
  cases w <;> exact ⟨rfl, rfl⟩

theorem aside_walkSoft (s : State) (root va : Nat) : Aside s (s.walkSoft root va) :=
  .foldl _ (fun s a => aside_softHbm s a 8) _ s

theorem aside_walked (s : State) (c : CoreId) (va : Nat) : Aside s (s.walked c va) := aside_walkSoft s _ va

end Sys2Proof.Machine
end

section
/-! SUPPORT. The page walks of a thread and of a stream's generator (O30). -/

namespace Sys2Proof.Machine

open Sys2Proof.Claims

/-! ## The leaf's write -/

theorem State.core_walkWrite (s : State) (ea e : Nat) (ch : Bool) (c : CoreId) : (s.walkWrite ea e ch).core c = s.core c := by
  unfold State.walkWrite; split <;> rfl

theorem State.pool_walkWrite (s : State) (ea e : Nat) (ch : Bool) : (s.walkWrite ea e ch).pool = s.pool := by
  unfold State.walkWrite; split <;> rfl

theorem State.slot_walkWrite (s : State) (ea e : Nat) (ch : Bool) : (s.walkWrite ea e ch).slot = s.slot := by
  unfold State.walkWrite; split <;> rfl

theorem State.fresh_walkWrite (s : State) (ea e : Nat) (ch : Bool) : (s.walkWrite ea e ch).fresh = s.fresh := by
  unfold State.walkWrite; split <;> rfl

theorem State.tenantOf_walkWrite (s : State) (ea e : Nat) (ch : Bool) (c : CoreId) : (s.walkWrite ea e ch).tenantOf c = s.tenantOf c := by
  unfold State.walkWrite; split <;> rfl

/-- A walk writes the 8 bytes of its leaf, where A or D changes, and no other byte (R253, R254). -/
theorem State.get_walkWrite (s : State) (ea e : Nat) (ch : Bool) {a : Nat} (h : ¬(ea ≤ a ∧ a < ea + 8 ∧ ch = true)) :
    Memory.get (s.walkWrite ea e ch).hbm a = Memory.get s.hbm a := by
  unfold State.walkWrite
  split
  · next hc => exact Memory.get_writeN_ne 8 _ _ _ _ (fun hr => h ⟨hr.1, hr.2, hc⟩)
  · rfl

/-! ## A trap in a state that reads have left -/

/-- A trap that is taken after reads is the trap of the state before them. -/
theorem tookTrap_of_aside {s u t : State} {c : CoreId} {k : Tid} {code : BitVec 8} {eval : Word} {epc : VA} (h : Aside s u)
    (ht : TookTrap u t c k code eval epc) : TookTrap s t c k code eval epc := by
  unfold TookTrap SameMem at ht ⊢
  simpa only [h.thr, h.core, h.hbm, h.pool, h.trapEntry] using ht

/-! ## The walk of a thread -/

/-- The walk's end: entry z in the TLB, and the thread READY at the same word. -/
def State.walkFilled (s : State) (c : CoreId) (k : Tid) (z : Xlat) : State :=
  (s.modCore c (fun y => { y with tlb := tlbFill y.tlb z s.fresh })).tickFresh.modThr c k (fun th => th.wake s.slot)

theorem State.core_tickFresh (s : State) (c : CoreId) : s.tickFresh.core c = s.core c := rfl

theorem State.thr_walkFilled (s : State) (c : CoreId) (k : Tid) (z : Xlat) : (s.walkFilled c k z).thr c k = (s.thr c k).wake s.slot := by
  simp only [State.walkFilled, State.modThr_eq, State.modCore_eq, State.core_tickFresh, State.core_setCore, State.thr_setCore, Core.thr_setThr]
  rfl

theorem State.tlb_walkFilled (s : State) (c : CoreId) (k : Tid) (z : Xlat) :
    ((s.walkFilled c k z).core c).tlb = tlbFill (s.core c).tlb z s.fresh := by
  simp [State.walkFilled, State.core_tickFresh]

section thread
variable {s : State} {c : CoreId} {k : Tid} {va : VA} {kd : Kind} (hst : (s.thr c k).st = .parked) (hp : (s.thr c k).pend = .walk va kd)
include hst hp

theorem exec_threadWalk_leaf {ea e level frame : Nat} {ch w x d : Bool} (hl : s.walk c va.toNat kd = .leaf ea e ch level frame w x d) :
    exec (.pageWalk c (.thread k)) s = .next (((s.walked c va.toNat).walkWrite ea e ch).walkFilled c k
      (xlatOf va.toNat level frame w x d (s.tenantOf c))) := by
  have hw := aside_walked s c va.toNat
  have ht := ((s.walked c va.toNat).tenantOf_walkWrite ea e ch c).trans (hw.tenantOf c)
  show s.walkThread c k = _
  simp only [State.walkThread, hst, hp, hw.walk, hl, State.walkFilled, ht]
  rfl

theorem exec_threadWalk_fault {code : BitVec 8} {ea : Nat} (hf : s.walk c va.toNat kd = .fault code ea) :
    exec (.pageWalk c (.thread k)) s = .next ((s.walked c va.toNat).trapAt c k code (walkEval code ea va.toNat kd) (s.thr c k).pc) := by
  have hw := aside_walked s c va.toNat
  show s.walkThread c k = _
  simp only [State.walkThread, hst, hp, hw.walk, hf, hw.thr]

theorem exec_threadWalk_absent (ha : s.walk c va.toNat kd = .absent) : exec (.pageWalk c (.thread k)) s = .fault .absentPhysical := by
  have hw := aside_walked s c va.toNat
  show s.walkThread c k = _
  simp only [State.walkThread, hst, hp, hw.walk, ha]

end thread

theorem threadWalk : ThreadWalk := by
  intro s c k va kd hst hp
  have hw := aside_walked s c va.toNat
  refine ⟨fun ea e ch level frame w x d hl => ?_, fun code ea hf => ?_, exec_threadWalk_absent hst hp⟩
  · refine ⟨_, exec_threadWalk_leaf hst hp hl, ?_, ?_, fun a h => ?_, ?_⟩
    · rw [State.thr_walkFilled, State.thr, State.core_walkWrite, State.slot_walkWrite, hw.core, hw.slot]
      rfl
    · exact (State.pool_walkWrite ..).trans hw.pool
    · exact (State.get_walkWrite _ _ _ _ h).trans (congrArg (Memory.get · a) hw.hbm)
    · rw [State.tlb_walkFilled, State.core_walkWrite, State.fresh_walkWrite, hw.core, hw.fresh]
  · exact ⟨_, exec_threadWalk_fault hst hp hf, tookTrap_of_aside hw (tookTrap_trapAt _ c k code _ _)⟩

/-! ## The walk of a generator -/

/-- A sink's next cell changes its writes and its place among the elements, and no count of cells. -/
theorem State.cells_emptyCell (s : State) (c : CoreId) (p : Payload) (n : Nat) (y : Strm) : (s.emptyCell c y p n).1.cells = y.cells := by
  induction n generalizing y with
  | zero => rfl
  | succ n ih =>
    unfold State.emptyCell
    split
    · exact ih _
    · rfl

theorem State.cells_sinkCell (s : State) (c : CoreId) (y : Strm) (cell : Cell) : (s.sinkCell c y cell).1.cells = y.cells := by
  have h := s.cells_emptyCell c cell.data (y.upTo y.cells - y.elems) y
  unfold State.sinkCell
  split
  · next z r e => rw [e] at h; exact h
  · next z e =>
    rw [e] at h
    split <;> exact h

theorem State.strms_sinkIssue (s : State) (c : CoreId) (k : StrmId) (z : Strm) : ((s.sinkIssue c k z).core c).strms[k] = z := by
  unfold State.sinkIssue
  dsimp only
  rw [State.modCore_eq, State.core_setCore]
  split
  · exact Core.strms_modStrm ..
  · exact (Core.strms_storerUsed _ _ _ k).trans (Core.strms_modStrm ..)

theorem State.cells_sinkUpTo (s : State) (c : CoreId) (k : StrmId) :
    ((s.sinkUpTo c k).core c).strms[k].cells = ((s.core c).strms[k]).cells := by
  unfold State.sinkUpTo
  split
  · rw [State.strms_sinkIssue]
    exact s.cells_sinkCell c _ _
  · rfl

/-- A stream that freezes keeps its counters. -/
theorem State.strms_freezeStrm (s : State) (c : CoreId) (k : StrmId) (code : BitVec 8) (a : Nat) (wr : Bool) :
    ((s.freezeStrm c k code a wr).core c).strms[k] = { (s.core c).strms[k] with st := .frozen, fault := some (code, a), walk := none } := by
  simp [State.freezeStrm, State.record, Core.modStrm]

section stream
variable {s : State} {c : CoreId} {k : StrmId} {va : VA} {kd : Kind} (hst : ((s.core c).strms[k]).st = .running)
  (hp : ((s.core c).strms[k]).walk = some (va, kd))
include hst hp

theorem exec_streamWalk_leaf {ea e level frame : Nat} {ch w x d : Bool} (hl : s.walk c va.toNat kd = .leaf ea e ch level frame w x d) :
    let z := xlatOf va.toNat level frame w x d (s.tenantOf c)
    exec (.pageWalk c (.stream k)) s = .next (((s.walked c va.toNat).walkWrite ea e ch).modCore c (fun x => x.modStrm k (fun y => { y with
      walk := none, extents := y.extents.filter (fun q => !(q.block == z.block && q.no == z.no)) ++ [z] }))) := by
  have hw := aside_walked s c va.toNat
  have ht := ((s.walked c va.toNat).tenantOf_walkWrite ea e ch c).trans (hw.tenantOf c)
  show execPageWalk c (.stream k) s = _
  simp only [execPageWalk, hst, hp, hw.walk, hl, ht]

theorem exec_streamWalk_fault {code : BitVec 8} {ea : Nat} (hf : s.walk c va.toNat kd = .fault code ea) :
    exec (.pageWalk c (.stream k)) s = .next (if (s.walked c va.toNat).sinkWaits c k then s
      else ((s.walked c va.toNat).sinkUpTo c k).stopAt c k code va.toNat (kd == .write)) := by
  have hw := aside_walked s c va.toNat
  show execPageWalk c (.stream k) s = _
  simp only [execPageWalk, hst, hp, hw.walk, hf]

end stream

theorem streamWalk : StreamWalk := by
  intro s c k va kd hst hp
  have hw := aside_walked s c va.toNat
  refine ⟨fun ea e ch level frame w x d hl => ?_, fun code ea hf hs => ?_, fun code ea hf hs hn => ?_⟩
  · refine ⟨_, exec_streamWalk_leaf hst hp hl, (State.pool_walkWrite ..).trans hw.pool, ?_, ?_⟩
    · rw [State.modCore_eq, State.core_setCore, Core.strms_modStrm]
    · rw [State.modCore_eq, State.core_setCore, Core.strms_modStrm]
      exact List.mem_append_right _ (List.mem_singleton_self _)
  · rw [exec_streamWalk_fault hst hp hf, if_pos hs]
  · have hx := exec_streamWalk_fault hst hp hf
    rw [hs, if_neg Bool.false_ne_true, State.stopAt, hn, if_pos List.isEmpty_nil] at hx
    refine ⟨_, hx, SameMem.of_mem ?_, ?_, ?_⟩
    · rw [State.mem_freezeStrm, State.mem_sinkUpTo, hw.mem]
    · rw [State.strms_freezeStrm]
    · rw [State.strms_freezeStrm]
      show (((s.walked c va.toNat).sinkUpTo c k).core c).strms[k].cells = _
      rw [State.cells_sinkUpTo, hw.core]

/-- Settles O30: a walk reads tables that its own corrections leave as they were, and ends in the leaf's entry, in the fault, or beyond HBM. -/
theorem walks : Obligations.Walks := ⟨threadWalk, streamWalk⟩

end Sys2Proof.Machine
end
section
/-! SUPPORT. The Weir's ports, and what a freeze keeps (O44). -/

namespace Sys2Proof.Machine

open Sys2Proof.Claims

/-! ## Ports of a core -/

theorem Core.egAt_modEg (x : Core) {p : Nat} (f : Egress → Egress) (h : p < 128) : (x.modEg p f).egAt p = f (x.egAt p) :=
  vmod_same _ _ _ _ h

theorem Core.egAt_modEg_ne (x : Core) {p q : Nat} (f : Egress → Egress) (h : q ≠ p) : (x.modEg p f).egAt q = x.egAt q :=
  vmod_other _ _ _ _ _ h.symm

theorem Core.ingAt_modIng (x : Core) {p : Nat} (f : Ingress → Ingress) (h : p < 128) : (x.modIng p f).ingAt p = f (x.ingAt p) :=
  vmod_same _ _ _ _ h

theorem Core.ingAt_modIng_ne (x : Core) {p q : Nat} (f : Ingress → Ingress) (h : q ≠ p) : (x.modIng p f).ingAt q = x.ingAt q :=
  vmod_other _ _ _ _ _ h.symm

@[simp] theorem Core.egAt_modIng (x : Core) (p q : Nat) (f : Ingress → Ingress) : (x.modIng p f).egAt q = x.egAt q := rfl
@[simp] theorem Core.ingAt_modEg (x : Core) (p q : Nat) (f : Egress → Egress) : (x.modEg p f).ingAt q = x.ingAt q := rfl
@[simp] theorem Core.threads_modEg (x : Core) (p : Nat) (f : Egress → Egress) : (x.modEg p f).threads = x.threads := rfl
@[simp] theorem Core.threads_modIng (x : Core) (p : Nat) (f : Ingress → Ingress) : (x.modIng p f).threads = x.threads := rfl

/-- A change that touches no flight leaves the flights of every port. -/
theorem Core.flight_modEg (x : Core) (p q : Nat) (f : Egress → Egress) (hf : ∀ g, (f g).flight = g.flight) :
    ((x.modEg p f).egAt q).flight = (x.egAt q).flight := by
  by_cases hq : q = p
  · subst hq
    by_cases hp : q < 128
    · rw [Core.egAt_modEg _ _ hp, hf]
    · simp [Core.egAt, vget_ge _ _ _ hp]
  · rw [Core.egAt_modEg_ne _ _ hq]

/-! ## What is kept of one core -/

/-- Nothing but core c differs, and what g shows of it is as before. -/
def KeptIn {β : Type} (g : Core → β) (c : CoreId) (s t : State) : Prop := t = s.setCore c (t.core c) ∧ g (t.core c) = g (s.core c)

section KeptIn

variable {β : Type} {g : Core → β} {c : CoreId} {s t u : State}

theorem KeptIn.refl (g : Core → β) (c : CoreId) (s : State) : KeptIn g c s s := ⟨by simp, rfl⟩

theorem KeptIn.setCore {x : Core} (h : g x = g (s.core c)) : KeptIn g c s (s.setCore c x) := ⟨by simp, by simpa using h⟩

theorem KeptIn.trans (h : KeptIn g c s t) (h' : KeptIn g c t u) : KeptIn g c s u := by
  obtain ⟨ht, hg⟩ := h
  obtain ⟨hu, hg'⟩ := h'
  refine ⟨?_, hg'.trans hg⟩
  rw [hu, ht]
  simp

theorem KeptIn.foldl {α : Type} (f : State → α → State) (h : ∀ s a, KeptIn g c s (f s a)) (l : List α) (s : State) :
    KeptIn g c s (l.foldl f s) := by
  induction l generalizing s with
  | nil => exact .refl ..
  | cons a l ih => exact (h s a).trans (ih _)

theorem KeptIn.core_ne (h : KeptIn g c s t) {j : CoreId} (hj : j ≠ c) : t.core j = s.core j := by
  rw [h.1, State.core_setCore_ne _ _ _ _ hj]

theorem KeptIn.slot (h : KeptIn g c s t) : t.slot = s.slot := by
  rw [h.1]
  rfl

theorem KeptIn.xbar (h : KeptIn g c s t) : t.xbar = s.xbar := by
  rw [h.1]
  rfl

theorem KeptIn.sameMem (h : KeptIn g c s t) : SameMem s t := by
  rw [h.1]
  exact SameMem.setCore ..

theorem KeptIn.onlyCore (h : KeptIn g c s t) : OnlyCore c s t := ⟨h.1, h.sameMem⟩

theorem KeptIn.seen (h : KeptIn g c s t) : t.atStart.core c = s.atStart.core c := by
  rw [h.1]
  rfl

end KeptIn

/-- The threads of a core, and the egress sides of its ports. -/
def Core.held (x : Core) : Vector Thread 16 × Vector Egress 128 := (x.threads, x.eg)

/-- The threads of a core, and both sides of its ports. -/
def Core.heldAll (x : Core) : Vector Thread 16 × Vector Egress 128 × Vector Ingress 128 := (x.threads, x.eg, x.ing)

theorem keptIn_freezeElem (s : State) (c : CoreId) (e : ElemId) (kind : BitVec 8) (entry field : Nat) (arg : BitVec 64) :
    KeptIn Core.heldAll c s (s.freezeElem c e kind entry field arg) := by
  simp only [State.freezeElem, State.record, State.modCore_eq, State.setCore_setCore]
  exact .setCore (by simp [Core.heldAll, Core.modElem])

theorem keptIn_freezeUnit (s : State) (c : CoreId) (p : Nat) (kind : BitVec 8) (h : Header) (row : Option (Nat × Bool × Nat)) :
    KeptIn Core.heldAll c s (s.freezeUnit c p kind h row) := by
  unfold State.freezeUnit
  split
  · simp only [State.freezeMe, State.record, State.modCore_eq, State.setCore_setCore]
    exact .setCore (by simp [Core.heldAll, Core.modMe])
  · split
    · simp only [State.freezeRb, State.record, State.modCore_eq, State.setCore_setCore]
      exact .setCore (by simp [Core.heldAll, Core.modRb])
    · split <;> simp only [State.record, State.modCore_eq, State.setCore_setCore] <;>
        exact .setCore (by simp [Core.heldAll, Core.modElem])

theorem KeptIn.held {c : CoreId} {s t : State} (h : KeptIn Core.heldAll c s t) : KeptIn Core.held c s t := by
  obtain ⟨ht, hg⟩ := h
  simp only [Core.heldAll, Prod.mk.injEq] at hg
  exact ⟨ht, by simp [Core.held, hg]⟩

theorem keptIn_freezeIng (s : State) (c : CoreId) (p : Nat) (kind : BitVec 8) (h : Header) :
    KeptIn Core.held c s (s.freezeIng c p kind h) := by
  unfold State.freezeIng
  exact .trans (.setCore (by simp [Core.held, Core.modIng])) (keptIn_freezeUnit ..).held

theorem KeptIn.egAt {c : CoreId} {s t : State} (h : KeptIn Core.held c s t) (p : Nat) : (t.core c).egAt p = (s.core c).egAt p := by
  have hg := h.2
  simp only [Core.held, Prod.mk.injEq] at hg
  simp [Core.egAt, hg]

theorem KeptIn.ingAt {c : CoreId} {s t : State} (h : KeptIn Core.heldAll c s t) (p : Nat) : (t.core c).ingAt p = (s.core c).ingAt p := by
  have hg := h.2
  simp only [Core.heldAll, Prod.mk.injEq] at hg
  simp [Core.ingAt, hg]

theorem KeptIn.threads {c : CoreId} {s t : State} (h : KeptIn Core.held c s t) : (t.core c).threads = (s.core c).threads := by
  have hg := h.2
  simp only [Core.held, Prod.mk.injEq] at hg
  exact hg.1

/-! ## What a slot's matching adds to the flights (R175-R179) -/

/-- Port o of y has the flight of x and at most n cells more, each with this slot. -/
def Core.Gains (x y : Core) (slot o n : Nat) : Prop :=
  ∃ l, (y.egAt o).flight = (x.egAt o).flight ++ l ∧ l.length ≤ n ∧ ∀ z ∈ l, z.1 = slot

section Matching

variable {x y z : Core} {slot o n m : Nat}

theorem Core.Gains.of_eq (h : (y.egAt o).flight = (x.egAt o).flight) : x.Gains y slot o n := ⟨[], by simp [h], by simp, by simp⟩

theorem Core.Gains.trans (h : x.Gains y slot o n) (h' : y.Gains z slot o m) : x.Gains z slot o (n + m) := by
  obtain ⟨l, hl, hn, hs⟩ := h
  obtain ⟨l', hl', hm, hs'⟩ := h'
  refine ⟨l ++ l', by rw [hl', hl, List.append_assoc], by rw [List.length_append]; omega, fun z hz => ?_⟩
  rcases List.mem_append.1 hz with hz | hz
  · exact hs z hz
  · exact hs' z hz

theorem Core.Gains.mono (h : x.Gains y slot o n) (hnm : n ≤ m) : x.Gains y slot o m := by
  obtain ⟨l, hl, hn, hs⟩ := h
  exact ⟨l, hl, hn.trans hnm, hs⟩

/-- One cell joins the flight of port q. -/
theorem Core.gains_modEg (x : Core) (slot o q : Nat) (y : Cell) :
    x.Gains (x.modEg q (fun g => { g with flight := g.flight ++ [(slot, y)] })) slot o (if q = o then 1 else 0) := by
  by_cases hq : q = o
  · subst hq
    by_cases hp : q < 128
    · exact ⟨[(slot, y)], by rw [Core.egAt_modEg _ _ hp], by simp, by simp⟩
    · exact .of_eq (by simp [Core.egAt, vget_ge _ _ _ hp])
  · exact .of_eq (by rw [Core.egAt_modEg_ne _ _ (Ne.symm hq)])

theorem Core.Gains.modIng (h : x.Gains y slot o n) (p : Nat) (f : Ingress → Ingress) : x.Gains (y.modIng p f) slot o n := h

/-- A number of an egress port, as a test of requests. -/
def Req.isFor (o : Nat) (r : Req) : Bool := r.out == o

theorem Core.gains_copies (a : List Req) (x : Core) (slot o : Nat) :
    x.Gains (a.foldl (fun x y => x.modEg y.out (fun g => { g with
      flight := g.flight ++ [(slot, { y.cell with h := { y.cell.h with ep := BitVec.ofNat 7 y.out } })] })) x) slot o (a.countP (Req.isFor o)) := by
  induction a generalizing x with
  | nil => exact .of_eq rfl
  | cons r a ih =>
    refine ((Core.gains_modEg ..).trans (ih _)).mono ?_
    simp [List.countP_cons, Req.isFor, Nat.add_comm]

theorem Core.gains_carry (x : Core) (slot o : Nat) (a : List Req) : x.Gains (x.carry slot a) slot o (a.countP (Req.isFor o)) := by
  cases a with
  | nil => exact .of_eq rfl
  | cons r a =>
    simp only [Core.carry]
    split
    · exact (Core.gains_copies (r :: a) x slot o).modIng _ _
    · refine ((Core.gains_modEg x slot o r.out r.cell).mono ?_).modIng _ _
      simp only [List.countP_cons, Req.isFor, beq_iff_eq]
      omega

theorem Core.gains_carries (acc : List (List Req)) (x : Core) (slot o : Nat) :
    x.Gains (acc.foldl (fun y a => y.carry slot a) x) slot o (acc.flatten.countP (Req.isFor o)) := by
  induction acc generalizing x with
  | nil => exact .of_eq rfl
  | cons a acc ih =>
    rw [List.flatten_cons, List.countP_append]
    exact (Core.gains_carry x slot o a).trans (ih _)

theorem Core.threads_foldl {α : Type} (f : Core → α → Core) (h : ∀ x a, (f x a).threads = x.threads) (l : List α) (x : Core) :
    (l.foldl f x).threads = x.threads := by
  induction l generalizing x with
  | nil => rfl
  | cons a l ih => exact (ih _).trans (h x a)

@[simp] theorem Core.threads_carry (x : Core) (slot : Nat) (a : List Req) : (x.carry slot a).threads = x.threads := by
  cases a with
  | nil => rfl
  | cons r a =>
    simp only [Core.carry]
    split
    · exact Core.threads_foldl _ (fun _ _ => by rw [Core.threads_modEg]) (r :: a) x
    · simp

/-- Moving pointers leaves threads and flights. -/
theorem Core.movePointers_keeps (x : Core) (a : List Req) :
    (x.movePointers a).threads = x.threads ∧ ∀ o, ((x.movePointers a).egAt o).flight = (x.egAt o).flight := by
  have hf (l : List Req) (r : Req) (x : Core) (o : Nat) : ((l.foldl (fun x y => x.modEg y.out (fun g =>
      { g with grant := vset g.grant r.role (BitVec.ofNat 7 (y.inp + 1)) })) x).egAt o).flight = (x.egAt o).flight := by
    induction l generalizing x with
    | nil => rfl
    | cons b l ih => exact (ih _).trans (Core.flight_modEg _ _ _ _ fun _ => rfl)
  cases a with
  | nil => exact ⟨rfl, fun _ => rfl⟩
  | cons r a =>
    simp only [Core.movePointers]
    split
    · exact ⟨rfl, fun _ => rfl⟩
    · exact ⟨Core.threads_foldl _ (fun _ _ => by rw [Core.threads_modEg]) (r :: a) x, fun o => hf (r :: a) r x o⟩

theorem Core.movesPointers_keeps (acc : List (List Req)) (x : Core) :
    (acc.foldl (fun y a => y.movePointers a) x).threads = x.threads ∧
      ∀ o, ((acc.foldl (fun y a => y.movePointers a) x).egAt o).flight = (x.egAt o).flight := by
  induction acc generalizing x with
  | nil => exact ⟨rfl, fun _ => rfl⟩
  | cons a acc ih =>
    obtain ⟨ht, hf⟩ := Core.movePointers_keeps x a
    obtain ⟨it, jf⟩ := ih (x.movePointers a)
    exact ⟨it.trans ht, fun o => (jf o).trans (hf o)⟩

end Matching

/-! ### Requests, grants and accepts -/

theorem leastBy_mem {α : Type} (f : α → Nat) {l : List α} {y : α} (h : leastBy f l = some y) : y ∈ l := by
  have key (l : List α) (a : Option α) (h : l.foldl (fun acc y => match acc with | none => some y | some z => if f y < f z then some y else acc) a
      = some y) : y ∈ l ∨ a = some y := by
    induction l generalizing a with
    | nil => exact .inr h
    | cons b l ih =>
      rcases ih _ h with h | h
      · exact .inl (List.mem_cons_of_mem _ h)
      · cases a with
        | none => simp_all
        | some z =>
          simp only at h
          split at h
          · simp_all
          · exact .inr h
  exact (key l none h).resolve_right nofun

theorem choose_mem {l : List Req} {ptr : Nat → BitVec 7} {port : Req → Nat} {r : Req} (h : choose l ptr port = some r) : r ∈ l := by
  simp only [choose] at h
  split at h
  · exact List.mem_of_mem_filter (List.mem_of_mem_filter (leastBy_mem _ h))
  · exact List.mem_of_mem_filter (leastBy_mem _ h)

/-- The best heads of a port are heads of it. -/
theorem mem_of_best (l : List Req) (f : List Req → Req → List Req) (h : ∀ acc r y, y ∈ f acc r → y = r ∨ y ∈ acc) {y : Req} :
    ∀ a : List Req, y ∈ l.foldl f a → y ∈ l ∨ y ∈ a := by
  induction l with
  | nil => exact fun a hy => .inr hy
  | cons r l ih =>
    intro a hy
    rcases ih _ hy with hy | hy
    · exact .inl (List.mem_cons_of_mem _ hy)
    · rcases h _ _ _ hy with rfl | hy
      · exact .inl List.mem_cons_self
      · exact .inr hy

theorem Core.out_of_request {x0 x : Core} {slot p : Nat} {outs : List Nat} {r : Req} (h : r ∈ Core.requests x0 x slot p outs) :
    r.out ∈ outs := by
  simp only [Core.requests, List.mem_append] at h
  rcases h with h | h
  · have h := (mem_of_best _ _ (fun acc r y hy => by
      split at hy
      · simpa [or_comm] using hy
      · split at hy
        · exact .inr hy
        · obtain ⟨w, hw, rfl⟩ := List.mem_map.1 hy
          split
          · exact .inl rfl
          · exact .inr hw) [] h).resolve_right (by simp)
    obtain ⟨w, -, hw⟩ := List.mem_filterMap.1 h
    split at hw
    case isFalse => cases hw
    case isTrue hc =>
      cases hw
      simp only [Bool.and_eq_true, List.contains_iff_mem] at hc
      exact hc.1.1
  · split at h
    · simp at h
    · split at h
      · obtain ⟨i, hi, rfl⟩ := List.mem_map.1 h
        simp only [List.mem_filter, Bool.and_eq_true, List.contains_iff_mem] at hi
        exact hi.2.1.1.2
      · simp at h

theorem nodup_eraseDups : ∀ l : List Nat, l.eraseDups.Nodup
  | [] => by simp
  | a :: l => by
    rw [List.eraseDups_cons, List.nodup_cons]
    exact ⟨by simp, nodup_eraseDups _⟩
termination_by l => l.length
decreasing_by simpa using Nat.lt_succ_of_le (List.length_filter_le ..)

/-- A partial function that keeps an egress port's number gives at most one request a port. -/
theorem map_filterMap_sublist (f : Nat → Option Req) (h : ∀ o r, f o = some r → r.out = o) (l : List Nat) :
    ((l.filterMap f).map Req.out).Sublist l := by
  induction l with
  | nil => simp
  | cons o l ih =>
    cases hf : f o with
    | none => simpa [List.filterMap_cons, hf] using ih.cons o
    | some r => simpa [List.filterMap_cons, hf, h o r hf] using ih.cons_cons o

theorem Core.shareA_sublist (x : Core) (gr : List Req) : (x.shareA gr).Sublist gr := by
  unfold Core.shareA
  split
  · exact .refl _
  · exact List.filter_sublist

theorem Core.grants_spec (x : Core) (reqs : List Req) :
    ((x.grants reqs).map Req.out).Nodup ∧ ∀ r ∈ x.grants reqs, r.out ∈ reqs.map Req.out := by
  have hsub := x.shareA_sublist (((reqs.map (fun r => r.out)).eraseDups).filterMap (fun o =>
    choose (reqs.filter (fun r => r.out == o)) (fun cls => vget (x.egAt o).grant cls 0) (fun r => r.inp)))
  have hmap := (hsub.map Req.out).trans (map_filterMap_sublist _ (fun o r hr => by
    simpa using (List.mem_filter.1 (choose_mem hr)).2) _)
  exact ⟨hmap.nodup (nodup_eraseDups _), fun r hr => by simpa using hmap.subset (List.mem_map_of_mem hr)⟩

theorem Core.accepts_sublist (x : Core) (gr : List Req) (p : Nat) : (x.accepts gr p).Sublist (gr.filter (fun r => r.inp == p)) := by
  simp only [Core.accepts]
  split
  · exact List.filter_sublist
  · split
    case h_1 r hr => exact List.singleton_sublist.2 (List.mem_of_mem_filter (choose_mem hr))
    case h_2 => exact List.nil_sublist _

/-- The accepted requests of a pass. -/
def Core.accepted (x : Core) (gr : List Req) : List (List Req) := ((gr.map (fun r => r.inp)).eraseDups).map (fun p => x.accepts gr p)

theorem Core.mem_of_accepted {x : Core} {gr : List Req} {r : Req} (h : r ∈ (x.accepted gr).flatten) : r ∈ gr := by
  obtain ⟨a, ha, hr⟩ := List.mem_flatten.1 h
  obtain ⟨p, -, rfl⟩ := List.mem_map.1 ha
  exact List.mem_of_mem_filter ((x.accepts_sublist gr p).subset hr)

theorem Core.nodup_accepted (x : Core) {gr : List Req} (h : gr.Nodup) : (x.accepted gr).flatten.Nodup := by
  have hsub p := x.accepts_sublist gr p
  rw [Core.accepted, ← List.flatMap_def, List.nodup_flatMap]
  refine ⟨fun p _ => (hsub p).nodup (h.filter _), List.Nodup.pairwise_of_forall_ne (nodup_eraseDups _) fun p _ q _ hpq r hp hq => hpq ?_⟩
  have hp := (List.mem_filter.1 ((hsub p).subset hp)).2
  have hq := (List.mem_filter.1 ((hsub q).subset hq)).2
  simp only [beq_iff_eq] at hp hq
  exact hp.symm.trans hq

/-- An egress port accepts at most one cell in a pass (R175). -/
theorem Core.count_accepted (x : Core) {gr : List Req} (h : (gr.map Req.out).Nodup) (o : Nat) : (x.accepted gr).flatten.countP (Req.isFor o) ≤ 1 := by
  rw [List.countP_eq_length_filter]
  have hn := (x.nodup_accepted (List.Nodup.of_map _ h)).filter (Req.isFor o)
  have hm : ∀ r ∈ (x.accepted gr).flatten.filter (Req.isFor o), r ∈ gr ∧ r.out = o := fun r hr => by
    obtain ⟨hr, ho⟩ := List.mem_filter.1 hr
    exact ⟨Core.mem_of_accepted hr, by simpa [Req.isFor] using ho⟩
  match hl : (x.accepted gr).flatten.filter (Req.isFor o) with
  | [] => simp
  | [_] => simp
  | a :: b :: l =>
    rw [hl] at hn hm
    have ha := hm a (by simp)
    have hb := hm b (by simp)
    have : a = b := List.inj_on_of_nodup_map h ha.1 hb.1 (ha.2.trans hb.2.symm)
    simp [this] at hn

/-! ### Passes -/

/-- 1 for a port of a list, 0 for another. -/
def seat (l : List Nat) (o : Nat) : Nat := if o ∈ l then 1 else 0

theorem Core.pass_fst (x0 x : Core) (slot : Nat) (first : Bool) (ins outs : List Nat) :
    (Core.pass x0 x slot first ins outs).1 =
      (let acc := x.accepted (x.grants (ins.flatMap (fun p => Core.requests x0 x slot p outs)))
       let y := acc.foldl (fun y a => y.carry slot a) x
       if first then acc.foldl (fun y a => y.movePointers a) y else y) := rfl

theorem Core.pass_outs (x0 x : Core) (slot : Nat) (first : Bool) (ins outs : List Nat) :
    (Core.pass x0 x slot first ins outs).2.2 = outs.filter (fun o => !(x.accepted (x.grants (ins.flatMap (fun p =>
      Core.requests x0 x slot p outs)))).any (fun a => a.any (Req.isFor o))) := rfl

/-- What a pass gives a port, it takes from the ports that the next pass can match. -/
theorem Core.pass_gains (x0 x : Core) (slot : Nat) (first : Bool) (ins outs : List Nat) (o : Nat) :
    (Core.pass x0 x slot first ins outs).1.threads = x.threads ∧
    ∃ n, n + seat (Core.pass x0 x slot first ins outs).2.2 o ≤ seat outs o ∧ x.Gains (Core.pass x0 x slot first ins outs).1 slot o n := by
  rw [Core.pass_fst, Core.pass_outs]
  generalize hreq : ins.flatMap (fun p => Core.requests x0 x slot p outs) = reqs
  obtain ⟨hnd, hmem⟩ := x.grants_spec reqs
  have hcount := x.count_accepted hnd o
  have hgain := Core.gains_carries (x.accepted (x.grants reqs)) x slot o
  have houts : ∀ r ∈ (x.accepted (x.grants reqs)).flatten, r.out ∈ outs := fun r hr => by
    obtain ⟨w, hw, he⟩ := List.mem_map.1 (hmem r (Core.mem_of_accepted hr))
    rw [← hreq] at hw
    obtain ⟨p, -, hw⟩ := List.mem_flatMap.1 hw
    exact he ▸ Core.out_of_request hw
  generalize x.accepted (x.grants reqs) = acc at *
  have hthr : (acc.foldl (fun y a => y.carry slot a) x).threads = x.threads := Core.threads_foldl _ (by simp) acc x
  refine ⟨?_, acc.flatten.countP (Req.isFor o), ?_, ?_⟩
  · cases first
    · exact hthr
    · exact (Core.movesPointers_keeps acc _).1.trans hthr
  · by_cases hz : acc.flatten.countP (Req.isFor o) = 0
    · rw [hz]
      simp only [seat, List.mem_filter]
      split <;> split <;> simp_all
    · obtain ⟨r, hr, ho⟩ := List.countP_pos_iff.1 (Nat.pos_of_ne_zero hz)
      have ho' : r.out = o := by simpa [Req.isFor] using ho
      have hin : o ∈ outs := ho' ▸ houts r hr
      obtain ⟨a, ha, hr⟩ := List.mem_flatten.1 hr
      have hany : acc.any (fun a => a.any (Req.isFor o)) = true := List.any_eq_true.2 ⟨a, ha, List.any_eq_true.2 ⟨r, hr, ho⟩⟩
      simpa [seat, hin, List.mem_filter, hany] using hcount
  · cases first
    · exact hgain
    · exact hgain.trans (m := 0) (.of_eq ((Core.movesPointers_keeps acc _).2 o))

/-- A slot's three passes give every egress port one cell at most (R175, R179). -/
theorem Core.matchSlot_gains (x0 x : Core) (slot : Nat) (shut : List Nat) (o : Nat) :
    (Core.matchSlot x0 x slot shut).threads = x.threads ∧ x.Gains (Core.matchSlot x0 x slot shut) slot o 1 := by
  unfold Core.matchSlot
  extract_lets ins outs
  obtain ⟨ht1, n1, hn1, hg1⟩ := Core.pass_gains x0 x slot true ins outs o
  generalize Core.pass x0 x slot true ins outs = p1 at *
  obtain ⟨ht2, n2, hn2, hg2⟩ := Core.pass_gains x0 p1.1 slot false p1.2.1 p1.2.2 o
  generalize hp2 : Core.pass x0 p1.1 slot false p1.2.1 p1.2.2 = p2 at *
  obtain ⟨ht3, n3, hn3, hg3⟩ := Core.pass_gains x0 p2.1 slot false p2.2.1 p2.2.2 o
  have h1 : seat outs o ≤ 1 := by unfold seat; split <;> simp
  obtain ⟨y1, i1, o1⟩ := p1
  simp only [hp2]
  obtain ⟨y2, i2, o2⟩ := p2
  exact ⟨ht3.trans (ht2.trans ht1), ((hg1.trans hg2).trans hg3).mono (by omega)⟩

end Sys2Proof.Machine
end
section
/-! SUPPORT. A lone head crosses, and matching as a step (O44). -/

namespace Sys2Proof.Machine

open Sys2Proof.Claims

/-! ### A lone head -/

theorem choose_singleton (r : Req) (ptr : Nat → BitVec 7) (port : Req → Nat) : choose [r] ptr port = some r := by
  simp only [choose, List.foldl_cons, List.foldl_nil, Nat.zero_max, List.filter_cons, beq_self_eq_true, if_true, List.filter_nil]
  split <;> rfl

theorem Core.grants_singleton (x : Core) (r : Req) : x.grants [r] = [r] := by
  have hd : ([r].map (fun r => r.out)).eraseDups = [r.out] := by simp [List.eraseDups_cons]
  rw [Core.grants, hd]
  simp only [List.filterMap_cons, List.filterMap_nil, List.filter_cons, List.filter_nil, beq_self_eq_true, if_true, choose_singleton]
  unfold Core.shareA
  split
  · rfl
  · next h =>
    have h80 : r.out = 80 := by
      have h1 := List.find?_some h
      have h2 := List.mem_of_find?_eq_some h
      simp_all
    simp [h80]

theorem Core.accepts_singleton (x : Core) {r : Req} (hm : r.mcast = false) : x.accepts [r] r.inp = [r] := by
  simp [Core.accepts, hm, choose_singleton]

/-- The request of the only head of a port. -/
def Core.loneReq (x : Core) (p : Nat) (y : Cell) : Req :=
  let age := (Sparse.getD (x.ingAt p).qstat (qKey y.h.ep y.h.vc) {}).age
  { inp := p, out := y.h.ep.toNat, cell := y, age := age, role := x.roleOf y, urgent := decide (x.agelim.toNat ≤ age), mcast := false }

theorem Core.requests_lone {x0 x : Core} {slot p : Nat} {outs : List Nat} {q : Queued} (hb : (x.ingAt p).buf = [q]) (hm : (x.ingAt p).mcq = [])
    (hs : q.cell.m.since ≤ slot) (ho : q.cell.h.ep.toNat ∈ outs) (hsp : x0.space q.cell.h.ep.toNat q.cell = true)
    (hf : x.fits q.cell.h.ep.toNat q.cell = true) : Core.requests x0 x slot p outs = [x.loneReq p q.cell] := by
  simp [Core.requests, Ingress.heads, Core.loneReq, hb, hm, hs, ho, hsp, hf]

theorem Core.pass_nil (x0 x : Core) (slot : Nat) (first : Bool) (outs : List Nat) :
    (Core.pass x0 x slot first [] outs).1 = x ∧ (Core.pass x0 x slot first [] outs).2.1 = [] := by
  cases first <;> simp [Core.pass, Core.grants, Core.shareA]

/-- The lone head's pass: it crosses, and its port takes no further part. -/
theorem Core.pass_lone {x0 x : Core} {slot p : Nat} {outs : List Nat} {r : Req} (hr : Core.requests x0 x slot p outs = [r]) (hp : r.inp = p)
    (hm : r.mcast = false) :
    (Core.pass x0 x slot true [p] outs).1 = (x.carry slot [r]).movePointers [r] ∧ (Core.pass x0 x slot true [p] outs).2.1 = [] := by
  subst hp
  simp [Core.pass, hr, Core.grants_singleton, List.eraseDups_cons, Core.accepts_singleton x hm]

theorem filter_range_eq_singleton {n p : Nat} (f : Nat → Bool) (hp : p < n) (hf : f p = true) (hn : ∀ i, i < n → i ≠ p → f i = false) :
    (List.range n).filter f = [p] := by
  rw [List.filter_congr (q := fun i => i == p) (fun i hi => ?_)]
  · rw [List.filter_beq, List.count_eq_one_of_mem List.nodup_range (List.mem_range.2 hp)]
    rfl
  · by_cases h : i = p
    · simp [h, hf]
    · simp [h, hn i (List.mem_range.1 hi) h]

theorem Core.matchSlot_lone {x0 x : Core} {slot : Nat} {p : PortId} {q : Queued} (hb : (x.ingAt p.val).buf = [q]) (hm : (x.ingAt p.val).mcq = [])
    (hj : ∀ j : PortId, j ≠ p → (x.ingAt j.val).buf = [] ∧ (x.ingAt j.val).mcq = []) (hs : q.cell.m.since ≤ slot)
    (hfl : ∀ y ∈ (x.egAt q.cell.h.ep.toNat).flight, y.1 ≠ slot) (hsp : x0.space q.cell.h.ep.toNat q.cell = true)
    (hf : x.fits q.cell.h.ep.toNat q.cell = true) :
    Core.matchSlot x0 x slot [] = (x.carry slot [x.loneReq p.val q.cell]).movePointers [x.loneReq p.val q.cell] := by
  have hins : (List.range 128).filter (fun i => (!(x.ingAt i).buf.isEmpty || !(x.ingAt i).mcq.isEmpty) && !([] : List Nat).contains i) = [p.val] := by
    refine filter_range_eq_singleton _ p.isLt (by simp [hb]) fun i hi hne => ?_
    obtain ⟨h1, h2⟩ := hj ⟨i, hi⟩ (fun h => hne (congrArg Fin.val h))
    simp [h1, h2]
  have hout : q.cell.h.ep.toNat ∈ (List.range 128).filter (fun o => !(x.egAt o).flight.any (fun y => y.1 == slot)) := by
    simpa [q.cell.h.ep.isLt] using fun a b h => hfl (a, b) h
  have hr := Core.requests_lone hb hm hs hout hsp hf
  obtain ⟨h1, h2⟩ := Core.pass_lone hr rfl rfl
  simp only [Core.matchSlot, hins]
  generalize Core.pass x0 x slot true _ _ = p1 at *
  obtain ⟨y1, i1, o1⟩ := p1
  subst h1 h2
  have h3 := Core.pass_nil x0 ((x.carry slot [x.loneReq p.val q.cell]).movePointers [x.loneReq p.val q.cell]) slot false o1
  generalize Core.pass x0 _ slot false [] o1 = p2 at *
  obtain ⟨y2, i2, o2⟩ := p2
  obtain ⟨h3, h4⟩ := h3
  subst h3 h4
  exact (Core.pass_nil ..).1

theorem Core.carry_lone (x : Core) (slot : Nat) {p : Nat} {y : Cell} (q : Queued) (hq : q.cell = y) (hp : p < 128) (hb : (x.ingAt p).buf = [q]) :
    ((x.carry slot [x.loneReq p y]).egAt y.h.ep.toNat).flight = (x.egAt y.h.ep.toNat).flight ++ [(slot, y)] ∧
      ((x.carry slot [x.loneReq p y]).ingAt p).buf = [] := by
  have hep : y.h.ep.toNat < 128 := y.h.ep.isLt
  subst hq
  constructor
  · simp [Core.carry, Core.loneReq, Core.egAt_modEg _ _ hep]
  · simp [Core.carry, Core.loneReq, Core.ingAt_modIng _ _ hp, hb]

theorem Core.buf_movePointers (x : Core) (r : Req) (p : Nat) : ((x.movePointers [r]).ingAt p).buf = (x.ingAt p).buf := by
  simp only [Core.movePointers]
  split
  · rfl
  · by_cases h : p = r.inp
    · subst h
      by_cases hp : r.inp < 128
      · rw [Core.ingAt_modIng _ _ hp]
        rfl
      · simp [Core.ingAt, vget_ge _ _ _ hp]
    · rw [Core.ingAt_modIng_ne _ _ h]
      rfl

/-! ### Matching as a step -/

/-- The ports that would read a bad VC table entry freeze. -/
def State.shutPorts (s : State) (c : CoreId) (l : List (Nat × Header)) : State :=
  l.foldl (fun s y => if ((s.core c).ingAt y.1).frozen.isSome then s else s.freezeIng c y.1 kECC y.2) s

/-- The elements freeze whose maps do not take a waiting head. -/
def State.refuseHeads (s : State) (c : CoreId) (l : List (ElemId × Header)) : State :=
  l.foldl (fun s y => if (s.core c).elems[y.1].frozen.isSome then s else s.freezeElem c y.1 kPORT 0 6 y.2.word) s

theorem keptIn_shutPorts (s : State) (c : CoreId) (l : List (Nat × Header)) : KeptIn Core.held c s (s.shutPorts c l) := by
  refine KeptIn.foldl _ (fun s a => ?_) _ _
  split
  · exact .refl ..
  · exact keptIn_freezeIng ..

theorem keptIn_refuseHeads (s : State) (c : CoreId) (l : List (ElemId × Header)) : KeptIn Core.heldAll c s (s.refuseHeads c l) := by
  refine KeptIn.foldl _ (fun s a => ?_) _ _
  split
  · exact .refl ..
  · exact keptIn_freezeElem ..

theorem exec_weirMatch_halted {s : State} {c : CoreId} (h : ((s.core c).weirHalted && !(s.core c).weirCredit) = true) :
    exec (.weirMatch c) s = .next s := by
  show execWeirMatch c s = _
  simp only [execWeirMatch, h, if_true]

/-- WEIR_MATCH of a Weir that runs: freezes that keep the egress ports, the slot's matching, and freezes of elements. -/
theorem exec_weirMatch_runs {s : State} {c : CoreId} (h : ((s.core c).weirHalted && !(s.core c).weirCredit) = false) :
    exec (.weirMatch c) s = .next (
      let s' := s.shutPorts c (s.vcShut c)
      (s'.setCore c (Core.matchSlot (s'.atStart.core c) (s'.core c) s'.slot ((s.vcShut c).map (fun y => y.1)))).refuseHeads c
        ((s.core c).unmapped s.slot)) := by
  show execWeirMatch c s = _
  simp only [execWeirMatch, h, Bool.false_eq_true, if_false]
  rfl

theorem weirMatch_gains (s : State) (c : CoreId) (p : PortId) :
    ∃ t, exec (.weirMatch c) s = .next t ∧ SameMem s t ∧ (∀ k, t.thr c k = s.thr c k) ∧ (∀ j, j ≠ c → t.core j = s.core j) ∧
      ((s.core c).weirHalted = true → (s.core c).weirCredit = false → t = s) ∧
      ∃ l, ((t.core c).egAt p.val).flight = ((s.core c).egAt p.val).flight ++ l ∧ l.length ≤ 1 ∧ ∀ y ∈ l, y.1 = s.slot := by
  by_cases h : ((s.core c).weirHalted && !(s.core c).weirCredit) = true
  · refine ⟨s, ?_, SameMem.self s, fun _ => rfl, fun _ _ => rfl, fun _ _ => rfl, [], by simp, by simp, by simp⟩
    exact exec_weirMatch_halted h
  · simp only [Bool.not_eq_true] at h
    have he := exec_weirMatch_runs h
    have hs' := keptIn_shutPorts s c (s.vcShut c)
    extract_lets s' at he
    have ht := keptIn_refuseHeads (s'.setCore c (Core.matchSlot (s'.atStart.core c) (s'.core c) s'.slot ((s.vcShut c).map (fun y => y.1)))) c
      ((s.core c).unmapped s.slot)
    replace hs' : KeptIn Core.held c s s' := hs'
    generalize State.refuseHeads _ c _ = t at he ht
    obtain ⟨hthr, l, hl, hn, hslot⟩ := Core.matchSlot_gains (s'.atStart.core c) (s'.core c) s'.slot ((s.vcShut c).map (fun y => y.1)) p.val
    have hset : KeptIn (fun _ => ()) c s' (s'.setCore c (Core.matchSlot (s'.atStart.core c) (s'.core c) s'.slot ((s.vcShut c).map (fun y => y.1)))) :=
      .setCore rfl
    have hm : SameMem s t := Sys2Proof.Machine.SameMem.of_mem (execWeirMatch_leavesMem c s t he)
    refine ⟨t, he, hm, fun k => ?_, fun j hj => ?_, fun h1 h2 => by simp [h1, h2] at h, l, ?_, hn, fun y hy => (hslot y hy).trans hs'.slot⟩
    · have h2 := ht.held.threads
      rw [State.core_setCore, hthr, hs'.threads] at h2
      simp only [State.thr, Core.thr, h2]
    · rw [ht.core_ne hj, hset.core_ne hj, hs'.core_ne hj]
    · rw [ht.held.egAt, State.core_setCore, hl, hs'.egAt]

theorem weirMatch_lone {s : State} {c : CoreId} {p : PortId} {q : Queued} (hh : (s.core c).weirHalted = false)
    (hb : ((s.core c).ingAt p.val).buf = [q]) (hm : ((s.core c).ingAt p.val).mcq = [])
    (hj : ∀ j : PortId, j ≠ p → ((s.core c).ingAt j.val).buf = [] ∧ ((s.core c).ingAt j.val).mcq = []) (hs : q.cell.m.since ≤ s.slot)
    (hfl : ∀ y ∈ ((s.core c).egAt q.cell.h.ep.toNat).flight, y.1 ≠ s.slot) (hsp : (s.atStart.core c).space q.cell.h.ep.toNat q.cell = true)
    (hf : (s.core c).fits q.cell.h.ep.toNat q.cell = true) (hv : s.vcShut c = []) :
    ∃ t, exec (.weirMatch c) s = .next t ∧
      ((t.core c).egAt q.cell.h.ep.toNat).flight = ((s.core c).egAt q.cell.h.ep.toNat).flight ++ [(s.slot, q.cell)] ∧
      ((t.core c).ingAt p.val).buf = [] := by
  have he := exec_weirMatch_runs (s := s) (c := c) (by simp [hh])
  rw [hv] at he
  simp only [State.shutPorts, List.foldl_nil, List.map_nil, Core.matchSlot_lone hb hm hj hs hfl hsp hf] at he
  have ht := keptIn_refuseHeads (s.setCore c (((s.core c).carry s.slot [(s.core c).loneReq p.val q.cell]).movePointers
    [(s.core c).loneReq p.val q.cell])) c ((s.core c).unmapped s.slot)
  obtain ⟨h1, h2⟩ := Core.carry_lone (s.core c) s.slot q rfl p.isLt hb
  refine ⟨_, he, ?_, ?_⟩
  · rw [ht.held.egAt, State.core_setCore, (Core.movePointers_keeps _ _).2, h1]
  · rw [ht.ingAt, State.core_setCore, Core.buf_movePointers, h2]

end Sys2Proof.Machine
end
section
/-! SUPPORT. Admission of an open port, and delivery (O44). -/

namespace Sys2Proof.Machine

open Sys2Proof.Claims

/-! ### Admission -/

theorem exec_cellAdmit_idle {s : State} {c : CoreId} {p : PortId} (h : ((s.core c).ingAt p.val).first? = none) :
    exec (.cellAdmit c p) s = .next s := by
  show execCellAdmit c p s = _
  simp [execCellAdmit, State.readyScell, State.scellHeld, State.admit1, h]

/-- What admission makes of a cell that belongs to no loop, with the IP and SEQ that it gives it (R166, R167, R173). -/
def admittedCell (slot p n : Nat) (y : Cell) : Cell :=
  { y with h := { y.h with ip := BitVec.ofNat 7 p, seq := BitVec.ofNat 4 n }, m := { y.m with loop := none, since := slot + 1 } }

theorem Core.admitCell_open {x : Core} {slot p : Nat} {y : Cell} (hl : x.loopOf y = none)
    (hb : (bucketCeiling p).isSome = true → 1024 ≤ (x.ingAt p).bucket.level) (hmc : y.h.mc = 0)
    {pl : Place} (hpl : placeOf (x.ingAt p).buf y.h.vc (x.classOf y) = some pl) :
    ∃ f : Ingress → Ingress, x.admitCell slot p y = .ok (x.modIng p f) ∧ (∀ g, (f g).ahead = g.ahead ∧ (f g).obuf = g.obuf) ∧
      ∃ n, ∀ g, (f g).buf = g.buf ++ [{ cell := admittedCell slot p n y, place := pl }] := by
  have hk : ((bucketCeiling p).isSome && decide ((x.ingAt p).bucket.level < 1024)) = false := by
    cases h : (bucketCeiling p).isSome
    · rfl
    · simpa using hb h
  have hm : y.isMcast = false := by simp [Cell.isMcast, hmc]
  simp only [Core.admitCell, hl, hk, hm, hpl, Bool.false_eq_true, if_false, Bool.not_false, if_true]
  exact ⟨_, rfl, fun g => ⟨rfl, rfl⟩, _, fun g => rfl⟩

/-- A cell without bookkeeping has no unit to tell of its admission. -/
theorem State.offerTaken_plain (s : State) (c : CoreId) (y : Cell) (hy : y.m = {}) (n m : Nat) : s.offerTaken c { cell := y } n m = s := by
  simp [State.offerTaken, hy]

theorem State.countTwin_plain (s : State) (c : CoreId) (y : Cell) (hy : y.m = {}) : s.countTwin c [y] = s := by
  simp [State.countTwin, hy]

/-- The first offer of an open port, when it is a cell without bookkeeping that goes by its own header. -/
theorem State.admit1_open {s : State} {c : CoreId} {p : Nat} {y : Cell} (hy : y.m = {})
    (ho : PortOpen (s.modCore c (fun x => x.modIng p (fun g => { g with obuf := [] }))) c p y)
    (hob : ((s.core c).ingAt p).obuf = [{ cell := y }]) :
    ∃ f : Ingress → Ingress, s.admit1 c p = s.setCore c ((s.core c).modIng p f) ∧ (f ((s.core c).ingAt p)).obuf = [] ∧
      ∃ n pl, (f ((s.core c).ingAt p)).buf = ((s.core c).ingAt p).buf ++ [{ cell := admittedCell s.slot p n y, place := pl }] := by
  simp only [PortOpen, State.modCore_eq, State.core_setCore] at ho
  obtain ⟨hp, hr, hfr, htk, hah, -, hh, hbk, hmc, href, hl, hpl, hfa⟩ := ho
  rw [Core.ingAt_modIng _ _ hp] at hfr htk hah hbk hpl
  obtain ⟨pl, hpl⟩ := Option.isSome_iff_exists.1 hpl
  obtain ⟨f, hf, hk, n, hbuf⟩ := Core.admitCell_open (x := s.core c) (slot := s.slot) hl hbk hmc hpl
  have hfa : s.fatalAt (vcSpots c [y]) = false := hfa
  have href : (s.core c).refused y = false := href
  have hfirst : ((s.core c).ingAt p).first? = some { cell := y } := by simp [Ingress.first?, show ((s.core c).ingAt p).ahead = [] from hah, hob]
  refine ⟨fun g => { (f g).dropFirst with took := true }, ?_, ?_, n, pl, ?_⟩
  · have hmod : ((s.core c).modIng p f).modIng p (fun g => { g.dropFirst with took := true })
        = (s.core c).modIng p (fun g => { (f g).dropFirst with took := true }) := by
      simp [Core.modIng, vmod, hp]
    simp only [State.admit1, show ((s.core c).ingAt p).frozen = none from hfr, show ((s.core c).ingAt p).took = false from htk, hr,
      show (s.core c).weirHalted = false from hh, hfirst, Option.isSome_none, Bool.or_false, Bool.false_and, Bool.false_eq_true, if_false,
      Nat.not_lt_zero, Core.routeSpots, State.fatalAt, List.any_nil, Core.resolve, keyFor, List.find?_cons, List.find?_nil, href, Core.admitAll, hf]
    rw [State.fatalAt] at hfa
    rw [hfa, if_neg (by simp), Core.advRids, List.foldl_nil, hmod, State.offerTaken_plain _ _ _ hy, State.countTwin_plain _ _ _ hy]
  · simp [Ingress.dropFirst, hk, show ((s.core c).ingAt p).ahead = [] from hah, hob]
  · have : ((f ((s.core c).ingAt p)).dropFirst).buf = (f ((s.core c).ingAt p)).buf := by
      unfold Ingress.dropFirst
      split <;> rfl
    exact this.trans (hbuf _)

theorem exec_cellAdmit_open {s : State} {c : CoreId} {p : PortId} {y : Cell} (hy : y.m = {})
    (ho : PortOpen (s.modCore c (fun x => x.modIng p.val (fun g => { g with obuf := [] }))) c p.val y)
    (hob : ((s.core c).ingAt p.val).obuf = [{ cell := y }]) :
    ∃ t, exec (.cellAdmit c p) s = .next t ∧ OnlyCore c s t ∧ Admitted s t c p.val y.h y.data := by
  obtain ⟨f, hadm, hf, n, pl, hbuf⟩ := State.admit1_open hy ho hob
  have hah : ((s.core c).ingAt p.val).ahead = [] := by
    obtain ⟨hp, -, -, -, hah, -⟩ := ho
    rwa [State.modCore_eq, State.core_setCore, Core.ingAt_modIng _ _ hp] at hah
  refine ⟨s.setCore c ((s.core c).modIng p.val f), ?_, onlyCore_setCore .., { cell := admittedCell s.slot p.val n y, place := pl }, ?_, rfl, rfl, ?_⟩
  · show execCellAdmit c p s = _
    have hr : s.readyScell c p.val = s := by simp [State.readyScell, Ingress.first?, hah, hob]
    have hh : s.scellHeld c p.val = false := by simp [State.scellHeld, Ingress.first?, hah, hob]
    simp only [execCellAdmit, hr, hh, Bool.false_eq_true, if_false, hadm]
  · rw [State.core_setCore, Core.ingAt_modIng _ _ p.isLt, hbuf]
  · rw [State.core_setCore, Core.ingAt_modIng _ _ p.isLt, hf]

/-! ### Delivery -/

/-- Every port of core c has the cells on their way that it had. -/
structure FlightsKept (c : CoreId) (s t : State) : Prop where
  eq : ∀ p, ((t.core c).egAt p).flight = ((s.core c).egAt p).flight

theorem FlightsKept.of_eg {c : CoreId} {s t : State} (h : (t.core c).eg = (s.core c).eg) : FlightsKept c s t :=
  ⟨fun p => by simp [Core.egAt, h]⟩

theorem FlightsKept.trans {c : CoreId} {s t u : State} (h : FlightsKept c s t) (h' : FlightsKept c t u) : FlightsKept c s u :=
  ⟨fun p => (h'.eq p).trans (h.eq p)⟩

theorem flightsKept_modEg (s : State) (c : CoreId) (p : Nat) (f : Egress → Egress) (hf : ∀ g, (f g).flight = g.flight) :
    FlightsKept c s (s.modCore c (fun x => x.modEg p f)) :=
  ⟨fun q => by rw [State.modCore_eq, State.core_setCore, Core.flight_modEg _ _ _ _ hf]⟩

theorem flightsKept_strmDelivered (s : State) (c : CoreId) (y : Cell) : FlightsKept c s (s.strmDelivered c y) := by
  unfold State.strmDelivered
  split
  · exact .of_eg rfl
  · exact .of_eg (by simp [Core.modStrm])

theorem flightsKept_consume (s : State) (c : CoreId) (y : Cell) : FlightsKept c s (s.consume c y) := by
  have h := State.ports_consume s c c y
  simp only [Core.ports, Prod.mk.injEq] at h
  exact .of_eg h.2.1

theorem flightsKept_freezeRdv (s : State) (c : CoreId) (p : Nat) (bad : Option Cell) : FlightsKept c s (s.freezeRdv c p bad) := by
  refine ⟨fun q => ?_⟩
  simp only [State.freezeRdv, State.record, State.modCore_eq, State.core_setCore]
  exact Core.flight_modEg _ _ _ _ fun _ => rfl

theorem flightsKept_rdvDeliver (s : State) (c : CoreId) (p : Nat) (y : Cell) : FlightsKept c s (s.rdvDeliver c p y) := by
  simp only [State.rdvDeliver]
  split
  · exact flightsKept_modEg _ _ _ _ fun _ => rfl
  · split
    · exact flightsKept_freezeRdv ..
    · exact flightsKept_modEg _ _ _ _ fun _ => rfl

theorem flightsKept_pushChan (s : State) (c : CoreId) (p ch slot : Nat) (y : Cell) : FlightsKept c s (s.modCore c (fun x => x.pushChan slot p ch y)) :=
  flightsKept_modEg _ _ _ _ fun _ => rfl

/-- A cell that lands leaves the cells on their way. -/
theorem flightsKept_land (s : State) (c : CoreId) (p : Nat) (y : Cell) : FlightsKept c s (s.land c p y) := by
  unfold State.land
  refine .trans (flightsKept_strmDelivered s c y) ?_
  generalize s.strmDelivered c y = u
  dsimp only
  split
  · exact flightsKept_modEg _ _ _ _ fun _ => rfl
  · split
    · exact flightsKept_modEg _ _ _ _ fun _ => rfl
    · split
      · exact flightsKept_rdvDeliver ..
      · split
        · exact .trans (flightsKept_pushChan ..) (flightsKept_consume ..)
        · split
          · exact flightsKept_pushChan ..
          · exact .of_eg rfl

/-- The cells of these ports leave their flights that are due and that an element's map takes. -/
def State.clearDue (s : State) (c : CoreId) (ps : List Nat) : State :=
  ps.foldl (fun s q => s.modCore c (fun x => x.modEg q (fun g => { g with
    flight := g.flight.filter (fun y => !decide (y.1 < s.slot) || x.strayed q y.2) }))) s

theorem Core.strayed_modEg (x : Core) (q p : Nat) (h : List (Nat × Cell) → List (Nat × Cell)) (y : Cell) :
    (x.modEg q (fun g => { g with flight := h g.flight })).strayed p y = x.strayed p y := by
  have hh : ((x.modEg q (fun g => { g with flight := h g.flight })).egAt p).holds y = (x.egAt p).holds y := by
    by_cases hq : p = q
    · subst hq
      by_cases hp : p < 128
      · rw [Core.egAt_modEg _ _ hp]
        rfl
      · simp [Core.egAt, vget_ge _ _ _ hp]
    · rw [Core.egAt_modEg_ne _ _ hq]
  simp only [Core.strayed, hh]
  rfl

theorem State.mem_flight_clearDue {c : CoreId} {p : Nat} (hp : p < 128) (ps : List Nat) (s : State) (y : Nat × Cell)
    (h : y ∈ (((s.clearDue c ps).core c).egAt p).flight) :
    y ∈ ((s.core c).egAt p).flight ∧ (p ∈ ps → s.slot ≤ y.1 ∨ (s.core c).strayed p y.2 = true) := by
  induction ps generalizing s with
  | nil => exact ⟨h, by simp⟩
  | cons q ps ih =>
    obtain ⟨h1, h2⟩ := ih _ h
    simp only [State.modCore_eq, State.core_setCore, Core.strayed_modEg, State.setCore_slot] at h1 h2
    by_cases hq : p = q
    · subst hq
      rw [Core.egAt_modEg _ _ hp, List.mem_filter] at h1
      exact ⟨h1.1, fun _ => by simpa using h1.2⟩
    · rw [Core.egAt_modEg_ne _ _ hq] at h1
      exact ⟨h1, fun hm => h2 ((List.mem_cons.1 hm).resolve_left hq)⟩

theorem State.flight_deliver (s : State) (c : CoreId) (ps : List Nat) : FlightsKept c (s.clearDue c ps) (s.deliver c ps) := by
  have key (l : List (Nat × Nat × Cell)) (s : State) : FlightsKept c s (l.foldl (fun s y => s.land c y.2.1 y.2.2) s) := by
    induction l generalizing s with
    | nil => exact .of_eg rfl
    | cons a l ih => exact (flightsKept_land ..).trans (ih _)
  exact key _ _

theorem exec_cellDelivery_frozen {s : State} {c : CoreId} {p : PortId} (h : ((s.core c).egAt p.val).frozen ≠ none) :
    exec (.cellDelivery c p) s = .next s := by
  show execCellDelivery c p s = _
  simp [execCellDelivery, Option.isSome_iff_ne_none.2 h]

/-- CELL_DELIVERY of a port that runs: the cells land, and nothing but a freeze of the port's element follows. -/
theorem exec_cellDelivery_runs {s : State} {c : CoreId} {p : PortId} (h : ((s.core c).egAt p.val).frozen = none) :
    ∃ t, exec (.cellDelivery c p) s = .next t ∧ KeptIn Core.heldAll c (s.deliver c ((s.core c).landsWith p.val)) t ∧
      (((((s.deliver c ((s.core c).landsWith p.val)).core c).egAt p.val).flight = [] → t = s.deliver c ((s.core c).landsWith p.val))) := by
  show ∃ t, execCellDelivery c p s = .next t ∧ _
  simp only [execCellDelivery, h, Option.isSome_none, Bool.false_eq_true, if_false]
  generalize s.deliver c ((s.core c).landsWith p.val) = u
  split
  · next y hy =>
    refine ⟨_, rfl, ?_, fun h => by simp [h] at hy⟩
    split
    · exact .refl ..
    · exact keptIn_freezeElem ..
  · exact ⟨_, rfl, .refl .., fun _ => rfl⟩

theorem Core.mem_landsWith {x : Core} {p : Nat} (h : (x.egAt p).frozen = none) : p ∈ x.landsWith p := by
  unfold Core.landsWith
  split
  · next hp => rcases hp with rfl | rfl <;> simp [h]
  · simp

theorem cellDelivery_leaves {s : State} {c : CoreId} {p : PortId} (h : ((s.core c).egAt p.val).frozen = none) :
    ∃ t, exec (.cellDelivery c p) s = .next t ∧ SameMem s t ∧
      ∀ y ∈ ((t.core c).egAt p.val).flight, s.slot ≤ y.1 ∨ (s.core c).strayed p.val y.2 = true := by
  obtain ⟨t, he, hk, -⟩ := exec_cellDelivery_runs h
  refine ⟨t, he, Sys2Proof.Machine.SameMem.of_mem (execCellDelivery_leavesMem c p s t he), fun y hy => ?_⟩
  rw [hk.held.egAt, (State.flight_deliver ..).eq] at hy
  exact (State.mem_flight_clearDue p.isLt _ s y hy).2 (Core.mem_landsWith h)

theorem Core.modEg_congr (x : Core) {p : Nat} {f g : Egress → Egress} (h : f (x.egAt p) = g (x.egAt p)) : x.modEg p f = x.modEg p g := by
  by_cases hp : p < 128
  · simp only [Core.egAt, vget_lt _ _ _ hp] at h
    simp only [Core.modEg, vmod, hp, dif_pos, h]
  · simp only [Core.modEg, vmod, hp, dif_neg, not_false_eq_true]

/-- The only cell on its way to an element port lands in its channel. -/
theorem State.deliver_lone {s : State} {c : CoreId} {p n ch : Nat} {y : Cell} (hfl : ((s.core c).egAt p).flight = [(n, y)]) (hn : n < s.slot)
    (hy : y.m = {}) (hr : y.h.rid = 0) (hh : ((s.core c).egAt p).holding = none) (h48 : 48 ≤ p) (h79 : p ≤ 79)
    (hc : (s.core c).chanOf? p y.h = some ch) :
    s.deliver c [p] = s.setCore c (((s.core c).modEg p (fun g => { g with flight := [] })).pushChan s.slot p ch y) := by
  have hp : p < 128 := by omega
  have he : isElemPort p = true := by simp [isElemPort, h48, h79]
  have hstray : (s.core c).strayed p y = false := by simp [Core.strayed, hc]
  have hdue : (s.core c).dueAt s.slot p = [(n, p, y)] := by simp [Core.dueAt, hfl, hn, hstray]
  have hclear : s.clearDue c [p] = s.setCore c ((s.core c).modEg p (fun g => { g with flight := [] })) := by
    simp only [State.clearDue, List.foldl_cons, List.foldl_nil, State.modCore_eq]
    exact congrArg _ (Core.modEg_congr _ (by simp [hfl, hn, hstray]))
  have hland (u : State) (hu : ((u.core c).egAt p).holding = none) (hcu : (u.core c).chanOf? p y.h = some ch) :
      u.land c p y = u.setCore c ((u.core c).pushChan u.slot p ch y) := by
    have hport : chanPort p = p := if_neg (by omega)
    have hno : ¬(96 ≤ p ∧ p ≤ 107 ∨ 108 ≤ p ∧ p ≤ 115) := by omega
    simp [State.land, State.strmDelivered, hy, Egress.holds, hu, Cell.inSet, hr, isNetPort, isStorePort, hcu, hport, hno]
  have hdel : s.deliver c [p] = (s.clearDue c [p]).land c p y := by
    simp only [State.deliver, List.foldl_cons, List.foldl_nil, hdue, insDue]
    rfl
  rw [hdel, hland, hclear]
  · simp
  · rw [hclear, State.core_setCore, Core.egAt_modEg _ _ hp]
    exact hh
  · rw [hclear, State.core_setCore]
    exact hc

theorem cellDelivery_lone {s : State} {c : CoreId} {p : PortId} {n ch : Nat} {y : Cell} (h : ((s.core c).egAt p.val).frozen = none)
    (hfl : ((s.core c).egAt p.val).flight = [(n, y)]) (hn : n < s.slot) (hy : y.m = {}) (hr : y.h.rid = 0)
    (hh : ((s.core c).egAt p.val).holding = none) (h48 : 48 ≤ p.val) (h79 : p.val ≤ 79) (hc : (s.core c).chanOf? p.val y.h = some ch)
    (hch : ch < 4) :
    ∃ t, exec (.cellDelivery c p) s = .next t ∧ OnlyCore c s t ∧ ((t.core c).egAt p.val).flight = [] ∧
      (((t.core c).egAt p.val).chan ch).cells = (((s.core c).egAt p.val).chan ch).cells ++ [{ y with m := { since := s.slot + 1 } }] := by
  obtain ⟨t, he, -, ht⟩ := exec_cellDelivery_runs h
  have hw : (s.core c).landsWith p.val = [p.val] := if_neg (by omega)
  have hd := State.deliver_lone hfl hn hy hr hh h48 h79 hc
  have heg : ((((s.core c).modEg p.val (fun g => { g with flight := [] })).pushChan s.slot p.val ch y).egAt p.val)
      = Egress.modChan { (s.core c).egAt p.val with flight := [] } ch (fun q => { q with
          cells := q.cells ++ [{ y with m := { y.m with since := s.slot + 1 } }], fed := some (Fin.ofNat 128 y.h.ip.toNat) }) := by
    rw [Core.pushChan, Core.egAt_modEg _ _ p.isLt, Core.egAt_modEg _ _ p.isLt]
  rw [hw, hd, State.core_setCore, heg] at ht
  refine ⟨t, he, ?_⟩
  rw [ht rfl]
  refine ⟨onlyCore_setCore .., by rw [State.core_setCore, heg]; rfl, ?_⟩
  rw [State.core_setCore, heg, hy]
  simp only [Egress.chan, Egress.modChan, vmod_same _ _ _ _ hch]

end Sys2Proof.Machine
end
section
/-! SUPPORT. The crossbar, and the Weir's steps together (O44). -/

namespace Sys2Proof.Machine

open Sys2Proof.Claims

/-- Whether a cell of the crossbar leaves it by NET port n of core c in this slot, as the crossbar's unit tests it. -/
def XCell.dueAt (c : CoreId) (n : Fin 12) (slot : Nat) (y : XCell) : Bool :=
  y.here == c.cluster && y.outp == xbarPort c n.val && decide (y.since ≤ slot)

theorem exec_crossbarArrival_due {s : State} {c : CoreId} {n : Fin 12} {y : XCell} (hy : s.xbar.find? (XCell.dueAt c n s.slot) = some y)
    (hf : (s.core c).obufFree (96 + n.val) ≠ 0) (hc : ((s.core c).ingAt (96 + n.val)).came = false) :
    exec (.crossbarArrival c n) s = .next (State.modCore { s with xbar := s.xbar.eraseP (XCell.dueAt c n s.slot) } c (fun x =>
      (x.offer (96 + n.val) { cell := y.cell }).modIng (96 + n.val) (fun g => { g with came := true }))) := by
  show execCrossbarArrival c n s = _
  have hy' : s.xbar.find? (fun y => y.here == c.cluster && y.outp == xbarPort c n.val && decide (y.since ≤ s.slot)) = some y := hy
  simp only [execCrossbarArrival, hy', hf, hc, Bool.false_eq_true, or_self, if_false]
  rfl

theorem exec_crossbarArrival_none {s : State} {c : CoreId} {n : Fin 12}
    (h : s.xbar.find? (XCell.dueAt c n s.slot) = none ∨ ((s.core c).ingAt (96 + n.val)).came = true) :
    exec (.crossbarArrival c n) s = .next s := by
  show execCrossbarArrival c n s = _
  have hd : (fun y : XCell => y.here == c.cluster && y.outp == xbarPort c n.val && decide (y.since ≤ s.slot)) = XCell.dueAt c n s.slot := rfl
  simp only [execCrossbarArrival, hd]
  split
  · rfl
  · next hy =>
    have hc := h.resolve_left (by simp [hy])
    simp [hc]

/-- A record joins the faults of its core, and is of its kind and unit. -/
theorem State.faults_record (s : State) (c : CoreId) (kind : BitVec 8) (unit : BitVec 32) (detail : Nat) (pos arg : BitVec 64) :
    ∃ r, ((s.record c kind unit detail pos arg).core c).faults = (s.core c).faults ++ [r] ∧ r.kind = kind ∧ r.unit = unit := by
  simp only [State.record, State.modCore_eq, State.core_setCore]
  exact ⟨_, rfl, rfl, rfl⟩

theorem State.eg_record (s : State) (c : CoreId) (kind : BitVec 8) (unit : BitVec 32) (detail : Nat) (pos arg : BitVec 64) :
    ((s.record c kind unit detail pos arg).core c).eg = (s.core c).eg := by
  simp only [State.record, State.modCore_eq, State.core_setCore]

/-- The head of a NET port as it enters the crossbar to be copied. -/
def fanHead (s : State) (c : CoreId) (n : Fin 12) (z : Cell) : XCell :=
  { src := c, net := n, task := (s.core c).task, here := c.cluster, inp := xbarPort c n, outp := 0, cell := z }

section Fanout

variable {s : State} {c : CoreId} {n : Fin 12} {z : Cell} (hz : (s.core c).head? s.slot (96 + n.val) 0 = some z) (hmc : z.h.mc ≠ 0)
  (hfr : ((s.core c).egAt (96 + n.val)).frozen = none) (hmv : (((s.core c).egAt (96 + n.val)).chan 0).moved = false)

include hz hmc hfr hmv

/-- A group that the task does not own freezes the NET port. -/
theorem exec_crossbarFanout_refused (ho : (vget s.xgroups[c.cluster] z.h.mc.toNat {}).ownedBy (s.core c).task = false) :
    exec (.crossbarFanout c n) s = .next (
      let s' := s.modCore c (fun x => x.modEg (96 + n.val) (fun g => { g with frozen := some { kind := kPORT, arg := z.h.word } }))
      s'.record c kPORT (unitId c 0 (96 + n.val)) (96 + n.val) (pos2 ((s'.core c).egAt (96 + n.val)).handed 0) z.h.word) := by
  show execCrossbarFanout c n s = _
  simp only [execCrossbarFanout, hz, hmc, hfr, hmv, ho, Option.isSome_none, Bool.false_eq_true, or_self, if_false]

/-- A group of the task copies the head into the crossbar. -/
theorem exec_crossbarFanout_owned (ho : (vget s.xgroups[c.cluster] z.h.mc.toNat {}).ownedBy (s.core c).task = true) :
    exec (.crossbarFanout c n) s = .next (
      let u := (s.netTake c n.val z).oxConsumed z
      { u with xbar := u.xbar ++ xbarCopies (fanHead s c n z) c.cluster (vget s.xgroups[c.cluster] z.h.mc.toNat {}).mask true (u.slot + 1) }) := by
  show execCrossbarFanout c n s = _
  simp only [execCrossbarFanout, hz, hmc, hfr, hmv, ho, Option.isSome_none, Bool.false_eq_true, or_self, if_false, if_true]
  rfl

end Fanout

theorem State.xbar_netTake (s : State) (c : CoreId) (n : Nat) (y : Cell) : (s.netTake c n y).xbar = s.xbar := rfl

theorem State.xbar_oxConsumed (s : State) (y : Cell) : (s.oxConsumed y).xbar = s.xbar := by
  unfold State.oxConsumed
  dsimp only
  split <;> split <;> rfl

/-- A member port of the cluster has its copy. -/
theorem mem_xbarCopies {y : XCell} {k : ClusterId} {mask : BitVec 224} {since i : Nat} (hi : i < 192) (hm : mask.getLsbD i = true) (hne : i ≠ y.inp) :
    ∃ w ∈ xbarCopies y k mask true since, w.outp = i ∧ w.here = k ∧ w.cell.data = y.cell.data ∧ w.cell.h = y.cell.h := by
  refine ⟨_, List.mem_map_of_mem (a := i) ?_, ?_⟩
  · simp [List.mem_filter, hm, hne]
    omega
  · simp [hi]

theorem crossbar : Sys2Proof.Claims.Crossbar := by
  intro s c n y z here p x g Head
  have hhere : here = XCell.dueAt c n s.slot := rfl
  have hp : p < 128 := by simp only [p]; omega
  refine ⟨fun hy hf hc => ?_, fun h => exec_crossbarArrival_none h, fun hH ho => ?_, fun id hH hm ho ht => ?_⟩
  · refine ⟨_, exec_crossbarArrival_due hy hf hc, Sys2Proof.Machine.SameMem.of_eq rfl rfl, rfl, ?_, ?_⟩
    · rw [State.modCore_eq, State.core_setCore, Core.ingAt_modIng _ _ hp, Core.offer, Core.ingAt_modIng _ _ hp]
      rfl
    · rw [State.modCore_eq, State.core_setCore, Core.ingAt_modIng _ _ hp]
  · obtain ⟨hz, hmc, hfr, hmv⟩ := hH
    have hown : g.ownedBy x.task = false := by
      rcases ho with ho | ho <;> simp [XGroup.ownedBy, ho]
    refine ⟨_, exec_crossbarFanout_refused hz hmc hfr hmv hown, Sys2Proof.Machine.SameMem.of_eq rfl rfl, ?_, rfl, ?_⟩
    · rw [Core.egAt, State.eg_record, State.modCore_eq, State.core_setCore]
      exact (congrArg Egress.frozen (Core.egAt_modEg _ _ hp)).trans_ne (by simp)
    · obtain ⟨r, hr, hk, -⟩ := State.faults_record (s.modCore c (fun x => x.modEg p (fun g =>
        { g with frozen := some { kind := kPORT, arg := z.h.word } }))) c kPORT (unitId c 0 p) p
        (pos2 (((s.modCore c (fun x => x.modEg p (fun g => { g with frozen := some { kind := kPORT, arg := z.h.word } }))).core c).egAt p).handed 0) z.h.word
      exact ⟨r, hr.trans (by rw [State.modCore_eq, State.core_setCore]; rfl), hk⟩
  · obtain ⟨hz, hmc, hfr, hmv⟩ := hH
    have hown : g.ownedBy x.task = true := by
      simpa [XGroup.ownedBy, ho, show x.task = some id from ht] using hm
    have he := exec_crossbarFanout_owned hz hmc hfr hmv hown
    refine ⟨_, xbarCopies (fanHead s c n z) c.cluster g.mask true (((s.netTake c n.val z).oxConsumed z).slot + 1), he,
      Sys2Proof.Machine.SameMem.of_mem (execCrossbarFanout_leavesMem c n s _ he), ?_, fun i hi hb hne => mem_xbarCopies hi hb hne, ?_⟩
    · simp only [State.xbar_oxConsumed, State.xbar_netTake]
      rfl
    · rw [xbarCopies, List.length_map]
      rfl

theorem weirWork : WeirWork := by
  intro s c p x i g
  refine ⟨weirMatch_gains s c p, fun q hh hb hm hj hs hfl hsp hf hv => weirMatch_lone hh hb hm hj hs hfl hsp hf hv, ?_,
    fun y hy ho hob => exec_cellAdmit_open hy ho hob, exec_cellDelivery_frozen, cellDelivery_leaves,
    fun n y ch hg hfl hn hy hr hh h48 h79 hc hch => cellDelivery_lone hg hfl hn hy hr hh h48 h79 hc hch⟩
  exact ⟨_, rfl, Sys2Proof.Machine.SameMem.of_mem (execCellAdmit_leavesMem c p s _ rfl), fun h => by
    exact Host.Outcome.next.inj (exec_cellAdmit_idle h)⟩

/-- Settles O44: a pass gives an egress port one cell at most and takes the port from the passes after it; what lands leaves the flights. -/
theorem weirSteps : Obligations.WeirSteps := ⟨weirWork, crossbar⟩

end Sys2Proof.Machine
end
section
/-! SUPPORT. Loaders and storers at work (O42). -/

namespace Sys2Proof.Machine

open Sys2Proof.Claims

/-! ## Reads and forks -/

theorem State.pathsFree_nil (s : State) (w : Bool) : s.pathsFree w [] = true := rfl

theorem State.forks_nil {s : State} {c : CoreId} {k : StrmId} (h : (s.core c).splicesOf k = []) (y : Strm) (a b : Nat) : s.forks c k y a b = [] := by
  simp [State.forks, h]

/-- A stream without a splice forks nothing. -/
theorem State.forkCell_nil {s : State} {c : CoreId} {k : StrmId} (h : (s.core c).splicesOf k = []) (a b : Nat) : s.forkCell c k a b = s := by
  rw [State.forkCell, State.forks_nil h]
  rfl

theorem State.forkPas_nil {s : State} {c : CoreId} {k : StrmId} (h : (s.core c).splicesOf k = []) : s.forkPas c k = [] := by
  simp [State.forkPas, State.forks_nil h]

theorem State.forksReady_nil {s : State} {c : CoreId} {k : StrmId} (h : (s.core c).splicesOf k = []) : s.forksReady c k = true := by
  simp [State.forksReady, State.forks_nil h]

theorem Core.splices_loaderUsed (x : Core) (l : Option (Fin 8)) (n : Nat) : (x.loaderUsed l n).splices = x.splices := by
  cases l <;> rfl

theorem Core.splices_storerUsed (x : Core) (l : Option (Fin 8)) (n : Nat) : (x.storerUsed l n).splices = x.splices := by
  cases l <;> rfl

/-- The correctable errors that a read of n bytes on one page has met. -/
def State.softPage (s : State) (c : CoreId) (y : Strm) (va n : Nat) : State :=
  match y.pa? (s.tenantOf c) va .read with
  | some pa => s.softHbm pa n
  | none => s

theorem aside_softPage (s : State) (c : CoreId) (y : Strm) (va n : Nat) : Aside s (s.softPage c y va n) := by
  unfold State.softPage
  split
  · exact aside_softHbm ..
  · exact .refl _

/-- The reads of a generator that is no bank's go to one page, or to two. -/
theorem State.softRead_of_ne {y : Strm} (h : y.kind ≠ .sread) (s : State) (c : CoreId) (a n : Nat) :
    s.softRead c y a n = (let m := if n ≤ 16 then onPage a n else n
      if m = n then s.softPage c y a n else (s.softPage c y a m).softPage c y ((a + m) % vaTop) (n - m)) := by
  simp only [State.softRead, if_neg h]
  rfl

theorem aside_softRead (s : State) (c : CoreId) {y : Strm} (h : y.kind ≠ .sread) (a n : Nat) : Aside s (s.softRead c y a n) := by
  rw [State.softRead_of_ne h]
  extract_lets m
  split
  · exact aside_softPage ..
  · exact (aside_softPage ..).trans (aside_softPage ..)

theorem aside_softElem (s : State) (c : CoreId) {y : Strm} (h : y.kind ≠ .sread) (e : Nat) :
    Aside s (match s.elemAddr c y e with
      | .val v => if y.kind.isSink then s else s.softRead c y v (patSize y.pat)
      | _ => s) := by
  split
  · split
    · exact .refl _
    · exact aside_softRead _ _ h _ _
  · exact .refl _

theorem aside_softElems (s : State) (c : CoreId) {y : Strm} (h : y.kind ≠ .sread) (a b : Nat) : Aside s (s.softElems c y a b) := by
  unfold State.softElems
  split
  · exact .refl _
  · refine .foldl _ (fun s i => ?_) _ _
    by_cases hm : patMode y.pat = 1
    · simp only [if_pos hm]
      exact (aside_softRead _ _ h _ _).trans (aside_softElem _ _ h _)
    · simp only [if_neg hm]
      exact aside_softElem _ _ h _

theorem aside_softKey (s : State) (c : CoreId) {y : Strm} (h : y.kind ≠ .sread) (j : Nat) : Aside s (s.softKey c y j) := by
  unfold State.softKey
  split
  · exact aside_softRead _ _ h _ _
  · exact .refl _

/-! ## A loader's reads -/

section Issue

variable {s : State} {c : CoreId} {k : StrmId} (hst : ((s.core c).strms[k]).st = .running)
  (hk : ((s.core c).strms[k]).kind = .sload ∨ ((s.core c).strms[k]).kind = .sgather) (hca : ((s.core c).strms[k]).cancel = false)
  (hw : ((s.core c).strms[k]).walk = none) (ha : ((s.core c).strms[k]).asked < ((s.core c).strms[k]).ncells)
  (hfr : ((s.core c).ingAt ((s.core c).strms[k]).srcPort).frozen = none) (hcr : 0 < (s.core c).credit c k)
  (hl : (s.core c).loaderFree ((s.core c).strms[k]).loader s.slot = true) (hp : s.pathsFree false (s.cellPas c ((s.core c).strms[k])) = true)
  (hsp : (s.core c).splicesOf k = [])

include hst hk hca hw ha hfr hcr hl hp hsp

/-- The next cell of a stream without a splice, every read of which is done. -/
theorem exec_loaderReadIssue_cell {z : Strm} {cell : Cell} (hn : s.nextCell c k ((s.core c).strms[k]) = (z, .ok cell)) :
    ∃ u, Aside s u ∧ exec (.loaderReadIssue c k) s = .next (u.modCore c (fun x =>
      (x.modStrm k (fun _ => { z with inflight := z.inflight ++ [cell] })).loaderUsed ((s.core c).strms[k]).loader u.slot)) := by
  have hkd : ((s.core c).strms[k]).kind ≠ .sread := by rcases hk with h | h <;> rw [h] <;> decide
  have hks : (((s.core c).strms[k]).kind == .sload || ((s.core c).strms[k]).kind == .sgather) = true := by rcases hk with h | h <;> rw [h] <;> rfl
  have hu := ((((aside_softElems s c hkd ((s.core c).strms[k]).elems z.elems).trans (aside_softKey _ c hkd ((s.core c).strms[k]).asked)).trans
    (aside_pathsUsed _ false (s.cellPas c ((s.core c).strms[k])))).trans (aside_pathsUsed _ true []))
  refine ⟨_, hu, ?_⟩
  show execLoaderReadIssue c k s = _
  simp only [execLoaderReadIssue, hst, hks, hca, hw, ha, hfr, hcr, hl, hp, State.forkPas_nil hsp, State.pathsFree_nil, State.forksReady_nil hsp, hn,
    beq_self_eq_true, Bool.not_false, Option.isNone_none, decide_true, Bool.and_true, if_true]
  rw [State.forkCell_nil]
  simp only [State.modCore_eq, State.core_setCore, Core.splicesOf, Core.splices_loaderUsed] at hsp ⊢
  rw [show (Core.modStrm _ k _).splices = _ from rfl, hu.core]
  exact hsp

/-- The reads of a next cell leave memory, whatever they come to. -/
theorem exec_loaderReadIssue_sameMem : ∃ t, exec (.loaderReadIssue c k) s = .next t ∧ SameMem s t := by
  have hks : (((s.core c).strms[k]).kind == .sload || ((s.core c).strms[k]).kind == .sgather) = true := by rcases hk with h | h <;> rw [h] <;> rfl
  rcases hn : s.nextCell c k ((s.core c).strms[k]) with ⟨z, r | cell⟩
  · have hkd : ((s.core c).strms[k]).kind ≠ .sread := by rcases hk with h | h <;> rw [h] <;> decide
    have hu := (((aside_softElems s c hkd ((s.core c).strms[k]).elems z.elems).trans
      (aside_pathsUsed _ false (s.partPas c ((s.core c).strms[k]) z.elems))).trans (aside_pathsUsed _ true []))
    have he : exec (.loaderReadIssue c k) s = .next ((State.forkCell (State.modCore (((s.softElems c ((s.core c).strms[k])
        ((s.core c).strms[k]).elems z.elems).pathsUsed false (s.partPas c ((s.core c).strms[k]) z.elems)).pathsUsed true []) c (fun x =>
        (x.modStrm k (fun _ => z)).loaderUsed ((s.core c).strms[k]).loader (((s.softElems c ((s.core c).strms[k])
        ((s.core c).strms[k]).elems z.elems).pathsUsed false (s.partPas c ((s.core c).strms[k]) z.elems)).pathsUsed true []).slot)) c k
        ((s.core c).strms[k]).elems z.elems).strmStop c k r) := by
      show execLoaderReadIssue c k s = _
      simp only [execLoaderReadIssue, hst, hks, hca, hw, ha, hfr, hcr, hl, hp, State.forkPas_nil hsp, State.pathsFree_nil,
        State.forksReady_nil hsp, hn, beq_self_eq_true, Bool.not_false, Option.isNone_none, decide_true, Bool.and_true, if_true]
    refine ⟨_, he, ?_⟩
    · rw [State.forkCell_nil]
      · exact Sys2Proof.Machine.SameMem.of_mem (by simp)
      · simp only [State.modCore_eq, State.core_setCore, Core.splicesOf, Core.splices_loaderUsed] at hsp ⊢
        rw [show (Core.modStrm _ k _).splices = _ from rfl, hu.core]
        exact hsp
  · obtain ⟨u, hu, he⟩ := exec_loaderReadIssue_cell hst hk hca hw ha hfr hcr hl hp hsp hn
    exact ⟨_, he, Sys2Proof.Machine.SameMem.of_mem (by rw [State.mem_modCore, hu.mem])⟩

end Issue

theorem loaderReadReturn_returns {s : State} {c : CoreId} {k : StrmId} {q : Cell} {r : List Cell} (hq : ((s.core c).strms[k]).inflight = q :: r)
    (hl : ((s.core c).strms[k]).live = true) (hca : ((s.core c).strms[k]).cancel = false) (hs : q.m.since ≤ s.slot)
    (ho : ((s.core c).ingAt ((s.core c).strms[k]).srcPort).obuf.length < 16) (hp : ((s.core c).strms[k]).srcPort < 128) :
    ∃ t, exec (.loaderReadReturn c k) s = .next t ∧ OnlyCore c s t ∧ ((t.core c).strms[k]).inflight = r ∧
      ((t.core c).ingAt ((s.core c).strms[k]).srcPort).obuf = ((s.core c).ingAt ((s.core c).strms[k]).srcPort).obuf ++
        [((s.core c).strms[k]).offerOf k s.slot q] := by
  refine ⟨_, ?_, onlyCore_setCore s c (((s.core c).modStrm k (fun y => { y with inflight := r })).offer ((s.core c).strms[k]).srcPort
    (((s.core c).strms[k]).offerOf k s.slot q)), ?_, ?_⟩
  · show execLoaderReadReturn c k s = _
    simp only [execLoaderReadReturn, hq, hl, hca, hs, ho, decide_true, Bool.not_false, Bool.and_true, if_true]
    rfl
  · rw [State.core_setCore]
    exact congrArg Strm.inflight (Core.strms_modStrm (s.core c) k (fun y => { y with inflight := r }))
  · rw [State.core_setCore, Core.offer, Core.ingAt_modIng _ _ hp]
    rfl

/-! ## A storer's writes -/

theorem Strm.sinkDone_writes (y : Strm) (n : Nat) : (y.sinkDone n).writes = y.writes := by
  unfold Strm.sinkDone
  split <;> rfl

theorem Strm.sinkDone_cells (y : Strm) (n : Nat) : (y.sinkDone n).cells = y.cells := by
  unfold Strm.sinkDone
  split <;> rfl

theorem exec_sinkWritePerformed {s : State} {c : CoreId} {k : StrmId} {w : SinkWrite} {r : List SinkWrite}
    (hw : ((s.core c).strms[k]).writes = w :: r) :
    exec (.sinkWritePerformed c k) s = .next ((s.hbmWrite w).modCore c (fun x => x.modStrm k (fun y => ({ y with writes := r } : Strm).sinkDone s.slot))) := by
  show execSinkWritePerformed c k s = _
  simp only [execSinkWritePerformed, hw]

theorem sinkWritePerformed_writes {s : State} {c : CoreId} {k : StrmId} {w : SinkWrite} {r : List SinkWrite}
    (hw : ((s.core c).strms[k]).writes = w :: r) (hm : s.memWf = true) :
    ∃ t, exec (.sinkWritePerformed c k) s = .next t ∧ t.pool = s.pool ∧ ((t.core c).strms[k]).writes = r ∧
      ∀ a, Memory.get t.hbm a = (if w.addr ≤ a then (w.bytes[a - w.addr]?).getD (Memory.get s.hbm a) else Memory.get s.hbm a) := by
  refine ⟨_, exec_sinkWritePerformed hw, rfl, ?_, ?_⟩
  · rw [State.modCore_eq, State.core_setCore, Core.strms_modStrm, Strm.sinkDone_writes]
  · intro a
    have hwf := ((State.memWf_iff s).1 hm).1
    refine (Memory.get_writeBytes w.bytes w.addr s.hbm hwf a).trans ?_
    by_cases h1 : w.addr ≤ a
    · by_cases h2 : a < w.addr + w.bytes.length
      · have h3 : a - w.addr < w.bytes.length := by omega
        simp [h1, h2, h3]
      · simp [h1, h2, List.getElem?_eq_none (show w.bytes.length ≤ a - w.addr by omega)]
    · simp [h1]

theorem State.strms_consume (s : State) (c : CoreId) (y : Cell) : ((s.consume c y).core c).strms = (s.core c).strms := by
  have hc : ∀ x : Core, (x.consumed y).strms = x.strms := by
    intro x
    unfold Core.consumed Core.loopDown Core.modLoop
    (repeat' split) <;> rfl
  have ho : ∀ s : State, ((s.oxConsumed y).core c).strms = (s.core c).strms := by
    intro s
    have hstage (s : State) (k : CoreId) (g : StageId) (f : Stage → Stage) :
        ((s.modCore k (fun x => x.modStage g f)).core c).strms = (s.core c).strms :=
      State.core_modCore_keep s c k _ Core.strms (fun _ => rfl)
    unfold State.oxConsumed
    dsimp only
    split <;> split <;> simp only [hstage]
  unfold State.consume
  dsimp only
  split
  · rw [ho]
    exact State.core_modCore_keep _ _ _ _ Core.strms hc
  · exact State.core_modCore_keep _ _ _ _ Core.strms hc

theorem State.core_clearHead (s : State) (c k : CoreId) (p ch : Nat) : (s.clearHead k p ch).core c = s.core c := by
  unfold State.clearHead
  split <;> rfl

/-- A unit that takes its head leaves the streams. -/
theorem State.strms_popHead (s : State) (c : CoreId) (p ch : Nat) : ((s.popHead c p ch).core c).strms = (s.core c).strms := by
  unfold State.popHead
  split
  · rfl
  · rw [State.strms_consume, State.modCore_eq, State.core_setCore]
    show ((s.clearHead c p ch).core c).strms = _
    rw [State.core_clearHead]

section Consume

variable {s : State} {c : CoreId} {k : StrmId} {q : Fin 8} {cell : Cell} {z : Strm} {l : List SinkWrite}
    (hq : ((s.core c).strms[k]).storer = some q) (hh : (s.core c).head? s.slot (108 + q.val) 0 = some cell)
    (hst : ((s.core c).strms[k]).st = .running) (hk : ((s.core c).strms[k]).kind = .sstore) (hca : ((s.core c).strms[k]).cancel = false)
    (hw : ((s.core c).strms[k]).walk = none) (hc : ((s.core c).strms[k]).cells < ((s.core c).strms[k]).ncells)
    (hmv : (((s.core c).egAt (108 + q.val)).chan 0).moved = false) (hvc : cell.h.vc = ((s.core c).strms[k]).vc) (ht : cell.h.tag ≠ tDRN)
    (he : s.emptyCell c ((s.core c).strms[k]) cell.data (((s.core c).strms[k]).upTo ((s.core c).strms[k]).cells - ((s.core c).strms[k]).elems) = (z, none))
    (hl : s.keyWrites c z z.cells cell.h.key = .ok l) (hr : (s.core c).storerReady (some q) s.slot = true)
    (hp : s.pathsFree true (((z.writes ++ l).drop ((s.core c).strms[k]).writes.length).map (fun w => w.addr)) = true)

include hq hh hst hk hca hw hc hmv hvc ht he hl hr hp

theorem exec_sinkCellConsume_takes :
    exec (.sinkCellConsume c k) s = .next (State.popHead (((((s.softElems c ((s.core c).strms[k]) ((s.core c).strms[k]).elems z.elems).pathsUsed false []).pathsUsed true
      (((s.core c).strms[k]).newWrites { z with writes := z.writes ++ l })).modCore c (fun x =>
        (x.modStrm k (fun _ => ({ z with writes := z.writes ++ l, cells := z.cells + 1 } : Strm).sinkDone s.slot)).storerUsed (some q) s.slot))) c (108 + q.val) 0) := by
  have hsink : s.sinkCell c ((s.core c).strms[k]) cell = ({ z with writes := z.writes ++ l }, none) := by
    simp only [State.sinkCell, he, hl]
  have hks : StrmKind.sstore.isSink = true := rfl
  have hp' : s.pathsFree true (((s.core c).strms[k]).newWrites { z with writes := z.writes ++ l }) = true := hp
  show execSinkCellConsume c k s = _
  simp only [execSinkCellConsume, hq, hh, hst, hks, hca, hw, hc, hmv, hr, hvc, ht, hsink, hk, hp', beq_self_eq_true, Bool.not_false,
    Option.isNone_none, decide_true, Bool.and_true, if_true, reduceCtorEq, if_false, State.pathsFree_nil, ne_eq, not_true_eq_false,
    Bool.not_true, Bool.false_eq_true]

theorem sinkCellConsume_takes :
    ∃ t, exec (.sinkCellConsume c k) s = .next t ∧ SameMem s t ∧ ((t.core c).strms[k]).cells = z.cells + 1 ∧
      ((t.core c).strms[k]).writes = z.writes ++ l := by
  have hx := exec_sinkCellConsume_takes hq hh hst hk hca hw hc hmv hvc ht he hl hr hp
  refine ⟨_, hx, Sys2Proof.Machine.SameMem.of_mem (execSinkCellConsume_leavesMem c k s _ hx), ?_, ?_⟩
  · rw [State.strms_popHead, State.modCore_eq, State.core_setCore]
    refine (congrArg Strm.cells (Core.strms_storerUsed ..)).trans ?_
    rw [Core.strms_modStrm, Strm.sinkDone_cells]
  · rw [State.strms_popHead, State.modCore_eq, State.core_setCore]
    refine (congrArg Strm.writes (Core.strms_storerUsed ..)).trans ?_
    rw [Core.strms_modStrm, Strm.sinkDone_writes]

end Consume

theorem loadersAndStorers : LoadersAndStorers := by
  intro s c k x y
  refine ⟨fun q r hq hl hca hs ho hp => loaderReadReturn_returns hq hl hca hs ho hp, fun hst hk hca hw ha hfr hcr hl hp hsp => ?_,
    fun w r hw hm => sinkWritePerformed_writes hw hm,
    fun q cell z l hq hh hst hk hca hw hc hmv hvc ht he hl hr hp => sinkCellConsume_takes hq hh hst hk hca hw hc hmv hvc ht he hl hr hp⟩
  rcases hn : s.nextCell c k y with ⟨z, r | cell⟩
  · obtain ⟨t, he, hm⟩ := exec_loaderReadIssue_sameMem hst hk hca hw ha hfr hcr hl hp hsp
    exact ⟨t, he, hm, fun z' cell h => by cases h⟩
  · obtain ⟨u, hu, he⟩ := exec_loaderReadIssue_cell hst hk hca hw ha hfr hcr hl hp hsp hn
    refine ⟨_, he, Sys2Proof.Machine.SameMem.of_mem (by rw [State.mem_modCore, hu.mem]), fun z' cell' h => ?_⟩
    cases h
    rw [State.modCore_eq, State.core_setCore]
    have hz := (Core.strms_loaderUsed ((u.core c).modStrm k (fun _ => { z with inflight := z.inflight ++ [cell] })) y.loader u.slot k).trans
      (Core.strms_modStrm ..)
    exact ⟨congrArg Strm.inflight hz, (congrArg Strm.asked hz).trans rfl⟩

end Sys2Proof.Machine
end
section
/-! SUPPORT. What a section of an image writes (O42). -/

namespace Sys2Proof.Machine

open Sys2Proof.Claims

/-! ## Tables -/

theorem Sparse.get?_set {α : Type} (m : Sparse α) (k j : Nat) (v : α) : Sparse.get? (Sparse.set m k v) j = if j = k then some v else Sparse.get? m j := by
  induction m with
  | nil => simp only [Sparse.set, Sparse.get?, eq_comm]
  | cons p m ih =>
    obtain ⟨x, w⟩ := p
    simp only [Sparse.set]
    split
    · simp only [Sparse.get?, eq_comm]
    · split
      · next h =>
        subst h
        by_cases hj : k = j <;> simp [Sparse.get?, hj, Ne.symm]
      · next h =>
        simp only [Sparse.get?, ih]
        by_cases hj : j = k
        · subst hj
          simp [Ne.symm h]
        · simp [hj]

theorem vget_vset {α : Type} {n : Nat} (v : Vector α n) (i j : Nat) (x d : α) (hj : j < n) :
    vget (vset v i x) j d = if i = j then x else vget v j d := by
  unfold vget vset
  by_cases hi : i < n
  · simp [hi, hj, Vector.getElem_set]
  · have : i ≠ j := by omega
    simp [hi, hj, this]

/-- A range of entries written in order. -/
theorem Sparse.get?_foldl_set {α : Type} (m : Sparse α) (a n i : Nat) (f : Nat → α) :
    Sparse.get? ((List.range n).foldl (fun m j => Sparse.set m (a + j) (f j)) m) i =
      if a ≤ i ∧ i < a + n then some (f (i - a)) else Sparse.get? m i := by
  induction n with
  | zero => rw [if_neg (by omega)]; rfl
  | succ n ih =>
    rw [List.range_succ, List.foldl_append, List.foldl_cons, List.foldl_nil, Sparse.get?_set, ih]
    by_cases h : i = a + n
    · subst h
      rw [if_pos rfl, if_pos (by omega), Nat.add_sub_cancel_left]
    · rw [if_neg h]
      by_cases h2 : a ≤ i ∧ i < a + n
      · rw [if_pos h2, if_pos (by omega)]
      · rw [if_neg h2, if_neg (by omega)]

theorem vget_foldl_vset {α : Type} {k : Nat} (v : Vector α k) (a n i : Nat) (f : Nat → α) (d : α) (hi : i < k) :
    vget ((List.range n).foldl (fun v j => vset v (a + j) (f j)) v) i d = if a ≤ i ∧ i < a + n then f (i - a) else vget v i d := by
  induction n with
  | zero => rw [if_neg (by omega)]; rfl
  | succ n ih =>
    rw [List.range_succ, List.foldl_append, List.foldl_cons, List.foldl_nil, vget_vset _ _ _ _ _ hi, ih]
    by_cases h : a + n = i
    · subst h
      rw [if_pos rfl, if_pos (by omega), Nat.add_sub_cancel_left]
    · rw [if_neg h]
      by_cases h2 : a ≤ i ∧ i < a + n
      · rw [if_pos h2, if_pos (by omega)]
      · rw [if_neg h2, if_neg (by omega)]

/-! ## The fields of a slot -/

section Fields

variable (g : Slot) (rd : Img) (y : Sec)

theorem Slot.addSec_st : (g.addSec rd y).st = g.st := by unfold Slot.addSec; split <;> rfl

theorem Slot.addSec_elems : (g.addSec rd y).elems = if y.type = 1 then vset g.elems y.arg (elemOfImg rd y.off) else g.elems := by
  unfold Slot.addSec; split <;> simp_all

theorem Slot.addSec_vct : (g.addSec rd y).vct =
    if y.type = 2 then Vector.ofFn (fun v => BitVec.ofNat 16 (rd (y.off + 2 * v.val) 2)) else g.vct := by
  unfold Slot.addSec; split <;> simp_all

theorem Slot.addSec_reply : (g.addSec rd y).reply =
    if y.type = 3 then vset g.reply y.arg (Vector.ofFn (fun v => BitVec.ofNat 16 (rd (y.off + 2 * v.val) 2))) else g.reply := by
  unfold Slot.addSec; split <;> simp_all

theorem Slot.addSec_routes : (g.addSec rd y).routes = if y.type = 4 then (List.range (y.len / 32)).foldl (fun m i =>
    Sparse.set m (y.arg + i) (BitVec.ofNat 256 (imgWide rd (y.off + 32 * i) 2))) g.routes else g.routes := by
  unfold Slot.addSec; split <;> simp_all

theorem Slot.addSec_mcast : (g.addSec rd y).mcast = if y.type = 5 then Sparse.set g.mcast y.arg (BitVec.ofNat 128 (rd y.off 16)) else g.mcast := by
  unfold Slot.addSec; split <;> simp_all

theorem Slot.addSec_race : (g.addSec rd y).race = if y.type = 6 then Sparse.set g.race y.arg (BitVec.ofNat 64 (rd y.off 8)) else g.race := by
  unfold Slot.addSec; split <;> simp_all

theorem Slot.addSec_portbind : (g.addSec rd y).portbind =
    if y.type = 7 then Vector.ofFn (fun v => BitVec.ofNat 16 (rd (y.off + 2 * v.val) 2)) else g.portbind := by
  unfold Slot.addSec; split <;> simp_all

theorem Slot.addSec_drain : (g.addSec rd y).drain = if y.type = 8 then g.drain ++ (List.range y.arg).map (fun j =>
    { inp := BitVec.ofNat 7 (rd (y.off + 4 * j) 1), out := BitVec.ofNat 7 (rd (y.off + 4 * j + 1) 1),
      vc := BitVec.ofNat 5 (rd (y.off + 4 * j + 2) 1) : Drain }) else g.drain := by
  unfold Slot.addSec; split <;> simp_all

theorem Slot.addSec_node : (g.addSec rd y).node = if y.type = 9 then (List.range (y.len / 8)).foldl (fun v i =>
    vset v (y.arg + i) (BitVec.ofNat 64 (rd (y.off + 8 * i) 8))) g.node else g.node := by
  unfold Slot.addSec; split <;> simp_all

end Fields

/-- The entries of an element's body, by their places (R279). -/
theorem elemOfImg_entries (rd : Img) (o i : Nat) :
    (i < 4 → vget (elemOfImg rd o).out i 0 = BitVec.ofNat 16 (rd (o + 16 + 2 * i) 2)) ∧
    (i < 32 → vget (elemOfImg rd o).vcmap i 0 = BitVec.ofNat 16 (rd (o + 32 + 2 * i) 2) ∧
      vget (elemOfImg rd o).table i 0 = BitVec.ofNat 64 (rd (o + 96 + 8 * i) 8)) ∧
    (i < 8 → rd (o + 360) 1 / 2 ^ i % 2 = 1 → vget (elemOfImg rd o).litFmt i 0 = BitVec.ofNat 4 (rd (o + 352 + i) 1) ∧
      vget (elemOfImg rd o).lits i 0 = BitVec.ofNat 2048 (imgWide rd (o + 368 + 256 *
        ((List.range i).filter (fun j => rd (o + 360) 1 / 2 ^ j % 2 == 1)).length) 16)) := by
  refine ⟨fun h => ?_, fun h => ⟨?_, ?_⟩, fun h hp => ⟨?_, ?_⟩⟩ <;> simp [elemOfImg, vget_lt _ _ _ h]
  · exact fun h => absurd hp (by omega)
  · exact fun h => absurd hp (by omega)

theorem imageSections : ImageSections := by
  intro g rd y i o h
  have hel (e : ElemId) : h.elems[e] = if y.type = 1 ∧ y.arg = e.val then elemOfImg rd o else g.elems[e] := by
    have hv := vget_vset g.elems y.arg e.val (elemOfImg rd o) {} e.isLt
    simp only [vget_lt _ _ _ e.isLt] at hv
    show (g.addSec rd y).elems[e.val] = if _ then _ else g.elems[e.val]
    simp only [Slot.addSec_elems]
    by_cases h1 : y.type = 1
    · simp only [h1, if_true, true_and]
      exact hv
    · simp [h1]
  refine ⟨Slot.addSec_st .., fun e => ⟨fun hn => ?_, fun h1 ha => ?_⟩, Slot.addSec_vct .., Slot.addSec_portbind .., fun hi => ?_, ?_, ?_, ?_, ?_, ?_,
    fun hi => ?_⟩
  · rw [hel, if_neg (by tauto)]
  · rw [hel, if_pos ⟨h1, ha⟩]
    exact ⟨rfl, rfl, (Bool.beq_eq_decide_eq _ _).trans rfl, rfl, elemOfImg_entries rd o i⟩
  · simp only [h, Slot.addSec_reply]
    by_cases h3 : y.type = 3
    · simp only [h3, if_true, true_and, vget_vset _ _ _ _ _ hi]
      rfl
    · simp [h3]
  · simp only [h, Slot.addSec_routes]
    by_cases h4 : y.type = 4
    · simp only [h4, if_true, true_and, Sparse.get?_foldl_set]
      rfl
    · simp [h4]
  · simp only [h, Slot.addSec_mcast]
    by_cases h5 : y.type = 5
    · simp only [h5, if_true, true_and, Sparse.get?_set, eq_comm]
      rfl
    · simp [h5]
  · simp only [h, Slot.addSec_race]
    by_cases h6 : y.type = 6
    · simp only [h6, if_true, true_and, Sparse.get?_set, eq_comm]
      rfl
    · simp [h6]
  · intro h8
    simp only [h, Slot.addSec_drain, if_pos h8]
    rfl
  · intro h8
    simp only [h, Slot.addSec_drain, if_neg h8]
  · simp only [h, Slot.addSec_node]
    by_cases h9 : y.type = 9
    · simp only [h9, if_true, true_and, vget_foldl_vset _ _ _ _ _ _ hi]
      rfl
    · simp [h9]

end Sys2Proof.Machine
end
section
/-! SUPPORT. A configuration load at work (O42). -/

namespace Sys2Proof.Machine

open Sys2Proof.Claims

/-! ## Slots and banks of a core -/

@[simp] theorem Core.slotAt_modSlot (x : Core) (b : Bool) (f : Slot → Slot) : (x.modSlot b f).slotAt b = f (x.slotAt b) := by
  cases b <;> simp [Core.slotAt, Core.modSlot, vmod]

@[simp] theorem Core.slotAt_modStrm (x : Core) (k : StrmId) (f : Strm → Strm) (b : Bool) : (x.modStrm k f).slotAt b = x.slotAt b := rfl

@[simp] theorem Core.slotAt_loaderUsed (x : Core) (l : Option (Fin 8)) (n : Nat) (b : Bool) : (x.loaderUsed l n).slotAt b = x.slotAt b := by
  cases l <;> rfl

@[simp] theorem Core.strms_modSlot (x : Core) (b : Bool) (f : Slot → Slot) : (x.modSlot b f).strms = x.strms := rfl
@[simp] theorem Core.strms_tagNext (x : Core) (t : BitVec 6) : (x.tagNext t).strms = x.strms := rfl

/-- The bank of a pool write, as a test of writes. -/
def SysWrite.isFor (b : Nat) (w : SysWrite) : Bool := poolBank w.addr == b

/-- Writes on system paths change banks alone. -/
theorem Core.sysWrites_eq (l : List SysWrite) (x : Core) : l.foldl (fun x w => x.sysWrite w) x = { x with
    banks := (l.foldl (fun x w => x.sysWrite w) x).banks } := by
  induction l generalizing x with
  | nil => rfl
  | cons w l ih => exact ih (x.sysWrite w)

theorem Core.bankAt_sysWrites {b : Nat} (hb : b < 48) (l : List SysWrite) (x : Core) :
    ((l.foldl (fun x w => x.sysWrite w) x).bankAt b).sys = (x.bankAt b).sys ++ l.filter (SysWrite.isFor b) := by
  induction l generalizing x with
  | nil => simp
  | cons w l ih =>
    rw [List.foldl_cons, ih, List.filter_cons]
    by_cases h : poolBank w.addr = b
    · subst h
      have : (x.sysWrite w).bankAt (poolBank w.addr) = { x.bankAt (poolBank w.addr) with sys := (x.bankAt (poolBank w.addr)).sys ++ [w] } :=
        vmod_same _ _ _ _ hb
      simp [this, SysWrite.isFor]
    · have : (x.sysWrite w).bankAt b = x.bankAt b := vmod_other _ _ _ _ _ h
      simp [this, SysWrite.isFor, h]

/-- A write of a load that waits at a bank is left of it. -/
theorem Core.loadLeft_of_mem {x : Core} {k : StrmId} {b : Nat} (hb : b < 48) {w : SysWrite} (hw : w ∈ (x.bankAt b).sys) (hl : w.load = some k) :
    x.loadLeft k = true := by
  rw [Core.bankAt, vget_lt _ _ _ hb] at hw
  rw [Core.loadLeft, List.any_eq_true]
  exact ⟨x.banks[b], by simp, List.any_eq_true.2 ⟨w, hw, by simp [hl]⟩⟩

/-! ## Pool words of an image -/

theorem imgCheck_sections {rd : Img} {n : Nat} {l : List Sec} (hn : imgLength? rd = some n) (hc : imgCheck rd = some l) :
    imgSections rd n 16 (n / 16) = some l ∧ l.all (secOk rd) = true := by
  simp only [imgCheck, hn] at hc
  split at hc
  · cases hc
  · next h =>
    split at hc
    · next hok =>
      cases hc
      simp only [Bool.and_eq_true] at hok
      exact ⟨h, hok.1.1⟩
    · cases hc

/-- The words of a legal POOL block belong to its load and lie in the core's 48 banks (R281). -/
theorem poolWords_legal {rd : Img} {y : Sec} {k : Option StrmId} (hy : y.type = 10) (hok : secOk rd y = true) {w : SysWrite} (hw : w ∈ poolWords rd y k) :
    w.load = k ∧ poolBank w.addr < 48 := by
  obtain ⟨i, hi, rfl⟩ := List.mem_map.1 hw
  refine ⟨rfl, ?_⟩
  have hi := List.mem_range.1 hi
  simp only [secOk, hy, poolBank, Bool.and_eq_true, decide_eq_true_eq] at hok
  obtain ⟨⟨⟨⟨⟨-, h1⟩, -⟩, hb⟩, hc⟩, -⟩ := hok
  simp only [poolBank]
  generalize y.poolAddr = a at *
  generalize y.poolCount = n at *
  omega

theorem imgPool_legal {rd : Img} {l : List Sec} {c : CoreId} {k : Option StrmId} (hok : l.all (secOk rd) = true) {w : SysWrite}
    (hw : w ∈ imgPool rd l c k) : w.load = k ∧ poolBank w.addr < 48 := by
  obtain ⟨y, hy, hw⟩ := List.mem_flatMap.1 hw
  simp only [List.mem_filter, Bool.and_eq_true, beq_iff_eq] at hy
  exact poolWords_legal hy.2.1 (List.all_eq_true.1 hok y hy.1) hw

/-! ## The loads -/

section Load

variable {s : State} {c : CoreId} {k : StrmId} (hst : ((s.core c).strms[k]).st = .running) (hk : ((s.core c).strms[k]).kind = .scfg)
  (hca : ((s.core c).strms[k]).cancel = false) (hw : ((s.core c).strms[k]).walk = none)

include hst hk hca hw

theorem exec_scfgCheckDone_pull (hp : ((s.core c).strms[k]).cfgPhase = 0)
    (hn : 256 * ((s.core c).strms[k]).cfgAsked < s.imgBytes c ((s.core c).strms[k])) :
    exec (.scfgCheckDone c k) s = .next (s.imgPull c k ((s.core c).strms[k]) (s.imgBytes c ((s.core c).strms[k]))) := by
  show execScfgCheckDone c k s = _
  simp only [execScfgCheckDone, hst, hk, hca, hw, hp, hn, beq_self_eq_true, Bool.not_false, Option.isNone_none, Bool.and_true, if_true]

theorem exec_scfgCheckDone_bad (hp : ((s.core c).strms[k]).cfgPhase = 0)
    (hn : s.imgBytes c ((s.core c).strms[k]) ≤ 256 * ((s.core c).strms[k]).cfgAsked) (hc : imgCheck ((s.core c).strms[k]).image = none) :
    exec (.scfgCheckDone c k) s = .next (s.cfgFault c k) := by
  show execScfgCheckDone c k s = _
  simp only [execScfgCheckDone, hst, hk, hca, hw, hp, hc, Nat.not_lt.2 hn, beq_self_eq_true, Bool.not_false, Option.isNone_none, Bool.and_true,
    if_true, if_false]

theorem exec_scfgCheckDone_good (hp : ((s.core c).strms[k]).cfgPhase = 0)
    (hn : s.imgBytes c ((s.core c).strms[k]) ≤ 256 * ((s.core c).strms[k]).cfgAsked) {l : List Sec} (hc : imgCheck ((s.core c).strms[k]).image = some l) :
    exec (.scfgCheckDone c k) s = .next (s.modCore c (fun x => (x.modStrm k (fun z => { z with
      cfgPhase := 1, cfgLen := s.imgBytes c ((s.core c).strms[k]), cfgAsked := 0, img := [] })).modSlot ((s.core c).strms[k]).cfgSlot
        (fun g => { g with st := .loading }))) := by
  show execScfgCheckDone c k s = _
  simp only [execScfgCheckDone, hst, hk, hca, hw, hp, hc, Nat.not_lt.2 hn, beq_self_eq_true, Bool.not_false, Option.isNone_none, Bool.and_true,
    if_true, if_false]

end Load

/-- The core of a load whose image is written: the slot as the sections give it, and the pool words at their banks (R281). -/
def Core.imgWritten (x : Core) (c : CoreId) (k : StrmId) (b : Bool) (rd : Img) (l : List Sec) : Core :=
  (imgPool rd l c (some k)).foldl (fun x w => x.sysWrite w)
    ((x.modSlot b (fun _ => { slotOfImg rd l with st := .loading })).modStrm k (fun z => { z with cfgPhase := 2, img := [] }))

/-- The core of a load that ends (R282). -/
def Core.loadEnd (x : Core) (k : StrmId) (b : Bool) (tag : BitVec 6) : Core :=
  ((x.modSlot b (fun g => { g with st := .loaded })).tagNext tag).modStrm k (fun z => { z with st := .done })

section Load

variable {s : State} {c : CoreId} {k : StrmId} (hst : ((s.core c).strms[k]).st = .running) (hk : ((s.core c).strms[k]).kind = .scfg)
  (hca : ((s.core c).strms[k]).cancel = false) (hw : ((s.core c).strms[k]).walk = none)

include hst hk hca hw

theorem exec_scfgLoadDone_write (hp : ((s.core c).strms[k]).cfgPhase = 1) (hn : ((s.core c).strms[k]).cfgLen ≤ 256 * ((s.core c).strms[k]).cfgAsked)
    {l : List Sec} (hl : imgSections ((s.core c).strms[k]).image ((s.core c).strms[k]).cfgLen 16 (((s.core c).strms[k]).cfgLen / 16) = some l) :
    let x := (s.core c).imgWritten c k ((s.core c).strms[k]).cfgSlot ((s.core c).strms[k]).image l
    exec (.scfgLoadDone c k) s = .next (s.setCore c (if x.loadLeft k then x else
      x.loadEnd k ((s.core c).strms[k]).cfgSlot ((s.core c).strms[k]).tag)) := by
  intro x
  show execScfgLoadDone c k s = _
  simp only [execScfgLoadDone, hst, hk, hca, hw, hp, hl, Nat.not_lt.2 hn, beq_self_eq_true, Bool.not_false, Option.isNone_none, Bool.and_true,
    Nat.le_refl, decide_true, and_false, if_true, if_false, Option.getD_some, State.modCore_eq, State.core_setCore, State.setCore_setCore]
  show (if x.loadLeft k = true then _ else _) = _
  split <;> rfl

theorem exec_scfgLoadDone_end (hp : ((s.core c).strms[k]).cfgPhase = 2) (hl : (s.core c).loadLeft k = false) :
    exec (.scfgLoadDone c k) s = .next (s.setCore c ((s.core c).loadEnd k ((s.core c).strms[k]).cfgSlot ((s.core c).strms[k]).tag)) := by
  show execScfgLoadDone c k s = _
  simp only [execScfgLoadDone, hst, hk, hca, hw, hp, hl, beq_self_eq_true, Bool.not_false, Option.isNone_none, Bool.and_true, Nat.reduceLeDiff,
    decide_true, OfNat.ofNat_ne_one, false_and, if_true, if_false, Bool.false_eq_true]
  rfl

theorem exec_scfgLoadDone_waits (hp : ((s.core c).strms[k]).cfgPhase = 2) (hl : (s.core c).loadLeft k = true) :
    exec (.scfgLoadDone c k) s = .next s := by
  show execScfgLoadDone c k s = _
  simp only [execScfgLoadDone, hst, hk, hca, hw, hp, hl, beq_self_eq_true, Bool.not_false, Option.isNone_none, Bool.and_true, Nat.reduceLeDiff,
    decide_true, OfNat.ofNat_ne_one, false_and, if_true, if_false]

end Load

/-! ### What the loads leave -/

theorem State.imgPull_val {s : State} {c : CoreId} {k : StrmId} {y : Strm} {n v : Nat} (hl : (s.core c).loaderFree y.loader s.slot = true)
    (hp : s.pathsFree false (y.pa? (s.tenantOf c) (y.imgVa y.cfgAsked) .read).toList = true)
    (hv : s.strmReadPage c y (y.imgVa y.cfgAsked) (min 256 (n - 256 * y.cfgAsked)) = .val v) :
    ∃ u, Aside s u ∧ s.imgPull c k y n = u.modCore c (fun x => (x.modStrm k (fun z => { z with
      cfgAsked := y.cfgAsked + 1, img := Sparse.set y.img y.cfgAsked (BitVec.ofNat 2048 v) })).loaderUsed y.loader s.slot) := by
  refine ⟨_, (Aside.foldl (fun s pa => s.softHbm pa (min 256 (n - 256 * y.cfgAsked))) (fun s a => aside_softHbm s a _)
    (y.pa? (s.tenantOf c) (y.imgVa y.cfgAsked) .read).toList s).trans
    (aside_pathsUsed _ false (y.pa? (s.tenantOf c) (y.imgVa y.cfgAsked) .read).toList), ?_⟩
  simp only [State.imgPull, hl, hp, hv, Bool.not_true, Bool.or_self, Bool.false_eq_true, if_false]

theorem Core.imgWritten_spec (x : Core) (c : CoreId) (k : StrmId) (b : Bool) (rd : Img) (l : List Sec) :
    (x.imgWritten c k b rd l).slotAt b = { slotOfImg rd l with st := .loading } ∧
    (x.imgWritten c k b rd l).strms[k] = { x.strms[k] with cfgPhase := 2, img := [] } ∧ (x.imgWritten c k b rd l).tbNext = x.tbNext ∧
    ∀ i, i < 48 → ((x.imgWritten c k b rd l).bankAt i).sys = (x.bankAt i).sys ++ (imgPool rd l c (some k)).filter (SysWrite.isFor i) := by
  refine ⟨?_, ?_, ?_, fun i hi => ?_⟩
  · rw [Core.imgWritten, Core.sysWrites_eq]
    exact Core.slotAt_modSlot x b (fun _ => { slotOfImg rd l with st := .loading })
  · rw [Core.imgWritten, Core.sysWrites_eq]
    exact Core.strms_modStrm (x.modSlot b (fun _ => { slotOfImg rd l with st := .loading })) k (fun z => { z with cfgPhase := 2, img := [] })
  · rw [Core.imgWritten, Core.sysWrites_eq]
    rfl
  · exact Core.bankAt_sysWrites hi _ _

theorem Core.loadEnd_spec (x : Core) (k : StrmId) (b : Bool) (tag : BitVec 6) :
    (x.loadEnd k b tag).slotAt b = { x.slotAt b with st := .loaded } ∧ ((x.loadEnd k b tag).strms[k]).st = .done ∧
      (x.loadEnd k b tag).tbNext = x.tbNext ||| (1#64 <<< tag.toNat) := by
  refine ⟨Core.slotAt_modSlot x b (fun g => { g with st := .loaded }), ?_, rfl⟩
  rw [Core.loadEnd, Core.strms_modStrm]

theorem State.faults_freezeStrm (s : State) (c : CoreId) (k : StrmId) (code : BitVec 8) (a : Nat) (wr : Bool) :
    ∃ r, ((s.freezeStrm c k code a wr).core c).faults = (s.core c).faults ++ [r] ∧ r.kind = code := by
  simp only [State.freezeStrm, State.record, State.modCore_eq, State.core_setCore]
  exact ⟨_, rfl, rfl⟩

theorem State.slotAt_freezeStrm (s : State) (c : CoreId) (k : StrmId) (code : BitVec 8) (a : Nat) (wr b : Bool) :
    ((s.freezeStrm c k code a wr).core c).slotAt b = (s.core c).slotAt b := by
  simp only [State.freezeStrm, State.record, State.modCore_eq, State.core_setCore]
  rfl

/-- Whether a pending swap waits on the slot of a load. -/
def Core.loadNamed (x : Core) (k : StrmId) : Bool := match x.swap with | some w => w.slot == (x.strms[k]).cfgSlot | none => false

/-- The slot of a load that has failed: it keeps its contents only while a swap waits on it (R222, R282). -/
def Slot.failed (g : Slot) (named : Bool) : Slot := if named then { g with st := .faulted } else { st := .faulted }

theorem Slot.st_failed (g : Slot) (named : Bool) : (g.failed named).st = .faulted := by cases named <;> rfl

theorem State.cfgFault_eq (s : State) (c : CoreId) (k : StrmId) : s.cfgFault c k =
    (s.setCore c ((s.core c).modSlot ((s.core c).strms[k]).cfgSlot (fun g => g.failed ((s.core c).loadNamed k)))).freezeStrm c k kCFG
      ((s.core c).strms[k]).cfgVa false := rfl

theorem imageLoads : ImageLoads := by
  intro s c k x y rd n len pas ready
  refine ⟨fun v hr hp hn hl hf hv => ?_, fun hr hp hn hc => ?_, fun l hr hp hn hc => ?_, fun l hr hp hn hlen hc hleft => ?_, fun hr hp hl => ?_,
    fun hr hp hl => ?_⟩ <;> obtain ⟨hst, hk, hca, hw⟩ := hr
  · have he := exec_scfgCheckDone_pull hst hk hca hw hp hn
    obtain ⟨u, hu, hx⟩ := State.imgPull_val (k := k) hl hf hv
    rw [hx] at he
    refine ⟨_, he, Sys2Proof.Machine.SameMem.of_mem (by rw [State.mem_modCore, hu.mem]), ?_⟩
    rw [State.modCore_eq, State.core_setCore, hu.core]
    have hz := (Core.strms_loaderUsed ((s.core c).modStrm k (fun z => { z with
      cfgAsked := y.cfgAsked + 1, img := Sparse.set y.img y.cfgAsked (BitVec.ofNat 2048 v) })) y.loader s.slot k).trans (Core.strms_modStrm ..)
    exact ⟨congrArg Strm.cfgAsked hz, congrArg Strm.img hz, Core.slotAt_loaderUsed ..⟩
  · have he := exec_scfgCheckDone_bad hst hk hca hw hp hn hc
    rw [State.cfgFault_eq] at he
    obtain ⟨r, hr, hkind⟩ := State.faults_freezeStrm (s.setCore c ((s.core c).modSlot y.cfgSlot (fun g => g.failed ((s.core c).loadNamed k)))) c k
      kCFG y.cfgVa false
    rw [State.core_setCore] at hr
    refine ⟨_, r, he, Sys2Proof.Machine.SameMem.of_mem (execScfgCheckDone_leavesMem c k s _ he), congrArg Strm.st (State.strms_freezeStrm ..), ?_,
      fun hno => ?_, hr, hkind⟩
    · rw [State.slotAt_freezeStrm, State.core_setCore, Core.slotAt_modSlot, Slot.st_failed]
    · rw [State.slotAt_freezeStrm, State.core_setCore, Core.slotAt_modSlot]
      simp only [Core.loadNamed, show (s.core c).swap = none from hno]
      rfl
  · have he := exec_scfgCheckDone_good hst hk hca hw hp hn hc
    refine ⟨_, he, onlyCore_setCore .., ?_⟩
    rw [State.modCore_eq, State.core_setCore]
    have hz := Core.strms_modStrm (s.core c) k (fun z => { z with cfgPhase := 1, cfgLen := s.imgBytes c y, cfgAsked := 0, img := [] })
    exact ⟨congrArg Strm.cfgPhase hz, congrArg Strm.img hz, congrArg Strm.cfgAsked hz, by rw [Core.slotAt_modSlot]⟩
  · obtain ⟨hsec, hok⟩ := imgCheck_sections hlen hc
    have he : exec (.scfgLoadDone c k) s = .next (s.setCore c (if ((s.core c).imgWritten c k y.cfgSlot rd l).loadLeft k then
        (s.core c).imgWritten c k y.cfgSlot rd l else ((s.core c).imgWritten c k y.cfgSlot rd l).loadEnd k y.cfgSlot y.tag)) :=
      exec_scfgLoadDone_write hst hk hca hw hp hn hsec
    obtain ⟨h1, h2, h3, h4⟩ := Core.imgWritten_spec (s.core c) c k y.cfgSlot rd l
    refine ⟨fun hnil => ?_, fun hne => ?_⟩
    · have hleft' : ((s.core c).imgWritten c k y.cfgSlot rd l).loadLeft k = false := by
        rw [Core.imgWritten, hnil]
        exact hleft
      obtain ⟨e1, e2, e3⟩ := Core.loadEnd_spec ((s.core c).imgWritten c k y.cfgSlot rd l) k y.cfgSlot y.tag
      rw [hleft', if_neg Bool.false_ne_true] at he
      refine ⟨_, he, onlyCore_setCore .., ?_⟩
      rw [State.core_setCore]
      exact ⟨by rw [e1, h1], e2, by rw [e3, h3]⟩
    · have hleft' : ((s.core c).imgWritten c k y.cfgSlot rd l).loadLeft k = true := by
        obtain ⟨w, hw⟩ := List.exists_mem_of_ne_nil _ hne
        obtain ⟨hload, hbank⟩ := imgPool_legal hok hw
        refine Core.loadLeft_of_mem hbank (w := w) ?_ hload
        rw [h4 _ hbank]
        exact List.mem_append_right _ (List.mem_filter.2 ⟨hw, by simp [SysWrite.isFor]⟩)
      rw [hleft', if_pos rfl] at he
      refine ⟨_, he, onlyCore_setCore .., ?_⟩
      rw [State.core_setCore]
      exact ⟨h1, congrArg Strm.cfgPhase h2, h3, fun b => h4 b.val b.isLt⟩
  · obtain ⟨h1, h2, h3⟩ := Core.loadEnd_spec (s.core c) k y.cfgSlot y.tag
    refine ⟨_, exec_scfgLoadDone_end hst hk hca hw hp hl, onlyCore_setCore .., ?_⟩
    rw [State.core_setCore]
    exact ⟨by rw [h1], h2, h3⟩
  · exact exec_scfgLoadDone_waits hst hk hca hw hp hl

end Sys2Proof.Machine
end
section
/-! SUPPORT. A splice at work, and O42. -/

namespace Sys2Proof.Machine

open Sys2Proof.Claims

/-! ## Lines of a page -/

theorem Memory.byte_readN (m : Memory) (n : Nat) : ∀ (a j : Nat), j < n → BitVec.ofNat 8 (Memory.readN m a n / 256 ^ j) = Memory.get m (a + j) := by
  induction n with
  | zero => intro a j h; omega
  | succ n ih =>
    intro a j h
    have hb := (Memory.get m a).isLt
    rw [Memory.readN]
    cases j with
    | zero =>
      apply BitVec.eq_of_toNat_eq
      simp only [pow_zero, Nat.div_one, BitVec.toNat_ofNat, Nat.add_zero]
      omega
    | succ j =>
      rw [Nat.pow_succ', ← Nat.div_div_eq_div_mul, show ((Memory.get m a).toNat + 256 * Memory.readN m (a + 1) n) / 256 = Memory.readN m (a + 1) n by omega,
        ih _ _ (by omega)]
      congr 1
      omega

theorem State.hbm_hbmStore (s : State) (a n v : Nat) : (s.hbmStore a n v).hbm = Memory.writeN s.hbm a n v := rfl

theorem State.hbm_copyLine (s : State) (old n : Nat) {new : Nat} (hf : frameAbsent new = false) : (s.copyLine old new n).hbm =
    Memory.writeN s.hbm (new * 2 ^ 16 + 64 * n) 64 (Memory.readN s.hbm (old + 64 * n) 64) := by
  rw [State.copyLine, hf, if_neg Bool.false_ne_true, State.hbm_hbmStore, (aside_softHbm ..).hbm]

/-- A line of a page is copied to its place in the new frame. -/
theorem State.get_copyLine {s : State} (hm : Memory.wf s.hbm = true) {old new n : Nat} (hf : frameAbsent new = false) (a : Nat) :
    Memory.get (s.copyLine old new n).hbm a = if new * 2 ^ 16 + 64 * n ≤ a ∧ a < new * 2 ^ 16 + 64 * n + 64 then
      Memory.get s.hbm (old + (a - new * 2 ^ 16)) else Memory.get s.hbm a := by
  rw [State.hbm_copyLine _ _ _ hf, Memory.get_writeN _ _ _ _ hm]
  split
  · next h =>
    rw [Memory.byte_readN _ _ _ _ (by omega)]
    congr 1
    omega
  · rfl

/-- Lines of a page are copied, also where the new frame is the old one. -/
theorem State.get_copyLines {old new : Nat} (hf : frameAbsent new = false) (ho : old % 2 ^ 16 = 0) (l : List Nat) (hl : ∀ n ∈ l, n < 1024) :
    ∀ s : State, Memory.wf s.hbm = true → ∀ a, Memory.get (l.foldl (fun s n => s.copyLine old new n) s).hbm a =
      if new * 2 ^ 16 ≤ a ∧ a < new * 2 ^ 16 + 2 ^ 16 ∧ l.contains ((a - new * 2 ^ 16) / 64) = true then
        Memory.get s.hbm (old + (a - new * 2 ^ 16)) else Memory.get s.hbm a := by
  induction l with
  | nil => intro s _ a; simp
  | cons n l ih =>
    intro s hm a
    have hn := hl n (by simp)
    have hwf : Memory.wf (s.copyLine old new n).hbm = true := by
      rw [State.hbm_copyLine _ _ _ hf]
      exact Memory.wf_writeN _ _ _ _ hm
    rw [List.foldl_cons, ih (fun m h => hl m (by simp [h])) _ hwf a]
    simp only [State.get_copyLine hm hf, List.contains_cons, Bool.or_eq_true, beq_iff_eq]
    by_cases hp : new * 2 ^ 16 ≤ a ∧ a < new * 2 ^ 16 + 2 ^ 16
    · have hline : (new * 2 ^ 16 + 64 * n ≤ a ∧ a < new * 2 ^ 16 + 64 * n + 64) ↔ (a - new * 2 ^ 16) / 64 = n := by omega
      have hread : (if new * 2 ^ 16 + 64 * n ≤ old + (a - new * 2 ^ 16) ∧ old + (a - new * 2 ^ 16) < new * 2 ^ 16 + 64 * n + 64 then
          Memory.get s.hbm (old + (old + (a - new * 2 ^ 16) - new * 2 ^ 16)) else Memory.get s.hbm (old + (a - new * 2 ^ 16)))
          = Memory.get s.hbm (old + (a - new * 2 ^ 16)) := by
        split
        · next h =>
          have : old = new * 2 ^ 16 := by omega
          congr 1
          omega
        · rfl
      simp only [hread, hline, hp, true_and]
      by_cases h1 : (a - new * 2 ^ 16) / 64 = n <;> by_cases h2 : l.contains ((a - new * 2 ^ 16) / 64) = true <;> simp only [h1, h2] <;> simp
    · have h1 : ¬(new * 2 ^ 16 + 64 * n ≤ a ∧ a < new * 2 ^ 16 + 64 * n + 64) := fun h => hp ⟨by omega, by omega⟩
      rw [if_neg (fun h => hp ⟨h.1, h.2.1⟩), if_neg h1, if_neg (fun h => hp ⟨h.1, h.2.1⟩)]

/-! ## A splice's acts -/

/-- Nothing differs but the bytes of HBM, the marks and counts of errors, and the stream paths of the slot. -/
structure Stored (s t : State) : Prop where
  eq : t = { s with hbm := t.hbm, ecc := t.ecc, errs := t.errs, pathIn := t.pathIn, pathOut := t.pathOut }

theorem Stored.trans {s t u : State} (h : Stored s t) (g : Stored t u) : Stored s u := by
  have := g.eq
  rw [h.eq] at this
  exact ⟨this⟩

theorem Stored.foldl {α : Type} (f : State → α → State) (h : ∀ s a, Stored s (f s a)) (l : List α) (s : State) : Stored s (l.foldl f s) := by
  induction l generalizing s with
  | nil => exact ⟨rfl⟩
  | cons a r ih => exact (h s a).trans (ih _)

theorem Stored.of_aside {s t : State} (h : Aside s t) : Stored s t := ⟨by rw [h.eq]⟩

section Stored

variable {s t : State} (h : Stored s t)

include h

theorem Stored.core (c : CoreId) : t.core c = s.core c := by rw [h.eq]; rfl
theorem Stored.pool : t.pool = s.pool := by rw [h.eq]
theorem Stored.tenantOf (c : CoreId) : t.tenantOf c = s.tenantOf c := by rw [h.eq]; rfl

end Stored

theorem stored_hbmStore (s : State) (a n v : Nat) : Stored s (s.hbmStore a n v) := ⟨rfl⟩

theorem stored_copyLine (s : State) (old new n : Nat) : Stored s (s.copyLine old new n) := by
  have h := Stored.of_aside (aside_softHbm s (old + 64 * n) 64)
  unfold State.copyLine
  dsimp only
  split
  · exact h
  · exact h.trans (stored_hbmStore ..)

theorem State.pathsFree_walked (s : State) (c : CoreId) (va : Nat) (w : Bool) (l : List Nat) : (s.walked c va).pathsFree w l = s.pathsFree w l := by
  have h : ((s.walked c va).pathIn, (s.walked c va).pathOut, (s.walked c va).slot) = (s.pathIn, s.pathOut, s.slot) :=
    State.foldl_keep (fun s => (s.pathIn, s.pathOut, s.slot)) (fun s a => s.softHbm a 8) (fun _ _ => rfl) _ _
  simp only [Prod.mk.injEq] at h
  simp only [State.pathsFree, h]

theorem State.hbmBad_of_aside {s u : State} (h : Aside s u) (a n : Nat) : u.hbmBad a n = s.hbmBad a n := by
  rw [State.hbmBad, h.bad]
  rfl

theorem Xlat.pa_mod (e : Xlat) (page : Nat) : e.pa (page * 2 ^ 16) % 2 ^ 16 = 0 := by
  unfold Xlat.pa
  split <;> omega

/-- The page entry of a page's own frame names that frame. -/
theorem xlatOf_pa {e : Xlat} {page : Nat} (h : e.pa (page * 2 ^ 16) < 2 ^ 44) (w x d : Bool) (ten : Tenant) :
    (xlatOf (page * 2 ^ 16) 3 (e.pa (page * 2 ^ 16) / 2 ^ 16) w x d ten).pa (page * 2 ^ 16) = e.pa (page * 2 ^ 16) := by
  have hm := e.pa_mod page
  generalize e.pa (page * 2 ^ 16) = pa at *
  simp only [xlatOf, Xlat.pa, BitVec.toNat_ofNat, Nat.reduceEqDiff, decide_false, Bool.false_eq_true, if_false]
  omega

/-- The lines that a splice copies in a slot. -/
def Splice.nextLines (z : Splice) : List Nat := ((List.range 1024).filter (fun n => !z.lines.contains n)).take 4

/-- The state in which a splice has copied a slot's lines: memory, the stream paths, and its storer's slot. -/
def State.spliceCopied (s : State) (c : CoreId) (z : Splice) (old : Nat) : State :=
  let u := ((z.nextLines.foldl (fun s n => s.copyLine old z.frame n) (s.walked c (z.page * 2 ^ 16))).pathsUsed false
    (z.nextLines.map (fun n => old + 64 * n))).pathsUsed true (z.nextLines.map (fun n => z.frame * 2 ^ 16 + 64 * n))
  u.modCore c (fun x => x.storerUsed (some z.storer) u.slot)

theorem exec_spliceDone_none {s : State} {c : CoreId} {k : StrmId} (h : s.spliceReady? c k = none) : exec (.spliceDone c k) s = .next s := by
  show execSpliceDone c k s = _
  simp only [execSpliceDone, h]

theorem exec_spliceDone_copies {s : State} {c : CoreId} {k : StrmId} {i : Nat} {z : Splice} {e : Xlat} (hr : s.spliceReady? c k = some (i, z))
    (hin : s.pathsFree false (z.nextLines.map (fun n => e.pa (z.page * 2 ^ 16) + 64 * n)) = true)
    (hout : s.pathsFree true (z.nextLines.map (fun n => z.frame * 2 ^ 16 + 64 * n)) = true) (hg : z.gone = false)
    (he : findXlat ((s.core c).strms[k]).extents (s.tenantOf c) (z.page * 2 ^ 16) = some e) (ho : e.pa (z.page * 2 ^ 16) < 2 ^ 44)
    (hf : z.frame < 2 ^ 24) (hb : ∀ n ∈ z.nextLines, s.hbmBad (e.pa (z.page * 2 ^ 16) + 64 * n) 64 = false) :
    exec (.spliceDone c k) s = .next (if ((List.range 1024).filter (fun n => !z.lines.contains n)).length ≤ 4 then
        (s.spliceCopied c z (e.pa (z.page * 2 ^ 16))).spliceEnd c k i z e.w e.x e.dirty
      else (s.spliceCopied c z (e.pa (z.page * 2 ^ 16))).modCore c (fun x =>
        { x with splices := x.splices.set i { z with lines := z.lines ++ z.nextLines } })) := by
  have hu := aside_walked s c (z.page * 2 ^ 16)
  have hold : (s.walked c (z.page * 2 ^ 16)).spliceOld c k z = .leaf 0 0 false 3 (e.pa (z.page * 2 ^ 16) / 2 ^ 16) e.w e.x e.dirty := by
    simp only [State.spliceOld, hg, Bool.false_eq_true, if_false, hu.core, hu.tenantOf, he]
  have hfa : frameAbsent z.frame = false := by simp [frameAbsent]; omega
  have hbad : z.nextLines.any (fun n => (s.walked c (z.page * 2 ^ 16)).hbmBad (e.pa (z.page * 2 ^ 16) + 64 * n) 64) = false := by
    rw [List.any_eq_false]
    intro n hn
    rw [State.hbmBad_of_aside hu, hb n hn]
    exact Bool.false_ne_true
  simp only [Splice.nextLines] at hin hout hbad
  show execSpliceDone c k s = _
  simp only [execSpliceDone, hr, hold, xlatOf_pa ho, hfa, State.pathsFree_walked, hin, hout, hbad, Bool.not_true, Bool.or_self, Bool.false_eq_true, if_false]
  exact (apply_ite Host.Outcome.next _ _ _).symm

/-- What a splice's copying leaves but for memory: the core, save its storer's slot. -/
theorem State.spliceCopied_spec (s : State) (c : CoreId) (z : Splice) (old : Nat) :
    ∃ n u, Stored s u ∧ s.spliceCopied c z old = u.setCore c ((s.core c).storerUsed (some z.storer) n) ∧
      u.hbm = (z.nextLines.foldl (fun s n => s.copyLine old z.frame n) (s.walked c (z.page * 2 ^ 16))).hbm := by
  have h1 : Stored s (z.nextLines.foldl (fun s n => s.copyLine old z.frame n) (s.walked c (z.page * 2 ^ 16))) :=
    (Stored.of_aside (aside_walked ..)).trans (.foldl _ (fun s n => stored_copyLine s old z.frame n) _ _)
  unfold State.spliceCopied
  generalize z.nextLines.foldl (fun s n => s.copyLine old z.frame n) (s.walked c (z.page * 2 ^ 16)) = v at *
  have h2 := (aside_pathsUsed v false (z.nextLines.map (fun n => old + 64 * n))).trans
    (aside_pathsUsed _ true (z.nextLines.map (fun n => z.frame * 2 ^ 16 + 64 * n)))
  have h3 := h1.trans (.of_aside h2)
  exact ⟨_, _, h3, by rw [State.modCore_eq, h3.core], h2.hbm⟩

theorem State.tenantOf_setCore {s : State} {c : CoreId} {x : Core} (h : x.task = (s.core c).task) : (s.setCore c x).tenantOf c = s.tenantOf c := by
  simp only [State.tenantOf, State.taskOf, State.core_setCore, h, State.setCore_tasks]

/-- The core of a splice that ends while its slot still holds its stream: the splice gone from the list, the new extent, and the tag. -/
def Core.spliceEnded (q : Core) (k : StrmId) (i : Nat) (z : Splice) (fresh : Xlat) : Core :=
  ((q.dropSplice i).modStrm k (fun y => { y with extents := y.extents.filter (fun q => !(!q.block && q.no == z.page)) ++ [fresh] })).tagNext z.tag

theorem State.spliceEnd_of_held (s : State) (c : CoreId) (k : StrmId) (i : Nat) {z : Splice} (hg : z.gone = false) (w x d : Bool) :
    s.spliceEnd c k i z w x d = s.setCore c ((s.core c).spliceEnded k i z (xlatOf (z.page * 2 ^ 16) 3 z.frame w x d (s.tenantOf c))) := by
  simp only [State.spliceEnd, State.tagNext, hg, Bool.false_eq_true, if_false, State.modCore_eq, State.core_setCore, State.setCore_setCore]
  rfl

theorem Core.spliceEnded_list (q : Core) (k : StrmId) (i : Nat) (z : Splice) (fresh : Xlat) :
    (q.spliceEnded k i z fresh).splices = q.splices.eraseIdx i ∧ (q.spliceEnded k i z fresh).tbNext = q.tbNext ||| (1#64 <<< z.tag.toNat) := ⟨rfl, rfl⟩

theorem Core.mem_spliceEnded (q : Core) (k : StrmId) (i : Nat) (z : Splice) (fresh : Xlat) : fresh ∈ ((q.spliceEnded k i z fresh).strms[k]).extents := by
  have h : (q.spliceEnded k i z fresh).strms[k] = _ := Core.strms_modStrm (q.dropSplice i) k (fun y => { y with
    extents := y.extents.filter (fun q => !(!q.block && q.no == z.page)) ++ [fresh] })
  rw [h]
  exact List.mem_append_right _ (List.mem_singleton_self _)

theorem splices : Splices := by
  intro s c k i z e y old left now
  refine ⟨exec_spliceDone_none, fun hr hin hout hg he ho hf hm hb => ?_⟩
  have hx := exec_spliceDone_copies hr hin hout hg he ho hf hb
  obtain ⟨n, u, hu, hcopied, hhbm⟩ := s.spliceCopied_spec c z old
  have hmem (a : Nat) : Memory.get u.hbm a = if z.frame * 2 ^ 16 ≤ a ∧ a < z.frame * 2 ^ 16 + 2 ^ 16 ∧
      now.contains ((a - z.frame * 2 ^ 16) / 64) = true then Memory.get s.hbm (old + (a - z.frame * 2 ^ 16)) else Memory.get s.hbm a := by
    have hw := aside_walked s c (z.page * 2 ^ 16)
    have h := State.get_copyLines (by simp [frameAbsent]; omega : frameAbsent z.frame = false) (e.pa_mod z.page) z.nextLines
      (fun n hn => List.mem_range.1 (List.mem_of_mem_filter (List.mem_of_mem_take hn))) (s.walked c (z.page * 2 ^ 16))
      (by rw [hw.hbm]; exact ((State.memWf_iff s).1 hm).1) a
    rw [hhbm, h, hw.hbm]
    rfl
  by_cases h4 : left.length ≤ 4
  · have ht : (u.setCore c ((s.core c).storerUsed (some z.storer) n)).tenantOf c = s.tenantOf c := by
      rw [State.tenantOf_setCore (x := (s.core c).storerUsed (some z.storer) n) (Eq.trans (b := (s.core c).task) rfl (by rw [hu.core])), hu.tenantOf]
    rw [if_pos h4, hcopied, State.spliceEnd_of_held _ _ _ _ hg, ht, State.core_setCore, State.setCore_setCore] at hx
    refine ⟨_, hx, hu.pool, hmem, fun _ => ?_, fun h => absurd h4 (by omega)⟩
    rw [State.core_setCore]
    obtain ⟨h1, h2⟩ := Core.spliceEnded_list ((s.core c).storerUsed (some z.storer) n) k i z
      (xlatOf (z.page * 2 ^ 16) 3 z.frame e.w e.x e.dirty (s.tenantOf c))
    exact ⟨h1, h2, Core.mem_spliceEnded ..⟩
  · rw [if_neg h4, hcopied] at hx
    refine ⟨_, hx, hu.pool, hmem, fun h => absurd h h4, fun _ => ?_⟩
    rw [State.modCore_eq, State.core_setCore, State.core_setCore]
    exact ⟨congrArg (fun l => l.set i { z with lines := z.lines ++ z.nextLines }) (Core.splices_storerUsed (s.core c) (some z.storer) n), rfl,
      Core.strms_storerUsed (s.core c) (some z.storer) n k⟩

/-- Settles O42: loaders, storers, loads and splices, each from the equation of its event; an image's tables field by field, and a splice's lines
by induction on the lines copied. -/
theorem streamWork : Obligations.StreamWork := ⟨loadersAndStorers, imageLoads, imageSections, splices⟩

end Sys2Proof.Machine
end
section
/-! SUPPORT. What a message to a host changes and what it leaves; the bytes of an answer in its datagrams; the sequences of steps that answer the
host's messages. -/

namespace Sys2Proof.Machine
open Sys2Proof.Claims

/-! ## A message to a host -/

/-- Nothing differs but the messages sent and what they take of the hosts' ports. -/
structure Told (s t : State) : Prop where
  eq : t = { s with outbox := t.outbox, hostOut := t.hostOut, hostIn := t.hostIn }

theorem Told.trans {s t u : State} (h : Told s t) (g : Told t u) : Told s u := by
  refine ⟨?_⟩
  rw [g.eq, h.eq]

section
variable {s t : State} (h : Told s t)
include h

theorem Told.hbm : t.hbm = s.hbm := by rw [h.eq]
theorem Told.pool : t.pool = s.pool := by rw [h.eq]
theorem Told.mem : t.mem = s.mem := by rw [h.eq]; rfl
theorem Told.lq : t.lq = s.lq := by rw [h.eq]
theorem Told.nextTask : t.nextTask = s.nextTask := by rw [h.eq]
theorem Told.slew : t.slew = s.slew := by rw [h.eq]
theorem Told.debugReq : t.debugReq = s.debugReq := by rw [h.eq]
theorem Told.cores : t.cores = s.cores := by rw [h.eq]

theorem Told.sameMem : SameMem s t := Sys2Proof.Machine.SameMem.of_mem h.mem

end

theorem told_sendNext (s : State) (dest : Dest) (type ten que pos : Nat) (bs : List Byte) : Told s (s.sendNext dest type ten que pos bs) := by
  cases dest <;> exact ⟨rfl⟩

theorem told_sendParts (h : Ipv6) (ten que : Nat) (n : Nat) : ∀ (s : State) (pos : Nat) (bs : List Byte), Told s (s.sendParts h ten que pos bs n) := by
  induction n with
  | zero => exact fun s pos bs => told_sendNext ..
  | succ n ih =>
    intro s pos bs
    unfold State.sendParts
    split
    · exact told_sendNext ..
    · exact (told_sendNext ..).trans (ih ..)

/-! ## What is sent -/

/-- The message goes out behind those that went before it. -/
theorem State.outbox_sendNext (s : State) (dest : Dest) (type ten que pos : Nat) (bs : List Byte) :
    ∃ o, (s.sendNext dest type ten que pos bs).outbox = s.outbox ++ [o] ∧ o.dest = dest ∧ o.d.type = BitVec.ofNat 8 type ∧ o.d.payload = bs := by
  cases dest <;> exact ⟨_, rfl, rfl, rfl, rfl⟩

theorem State.length_sendNext (s : State) (dest : Dest) (type ten que pos : Nat) (bs : List Byte) :
    (s.sendNext dest type ten que pos bs).outbox.length = s.outbox.length + 1 := by
  obtain ⟨o, ho, -⟩ := s.outbox_sendNext dest type ten que pos bs
  rw [ho, List.length_append]
  rfl

theorem State.outbox_hostInUsed (s : State) (h : Ipv6) (n : Nat) : (s.hostInUsed h n).outbox = s.outbox := rfl

/-- A message of type 1 to host h that a frame can carry. -/
def OutMsg.isPart (h : Ipv6) (o : OutMsg) : Prop := o.dest = .host h ∧ o.d.type = 1 ∧ o.d.payload.length ≤ maxPayload

/-- An answer goes out in parts that frames can carry; they hold its bytes, in order. -/
theorem State.outbox_sendParts (h : Ipv6) (ten que : Nat) (n : Nat) :
    ∀ (s : State) (pos : Nat) (bs : List Byte), bs.length ≤ (n + 1) * maxPayload →
      ∃ l, (s.sendParts h ten que pos bs n).outbox = s.outbox ++ l ∧ l ≠ [] ∧ l.flatMap (fun o => o.d.payload) = bs ∧ ∀ o ∈ l, o.isPart h := by
  have whole : ∀ (s : State) (pos : Nat) (bs : List Byte), bs.length ≤ maxPayload → ∃ l, (s.sendNext (.host h) 1 ten que pos bs).outbox = s.outbox ++ l ∧
      l ≠ [] ∧ l.flatMap (fun o => o.d.payload) = bs ∧ ∀ o ∈ l, o.isPart h := by
    intro s pos bs hb
    obtain ⟨o, ho, hd, hty, hp⟩ := s.outbox_sendNext (.host h) 1 ten que pos bs
    exact ⟨[o], ho, List.cons_ne_nil _ _, by simp [hp], by simpa [OutMsg.isPart, hd, hty, hp] using hb⟩
  induction n with
  | zero => exact fun s pos bs hb => whole s pos bs (by omega)
  | succ n ih =>
    intro s pos bs hb
    unfold State.sendParts
    split
    · next hle => exact whole s pos bs hle
    · next hgt =>
      obtain ⟨o, ho, hd, hty, hp⟩ := s.outbox_sendNext (.host h) 1 ten que pos (bs.take maxPayload)
      obtain ⟨l, hl, -, hbs, hall⟩ := ih (s.sendNext (.host h) 1 ten que pos (bs.take maxPayload)) (pos + maxPayload) (bs.drop maxPayload)
        (by rw [List.length_drop]; rw [Nat.add_mul (n + 1) 1] at hb; omega)
      refine ⟨o :: l, by rw [hl, ho, List.append_assoc]; rfl, List.cons_ne_nil _ _, by rw [List.flatMap_cons, hp, hbs, List.take_append_drop], ?_⟩
      intro z hz
      rcases List.mem_cons.1 hz with rfl | hz
      · exact ⟨hd, hty, by rw [hp, List.length_take]; exact Nat.min_le_left ..⟩
      · exact hall z hz

/-- As many parts as the length asks for are enough. -/
theorem length_le_parts (bs : List Byte) : bs.length ≤ (bs.length / maxPayload + 1) * maxPayload := by
  have hdiv := Nat.div_add_mod bs.length maxPayload
  have hmod := Nat.mod_lt bs.length (show 0 < maxPayload by decide)
  rw [Nat.add_mul, Nat.mul_comm]
  omega

/-- A host's message is answered: nothing else differs, and one message more is out. -/
structure Answered (s t : State) : Prop extends Told s t where
  sent : t.outbox.length = s.outbox.length + 1

theorem answered_sendNext (s : State) (dest : Dest) (type ten que pos : Nat) (bs : List Byte) :
    Answered s (s.sendNext dest type ten que pos bs) := ⟨told_sendNext .., State.length_sendNext ..⟩

theorem Answered.hostInUsed {s t : State} (a : Answered s t) (h : Ipv6) (n : Nat) : Answered s (t.hostInUsed h n) :=
  ⟨a.toTold.trans ⟨rfl⟩, a.sent⟩

theorem answered_notice (s : State) (h : Ipv6) (m : Datagram) (kind : BitVec 8) (n : Nat) : Answered s ((s.notice h m kind).hostInUsed h n) :=
  Answered.hostInUsed (by unfold State.notice; exact answered_sendNext ..) h n

theorem answered_ack (s : State) (h : Ipv6) (m : Datagram) (n : Nat) : Answered s ((s.ack h m).hostInUsed h n) :=
  Answered.hostInUsed (by unfold State.ack; exact answered_sendNext ..) h n

theorem answered_answer (s : State) (h : Ipv6) (m : Datagram) (l : List (Except Nat TaskId)) (n : Nat) : Answered s ((s.answer h m l).hostInUsed h n) :=
  Answered.hostInUsed (by unfold State.answer; exact answered_sendNext ..) h n

/-! ## A host's WRITE -/

theorem State.outbox_hbmWrite (s : State) (w : SinkWrite) : (s.hbmWrite w).outbox = s.outbox := rfl

theorem State.outbox_writePieces (l : List (Nat × Nat)) : ∀ (s : State) (bs : List Byte), (s.writePieces l bs).outbox = s.outbox := by
  induction l with
  | nil => exact fun s bs => rfl
  | cons z r ih => exact fun s bs => (ih _ _).trans (s.outbox_hbmWrite _)

/-! ## The steps that answer -/

section
variable {s : State} {h : Ipv6} {m : Datagram} (hb : s.boot = .running) (hd : dgOk m = true) (hin : s.hostInFree h = true)
include hb hd hin

section
variable (ht : m.type = 1) (hout : s.hostOutFree h = true)
include ht hout

theorem exec_sluiceRead_denied (ho : s.owns h (dgTenant m) = false) :
    exec (.sluiceRead h m) s = .next ((s.notice h m kPROT).hostInUsed h m.payload.length) := by
  show execSluiceRead h m s = _
  simp [execSluiceRead, hb, hd, hin, hout, ht, ho]

theorem exec_sluiceRead_reads (ho : s.owns h (dgTenant m) = true) {u : State} {bs : List Byte}
    (hr : s.tenantRead (dgTenant m) m.pos.toNat (numOf (dgBody m)) (numOf (dgBody m) / 2 ^ 16 + 2) = .ok (u, bs)) :
    exec (.sluiceRead h m) s = .next ((u.readAnswer h m bs).hostInUsed h m.payload.length) := by
  show execSluiceRead h m s = _
  simp only [execSluiceRead, hb, hd, hin, hout, ht, ho, hr, Bool.not_true, bne_self_eq_false, Bool.or_self, Bool.false_eq_true, if_false,
    reduceCtorEq]

theorem exec_sluiceRead_faults (ho : s.owns h (dgTenant m) = true) {u : State} {code : BitVec 8}
    (hr : s.tenantRead (dgTenant m) m.pos.toNat (numOf (dgBody m)) (numOf (dgBody m) / 2 ^ 16 + 2) = .error (some (u, code))) :
    exec (.sluiceRead h m) s = .next ((u.notice h m code).hostInUsed h m.payload.length) := by
  show execSluiceRead h m s = _
  simp only [execSluiceRead, hb, hd, hin, hout, ht, ho, hr, Bool.not_true, bne_self_eq_false, Bool.or_self, Bool.false_eq_true, if_false,
    reduceCtorEq]

end

section
variable (ht : m.type = 2)
include ht

theorem exec_sluiceWrite_denied (ho : s.owns h (dgTenant m) = false) :
    exec (.sluiceWrite h m) s = .next ((s.notice h m kPROT).hostInUsed h m.payload.length) := by
  show execSluiceWrite h m s = _
  simp [execSluiceWrite, hb, hd, hin, ht, ho]

theorem exec_sluiceWrite_writes (ho : s.owns h (dgTenant m) = true) {u : State} {l : List (Nat × Nat)}
    (hr : s.tenantPieces (dgTenant m) m.pos.toNat (dgBody m).length ((dgBody m).length / 2 ^ 16 + 2) = .ok (u, l)) :
    exec (.sluiceWrite h m) s = .next (((u.writePieces l (dgBody m)).ack h m).hostInUsed h m.payload.length) := by
  show execSluiceWrite h m s = _
  simp only [execSluiceWrite, hb, hd, hin, ht, ho, hr, Bool.not_true, bne_self_eq_false, Bool.or_self, Bool.false_eq_true, if_false,
    ne_eq, not_true_eq_false, decide_false]

end

section
variable (ht : m.type = 3)
include ht

theorem exec_submitLaunch_denied (ho : s.owns h (dgTenant m) = false) :
    exec (.submitLaunch h m) s = .next ((s.answer h m [.error 3]).hostInUsed h m.payload.length) := by
  show execSubmitLaunch h m s = _
  simp [execSubmitLaunch, hb, hd, hin, ht, ho]

theorem exec_submitLaunch_refused (ho : s.owns h (dgTenant m) = true) {k : Nat} (hk : s.recordReason ((dgBody m).take 128) (.host h) = some k) :
    exec (.submitLaunch h m) s = .next ((s.answer h m [.error k]).hostInUsed h m.payload.length) := by
  show execSubmitLaunch h m s = _
  simp [execSubmitLaunch, hb, hd, hin, ht, ho, hk]

/-- A record without footprints that the checks pass and whose queue has a place is queued, and its TASKID answers. -/
theorem exec_submitLaunch_queued (ho : s.owns h (dgTenant m) = true) (hk : s.recordReason ((dgBody m).take 128) (.host h) = none)
    (hn : byteField ((dgBody m).take 128) 5 1 = 0) (hq : s.queueLen (recordOf ((dgBody m).take 128) (some h)).tenant < 256) :
    exec (.submitLaunch h m) s = .next (((s.enqueue { recordOf ((dgBody m).take 128) (some h) with prints := [] }).answer h m
      [.ok s.nextTask]).hostInUsed h m.payload.length) := by
  have hrec : s.queueRecord (recordOf ((dgBody m).take 128) (some h)) ((dgBody m).drop 128) 0 =
      (s.enqueue { recordOf ((dgBody m).take 128) (some h) with prints := [] }, .ok s.nextTask) := if_neg (by omega)
  show execSubmitLaunch h m s = _
  simp only [execSubmitLaunch, hb, hd, hin, ht, ho, hk, hn, hrec, Bool.not_true, bne_self_eq_false, Bool.or_self, Bool.false_eq_true,
    if_false, if_true, ne_eq, not_true_eq_false, decide_false]

end

section
variable (ht : m.type = 4)
include ht

theorem exec_submitGraph_denied (ho : s.owns h (dgTenant m) = false) :
    exec (.submitGraph h m) s = .next ((s.answer h m [.error 3]).hostInUsed h m.payload.length) := by
  show execSubmitGraph h m s = _
  simp [execSubmitGraph, hb, hd, hin, ht, ho]

/-- A graph whose records are all in order and have their places in the queue is queued as a whole. -/
theorem exec_submitGraph_queued (ho : s.owns h (dgTenant m) = true) {u w : State} {vas : List Nat} {rs : List LaunchRec}
    (hv : s.graphVas (dgTenant m) m.pos.toNat = .ok (u, vas)) (hr : u.graphRecords h (dgTenant m) vas = .ok (w, rs))
    (hq : w.queueLen (dgTenant m) + rs.length ≤ 256) (hten : ∀ r ∈ rs, r.tenant = dgTenant m) :
    exec (.submitGraph h m) s = .next (((rs.foldl (fun s r => s.enqueue r) w).answer h m
      ((List.range rs.length).map (fun i => .ok (w.nextTask + BitVec.ofNat 32 i)))).hostInUsed h m.payload.length) := by
  have hbad : ¬(256 < w.queueLen (dgTenant m) + rs.length ∨ rs.any (fun r => r.tenant != dgTenant m) = true) := by
    rw [List.any_eq_true]
    rintro (hlt | ⟨r, hr, hne⟩)
    · omega
    · exact bne_iff_ne.1 hne (hten r hr)
  show execSubmitGraph h m s = _
  simp only [execSubmitGraph, hb, hd, hin, ht, ho, hv, hr, hbad, Bool.not_true, bne_self_eq_false, Bool.or_self, Bool.false_eq_true,
    if_false, ne_eq, not_true_eq_false, decide_false]

end

section
variable (ht : m.type = 6) (ppm : Int)
include ht

theorem exec_timeMessage_follows (ho : s.owns h (dgTenant m) = true) :
    exec (.timeMessage h m ppm) s = .next ((s.follow ppm).hostInUsed h m.payload.length) := by
  show execTimeMessage h m ppm s = _
  simp [execTimeMessage, hb, hd, hin, ht, ho]

theorem exec_timeMessage_denied (ho : s.owns h (dgTenant m) = false) :
    exec (.timeMessage h m ppm) s = .next ((s.notice h m kPROT).hostInUsed h m.payload.length) := by
  show execTimeMessage h m ppm s = _
  simp [execTimeMessage, hb, hd, hin, ht, ho]

end

section
variable (ht : m.type = 11)
include ht

theorem exec_debugRequest_asks (hl : m.len = 0) (hp : m.pos = 0) (ho : s.owns h (dgTenant m) = true) : exec (.debugRequest h m) s =
    .next ((({ s with debugReq := s.debugReq.filter (fun t => t != (dgTenant m, h)) ++ [(dgTenant m, h)] } : State).ack h m).hostInUsed h 0) := by
  show execDebugRequest h m s = _
  simp [execDebugRequest, hb, hd, hin, ht, ho, hl, hp]

theorem exec_debugRequest_withdraws (hl : m.len = 0) (hp : m.pos = 1) (ho : s.owns h (dgTenant m) = true) : exec (.debugRequest h m) s =
    .next ((({ s with debugReq := s.debugReq.filter (fun t => t != (dgTenant m, h)) } : State).ack h m).hostInUsed h 0) := by
  show execDebugRequest h m s = _
  simp [execDebugRequest, hb, hd, hin, ht, ho, hl, hp]

/-- The CTRL cell that passes a host's command to DBG. -/
def debugCell (m : Datagram) : Cell :=
  { h := { ep := 123, vc := 31, tag := tCTRL }, data := BitVec.ofNat 2048 (numOf ((dgBody m).take 256)), m := { mgmt := true } }

/-- A command of the owner for its own task's core is passed to DBG. -/
theorem exec_debugHostCommand_passes (hl : m.len ≠ 0) (hp : m.pos.toNat < 64) {z : Task} (hz : s.taskOf (Fin.ofNat 64 m.pos.toNat) = some z)
    (ho : s.owns h (dgTenant m) = true) (hoz : s.owns h z.lrec.tenant = true) (hc : z.cores.contains (uidCore (byteField (dgBody m) 0 4)) = true) :
    exec (.debugHostCommand h m) s =
      .next ((s.modCore (Fin.ofNat 64 m.pos.toNat) (fun x => x.offer 122 { cell := debugCell m })).hostInUsed h m.payload.length) := by
  show execDebugHostCommand h m s = _
  simp only [execDebugHostCommand, hb, hd, hin, ht, ho, hz, hoz, hc, hp, beq_eq_false_iff_ne.2 hl, Bool.not_true, bne_self_eq_false,
    Bool.or_self, Bool.false_eq_true, if_false, if_true, ne_eq, not_true_eq_false, decide_false, and_self]
  rfl

end

end

/-- A host that the tenant is not bound to changes no request for debug output. -/
theorem debugRequest_denied (s : State) {h : Ipv6} {m : Datagram} (ho : s.owns h (dgTenant m) = false) :
    ∃ t, exec (.debugRequest h m) s = .next t ∧ t.debugReq = s.debugReq := by
  refine ⟨_, rfl, ?_⟩
  simp only [ho]
  split
  · rfl
  split
  · rfl
  · exact (answered_notice s h m kPROT 0).debugReq

/-- Its command reaches no core. -/
theorem debugHostCommand_denied (s : State) {h : Ipv6} {m : Datagram} (ho : s.owns h (dgTenant m) = false) :
    ∃ u, exec (.debugHostCommand h m) s = .next u ∧ u.cores = s.cores := by
  refine ⟨_, rfl, ?_⟩
  simp only [ho, Bool.false_eq_true, false_and, and_false, if_false]
  split
  · rfl
  split
  · rfl
  · split <;> exact (answered_notice s h m kPROT _).cores

/-! ## The device's report -/

/-- What a report says of the device, before its signature (R372). -/
def State.report (s : State) (nonce : BitVec 256) : List Byte :=
  bytesOf 32 nonce.toNat ++ s.attest.modules.flatMap (fun d => bytesOf 32 d.toNat) ++ bytesOf 4 s.attest.fuse.toNat ++
    bytesOf 32 (Config.repairDigest s.repair).toNat

def State.signed (s : State) (nonce : BitVec 256) : List Byte := s.report nonce ++ bytesOf 64 (Config.sm2Sign (s.report nonce)).toNat

theorem exec_attestationRead {s : State} {h : Ipv6} (hb : s.boot = .running) (hin : s.hostInFree h = true) (hout : s.hostOutFree h = true)
    (nonce : BitVec 256) : exec (.attestationRead h nonce) s =
      .next ((s.sendParts h 0 0 0 (s.signed nonce) ((s.signed nonce).length / maxPayload)).hostInUsed h 32) := by
  show execAttestationRead h nonce s = _
  simp only [execAttestationRead, hb, hin, hout, decide_true, Bool.and_self, if_true]
  rfl

/-! ## Together -/

theorem State.outbox_foldl_enqueue (w : State) (rs : List LaunchRec) : (rs.foldl (fun s r => s.enqueue r) w).outbox = w.outbox :=
  State.foldl_keep State.outbox (fun s r => s.enqueue r) (fun _ _ => rfl) rs w

/-- The record stands last in its tenant's queue. -/
theorem State.recs_enqueue (s : State) (r : LaunchRec) : (vget (s.enqueue r).lq r.tenant.toNat {}).recs =
    (vget s.lq r.tenant.toNat {}).recs ++ [{ r with id := s.nextTask }] := by
  show (vget (vmod s.lq r.tenant.toNat _) r.tenant.toNat {}).recs = _
  rw [vmod_same _ _ _ _ r.tenant.isLt]

theorem State.obuf_passed (s : State) (c : CoreId) (o : Offer) (h : Ipv6) (n : Nat) :
    ((((s.modCore c (fun x => x.offer 122 o)).hostInUsed h n).core c).ingAt 122).obuf = ((s.core c).ingAt 122).obuf ++ [o] := by
  have hc (u : State) : (u.hostInUsed h n).core c = u.core c := rfl
  rw [hc, State.modCore_eq, State.core_setCore, Core.offer, Core.ingAt_modIng _ _ (by decide)]

theorem hostMessages : HostMessages := by
  intro s h m ppm nonce ten body Sent hb hd hten hin hout
  subst hten
  refine ⟨?_, ?_, ?_, ?_, ?_, ?_, ?_, ?_, ?_, ?_, ?_, ?_, ?_, ?_, ?_, ?_, ?_⟩
  · intro ht ho
    have a := answered_notice s h m kPROT m.payload.length
    exact ⟨_, exec_sluiceRead_denied hb hd hin ht hout ho, a.sameMem, a.sent⟩
  · intro u bs ht ho hr
    obtain ⟨l, hl, -, hbs, hall⟩ := State.outbox_sendParts h m.ten.toNat m.que.toNat (bs.length / maxPayload) u m.pos.toNat bs (length_le_parts bs)
    have a := told_sendParts h m.ten.toNat m.que.toNat (bs.length / maxPayload) u m.pos.toNat bs
    exact ⟨_, l, exec_sluiceRead_reads hb hd hin ht hout ho hr, a.hbm, a.pool, hl, hbs, hall⟩
  · intro u code ht ho hr
    have a := answered_notice u h m code m.payload.length
    exact ⟨_, exec_sluiceRead_faults hb hd hin ht hout ho hr, a.hbm, a.pool, a.sent⟩
  · intro ht ho
    have a := answered_notice s h m kPROT m.payload.length
    exact ⟨_, exec_sluiceWrite_denied hb hd hin ht ho, a.sameMem, a.sent⟩
  · intro u l ht ho hr
    have a := answered_ack (u.writePieces l body) h m m.payload.length
    exact ⟨_, exec_sluiceWrite_writes hb hd hin ht ho hr, a.hbm, by rw [a.sent, State.outbox_writePieces]⟩
  · intro ht ho
    have a := answered_answer s h m [.error 3] m.payload.length
    exact ⟨_, exec_submitLaunch_denied hb hd hin ht ho, a.sameMem, a.sent, a.lq⟩
  · intro k ht ho hk
    have a := answered_answer s h m [.error k] m.payload.length
    exact ⟨_, exec_submitLaunch_refused hb hd hin ht ho hk, a.sameMem, a.sent, a.nextTask, a.lq⟩
  · intro ht ho hk hn r hq
    have a := answered_answer (s.enqueue { r with prints := [] }) h m [.ok s.nextTask] m.payload.length
    exact ⟨_, exec_submitLaunch_queued hb hd hin ht ho hk hn hq, a.sameMem, a.sent, a.nextTask, by rw [a.lq]; exact s.recs_enqueue { r with prints := [] }⟩
  · intro ht ho
    have a := answered_answer s h m [.error 3] m.payload.length
    exact ⟨_, exec_submitGraph_denied hb hd hin ht ho, a.sameMem, a.sent⟩
  · intro u vas w rs ht ho hv hr hq hall
    have a := answered_answer (rs.foldl (fun s r => s.enqueue r) w) h m ((List.range rs.length).map (fun i => .ok (w.nextTask + BitVec.ofNat 32 i)))
      m.payload.length
    exact ⟨_, exec_submitGraph_queued hb hd hin ht ho hv hr hq hall, by rw [a.sent, State.outbox_foldl_enqueue]⟩
  · exact fun ht ho => exec_timeMessage_follows hb hd hin ht ppm ho
  · intro ht ho
    have a := answered_notice s h m kPROT m.payload.length
    exact ⟨_, exec_timeMessage_denied hb hd hin ht ppm ho, a.sameMem, a.sent, a.slew⟩
  · intro ht hl hp ho
    have a := answered_ack { s with debugReq := s.debugReq.filter (fun t => t != (dgTenant m, h)) ++ [(dgTenant m, h)] } h m 0
    exact ⟨_, exec_debugRequest_asks hb hd hin ht hl hp ho, a.sameMem, by rw [a.debugReq]; exact List.mem_append_right _ (List.mem_singleton_self _), a.sent⟩
  · intro ht hl hp ho
    have a := answered_ack { s with debugReq := s.debugReq.filter (fun t => t != (dgTenant m, h)) } h m 0
    exact ⟨_, exec_debugRequest_withdraws hb hd hin ht hl hp ho, a.sameMem, by rw [a.debugReq]; simp [dgTenant], a.sent⟩
  · intro ht ho
    obtain ⟨t, ht, hq⟩ := debugRequest_denied s (h := h) (m := m) ho
    obtain ⟨u, hu, hc⟩ := debugHostCommand_denied s (h := h) (m := m) ho
    exact ⟨t, u, ht, hq, hu, hc⟩
  · intro z ht hl hp hz ho hoz hc
    have hbuf := s.obuf_passed (Fin.ofNat 64 m.pos.toNat) { cell := debugCell m } h m.payload.length
    exact ⟨_, exec_debugHostCommand_passes hb hd hin ht hl hp hz ho hoz hc, Sys2Proof.Machine.SameMem.of_mem rfl, by rw [hbuf, List.length_append]; rfl⟩
  · intro report
    have hsig : s.signed nonce = report ++ bytesOf 64 (Config.sm2Sign report).toNat := rfl
    obtain ⟨l, hl, hne, hbs, hall⟩ := State.outbox_sendParts h 0 0 ((s.signed nonce).length / maxPayload) s 0 (s.signed nonce) (length_le_parts _)
    have a := told_sendParts h 0 0 ((s.signed nonce).length / maxPayload) s 0 (s.signed nonce)
    exact ⟨_, l, exec_attestationRead hb hin hout nonce, a.sameMem, hl, hne, hbs.trans hsig, fun o ho => ⟨(hall o ho).1, (hall o ho).2.2⟩⟩

end Sys2Proof.Machine
end
section
/-! SUPPORT. What is discarded, and what waits for a host's port. -/

namespace Sys2Proof.Machine
open Sys2Proof.Claims

/-! ## A datagram that breaks the header's rules -/

section
variable (s : State) {m : Datagram} (hd : dgOk m = false)
include hd

theorem exec_datagramDiscard_bad : exec (.datagramDiscard m) s = .next s.dropDatagram := by
  show execDatagramDiscard m s = _
  simp [execDatagramDiscard, hd]

theorem exec_sluiceRead_bad (h : Ipv6) : exec (.sluiceRead h m) s = .next s.dropDatagram := by
  show execSluiceRead h m s = _
  simp [execSluiceRead, hd]

theorem exec_sluiceWrite_bad (h : Ipv6) : exec (.sluiceWrite h m) s = .next s.dropDatagram := by
  show execSluiceWrite h m s = _
  simp [execSluiceWrite, hd]

theorem exec_submitLaunch_bad (h : Ipv6) : exec (.submitLaunch h m) s = .next s.dropDatagram := by
  show execSubmitLaunch h m s = _
  simp [execSubmitLaunch, hd]

theorem exec_submitGraph_bad (h : Ipv6) : exec (.submitGraph h m) s = .next s.dropDatagram := by
  show execSubmitGraph h m s = _
  simp [execSubmitGraph, hd]

theorem exec_timeMessage_bad (h : Ipv6) (ppm : Int) : exec (.timeMessage h m ppm) s = .next s.dropDatagram := by
  show execTimeMessage h m ppm s = _
  simp [execTimeMessage, hd]

theorem exec_roundData_bad (link : LinkId) : exec (.roundData link m) s = .next s.dropDatagram := by
  show execRoundData link m s = _
  simp [execRoundData, hd]

theorem State.linkReply_bad (link : LinkId) (type : Nat) (f : State → State) : s.linkReply link m type f = s.dropDatagram := by
  simp [State.linkReply, hd]

theorem exec_commitMsg_bad (link : LinkId) : exec (.commitMsg link m) s = .next s.dropDatagram :=
  congrArg Host.Outcome.next (s.linkReply_bad hd link 8 _)

theorem exec_voidMsg_bad (link : LinkId) : exec (.voidMsg link m) s = .next s.dropDatagram :=
  congrArg Host.Outcome.next (s.linkReply_bad hd link 9 _)

theorem exec_ackMsg_bad (link : LinkId) : exec (.ackMsg link m) s = .next s.dropDatagram :=
  congrArg Host.Outcome.next (s.linkReply_bad hd link 10 _)

theorem exec_debugRequest_bad (h : Ipv6) : exec (.debugRequest h m) s = .next s.dropDatagram := by
  show execDebugRequest h m s = _
  simp [execDebugRequest, hd]

theorem exec_debugHostCommand_bad (h : Ipv6) : exec (.debugHostCommand h m) s = .next s.dropDatagram := by
  show execDebugHostCommand h m s = _
  simp [execDebugHostCommand, hd]

end

/-! ## A port that still carries an earlier message -/

section
variable {s : State} {h : Ipv6} {m : Datagram} (hb : s.boot = .running) (hin : s.hostInFree h = false)
include hb hin

section
variable (hd : dgOk m = true)
include hd

theorem exec_sluiceRead_waits (ht : m.type = 1) : exec (.sluiceRead h m) s = .next s := by
  show execSluiceRead h m s = _
  simp [execSluiceRead, hb, hd, hin, ht]

theorem exec_sluiceWrite_waits (ht : m.type = 2) : exec (.sluiceWrite h m) s = .next s := by
  show execSluiceWrite h m s = _
  simp [execSluiceWrite, hb, hd, hin, ht]

theorem exec_submitLaunch_waits (ht : m.type = 3) : exec (.submitLaunch h m) s = .next s := by
  show execSubmitLaunch h m s = _
  simp [execSubmitLaunch, hb, hd, hin, ht]

theorem exec_submitGraph_waits (ht : m.type = 4) : exec (.submitGraph h m) s = .next s := by
  show execSubmitGraph h m s = _
  simp [execSubmitGraph, hb, hd, hin, ht]

theorem exec_timeMessage_waits (ppm : Int) (ht : m.type = 6) : exec (.timeMessage h m ppm) s = .next s := by
  show execTimeMessage h m ppm s = _
  simp [execTimeMessage, hb, hd, hin, ht]

end

theorem exec_attestationRead_waits (nonce : BitVec 256) : exec (.attestationRead h nonce) s = .next s := by
  show execAttestationRead h nonce s = _
  simp [execAttestationRead, hb, hin]

end

/-! ## Frames -/

/-- A port of the module counts the frames that it discards. -/
theorem exec_frameDiscard_pause (s : State) {port : EthPort} (hp : port.val < 26) : exec (.frameDiscard port .pause) s =
    .next { s with discards := { s.discards with frames := s.discards.frames + 1 } } := by
  show execFrameDiscard port .pause s = _
  simp [execFrameDiscard, hp]

/-- A PTP frame is followed at any port, once the module is on. -/
theorem exec_frameDiscard_ptp {s : State} (port : EthPort) (ppm : Int) (hb : s.boot ≠ .off) :
    exec (.frameDiscard port (.ptp ppm)) s = .next (s.follow ppm) := by
  show execFrameDiscard port (.ptp ppm) s = _
  simp [execFrameDiscard, hb]

theorem discardedTraffic : DiscardedTraffic := by
  intro s h m link port ppm nonce Drop
  refine ⟨?_, ?_, ?_, ?_, rfl, ?_⟩
  · intro hd
    exact ⟨exec_datagramDiscard_bad s hd, exec_sluiceRead_bad s hd h, exec_sluiceWrite_bad s hd h, exec_submitLaunch_bad s hd h,
      exec_submitGraph_bad s hd h, exec_timeMessage_bad s hd h ppm, exec_roundData_bad s hd link, exec_commitMsg_bad s hd link,
      exec_voidMsg_bad s hd link, exec_ackMsg_bad s hd link, exec_debugRequest_bad s hd h, exec_debugHostCommand_bad s hd h⟩
  · exact fun hd => congrArg Host.Outcome.next (if_pos hd)
  · intro hb hd hin
    exact ⟨exec_sluiceRead_waits hb hin hd, exec_sluiceWrite_waits hb hin hd, exec_submitLaunch_waits hb hin hd, exec_submitGraph_waits hb hin hd,
      exec_timeMessage_waits hb hin hd ppm, exec_attestationRead_waits hb hin nonce⟩
  · exact exec_frameDiscard_pause s
  · exact exec_frameDiscard_ptp port ppm

end Sys2Proof.Machine
end
section
/-! SUPPORT. The edge ends of a core; what a message of a peer edge, a record of an edge end and a stream's translation change and what they leave;
the ends that a message names. -/

namespace Sys2Proof.Machine
open Sys2Proof.Claims

/-! ## The edge ends of a core -/

@[simp] theorem Core.edge?_setEdge (x : Core) (k : StrmId) (e : Edge) : (x.setEdge k e).edge? k = some e :=
  (Sparse.get?_set x.edges k.val k.val e).trans (if_pos rfl)

theorem Core.edge?_setEdge_ne (x : Core) {k j : StrmId} (e : Edge) (h : j ≠ k) : (x.setEdge k e).edge? j = x.edge? j :=
  (Sparse.get?_set x.edges k.val j.val e).trans (if_neg (fun hj => h (Fin.ext hj)))

@[simp] theorem Core.edge?_modStrm (x : Core) (k j : StrmId) (f : Strm → Strm) : (x.modStrm k f).edge? j = x.edge? j := rfl

@[simp] theorem Core.edge?_storerUsed (x : Core) (q : Option (Fin 8)) (n : Nat) (j : StrmId) : (x.storerUsed q n).edge? j = x.edge? j := by
  cases q <;> rfl

@[simp] theorem Core.task_setEdge (x : Core) (k : StrmId) (e : Edge) : (x.setEdge k e).task = x.task := rfl
@[simp] theorem Core.task_modStrm (x : Core) (k : StrmId) (f : Strm → Strm) : (x.modStrm k f).task = x.task := rfl
@[simp] theorem Core.task_storerUsed (x : Core) (q : Option (Fin 8)) (n : Nat) : (x.storerUsed q n).task = x.task := by cases q <;> rfl
@[simp] theorem Core.task_loaderUsed (x : Core) (q : Option (Fin 8)) (n : Nat) : (x.loaderUsed q n).task = x.task := by cases q <;> rfl

/-- What a change of one core leaves of that core's task leaves its tenant. -/
theorem State.tenantOf_modCore {s : State} {c : CoreId} {f : Core → Core} (h : ∀ x, (f x).task = x.task) : (s.modCore c f).tenantOf c = s.tenantOf c := by
  rw [State.modCore_eq, State.tenantOf_setCore (h _)]

/-! ## A message of a peer edge -/

/-- Nothing differs but the messages sent and the SEQs of the queues. -/
structure Posted (s t : State) : Prop where
  eq : t = { s with outbox := t.outbox, txSeq := t.txSeq }

section Posted

variable {s t : State} (h : Posted s t)
include h

theorem Posted.core (c : CoreId) : t.core c = s.core c := by rw [h.eq]; rfl
theorem Posted.hbm : t.hbm = s.hbm := by rw [h.eq]
theorem Posted.pool : t.pool = s.pool := by rw [h.eq]
theorem Posted.linkOutFree (l : LinkId) : t.linkOutFree l = s.linkOutFree l := by rw [h.eq]; rfl

end Posted

theorem posted_peerSend (s : State) (ten : Tenant) (e : Edge) (type pos : Nat) (bs : List Byte) : Posted s (s.peerSend ten e type pos bs) := by
  unfold State.peerSend
  split <;> exact ⟨rfl⟩

/-- Where the tenant has a queue, the message goes out behind the earlier ones, with the queue's next SEQ. -/
theorem State.sent_peerSend {s : State} {ten : Tenant} {q : LinkQ} (hq : s.peerQueue? ten = some q) (e : Edge) (type pos : Nat) (bs : List Byte) :
    (∃ o, (s.peerSend ten e type pos bs).outbox = s.outbox ++ [o] ∧ o.d.seq = BitVec.ofNat 64 (vget s.txSeq q.at_ 0)) ∧
      vget (s.peerSend ten e type pos bs).txSeq q.at_ 0 = vget s.txSeq q.at_ 0 + 1 := by
  have hs : s.peerSend ten e type pos bs = ({ s with txSeq := vmod s.txSeq q.at_ (fun n => n + 1) } : State).send (.peer e.peer) type ten.toNat
      q.queue.val e.edge (vget s.txSeq q.at_ 0) pos bs := by
    unfold State.peerSend
    rw [hq]
  rw [hs]
  exact ⟨⟨_, rfl, rfl⟩, vmod_same _ _ _ _ q.at_lt⟩

theorem State.length_peerSend {s : State} {ten : Tenant} {q : LinkQ} (hq : s.peerQueue? ten = some q) (e : Edge) (type pos : Nat) (bs : List Byte) :
    (s.peerSend ten e type pos bs).outbox.length = s.outbox.length + 1 := by
  obtain ⟨⟨o, ho, -⟩, -⟩ := State.sent_peerSend hq e type pos bs
  rw [ho, List.length_append]
  rfl

/-- A queue that a tenant's datagrams come by is one that the tenant has. -/
theorem State.peerQueue?_of_rxQueue? {s : State} {link : LinkId} {m : Datagram} {q : LinkQ} (h : s.rxQueue? link m = some q) :
    ∃ q', s.peerQueue? (dgTenant m) = some q' := by
  have hmem := List.mem_of_find?_eq_some h
  have hq := List.find?_some h
  simp only [Bool.and_eq_true] at hq
  exact Option.isSome_iff_exists.1 (List.find?_isSome.2 ⟨q, hmem, hq.2⟩)

/-! ## Voids -/

theorem State.core_postVoid (s : State) (c : CoreId) (k : StrmId) (e : Edge) (r : Nat) :
    ∃ z, (s.postVoid c k e r).core c = { s.core c with faults := (s.core c).faults ++ [z] } := by
  unfold State.postVoid State.edgeRecord State.record
  exact ⟨_, by rw [State.modCore_eq, State.core_setCore]⟩

/-- A void at the receiver: the round's half is discarded, and one record is posted. -/
theorem State.core_voidRound {s : State} {c : CoreId} {k : StrmId} {e : Edge} (he : (s.core c).edge? k = some e) (r : Nat) :
    ∃ z, (s.voidRound c k r).core c = { s.core c with faults := (s.core c).faults ++ [z] }.setEdge k (e.discard r) := by
  obtain ⟨z, hz⟩ := s.core_postVoid c k e r
  refine ⟨z, ?_⟩
  unfold State.voidRound
  rw [he]
  dsimp only
  rw [(posted_peerSend ..).core, State.modCore_eq, State.core_setCore, hz]

theorem State.edge?_voidRound {s : State} {c : CoreId} {k : StrmId} {e : Edge} (he : (s.core c).edge? k = some e) (r : Nat) :
    ((s.voidRound c k r).core c).edge? k = some (e.discard r) := by
  obtain ⟨z, hz⟩ := State.core_voidRound he r
  rw [hz, Core.edge?_setEdge]

theorem State.core_rewindRound (s : State) (c : CoreId) (k : StrmId) (e : Edge) (r : Nat) :
    ∃ z, (s.rewindRound c k e r).core c = { s.core c with faults := (s.core c).faults ++ [z] }.setEdge k (e.rewind r) := by
  obtain ⟨z, hz⟩ := s.core_postVoid c k e r
  refine ⟨z, ?_⟩
  unfold State.rewindRound
  rw [(posted_peerSend ..).core, State.modCore_eq, State.core_setCore, hz]

theorem State.edge?_rewindRound (s : State) (c : CoreId) (k : StrmId) (e : Edge) (r : Nat) :
    ((s.rewindRound c k e r).core c).edge? k = some (e.rewind r) := by
  obtain ⟨z, hz⟩ := s.core_rewindRound c k e r
  rw [hz, Core.edge?_setEdge]

/-- VOID goes out where the tenant has a queue. -/
theorem State.length_rewindRound {s : State} {c : CoreId} {q : LinkQ} (hq : s.peerQueue? (s.tenantOf c) = some q) (k : StrmId) (e : Edge) (r : Nat) :
    (s.rewindRound c k e r).outbox.length = s.outbox.length + 1 := by
  unfold State.rewindRound
  exact State.length_peerSend (s := (s.postVoid c k e r).modCore c (fun x => x.setEdge k (e.rewind r))) hq e 9 r []

/-! ## A stream's translation -/

/-- Nothing differs but HBM, the marks and counts of errors, the stream paths of the slot, and core c, whose task stays. -/
structure Reached (c : CoreId) (s t : State) : Prop where
  eq : t = { s with hbm := t.hbm, ecc := t.ecc, errs := t.errs, pathIn := t.pathIn, pathOut := t.pathOut, cores := t.cores }
  task : (t.core c).task = (s.core c).task

theorem reached_strmTouch {s u : State} {c : CoreId} {k : StrmId} {va pa : Nat} {kd : Kind} (h : s.strmTouch c k va kd = .ok u pa) : Reached c s u := by
  unfold State.strmTouch at h
  split at h
  · cases h
    exact ⟨rfl, rfl⟩
  · split at h
    · cases h
    · cases h
    · next ea e changed level frame w x d _ =>
      cases h
      have ha := (aside_walked s c va).eq
      generalize s.walked c va = v at ha
      rw [ha]
      unfold State.walkWrite
      constructor
      · split <;> rfl
      · rw [State.modCore_eq, State.core_setCore]
        split <;> rfl

section Reached

variable {c : CoreId} {s t : State} (h : Reached c s t)
include h

theorem Reached.pool : t.pool = s.pool := by rw [h.eq]
theorem Reached.outbox : t.outbox = s.outbox := by rw [h.eq]
theorem Reached.txSeq : t.txSeq = s.txSeq := by rw [h.eq]
theorem Reached.peerQueue? (ten : Tenant) : t.peerQueue? ten = s.peerQueue? ten := by rw [h.eq]; rfl
theorem Reached.tenantOf : t.tenantOf c = s.tenantOf c := by
  have htasks : t.tasks = s.tasks := by rw [h.eq]
  simp only [State.tenantOf, State.taskOf, h.task, htasks]

end Reached

/-! ## The bytes of a cell -/

@[simp] theorem length_bytesOf (n v : Nat) : (bytesOf n v).length = n := by simp [bytesOf]

/-- What has been written of a value of n bytes reads as the value. -/
theorem readN_hbmWrite_bytesOf {u : State} (hwf : Memory.wf u.hbm = true) (pa n : Nat) (p : BitVec (8 * n)) :
    BitVec.ofNat (8 * n) (Memory.readN (u.hbmWrite { addr := pa, bytes := bytesOf n p.toNat }).hbm pa n) = p := by
  have hread : Memory.readN (u.hbmWrite { addr := pa, bytes := bytesOf n p.toNat }).hbm pa n = p.toNat % 256 ^ n := by
    refine Memory.readN_of_bytes _ n pa p.toNat (fun i hi => ?_)
    refine (Memory.get_writeBytes _ pa u.hbm hwf (pa + i)).trans ?_
    rw [if_pos (by rw [length_bytesOf]; omega), Nat.add_sub_cancel_left, bytesOf, List.getD_eq_getElem?_getD, List.getElem?_map,
      List.getElem?_range hi, Option.map_some, Option.getD_some]
  have hlt : p.toNat < 256 ^ n := lt_of_lt_of_eq p.isLt (pow_mul 2 8 n)
  rw [hread, Nat.mod_eq_of_lt hlt, BitVec.ofNat_toNat, BitVec.setWidth_eq]

theorem get_hbmWrite_ne {u : State} (hwf : Memory.wf u.hbm = true) {w : SinkWrite} {a : Nat} (ha : ¬(w.addr ≤ a ∧ a < w.addr + w.bytes.length)) :
    Memory.get (u.hbmWrite w).hbm a = Memory.get u.hbm a :=
  (Memory.get_writeBytes w.bytes w.addr u.hbm hwf a).trans (if_neg ha)

end Sys2Proof.Machine
end
section
/-! SUPPORT. The sequences of steps of a peer edge's sender and receiver. -/

namespace Sys2Proof.Machine
open Sys2Proof.Claims

/-! ## The sender -/

/-- A cell's consumption changes nothing but cores. -/
theorem State.consume_eq (s : State) (c : CoreId) (y : Cell) : s.consume c y = { s with cores := (s.consume c y).cores } := by
  unfold State.consume State.oxConsumed
  dsimp only
  (repeat' split) <;> rfl

/-- A cell's consumption leaves the edge ends of its core. -/
theorem State.edge?_consume (s : State) (c : CoreId) (y : Cell) (k : StrmId) : ((s.consume c y).core c).edge? k = (s.core c).edge? k := by
  have hcore : ∀ x : Core, (x.consumed y).edge? k = x.edge? k := by
    intro x
    unfold Core.consumed Core.loopDown Core.modLoop
    (repeat' split) <;> rfl
  have hstage : ∀ (s : State) (j : CoreId) (g : StageId) (f : Stage → Stage),
      ((s.modCore j (fun x => x.modStage g f)).core c).edge? k = (s.core c).edge? k := fun s j g f =>
    State.core_modCore_keep s c j _ (fun x => x.edge? k) (fun _ => rfl)
  have hox : ∀ s : State, ((s.oxConsumed y).core c).edge? k = (s.core c).edge? k := by
    intro s
    unfold State.oxConsumed
    dsimp only
    split <;> split <;> simp only [hstage]
  unfold State.consume
  dsimp only
  split
  · rw [hox]
    exact State.core_modCore_keep s c c _ (fun x => x.edge? k) hcore
  · exact State.core_modCore_keep s c c _ (fun x => x.edge? k) hcore

/-- A sender after its oldest admitted cell has left, quantised as v. -/
def Edge.sentOne (e : Edge) (rest : List Cell) (v : Cell) (slot : Nat) : Edge :=
  ({ e with outq := rest, sent := e.sent + 1, landed := Sparse.set e.landed e.sent (v.h.word, 0) } : Edge).left e.sent slot

theorem Edge.sent_sentOne (e : Edge) (rest : List Cell) (v : Cell) (slot : Nat) : (e.sentOne rest v slot).sent = e.sent + 1 := by
  unfold Edge.sentOne Edge.left
  split <;> rfl

theorem Edge.outq_sentOne (e : Edge) (rest : List Cell) (v : Cell) (slot : Nat) : (e.sentOne rest v slot).outq = rest := by
  unfold Edge.sentOne Edge.left
  split <;> rfl

/-- A cell's bytes go into the replay area, the cell onto the link, the end has its new state e', and the cell is consumed. -/
def State.cellOut (u : State) (c : CoreId) (k : StrmId) (storer : Option (Fin 8)) (link : LinkId) (pa : Nat) (bs : List Byte) (cell : Cell) (e' : Edge) : State :=
  (((((u.hbmWrite { addr := pa, bytes := bs }).pathsUsed true [pa]).linkOutUsed link).modCore c
    (fun x => (x.setEdge k e').storerUsed storer u.slot)).consume c cell)

section
variable {s u : State} {c : CoreId} {k : StrmId} {e : Edge} {cell v : Cell} {rest : List Cell} {q : LinkQ} {pa : Nat} {bs : List Byte}

theorem exec_peerCellSend_new (he : (s.core c).edge? k = some e) (hst : ((s.core c).strms[k]).st = .running)
    (hc : ((s.core c).strms[k]).cancel = false) (hsend : e.send = true) (hag : e.again = []) (hout : e.outq = cell :: rest)
    (hq : s.peerQueue? (s.tenantOf c) = some q) (hl : s.linkOutFree q.link = true) :
    exec (.peerCellSend c k) s = s.sendNew c k e q.link cell rest := by
  show execPeerCellSend c k s = _
  simp only [execPeerCellSend, he, hst, hc, hsend, hag, hout, hq, hl, beq_self_eq_true, Bool.not_false, Bool.not_true, Bool.and_true, List.isEmpty_cons,
    Bool.and_false, if_true, Bool.false_eq_true, if_false]

theorem State.sendNew_sends (hrdy : (s.core c).storerReady ((s.core c).strms[k]).storer s.slot = true) (link : LinkId)
    (hp : s.pathsFree true (s.strmPlaces c k (e.place e.sent) .write) = true)
    (hv : s.edgeQuant? c e.qs cell = some v) (hu : s.strmTouch c k (e.place e.sent) .write = .ok u pa) (hbs : bytesOf 256 v.data.toNat = bs) :
    s.sendNew c k e link cell rest = .next ((u.cellOut c k ((s.core c).strms[k]).storer link pa bs cell (e.sentOne rest v u.slot)).peerSend
      (u.tenantOf c) e 7 (e.sent / e.n) (roundBytes v.h.word v.data)) := by
  simp only [State.sendNew, hrdy, hp, hv, hu, hbs, Bool.not_true, Bool.false_eq_true, if_false, Bool.or_self]
  rfl

end

/-- A link's port that sends a cell in this slot sends no other one. -/
theorem State.linkOutFree_used (s : State) (l : LinkId) : (s.linkOutUsed l).linkOutFree l = false := by
  refine decide_eq_false ?_
  show ¬(s.linkOut.set l.val (s.slot + 1) l.isLt)[l.val] ≤ s.slot
  rw [Vector.getElem_set_self]
  omega

section
variable (u : State) (c : CoreId) (k : StrmId) (storer : Option (Fin 8)) (link : LinkId) (pa : Nat) (bs : List Byte) (cell : Cell) (e' : Edge)

theorem State.cellOut_eq : u.cellOut c k storer link pa bs cell e' =
    { (((u.hbmWrite { addr := pa, bytes := bs }).pathsUsed true [pa]).linkOutUsed link) with
      cores := (u.cellOut c k storer link pa bs cell e').cores } := State.consume_eq ..

theorem State.edge?_cellOut : ((u.cellOut c k storer link pa bs cell e').core c).edge? k = some e' := by
  rw [State.cellOut, State.edge?_consume, State.modCore_eq, State.core_setCore, Core.edge?_storerUsed, Core.edge?_setEdge]

theorem State.hbm_cellOut : (u.cellOut c k storer link pa bs cell e').hbm = (u.hbmWrite { addr := pa, bytes := bs }).hbm := by
  rw [State.cellOut_eq]; rfl

theorem State.pool_cellOut : (u.cellOut c k storer link pa bs cell e').pool = u.pool := by rw [State.cellOut_eq]; rfl

theorem State.outbox_cellOut : (u.cellOut c k storer link pa bs cell e').outbox = u.outbox := by rw [State.cellOut_eq]; rfl

theorem State.txSeq_cellOut : (u.cellOut c k storer link pa bs cell e').txSeq = u.txSeq := by rw [State.cellOut_eq]; rfl

theorem State.peerQueue?_cellOut (ten : Tenant) : (u.cellOut c k storer link pa bs cell e').peerQueue? ten = u.peerQueue? ten := by
  rw [State.cellOut_eq]; rfl

theorem State.linkOutFree_cellOut : (u.cellOut c k storer link pa bs cell e').linkOutFree link = false := by
  rw [State.cellOut_eq]
  exact State.linkOutFree_used ((u.hbmWrite { addr := pa, bytes := bs }).pathsUsed true [pa]) link

end

/-- A link's port that has carried a cell in this slot carries no other one. -/
theorem exec_peerCellSend_waits {s : State} {c : CoreId} {k : StrmId} {e : Edge} {q : LinkQ} (he : (s.core c).edge? k = some e)
    (hst : ((s.core c).strms[k]).st = .running) (hc : ((s.core c).strms[k]).cancel = false) (hsend : e.send = true) (hne : e.again ≠ [] ∨ e.outq ≠ [])
    (hq : s.peerQueue? (s.tenantOf c) = some q) (hl : s.linkOutFree q.link = false) : exec (.peerCellSend c k) s = .next s := by
  have hsome : (e.again.isEmpty && e.outq.isEmpty) = false := by
    rw [Bool.and_eq_false_iff, List.isEmpty_eq_false_iff, List.isEmpty_eq_false_iff]
    exact hne
  show execPeerCellSend c k s = _
  simp only [execPeerCellSend, he, hst, hc, hsend, hsome, hq, hl, beq_self_eq_true, Bool.not_false, Bool.and_true, if_true]

theorem exec_roundTimeout_overdue {s : State} {c : CoreId} {k : StrmId} {e : Edge} {r : Nat} (he : (s.core c).edge? k = some e) (hsend : e.send = true)
    (hlive : ((s.core c).strms[k]).live = true) (hr : e.overdue? s.slot = some r) : exec (.roundTimeout c k) s = .next (s.rewindRound c k e r) := by
  show execRoundTimeout c k s = _
  simp only [execRoundTimeout, he, hr, hsend, hlive, Bool.and_self, if_true]

theorem exec_roundTimeout_none {s : State} {c : CoreId} {k : StrmId} {e : Edge} (he : (s.core c).edge? k = some e) (hr : e.overdue? s.slot = none) :
    exec (.roundTimeout c k) s = .next s := by
  show execRoundTimeout c k s = _
  simp only [execRoundTimeout, he, hr]

/-- An overdue round is one whose last cell left 2^20 slots ago. -/
theorem Edge.overdue?_mem {e : Edge} {slot r : Nat} (h : e.overdue? slot = some r) : ∃ n, (r, n) ∈ e.sentAt ∧ n + 2 ^ 20 ≤ slot := by
  obtain ⟨y, hf, rfl⟩ := Option.map_eq_some_iff.1 h
  exact ⟨y.2, List.mem_of_find?_eq_some hf, by simpa using List.find?_some hf⟩

/-! ## The receiver -/

theorem exec_roundVoid_open {s : State} {c : CoreId} {k : StrmId} {e : Edge} (he : (s.core c).edge? k = some e)
    (hlive : ((s.core c).strms[k]).live = true) (hsend : e.send = false) (hrow : e.row = 0) (hne : e.landed ≠ [] ∨ e.rxq ≠ []) :
    exec (.roundVoid c k) s = .next (s.voidRound c k e.committed) := by
  have hsome : (e.landed.isEmpty && e.rxq.isEmpty) = false := by
    rw [Bool.and_eq_false_iff, List.isEmpty_eq_false_iff, List.isEmpty_eq_false_iff]
    exact hne
  show execRoundVoid c k s = _
  simp only [execRoundVoid, he, hlive, hsend, hrow, hsome, beq_self_eq_true, Bool.not_false, Bool.and_self, if_true]

/-- Nothing of a discarded round stays, and its sender is awaited. -/
theorem Edge.discard_spec (e : Edge) : Sparse.getD (e.discard e.committed).voids e.committed 0 = Sparse.getD e.voids e.committed 0 + 1 ∧
    (e.discard e.committed).row = 0 ∧ (e.discard e.committed).committed = e.committed ∧ (∀ z ∈ (e.discard e.committed).landed, z.1 / e.n ≠ e.committed) ∧
    (∀ z ∈ (e.discard e.committed).rxq, z.round ≠ e.committed) ∧ e.committed ∈ (e.discard e.committed).await := by
  refine ⟨?_, if_pos rfl, rfl, ?_, ?_, List.mem_cons_self ..⟩
  · show Sparse.getD (Sparse.set e.voids e.committed _) e.committed 0 = _
    simp only [Sparse.getD, Sparse.get?_set, if_true, Option.getD_some]
  · exact fun z hz => bne_iff_ne.1 (List.mem_filter.1 hz).2
  · exact fun z hz => bne_iff_ne.1 (List.mem_filter.1 hz).2

/-- A link's port that carries a cell in this slot carries no other one. -/
theorem State.linkInFree_used (s : State) (l : LinkId) : (s.linkInUsed l).linkInFree l = false := by
  refine decide_eq_false ?_
  show ¬(s.linkIn.set l.val (s.slot + 1) l.isLt)[l.val] ≤ s.slot
  rw [Vector.getElem_set_self]
  omega

/-- The next cell of the receive buffer lands. -/
theorem State.landNext_lands {s u : State} {c : CoreId} {k : StrmId} {e : Edge} {z : RxCell} {rest : List RxCell} (hz : e.rxq = z :: rest)
    (hu : s.edgeWrite c k (e.place (e.first z.round + e.landedOf z.round)) (bytesOf 256 z.data.toNat) = .ok u) :
    ∃ t, s.landNext c k e = .next t ∧ t.hbm = u.hbm ∧ t.pool = u.pool ∧ t.linkInFree z.link = false ∧ (t.core c).edge? k =
      some { e with landed := Sparse.set e.landed (e.first z.round + e.landedOf z.round) (z.head, z.data), rxq := rest } := by
  unfold State.landNext
  simp only [hz, hu]
  refine ⟨_, rfl, rfl, rfl, u.linkInFree_used z.link, ?_⟩
  rw [State.modCore_eq, State.core_setCore, Core.edge?_storerUsed, Core.edge?_setEdge]

section
variable {s : State} {c : CoreId} {k : StrmId} {e : Edge} (he : (s.core c).edge? k = some e) (hst : ((s.core c).strms[k]).st = .running)
  (hsend : e.send = false) (hc : ((s.core c).strms[k]).cancel = false)
include he hst hsend hc

theorem exec_roundCommit_lands (hland : s.canLand c k e = true) : exec (.roundCommit c k) s = s.landNext c k e := by
  show execRoundCommit c k s = _
  simp only [execRoundCommit, he, hst, hsend, hc, hland, beq_self_eq_true, Bool.not_false, Bool.not_true, Bool.and_self, if_true, Bool.false_eq_true,
    if_false]

section
variable (hland : s.canLand c k e = false) (hl : (s.core c).loaderFree ((s.core c).strms[k]).loader s.slot = true)
  (hrdy : (s.core c).storerReady ((s.core c).strms[k]).storer s.slot = true) (hw : e.whole e.committed = true)
include hland hl hrdy hw

theorem exec_roundCommit_row (hrow : e.row < e.roundLen e.committed) : exec (.roundCommit c k) s = s.commitRow c k e := by
  show execRoundCommit c k s = _
  simp only [execRoundCommit, he, hst, hsend, hc, hland, hl, hrdy, hw, hrow, beq_self_eq_true, Bool.not_false, Bool.not_true, Bool.and_self, if_true,
    Bool.false_eq_true, if_false, Bool.or_self]

theorem exec_roundCommit_log (hrow : e.roundLen e.committed ≤ e.row) : exec (.roundCommit c k) s = s.commitLog c k e := by
  show execRoundCommit c k s = _
  simp only [execRoundCommit, he, hst, hsend, hc, hland, hl, hrdy, hw, Nat.not_lt.2 hrow, beq_self_eq_true, Bool.not_false, Bool.not_true, Bool.and_self,
    Bool.false_eq_true, if_false, Bool.or_self]

end

end

/-- The next row of a whole round is written. -/
theorem State.commitRow_writes {s u w : State} {c : CoreId} {k : StrmId} {e : Edge} {pa : Nat} {h : BitVec 64} {p : Payload}
    {row : List (Nat × List Byte)} (hu : s.strmTouch c k (e.place (e.first e.committed + e.row)) .read = .ok u pa) (hbad : u.hbmBad pa 256 = false)
    (hz : Sparse.get? e.landed (e.first e.committed + e.row) = some (h, p))
    (hrow : e.rowWrites (e.first e.committed + e.row) h (BitVec.ofNat 2048 (Memory.readN u.hbm pa 256)) = row) (hr : u.pathsFree false [pa] = true)
    (hp : (u.softHbm pa 256).pathsFree true (row.flatMap (fun w => (u.softHbm pa 256).strmPlaces c k w.1 .write)) = true)
    (hw : (u.softHbm pa 256).edgeWrites c k row = .ok w) :
    ∃ t, s.commitRow c k e = .next t ∧ t.hbm = w.hbm ∧ t.outbox = w.outbox ∧ (t.core c).edge? k = some { e with row := e.row + 1 } := by
  have hsoft : (u.softHbm pa 256).hbm = u.hbm := (aside_softHbm u pa 256).hbm
  unfold State.commitRow
  simp only [hu, hbad, hz, hr, hsoft, hrow, hp, hw, Bool.not_true, Bool.false_eq_true, if_false]
  refine ⟨_, rfl, ?_, ?_, ?_⟩
  · simp only [State.modCore_eq, State.setCore_hbm, (aside_pathsUsed _ _ _).hbm]
  · simp only [State.modCore_eq, State.setCore_outbox, (aside_pathsUsed _ _ _).outbox]
  · rw [State.modCore_eq, State.core_setCore, Core.edge?_setEdge]

/-- After a round's last row CLOG is written, the round is committed and COMMIT goes out. -/
theorem State.commitLog_commits {s u : State} {c : CoreId} {k : StrmId} {e : Edge} {q : LinkQ}
    (hp : s.pathsFree true (s.strmPlaces c k e.clog .write) = true) (hu : s.edgeWrite c k e.clog (bytesOf 8 (e.committed + 1)) = .ok u)
    (hq : u.peerQueue? (u.tenantOf c) = some q) :
    ∃ t, s.commitLog c k e = .next t ∧ t.outbox.length = u.outbox.length + 1 ∧
      (t.core c).edge? k = some (e.commitUpTo (e.committed + 1)) ∧ t.hbm = u.hbm ∧ t.pool = u.pool := by
  unfold State.commitLog
  simp only [hp, hu, Bool.not_true, Bool.false_eq_true, if_false]
  refine ⟨_, rfl, ?_, ?_, (posted_peerSend ..).hbm, (posted_peerSend ..).pool⟩
  · rw [State.length_peerSend (q := q)]
    · rfl
    · exact hq
  · rw [(posted_peerSend ..).core, State.modCore_eq, State.core_setCore, Core.edge?_storerUsed, Core.commitEdge, Core.edge?_modStrm, Core.edge?_setEdge]

end Sys2Proof.Machine
end
section
/-! SUPPORT. The answers and the rounds that arrive at a peer edge; the statements about peer edges, put together. -/

namespace Sys2Proof.Machine
open Sys2Proof.Claims

/-! ## The ends that a message names -/

/-- What tells an edge end from the others: its edge number and its direction. -/
def Edge.label (e : Edge) : BitVec 32 × Bool := (e.edge, e.send)

/-- Whether a slot's stream is an end of an edge number and a direction that is live, or one that is DONE. -/
def State.isEnd (s : State) (edge : BitVec 32) (send live : Bool) (c : CoreId) (k : StrmId) : Bool :=
  (if live then (s.core c).strms[k].live else (s.core c).strms[k].st == .done) && ((s.core c).edge? k).map Edge.label == some (edge, send)

theorem State.endsWith_eq (s : State) (ten : Tenant) (edge : BitVec 32) (send live : Bool) : s.endsWith ten edge send live =
    (List.finRange 64).flatMap (fun c => if (s.core c).edges.isEmpty || s.tenantOf c != ten then []
      else ((List.finRange 32).filter (s.isEnd edge send live c)).map (fun k => (c, k))) := by
  refine congrArg (fun f => (List.finRange 64).flatMap f) (funext fun c => ?_)
  refine congrArg (fun p => if (s.core c).edges.isEmpty || s.tenantOf c != ten then [] else ((List.finRange 32).filter p).map (fun k => (c, k)))
    (funext fun k => ?_)
  unfold State.isEnd
  cases (s.core c).edge? k <;> rfl

/-- Two states have the same edge ends, in the same streams. -/
structure SameEnds (s t : State) : Prop where
  tenant : ∀ c, t.tenantOf c = s.tenantOf c
  empty : ∀ c, (t.core c).edges.isEmpty = (s.core c).edges.isEmpty
  strms : ∀ c, (t.core c).strms = (s.core c).strms
  label : ∀ c k, ((t.core c).edge? k).map Edge.label = ((s.core c).edge? k).map Edge.label

theorem SameEnds.endsWith {s t : State} (h : SameEnds s t) (ten : Tenant) (edge : BitVec 32) (send live : Bool) :
    t.endsWith ten edge send live = s.endsWith ten edge send live := by
  have hend : t.isEnd edge send live = s.isEnd edge send live := by
    funext c k
    simp only [State.isEnd, h.strms, h.label]
  simp only [State.endsWith_eq, h.tenant, h.empty, hend]

theorem Sparse.isEmpty_set {α : Type} (m : Sparse α) (k : Nat) (v : α) : (Sparse.set m k v).isEmpty = false := by
  have hk := Sparse.get?_set m k k v
  rw [if_pos rfl] at hk
  cases hm : Sparse.set m k v with
  | nil => rw [hm] at hk; cases hk
  | cons a r => rfl

theorem Core.edges_isEmpty {x : Core} {k : StrmId} {e : Edge} (he : x.edge? k = some e) : x.edges.isEmpty = false := by
  unfold Core.edge? at he
  cases hx : x.edges with
  | nil => rw [hx] at he; cases he
  | cons a r => rfl

/-- Where a sender rewinds a round, every end stays what it was. -/
theorem sameEnds_rewindRound {s : State} {c : CoreId} {k : StrmId} {e : Edge} (he : (s.core c).edge? k = some e) (r : Nat) :
    SameEnds s (s.rewindRound c k e r) := by
  obtain ⟨z, hz⟩ := s.core_rewindRound c k e r
  have hne : ∀ {j : CoreId}, j ≠ c → (s.rewindRound c k e r).core j = s.core j := by
    intro j hj
    unfold State.rewindRound
    rw [(posted_peerSend ..).core, State.modCore_eq, State.core_setCore_ne _ _ _ _ hj]
    unfold State.postVoid State.edgeRecord State.record
    rw [State.modCore_eq, State.core_setCore_ne _ _ _ _ hj]
  have htask : ∀ j, ((s.rewindRound c k e r).core j).task = (s.core j).task := by
    intro j
    by_cases hj : j = c
    · rw [hj, hz]; rfl
    · rw [hne hj]
  have htasks : (s.rewindRound c k e r).tasks = s.tasks := by
    unfold State.rewindRound
    rw [(posted_peerSend ..).eq]
    rfl
  refine ⟨fun j => ?_, fun j => ?_, fun j => ?_, fun j i => ?_⟩
  · simp only [State.tenantOf, State.taskOf, htask, htasks]
  · by_cases hj : j = c
    · rw [hj, hz, Core.edges_isEmpty he]
      exact Sparse.isEmpty_set ..
    · rw [hne hj]
  · by_cases hj : j = c
    · rw [hj, hz]; rfl
    · rw [hne hj]
  · by_cases hj : j = c
    · rw [hj, hz]
      by_cases hi : i = k
      · rw [hi, Core.edge?_setEdge, he]; rfl
      · rw [Core.edge?_setEdge_ne _ _ hi]; rfl
    · rw [hne hj]

/-! ## The answers at the ends -/

section
variable {s : State} {m : Datagram} {c : CoreId} {k : StrmId} {e : Edge}

theorem State.commitAtSenders_one (hends : s.endsOf (dgTenant m) m.edge true = [(c, k)]) (he : (s.core c).edge? k = some e)
    (hr : e.committed ≤ m.pos.toNat) (hall : e.first m.pos.toNat + e.roundLen m.pos.toNat ≤ e.sent) :
    s.commitAtSenders m = s.modCore c (fun x => x.commitEdge k (e.commitUpTo (m.pos.toNat + 1)) s.slot) := by
  simp only [State.commitAtSenders, hends, List.foldl_cons, List.foldl_nil, he, hr, hall, and_self, if_true]

theorem State.voidAtSenders_one (hends : s.endsOf (dgTenant m) m.edge true = [(c, k)]) (he : (s.core c).edge? k = some e)
    (hr : e.committed ≤ m.pos.toNat) : s.voidAtSenders m = s.rewindRound c k e m.pos.toNat := by
  simp only [State.voidAtSenders, hends, List.foldl_cons, List.foldl_nil, he, hr, if_true]

theorem State.voidAtSenders_none (hends : s.endsOf (dgTenant m) m.edge true = []) : s.voidAtSenders m = s := by
  simp only [State.voidAtSenders, hends, List.foldl_nil]

theorem State.voidAtReceivers_none (hends : s.endsOf (dgTenant m) m.edge false = []) : s.voidAtReceivers m = s := by
  simp only [State.voidAtReceivers, hends, List.foldl_nil]

/-- A receiver that awaits the round takes it from now on; another one discards its half first. -/
theorem State.edge?_voidAtReceivers_one (hends : s.endsOf (dgTenant m) m.edge false = [(c, k)]) (he : (s.core c).edge? k = some e)
    (hr : e.committed ≤ m.pos.toNat) : ((s.voidAtReceivers m).core c).edge? k = some (if e.await.contains m.pos.toNat then
      { e with await := e.await.filter (fun z => z != m.pos.toNat) } else e.restart m.pos.toNat) := by
  simp only [State.voidAtReceivers, hends, List.foldl_cons, List.foldl_nil, he, hr, if_true]
  split <;> rw [State.modCore_eq, State.core_setCore, Core.edge?_setEdge]

end

/-! ## A reply on a link -/

section
variable {s : State} {link : LinkId} {m : Datagram} {q : LinkQ} (hd : dgOk m = true) (hq : s.rxQueue? link m = some q)
include hd hq

theorem State.linkReply_inSeq {type : Nat} (ht : m.type.toNat = type) (hseq : vget s.rxSeq q.at_ 0 = m.seq.toNat) (f : State → State) :
    s.linkReply link m type f = f (s.rxNext q m) := by
  simp only [State.linkReply, hd, ht, hq, State.inSeq, hseq, Bool.not_true, bne_self_eq_false, Bool.or_self, Bool.false_eq_true, if_false,
    beq_self_eq_true, if_true]

/-- A COMMIT out of sequence voids its round. -/
theorem State.linkReply_outOfSeq (ht : m.type.toNat = 8) (hseq : vget s.rxSeq q.at_ 0 ≠ m.seq.toNat) (f : State → State) :
    s.linkReply link m 8 f = (s.rxNext q m).dropDatagram.voidAtSenders m := by
  have hlate : (vget s.rxSeq q.at_ 0 == m.seq.toNat) = false := beq_eq_false_iff_ne.2 hseq
  simp only [State.linkReply, hd, ht, hq, State.inSeq, hlate, Bool.not_true, bne_self_eq_false, Bool.or_self, Bool.false_eq_true, if_false,
    Nat.reduceEqDiff]

end

/-- An ACK changes no core. -/
theorem State.cores_linkReply_id (s : State) (link : LinkId) (m : Datagram) : (s.linkReply link m 10 id).cores = s.cores := by
  unfold State.linkReply
  dsimp only
  split
  · rfl
  · split
    · rfl
    · split <;> rfl

/-! ## A round that arrives -/

section
variable {s : State} {link : LinkId} {m : Datagram} {q : LinkQ} {c : CoreId} {k : StrmId} {e : Edge}
  (hd : dgOk m = true) (ht : m.type = 7)
include hd ht

section
variable (hq : s.rxQueue? link m = some q)
  (hends : (s.endsOf (dgTenant m) m.edge false ++ s.endsWith (dgTenant m) m.edge false false).head? = some (c, k)) (he : (s.core c).edge? k = some e)
include hq hends he

/-- What a round does at its end. -/
theorem exec_roundData_end : exec (.roundData link m) s =
    (if m.pos.toNat < e.committed then .next ((s.rxNext q m).dropDatagram.peerSend (dgTenant m) e 8 m.pos.toNat [])
    else if s.inSeq q m = false then .next ((s.rxNext q m).dropDatagram.voidRound c k m.pos.toNat)
    else if e.committed + 2 ≤ m.pos.toNat ∨ ((s.core c).strms[k]).live = false ∨ ((s.core c).strms[k]).cancel ∨ e.await.contains m.pos.toNat then
      .next (s.rxNext q m).dropDatagram
    else
      let e1 := e.receive m.pos.toNat link (cellsOfBytes (dgBody m) 32)
      let s1 := (s.rxNext q m).modCore c (fun x => x.setEdge k e1)
      if ((s.core c).strms[k]).st == .running && s1.canLand c k e1 then s1.landNext c k e1 else .next s1) := by
  obtain ⟨r, hr⟩ := List.head?_eq_some_iff.1 hends
  have hcore : (s.rxNext q m).core c = s.core c := rfl
  show execRoundData link m s = _
  simp only [execRoundData, hd, ht, hq, hr, hcore, he, Bool.not_true, bne_self_eq_false, Bool.or_self, Bool.false_eq_true, if_false, Bool.not_eq_true']

end

/-- A round of a tenant without a queue on the link freezes the stream that it is for. -/
theorem exec_roundData_noQueue (hq : s.rxQueue? link m = none) (hends : (s.endsOf (dgTenant m) m.edge false).head? = some (c, k))
    (he : (s.core c).edge? k = some e) (hst : ((s.core c).strms[k]).st = .running) :
    exec (.roundData link m) s = .next (s.dropDatagram.peerFault c k e kPROT m.pos.toNat e.row) := by
  obtain ⟨r, hr⟩ := List.head?_eq_some_iff.1 hends
  show execRoundData link m s = _
  simp only [execRoundData, hd, ht, hq, State.noQueue, hr, he, hst, Bool.not_true, bne_self_eq_false, Bool.or_self, Bool.false_eq_true, if_false, if_true]

end

/-- A peer end that faults is frozen with PEER. -/
theorem State.strms_peerFault (s : State) (c : CoreId) (k : StrmId) (e : Edge) (code : BitVec 8) (round row : Nat) :
    (((s.peerFault c k e code round row).core c).strms[k]) = { (s.core c).strms[k] with st := .frozen, fault := some (kPEER, 0), walk := none } := by
  unfold State.peerFault State.edgeRecord State.record
  simp only [State.modCore_eq, State.core_setCore, Core.strms_modStrm]

end Sys2Proof.Machine
end
section
/-! SUPPORT. The statements about peer edges, put together. -/

namespace Sys2Proof.Machine
open Sys2Proof.Claims

section
variable {s : State} {c : CoreId} {k : StrmId} {e : Edge} (he : (s.core c).edge? k = some e)
include he

/-- The oldest admitted cell is sent: its bytes lie in the replay area, it is out with the queue's next SEQ, and the link's port is taken. -/
theorem peerCellSend_new {cell v : Cell} {rest : List Cell} {q : LinkQ} {u : State} {pa : Nat} (hst : ((s.core c).strms[k]).st = .running)
    (hc : ((s.core c).strms[k]).cancel = false) (hsend : e.send = true) (hag : e.again = []) (hout : e.outq = cell :: rest)
    (hrdy : (s.core c).storerReady ((s.core c).strms[k]).storer s.slot = true) (hwf : s.memWf = true) (hq : s.peerQueue? (s.tenantOf c) = some q)
    (hl : s.linkOutFree q.link = true) (hp : s.pathsFree true (s.strmPlaces c k (e.place e.sent) .write) = true)
    (hv : s.edgeQuant? c e.qs cell = some v) (hu : s.strmTouch c k (e.place e.sent) .write = .ok u pa) :
    ∃ t e', exec (.peerCellSend c k) s = .next t ∧ (t.core c).edge? k = some e' ∧ e'.sent = e.sent + 1 ∧ e'.outq = rest ∧
      (∃ o, t.outbox = s.outbox ++ [o] ∧ o.d.seq = BitVec.ofNat 64 (vget s.txSeq q.at_ 0)) ∧ vget t.txSeq q.at_ 0 = vget s.txSeq q.at_ 0 + 1 ∧
      t.linkOutFree q.link = false ∧ t.pool = s.pool ∧ BitVec.ofNat 2048 (Memory.readN t.hbm pa 256) = v.data ∧
      ∀ a, ¬(pa ≤ a ∧ a < pa + 256) → Memory.get t.hbm a = Memory.get u.hbm a := by
  have hr := reached_strmTouch hu
  have hcanon := canonTouch_strmTouch (s.memWf_iff.1 hwf) c k (e.place e.sent) .write
  rw [hu] at hcanon
  have hbytes := readN_hbmWrite_bytesOf hcanon.1 pa 256 v.data
  have hother (a : Nat) := get_hbmWrite_ne hcanon.1 (w := { addr := pa, bytes := bytesOf 256 v.data.toNat }) (a := a)
  simp only [length_bytesOf] at hother
  obtain ⟨bs, hbs⟩ : ∃ bs, bytesOf 256 v.data.toNat = bs := ⟨_, rfl⟩
  rw [hbs] at hbytes hother
  have hnext := (exec_peerCellSend_new he hst hc hsend hag hout hq hl).trans (State.sendNew_sends (rest := rest) hrdy q.link hp hv hu hbs)
  have hqw : (u.cellOut c k ((s.core c).strms[k]).storer q.link pa bs cell (e.sentOne rest v u.slot)).peerQueue? (u.tenantOf c) = some q := by
    rw [State.peerQueue?_cellOut, hr.tenantOf, hr.peerQueue?, hq]
  obtain ⟨⟨o, ho, hseq⟩, htx⟩ := State.sent_peerSend hqw e 7 (e.sent / e.n) (roundBytes v.h.word v.data)
  rw [State.txSeq_cellOut, hr.txSeq] at hseq htx
  rw [State.outbox_cellOut, hr.outbox] at ho
  have hpost := posted_peerSend (u.cellOut c k ((s.core c).strms[k]).storer q.link pa bs cell (e.sentOne rest v u.slot)) (u.tenantOf c) e 7
    (e.sent / e.n) (roundBytes v.h.word v.data)
  refine ⟨_, e.sentOne rest v u.slot, hnext, ?_, e.sent_sentOne .., e.outq_sentOne .., ⟨o, ho, hseq⟩, htx, ?_, ?_, ?_, ?_⟩
  · rw [hpost.core, State.edge?_cellOut]
  · rw [hpost.linkOutFree, State.linkOutFree_cellOut]
  · rw [hpost.pool, State.pool_cellOut, hr.pool]
  · rw [hpost.hbm, State.hbm_cellOut]
    exact hbytes
  · intro a ha
    rw [hpost.hbm, State.hbm_cellOut]
    exact hother a ha

/-- A round that stays unanswered is sent again. -/
theorem roundTimeout_overdue {r : Nat} (hsend : e.send = true) (hlive : ((s.core c).strms[k]).live = true) (hr : e.overdue? s.slot = some r) :
    ∃ u, exec (.roundTimeout c k) s = .next u ∧ SameMem s u ∧ (u.core c).edge? k = some (e.rewind r) ∧
      ∀ q, s.peerQueue? (s.tenantOf c) = some q → u.outbox.length = s.outbox.length + 1 :=
  ⟨_, exec_roundTimeout_overdue he hsend hlive hr, Sys2Proof.Machine.SameMem.of_mem (State.mem_rewindRound ..), s.edge?_rewindRound c k e r,
    fun _ hq => State.length_rewindRound hq k e r⟩

/-- A loss voids the open round of a receiving end. -/
theorem roundVoid_open (hlive : ((s.core c).strms[k]).live = true) (hsend : e.send = false) (hrow : e.row = 0) (hne : e.landed ≠ [] ∨ e.rxq ≠ []) :
    ∃ u e', exec (.roundVoid c k) s = .next u ∧ SameMem s u ∧
      (u.core c).edge? k = some e' ∧ Sparse.getD e'.voids e.committed 0 = Sparse.getD e.voids e.committed 0 + 1 ∧ e'.row = 0 ∧
        e'.committed = e.committed ∧ (u.core c).faults.length = (s.core c).faults.length + 1 ∧ (∀ z ∈ e'.landed, z.1 / e.n ≠ e.committed) ∧
        (∀ z ∈ e'.rxq, z.round ≠ e.committed) ∧ e.committed ∈ e'.await := by
  obtain ⟨hvoids, hrow', hcom, hlanded, hrxq, hawait⟩ := e.discard_spec
  obtain ⟨z, hz⟩ := State.core_voidRound he e.committed
  refine ⟨_, e.discard e.committed, exec_roundVoid_open he hlive hsend hrow hne, Sys2Proof.Machine.SameMem.of_mem (State.mem_voidRound ..),
    State.edge?_voidRound he e.committed, hvoids, hrow', hcom, ?_, hlanded, hrxq, hawait⟩
  rw [hz]
  exact List.length_append

section
variable {link : LinkId} {m : Datagram} {q : LinkQ} (hd : dgOk m = true) (hq : s.rxQueue? link m = some q)
include hd hq

/-- A COMMIT in sequence commits the round at its sender. -/
theorem commitMsg_inSeq (ht : m.type = 8) (hseq : vget s.rxSeq q.at_ 0 = m.seq.toNat) (hends : s.endsOf (dgTenant m) m.edge true = [(c, k)])
    (hr : e.committed ≤ m.pos.toNat) (hall : e.first m.pos.toNat + e.roundLen m.pos.toNat ≤ e.sent) :
    ∃ t e', exec (.commitMsg link m) s = .next t ∧ SameMem s t ∧ (t.core c).edge? k = some e' ∧ e'.committed = m.pos.toNat + 1 ∧
      vget t.rxSeq q.at_ 0 = m.seq.toNat + 1 := by
  have hreply : exec (.commitMsg link m) s = .next _ := congrArg Host.Outcome.next
    ((State.linkReply_inSeq hd hq (congrArg BitVec.toNat ht) hseq _).trans (State.commitAtSenders_one (s := s.rxNext q m) hends he hr hall))
  refine ⟨_, e.commitUpTo (m.pos.toNat + 1), hreply, Sys2Proof.Machine.SameMem.of_mem rfl, ?_, rfl, State.rxNext_at s q m⟩
  rw [State.modCore_eq, State.core_setCore, Core.commitEdge, Core.edge?_modStrm, Core.edge?_setEdge]

/-- A COMMIT out of sequence makes its sender rewind the round. -/
theorem commitMsg_outOfSeq (ht : m.type = 8) (hseq : vget s.rxSeq q.at_ 0 ≠ m.seq.toNat) (hends : s.endsOf (dgTenant m) m.edge true = [(c, k)])
    (hr : e.committed ≤ m.pos.toNat) :
    ∃ t, exec (.commitMsg link m) s = .next t ∧ SameMem s t ∧ (t.core c).edge? k = some (e.rewind m.pos.toNat) := by
  have hreply : exec (.commitMsg link m) s = .next _ := congrArg Host.Outcome.next
    ((State.linkReply_outOfSeq hd hq (congrArg BitVec.toNat ht) hseq _).trans
      (State.voidAtSenders_one (s := (s.rxNext q m).dropDatagram) hends he hr))
  exact ⟨_, hreply, Sys2Proof.Machine.SameMem.of_mem (State.mem_rewindRound ..), State.edge?_rewindRound ..⟩

/-- A VOID makes a sender rewind the round. -/
theorem voidMsg_sender (ht : m.type = 9) (hseq : vget s.rxSeq q.at_ 0 = m.seq.toNat) (hends : s.endsOf (dgTenant m) m.edge true = [(c, k)])
    (hrecv : s.endsOf (dgTenant m) m.edge false = []) (hr : e.committed ≤ m.pos.toNat) :
    ∃ t, exec (.voidMsg link m) s = .next t ∧ SameMem s t ∧ (t.core c).edge? k = some (e.rewind m.pos.toNat) := by
  have hnone : ((s.rxNext q m).rewindRound c k e m.pos.toNat).endsOf (dgTenant m) m.edge false = [] :=
    ((sameEnds_rewindRound (s := s.rxNext q m) he m.pos.toNat).endsWith ..).trans hrecv
  have hvoid : ((s.rxNext q m).voidAtSenders m).voidAtReceivers m = (s.rxNext q m).rewindRound c k e m.pos.toNat := by
    rw [State.voidAtSenders_one (s := s.rxNext q m) hends he hr, State.voidAtReceivers_none hnone]
  have hreply : exec (.voidMsg link m) s = .next _ := congrArg Host.Outcome.next
    ((State.linkReply_inSeq hd hq (congrArg BitVec.toNat ht) hseq _).trans hvoid)
  exact ⟨_, hreply, Sys2Proof.Machine.SameMem.of_mem (State.mem_rewindRound ..), State.edge?_rewindRound ..⟩

/-- A VOID tells a receiver where the round begins again. -/
theorem voidMsg_receiver (ht : m.type = 9) (hseq : vget s.rxSeq q.at_ 0 = m.seq.toNat) (hsend : s.endsOf (dgTenant m) m.edge true = [])
    (hends : s.endsOf (dgTenant m) m.edge false = [(c, k)]) (hr : e.committed ≤ m.pos.toNat) :
    ∃ t, exec (.voidMsg link m) s = .next t ∧ SameMem s t ∧ (t.core c).edge? k = some (if e.await.contains m.pos.toNat then
      { e with await := e.await.filter (fun z => z != m.pos.toNat) } else e.restart m.pos.toNat) := by
  have hvoid : ((s.rxNext q m).voidAtSenders m).voidAtReceivers m = (s.rxNext q m).voidAtReceivers m := by
    rw [State.voidAtSenders_none (s := s.rxNext q m) hsend]
  have hreply : exec (.voidMsg link m) s = .next _ := congrArg Host.Outcome.next
    ((State.linkReply_inSeq hd hq (congrArg BitVec.toNat ht) hseq _).trans hvoid)
  exact ⟨_, hreply, Sys2Proof.Machine.SameMem.of_mem (State.mem_voidAtReceivers ..),
    State.edge?_voidAtReceivers_one (s := s.rxNext q m) hends he hr⟩

section
variable (ht : m.type = 7)
  (hends : (s.endsOf (dgTenant m) m.edge false ++ s.endsWith (dgTenant m) m.edge false false).head? = some (c, k))
include ht hends

/-- A round that is committed already is answered with COMMIT. -/
theorem roundData_committed (hr : m.pos.toNat < e.committed) :
    ∃ t, exec (.roundData link m) s = .next t ∧ SameMem s t ∧ t.outbox.length = s.outbox.length + 1 ∧ (t.core c).edge? k = some e := by
  obtain ⟨q', hq'⟩ := State.peerQueue?_of_rxQueue? hq
  have hpost := posted_peerSend (s.rxNext q m).dropDatagram (dgTenant m) e 8 m.pos.toNat []
  refine ⟨_, (exec_roundData_end hd ht hq hends he).trans (if_pos hr), Sys2Proof.Machine.SameMem.of_mem (State.mem_peerSend ..),
    State.length_peerSend (s := (s.rxNext q m).dropDatagram) hq' .., ?_⟩
  rw [hpost.core]
  exact he

/-- A round out of sequence is voided as a loss. -/
theorem roundData_late (hr : e.committed ≤ m.pos.toNat) (hseq : vget s.rxSeq q.at_ 0 ≠ m.seq.toNat) :
    ∃ t, exec (.roundData link m) s = .next t ∧ SameMem s t ∧ (t.core c).edge? k = some (e.discard m.pos.toNat) := by
  have hlate : s.inSeq q m = false := beq_eq_false_iff_ne.2 hseq
  exact ⟨_, (exec_roundData_end hd ht hq hends he).trans ((if_neg (Nat.not_lt.2 hr)).trans (if_pos hlate)),
    Sys2Proof.Machine.SameMem.of_mem (State.mem_voidRound ..), State.edge?_voidRound (s := (s.rxNext q m).dropDatagram) he m.pos.toNat⟩

/-- A round of an end whose sender must send it again, or that the end gives no credit for, is discarded. -/
theorem roundData_discarded (hr : e.committed ≤ m.pos.toNat)
    (hseq : vget s.rxSeq q.at_ 0 = m.seq.toNat) (hno : e.committed + 2 ≤ m.pos.toNat ∨ e.await.contains m.pos.toNat = true) :
    ∃ t, exec (.roundData link m) s = .next t ∧ SameMem s t ∧ (t.core c).edge? k = some e ∧ t.discards.datagrams = s.discards.datagrams + 1 := by
  refine ⟨(s.rxNext q m).dropDatagram, ?_, Sys2Proof.Machine.SameMem.of_mem rfl, he, rfl⟩
  rw [exec_roundData_end hd ht hq hends he, if_neg (Nat.not_lt.2 hr), if_neg (by simp [State.inSeq, hseq]), if_pos]
  exact hno.imp_right (fun h => .inr (.inr h))

/-- A round in sequence that the end gives credit for enters its receive buffer. -/
theorem exec_roundData_enters (hr : e.committed ≤ m.pos.toNat)
    (hseq : vget s.rxSeq q.at_ 0 = m.seq.toNat) (hcredit : m.pos.toNat < e.committed + 2) (hlive : ((s.core c).strms[k]).live = true)
    (hc : ((s.core c).strms[k]).cancel = false) (haw : e.await.contains m.pos.toNat = false) {e1 : Edge} {s1 : State}
    (he1 : e.receive m.pos.toNat link (cellsOfBytes (dgBody m) 32) = e1) (hs1 : (s.rxNext q m).modCore c (fun x => x.setEdge k e1) = s1) :
    exec (.roundData link m) s = if ((s.core c).strms[k]).st == .running && s1.canLand c k e1 then s1.landNext c k e1 else .next s1 := by
  rw [exec_roundData_end hd ht hq hends he, if_neg (Nat.not_lt.2 hr), if_neg (by simp [State.inSeq, hseq]), if_neg]
  · simp only [he1, hs1]
  · rw [hlive, hc, haw]
    simp only [Bool.true_eq_false, Bool.false_eq_true, or_false, not_le, hcredit]

end

end

end

/-- The next cell of the buffer then lands at once, when it can. -/
theorem roundData_lands {s : State} {c : CoreId} {k : StrmId} {link : LinkId} {m : Datagram} {e1 : Edge} {s1 u : State} {z : RxCell} {rest : List RxCell}
    (henter : exec (.roundData link m) s = if ((s.core c).strms[k]).st == .running && s1.canLand c k e1 then s1.landNext c k e1 else .next s1)
    (hst : ((s.core c).strms[k]).st = .running) (hland : s1.canLand c k e1 = true) (hz : e1.rxq = z :: rest)
    (hu : s1.edgeWrite c k (e1.place (e1.first z.round + e1.landedOf z.round)) (bytesOf 256 z.data.toNat) = .ok u) :
    ∃ t, exec (.roundData link m) s = .next t ∧ t.hbm = u.hbm ∧ t.linkInFree z.link = false ∧ (t.core c).edge? k =
      some { e1 with landed := Sparse.set e1.landed (e1.first z.round + e1.landedOf z.round) (z.head, z.data), rxq := rest } := by
  obtain ⟨t, ht, hhbm, -, hlink, hedge⟩ := State.landNext_lands hz hu
  have hboth : (((s.core c).strms[k]).st == .running && s1.canLand c k e1) = true := by
    rw [Bool.and_eq_true, beq_iff_eq]
    exact ⟨hst, hland⟩
  exact ⟨t, henter.trans ((if_pos hboth).trans ht), hhbm, hlink, hedge⟩

theorem peerRounds : PeerRounds := by
  intro s c k e link m y he
  refine ⟨?_, ?_, ?_, ?_, ?_, ?_, ?_, ?_, ?_⟩
  · intro cell rest v q u pa hst hc hsend hag hout hrdy hwf hq hl hp hv hu
    exact peerCellSend_new he hst hc hsend hag hout hrdy hwf hq hl hp hv hu
  · exact fun q hst hc hsend hne hq hl => exec_peerCellSend_waits he hst hc hsend hne hq hl
  · exact fun r hsend hlive hr => roundTimeout_overdue he hsend hlive hr
  · exact fun hr => exec_roundTimeout_none he hr
  · exact fun r hr => Edge.overdue?_mem hr
  · exact fun hlive hsend hrow hne => roundVoid_open he hlive hsend hrow hne
  · intro z rest u hst hsend hc hz hland n hu
    rw [exec_roundCommit_lands he hst hsend hc hland]
    exact State.landNext_lands hz hu
  · intro at_ hst hsend hc hland hl hrdy hw
    constructor
    · intro u pa h p w hrow hu hbad hz u' row hr hp hws
      rw [exec_roundCommit_row he hst hsend hc hland hl hrdy hw hrow]
      exact State.commitRow_writes hu hbad hz rfl hr hp hws
    · intro u q hrow hp hu hq
      rw [exec_roundCommit_log he hst hsend hc hland hl hrdy hw hrow]
      obtain ⟨t, ht, hout, hedge, hhbm, hpool⟩ := State.commitLog_commits hp hu hq
      exact ⟨t, _, ht, hout, hedge, rfl, rfl, hhbm, hpool⟩
  · intro r senders receivers hd
    constructor
    · intro ht
      exact ⟨_, rfl, Sys2Proof.Machine.SameMem.of_mem (State.mem_linkReply _ _ _ _ _ (fun _ => rfl)), s.cores_linkReply_id link m⟩
    · intro q hq
      refine ⟨?_, ?_, ?_, ?_, ?_, ?_⟩
      · exact fun ht hseq hends hr hall => commitMsg_inSeq he hd hq ht hseq hends hr hall
      · exact fun ht hseq hends hr => commitMsg_outOfSeq he hd hq ht hseq hends hr
      · exact fun ht hseq hends hrecv hr => voidMsg_sender he hd hq ht hseq hends hrecv hr
      · exact fun ht hseq hsend hends hr => voidMsg_receiver he hd hq ht hseq hsend hends hr
      · intro ht hends
        refine ⟨?_, ?_, ?_, ?_⟩
        · exact fun hr => roundData_committed he hd hq ht hends hr
        · exact fun hr hseq => roundData_late he hd hq ht hends hr hseq
        · exact fun hr hseq hno => roundData_discarded he hd hq ht hends hr hseq hno
        · intro hr hcredit hseq hlive hc haw e1 s1
          have henter := exec_roundData_enters he hd hq ht hends hr hseq hcredit hlive hc haw (e1 := e1) (s1 := s1) rfl rfl
          constructor
          · intro hstop
            refine henter.trans (if_neg ?_)
            rw [Bool.and_eq_true, beq_iff_eq]
            rintro ⟨hst, hland⟩
            exact hstop.elim (fun h => h hst) (fun h => Bool.false_ne_true (h.symm.trans hland))
          · intro z rest u hst hland hz n hu
            exact roundData_lands henter hst hland hz hu
      · intro ht hno hends hst
        refine ⟨_, exec_roundData_noQueue hd ht hno hends he hst, Sys2Proof.Machine.SameMem.of_mem (State.mem_peerFault ..), ?_, ?_⟩ <;>
          rw [State.strms_peerFault]

/-- Settles O59: the messages of hosts, what is discarded or waits, and the rounds of peer edges, one sequence of steps after the other. -/
theorem messages : Obligations.Messages := ⟨hostMessages, discardedTraffic, peerRounds⟩

end Sys2Proof.Machine
end
section
/-! SUPPORT. What a firing does to its element: the steering registers, the results and the flags that it leaves, and nothing else of the core but
the ports (R122-R124, R193); an element operation as a statement (O48, O51, O52). -/

namespace Sys2Proof.Machine

open Sys2Proof.Claims

/-! ## The core beside its ports -/

/-- What the statements tell of a firing's core beside its ports: threads, fault records and elements. -/
def Core.inner (x : Core) : Vector Thread 16 × List FaultRec × Vector Elem 32 := (x.threads, x.faults, x.elems)

@[simp] theorem Core.inner_modIng (x : Core) (p : Nat) (f : Ingress → Ingress) : (x.modIng p f).inner = x.inner := rfl
@[simp] theorem Core.inner_modEg (x : Core) (p : Nat) (f : Egress → Egress) : (x.modEg p f).inner = x.inner := rfl

theorem Core.inner_modElem (x : Core) (e : ElemId) (f : Elem → Elem) :
    (x.modElem e f).inner = (x.inner.1, x.inner.2.1, x.inner.2.2.set e.val (f x.inner.2.2[e])) := rfl

/-- What a change of an element leaves depends on what was there alone. -/
theorem Core.inner_modElem_congr {x y : Core} (h : x.inner = y.inner) (e : ElemId) (f : Elem → Elem) :
    (x.modElem e f).inner = (y.modElem e f).inner := by
  rw [Core.inner_modElem, h, ← Core.inner_modElem]

/-- A change of an element that changes nothing. -/
theorem Core.modElem_of_eq {x : Core} {e : ElemId} {f : Elem → Elem} (h : f x.elems[e] = x.elems[e]) : x.modElem e f = x := by
  have hset : x.elems.set e.val x.elems[e] e.isLt = x.elems := by simp
  rw [Core.modElem, h, hset]

theorem Core.modElem_modElem (x : Core) (e : ElemId) (f g : Elem → Elem) : (x.modElem e f).modElem e g = x.modElem e (fun a => g (f a)) := by
  simp [Core.modElem]

/-- An element of which the core's inner part shows the change f has made it. -/
theorem Core.elem_of_inner {x y : Core} {e : ElemId} {f : Elem → Elem} (h : y.inner = (x.modElem e f).inner) : y.elems[e] = f x.elems[e] := by
  have hy : y.elems = x.elems.set e.val (f x.elems[e]) := congrArg (fun z => z.2.2) h
  simp [hy]

theorem Core.elem_of_inner_ne {x y : Core} {e k : ElemId} {f : Elem → Elem} (h : y.inner = (x.modElem e f).inner) (hk : k ≠ e) :
    y.elems[k] = x.elems[k] := by
  have hy : y.elems = x.elems.set e.val (f x.elems[e]) := congrArg (fun z => z.2.2) h
  have hne : e.val ≠ k.val := fun q => hk (Fin.ext q.symm)
  simp [hy, hne]

@[simp] theorem State.inner_modStage (s : State) (c k : CoreId) (g : StageId) (f : Stage → Stage) :
    ((s.modCore k (fun x => x.modStage g f)).core c).inner = (s.core c).inner :=
  State.core_modCore_keep s c k _ Core.inner (fun _ => rfl)

/-! ## Pops -/

/-! Each lemma below says of one step of a pop that it leaves the inner part of every core as it is. -/

theorem Core.inner_consumed (x : Core) (y : Cell) : (x.consumed y).inner = x.inner := by
  unfold Core.consumed Core.loopDown Core.modLoop
  (repeat' split) <;> rfl

theorem State.inner_oxConsumed (s : State) (k : CoreId) (y : Cell) : ((s.oxConsumed y).core k).inner = (s.core k).inner := by
  unfold State.oxConsumed
  dsimp only
  split <;> split <;> simp only [State.inner_modStage]

theorem State.inner_consume (s : State) (c k : CoreId) (y : Cell) : ((s.consume c y).core k).inner = (s.core k).inner := by
  have hc := State.core_modCore_keep s k c (fun x => x.consumed y) Core.inner (fun x => x.inner_consumed y)
  unfold State.consume
  dsimp only
  split
  · rw [State.inner_oxConsumed, hc]
  · exact hc

theorem State.inner_popHead (s : State) (c k : CoreId) (p ch : Nat) : ((s.popHead c p ch).core k).inner = (s.core k).inner := by
  unfold State.popHead
  split
  · rfl
  · have htake := State.core_modCore_keep (s.clearHead c p ch) k c (fun x => x.takeHead p ch) Core.inner (fun x => x.inner_modEg ..)
    rw [State.inner_consume, htake, State.core_clearHead]

/-- The steering register that a popped STEER cell leaves (R193). -/
def steerOf (y : Cell) : Steer :=
  { k := BitVec.ofNat 4 (lane 8 1 y.data.toNat), idx := Vector.ofFn (fun j => BitVec.ofNat 8 (lane 16 (2 + j.val) y.data.toNat)) }

/-- Steering register n after a pop of the channels l whose heads are h (R193). -/
def steered (h : Nat → Option Cell) (l : List Nat) (n : Nat) (old : Steer) : Steer :=
  match h n with
  | some y => if n ∈ l ∧ y.h.tag = tSTEER then steerOf y else old
  | none => old

theorem steered_of_not_mem {h : Nat → Option Cell} {l : List Nat} {n : Nat} {old : Steer} (hn : n ∉ l) : steered h l n old = old := by
  simp only [steered, hn, false_and, if_false]
  split <;> rfl

theorem steered_congr {h h' : Nat → Option Cell} {l l' : List Nat} {n : Nat} {old : Steer} (hh : h' n = h n) (hl : n ∈ l' ↔ n ∈ l) :
    steered h' l' n old = steered h l n old := by
  simp only [steered, hh, hl]

/-- The element's steering registers after such a pop; the rest of the element as before. -/
def Elem.steer (a : Elem) (h : Nat → Option Cell) (l : List Nat) : Elem := { a with sg := Vector.ofFn (fun n => steered h l n.val a.sg[n]) }

theorem Elem.sg_steer (a : Elem) (h : Nat → Option Cell) (l : List Nat) (n : Fin 4) : (a.steer h l).sg[n] = steered h l n.val a.sg[n] := by
  simp [Elem.steer]

/-- Two elements that agree in all but the steering registers, and in each of those, are the same. -/
theorem Elem.eq_of_sg {a b : Elem} (h : b = { a with sg := b.sg }) (hsg : ∀ n : Fin 4, b.sg[n] = a.sg[n]) : b = a := by
  have : b.sg = a.sg := Vector.ext (fun i hi => hsg ⟨i, hi⟩)
  rw [h, this]

theorem Elem.steer_none (a : Elem) (h : Nat → Option Cell) (l : List Nat) (hl : ∀ n ∈ l, h n = none) : a.steer h l = a := by
  refine Elem.eq_of_sg rfl (fun n => ?_)
  rw [Elem.sg_steer, steered]
  split
  · next y hy => exact if_neg (fun q => by simp [hl _ q.1] at hy)
  · rfl

theorem Elem.steer_one (a : Elem) (h : Nat → Option Cell) (ch : Nat) (y : Cell) (hy : h ch = some y) :
    a.steer h [ch] = if y.h.tag = tSTEER then { a with sg := vset a.sg ch (steerOf y) } else a := by
  have key : ∀ n : Fin 4, (a.steer h [ch]).sg[n] = if n.val = ch ∧ y.h.tag = tSTEER then steerOf y else a.sg[n] := by
    intro n
    rw [Elem.sg_steer, steered]
    by_cases hn : n.val = ch
    · simp [hn, hy]
    · simp only [List.mem_singleton, hn, false_and, if_false]
      split <;> rfl
  split
  · next ht =>
    refine Elem.eq_of_sg rfl (fun n => (key n).trans ?_)
    by_cases hn : n.val = ch
    · subst hn; simp [ht, vset]
    · simp only [hn, false_and, if_false, vset]
      split
      · simp [Ne.symm hn]
      · rfl
  · next ht => exact Elem.eq_of_sg rfl (fun n => (key n).trans (if_neg (fun q => ht q.2)))

/-- Channel by channel, each from the heads that stand there then, is all at once, where a channel is popped once. -/
theorem Elem.steer_cons (a : Elem) (h h' : Nat → Option Cell) (ch : Nat) (l : List Nat) (hch : ch ∉ l) (hh : ∀ n, n ≠ ch → h' n = h n) :
    (a.steer h [ch]).steer h' l = a.steer h (ch :: l) := by
  refine Elem.eq_of_sg rfl (fun n => ?_)
  rw [Elem.sg_steer, Elem.sg_steer, Elem.sg_steer]
  by_cases hn : n.val = ch
  · rw [steered_of_not_mem (l := l) (hn ▸ hch)]
    exact steered_congr rfl (by simp [hn])
  · rw [steered_of_not_mem (l := [ch]) (by simpa using hn)]
    exact steered_congr (hh _ hn) (by simp [hn])

/-- A popped channel gives its head to the steering register (R193), and nothing else changes but the ports. -/
theorem State.inner_popElem (s : State) (c : CoreId) (e : ElemId) (ch : Nat) :
    ((s.popElem c e ch).core c).inner = ((s.core c).modElem e (·.steer ((s.core c).head? s.slot (48 + e.val)) [ch])).inner := by
  unfold State.popElem
  split
  · next h =>
    rw [Core.modElem_of_eq (Elem.steer_none _ _ _ (by simpa using h))]
  · next y h =>
    dsimp only
    rw [State.inner_popHead]
    simp only [Elem.steer_one _ _ _ _ h]
    split
    · simp only [State.modCore_eq, State.core_setCore]
      rfl
    · rw [Core.modElem_of_eq rfl]

/-- A pop leaves the heads of the other channels. -/
theorem State.head_popElem_ne (s : State) (c : CoreId) (e : ElemId) (ch n : Nat) (h : n ≠ ch) :
    ((s.popElem c e ch).core c).head? (s.popElem c e ch).slot (48 + e.val) n = (s.core c).head? s.slot (48 + e.val) n := by
  obtain ⟨-, -, -, hcells⟩ := s.ports_popElem c e ch
  unfold Core.head?
  rw [hcells n, if_neg (fun q => h q.1), State.slot_popElem]

/-- Channels popped one after the other, each once, give their heads to the steering registers (R193). -/
theorem State.inner_popElems (c : CoreId) (e : ElemId) (l : List Nat) (hl : l.Nodup) (s : State) :
    ((l.foldl (fun s ch => s.popElem c e ch) s).core c).inner =
      ((s.core c).modElem e (·.steer ((s.core c).head? s.slot (48 + e.val)) l)).inner := by
  induction l generalizing s with
  | nil =>
    rw [Core.modElem_of_eq (Elem.steer_none _ _ _ (by simp))]
    rfl
  | cons ch l ih =>
    obtain ⟨hch, hl⟩ := List.nodup_cons.mp hl
    rw [List.foldl_cons, ih hl, Core.inner_modElem_congr (s.inner_popElem c e ch), Core.modElem_modElem]
    simp only [Elem.steer_cons _ _ _ _ _ hch (fun n hn => s.head_popElem_ne c e ch n hn)]

/-! ## Results -/

/-- A cell for an O reaches the output buffer and a routine's count only. -/
theorem State.inner_emitTo (s : State) (c : CoreId) (e : ElemId) (d : BitVec 5) (tag : BitVec 3) (r : Res) :
    ((s.emitTo c e d tag r).core c).inner = (s.core c).inner := by
  have offer : ∀ (u : State) (o : Offer), ((u.modCore c (fun x => x.offer (48 + e.val) o)).core c).inner = (u.core c).inner :=
    fun u o => State.core_modCore_keep u c c _ Core.inner (fun x => x.inner_modIng ..)
  unfold State.emitTo State.emit
  split
  · split
    · rfl
    · dsimp only
      split
      · split
        · rw [offer, State.inner_modStage]
        · exact offer _ _
      · exact offer _ _
  · rfl

/-- The bit that a result gives a predicate (R124). -/
def Res.bit (r : Res) : Bool := r.pred.getD r.v.lane0

@[simp] theorem Elem.write_esr (el : Elem) (d : BitVec 5) (r : Res) : (el.write d r).esr = el.esr := by
  unfold Elem.write; dsimp only; (repeat' split) <;> rfl
@[simp] theorem Elem.write_firings (el : Elem) (d : BitVec 5) (r : Res) : (el.write d r).firings = el.firings := by
  unfold Elem.write; dsimp only; (repeat' split) <;> rfl
@[simp] theorem Elem.write_k (el : Elem) (d : BitVec 5) (r : Res) : (el.write d r).k = el.k := by
  unfold Elem.write; dsimp only; (repeat' split) <;> rfl
@[simp] theorem Elem.write_frozen (el : Elem) (d : BitVec 5) (r : Res) : (el.write d r).frozen = el.frozen := by
  unfold Elem.write; dsimp only; (repeat' split) <;> rfl
@[simp] theorem Elem.write_sg (el : Elem) (d : BitVec 5) (r : Res) : (el.write d r).sg = el.sg := by
  unfold Elem.write; dsimp only; (repeat' split) <;> rfl

/-- A result for a D register stands there whole (R116, R124). -/
theorem Elem.write_d (el : Elem) (d : BitVec 5) (r : Res) (n : Fin 4) :
    (el.write d r).d[n] = if d.toNat = n.val then { data := r.v.data, fmt := r.v.fmt, key := r.v.key } else el.d[n] := by
  unfold Elem.write
  dsimp only
  split
  · next h =>
    have h4 : d.toNat < 4 := by omega
    by_cases hn : d.toNat = n.val <;> simp [vset, h4, hn]
  · next h =>
    have hn : d.toNat ≠ n.val := by omega
    rw [if_neg hn]
    split <;> rfl

/-- Bit n of two predicates after bit m is set or cleared. -/
theorem getLsbD_setClear (p : BitVec 2) (m n : Fin 2) :
    (p ||| (1#2 <<< m.val)).getLsbD n.val = (if m = n then true else p.getLsbD n.val) ∧
    (p &&& ~~~(1#2 <<< m.val)).getLsbD n.val = (if m = n then false else p.getLsbD n.val) := by
  revert p m n; decide

/-- A result for a predicate gives it its bit (R124). -/
theorem Elem.write_p (el : Elem) (d : BitVec 5) (r : Res) (n : Fin 2) :
    (el.write d r).p.getLsbD n.val = if d.toNat = 8 + n.val then r.bit else el.p.getLsbD n.val := by
  unfold Elem.write
  dsimp only
  split
  · next h => rw [if_neg (by omega)]
  · split
    · next h =>
      obtain ⟨hset, hclear⟩ := getLsbD_setClear el.p ⟨d.toNat - 8, by omega⟩ n
      have hm : (⟨d.toNat - 8, by omega⟩ : Fin 2) = n ↔ d.toNat = 8 + n.val := by rw [Fin.ext_iff]; dsimp only; omega
      simp only [hm] at hset hclear
      rw [show r.pred.getD r.v.lane0 = r.bit from rfl]
      cases r.bit
      · exact hclear
      · exact hset
    · next h => rw [if_neg (by omega)]

/-! ## The step of a firing -/

/-- The element after a firing (R122-R124). -/
def Elem.after (a : Elem) (s : State) (x : ElemAct) (u : OpUse) (o : OpOut) : Elem :=
  let b := (((a.steer (fireHead s) (popList x u o)).write x.da o.ra).write x.db o.rb).setFlags o.flags
  { b with st := s.nsOf, firings := b.firings + 1, credit := false, acted := some s.slot }

theorem State.core_modCore (s : State) (c : CoreId) (f : Core → Core) : (s.modCore c f).core c = f (s.core c) := by
  rw [State.modCore_eq, State.core_setCore]

theorem State.slot_emitTo (s : State) (c : CoreId) (e : ElemId) (d : BitVec 5) (tag : BitVec 3) (r : Res) :
    (s.emitTo c e d tag r).slot = s.slot := by
  obtain ⟨-, -, hslot, -⟩ := s.ports_emitTo c e d tag r
  exact hslot

/-- A firing changes its own element, and beside the ports nothing else of the core (R122). -/
theorem State.inner_fireStep (s : State) (x : ElemAct) (u : OpUse) (o : OpOut) :
    ((s.fireStep x u o).core s.fire.core).inner = ((s.core s.fire.core).modElem s.fire.elem (·.after s x u o)).inner := by
  have hpop := State.inner_popElems s.fire.core s.fire.elem (popList x u o) (popList_nodup x u o) s
  obtain ⟨-, -, hslot, -⟩ := State.ports_popElems s.fire.core s.fire.elem (popList x u o) (popList_nodup x u o) s
  unfold State.fireStep
  dsimp only
  generalize (popList x u o).foldl (fun t ch => t.popElem s.fire.core s.fire.elem ch) s = a at hpop hslot ⊢
  have hacted : ∀ l f, ((a.clearSpots l).modCore s.fire.core f).slot = s.slot := fun _ _ => hslot
  rw [State.core_modCore, State.slot_emitTo, State.slot_emitTo, hacted,
    Core.inner_modElem_congr ((State.inner_emitTo ..).trans (State.inner_emitTo ..)), State.core_modCore, Core.modElem_modElem]
  refine (Core.inner_modElem_congr hpop _ _).trans ?_
  rw [Core.modElem_modElem]
  rfl

/-! Each lemma below says what a firing leaves in one part of its element. -/

theorem Elem.after_esr (a : Elem) (s : State) (x : ElemAct) (u : OpUse) (o : OpOut) :
    (a.after s x u o).esr = a.esr ||| o.flags.setWidth 32 := by
  simp [Elem.after, Elem.setFlags, Elem.steer]

theorem Elem.after_kept (a : Elem) (s : State) (x : ElemAct) (u : OpUse) (o : OpOut) :
    (a.after s x u o).firings = a.firings + 1 ∧ (a.after s x u o).k = a.k ∧ (a.after s x u o).frozen = a.frozen := by
  simp [Elem.after, Elem.setFlags, Elem.steer]

theorem Elem.after_d (a : Elem) (s : State) (x : ElemAct) (u : OpUse) (o : OpOut) (n : Fin 4) :
    (a.after s x u o).d[n] = if x.db.toNat = n.val then { data := o.rb.v.data, fmt := o.rb.v.fmt, key := o.rb.v.key }
      else if x.da.toNat = n.val then { data := o.ra.v.data, fmt := o.ra.v.fmt, key := o.ra.v.key } else a.d[n] :=
  (Elem.write_d ..).trans (by rw [Elem.write_d]; rfl)

theorem Elem.after_p (a : Elem) (s : State) (x : ElemAct) (u : OpUse) (o : OpOut) (n : Fin 2) :
    (a.after s x u o).p.getLsbD n.val = if x.db.toNat = 8 + n.val then o.rb.bit else if x.da.toNat = 8 + n.val then o.ra.bit
      else a.p.getLsbD n.val :=
  (Elem.write_p ..).trans (by rw [Elem.write_p]; rfl)

theorem Elem.after_sg (a : Elem) (s : State) (x : ElemAct) (u : OpUse) (o : OpOut) (n : Fin 4) :
    (a.after s x u o).sg[n] = match fireHead s n.val with
      | some z => if pops x u o n && z.h.tag == tSTEER then steerOf z else a.sg[n]
      | none => a.sg[n] := by
  have hsg : (a.after s x u o).sg = (a.steer (fireHead s) (popList x u o)).sg := by simp [Elem.after, Elem.setFlags]
  rw [hsg, Elem.sg_steer, steered]
  simp only [mem_popList, Bool.and_eq_true, beq_iff_eq]

/-- A firing that does not fault does to its element what the statements say (R122-R124). -/
theorem State.fired_fireStep (s : State) (x : ElemAct) (op : Nat) (o : OpOut) :
    Fired op x o s (s.fireStep ((opUse op).mask x) (opUse op) o) := by
  have hin := s.inner_fireStep ((opUse op).mask x) (opUse op) o
  have hmem : (s.fireStep ((opUse op).mask x) (opUse op) o).mem = s.mem := State.mem_fireStep ..
  obtain ⟨hcells, hout, hother⟩ := s.ports_fireStep ((opUse op).mask x) (opUse op) o
  generalize s.fireStep ((opUse op).mask x) (opUse op) o = t at hin hmem hcells hout hother
  have hthr : (t.core s.fire.core).threads = (s.core s.fire.core).threads := congrArg (fun z => z.1) hin
  have hfaults : (t.core s.fire.core).faults = (s.core s.fire.core).faults := congrArg (fun z => z.2.1) hin
  obtain ⟨hfirings, hk, hfrozen⟩ := ((s.core s.fire.core).elems[s.fire.elem]).after_kept s ((opUse op).mask x) (opUse op) o
  unfold Fired
  dsimp only
  rw [Core.elem_of_inner hin]
  exact ⟨rfl, Elem.after_esr .., hfirings, hk, hfrozen, fun n => Elem.after_d .., fun n => Elem.after_p .., fun n => hcells n.val,
    fun n => Elem.after_sg .., hout, hother, hfaults, Sys2Proof.Machine.SameMem.of_mem hmem, fun k => congrArg (·[k]) hthr,
    fun f hf => Core.elem_of_inner_ne hin hf⟩

/-- A fault of a firing freezes its element and posts one record (R127, R361). -/
theorem State.frozeElem_fireFault (s : State) (k : OpFault) : FrozeElem k.kind s (s.fireFault k) := by
  refine ⟨Sys2Proof.Machine.SameMem.of_mem (State.mem_fireFault ..),
    ⟨{ kind := k.kind, arg := BitVec.ofNat 64 ((s.core s.fire.core).entryAt s.fire.elem s.fire.entry.val) }, rfl, ?_⟩, ?_, ?_, ?_⟩
  all_goals simp only [State.fireFault, State.freezeElem, State.record, State.core_modCore, Core.modElem]
  · simp
  · exact ⟨_, rfl, rfl⟩

/-! ## An operation -/

section

variable {s : State} {x : ElemAct} {op : Nat} {f : OpIn → Except OpFault OpOut}

/-- A second operand that meets ElemOk is of the operation's format (R125). -/
theorem not_mixed_of_elemOk (h : ElemOk s x op) : ((opUse op).b && !(opUse op).rawB &&
    (match s.srcFmt? s.fire.core s.fire.elem ((opUse op).mask x).sb with
      | some g => g != (s.opIn ((opUse op).mask x) (opUse op)).f
      | none => false)) = false := by
  obtain ⟨-, -, -, -, -, hfmt⟩ := h
  cases hb : (opUse op).b
  · rfl
  · cases hr : (opUse op).rawB
    · cases hg : s.srcFmt? s.fire.core s.fire.elem ((opUse op).mask x).sb with
      | none => rfl
      | some g =>
        have heq : g = (s.opIn ((opUse op).mask x) (opUse op)).f := hfmt hb hr g hg
        simp [heq]
    · rfl

theorem State.fireOp_error (h : ElemOk s x op) {k : OpFault} (hf : f (s.opIn ((opUse op).mask x) (opUse op)) = .error k) :
    s.fireOp x op f = s.fireFault k := by
  have hmixed := not_mixed_of_elemOk h
  obtain ⟨hlegal, hact, hecc, hda, hdb, -⟩ := h
  unfold State.fireOp
  simp only [hlegal, hact, hecc, hda, hdb, hf, Bool.not_true, Bool.or_self, Bool.false_eq_true, if_false]
  exact if_neg (fun q => Bool.false_ne_true (hmixed.symm.trans (Bool.and_eq_true_iff.mp q).1))

theorem State.fireOp_ok (h : ElemOk s x op) {o : OpOut} (hf : f (s.opIn ((opUse op).mask x) (opUse op)) = .ok o) :
    s.fireOp x op f = if s.emitsReserved ((opUse op).mask x).da o.ra then s.fireFault { kind := kPORT, field := 3 }
      else if s.emitsReserved ((opUse op).mask x).db o.rb then s.fireFault { kind := kPORT, field := 4 }
      else (s.softAt (s.fireReads ((opUse op).mask x) op) (ErrCounts.countElem s.fire.core)).fireStep ((opUse op).mask x) (opUse op) o := by
  have hmixed := not_mixed_of_elemOk h
  obtain ⟨hlegal, hact, hecc, hda, hdb, -⟩ := h
  unfold State.fireOp
  simp only [hlegal, hact, hecc, hda, hdb, hf, Bool.not_true, Bool.or_self, Bool.false_eq_true, if_false]
  exact if_neg (fun q => Bool.false_ne_true (hmixed.symm.trans q))

/-- Errors that a firing corrects are no part of what it does to its element (R258). -/
theorem fired_of_softAt {o : OpOut} {t : State} {l : List Spot} {g : ErrCounts → ErrCounts} (h : Fired op x o (s.softAt l g) t) : Fired op x o s t := h

/-- An operation gives o where P holds of its operands, and FMT elsewhere. -/
def GivesIf (P : Prop) (r : Except OpFault OpOut) (o : OpOut) : Prop := (P → r = .ok o) ∧ (¬P → ∃ n, r = .error (fmtFault n))

section

variable {Q p : Prop} [Decidable p] {r : Except OpFault OpOut} {o : OpOut} {n : Nat}

theorem GivesIf.ok : GivesIf True (.ok o) o := ⟨fun _ => rfl, fun h => absurd trivial h⟩

/-- A condition that the operation asks for before it goes on. -/
theorem GivesIf.guard (hr : GivesIf Q r o) : GivesIf (p ∧ Q) (if p then r else .error (fmtFault n)) o := by
  by_cases hp : p
  · rw [if_pos hp]
    simpa only [hp, true_and] using hr
  · exact ⟨fun q => absurd q.1 hp, fun _ => ⟨n, if_neg hp⟩⟩

/-- A condition that ends the operation. -/
theorem GivesIf.unless (hr : GivesIf Q r o) : GivesIf (¬p ∧ Q) (if p then .error (fmtFault n) else r) o := by
  by_cases hp : p
  · exact ⟨fun q => absurd hp q.1, fun _ => ⟨n, if_pos hp⟩⟩
  · rw [if_neg hp]
    simpa only [hp, not_false_eq_true, true_and] using hr

/-- The operation formats that the operation takes (R125). -/
theorem GivesIf.need {i : OpIn} {okF : Fmt → Bool} (hr : GivesIf Q r o) : GivesIf (okF i.f = true ∧ Q) (i.need okF r) o := .guard hr

end

variable {j : ElemAct → Instr} {ok : OpIn → Bool} {out : OpIn → OpOut}

/-- An operation whose meaning is a firing by f completes as f gives it, and freezes its element as f and the destinations do. -/
theorem op_of_givesIf {P : OpIn → Prop} (hj : exec (j x) s = .next (s.fireOp x op f)) (hf : ∀ i, GivesIf (P i) (f i) (out i))
    (hP : ∀ i, ok i = true ↔ P i) : Op s x op j ok out := by
  intro h
  obtain ⟨hok, herr⟩ := hf (s.opIn ((opUse op).mask x) (opUse op))
  refine ⟨fun hi hp => ⟨_, hj, ?_⟩, fun hi hp => ⟨_, hj, ?_⟩, fun hi => ⟨_, hj, ?_⟩⟩
  · obtain ⟨hda, hdb⟩ := hp
    rw [State.fireOp_ok h (hok ((hP _).mp hi)), hda, hdb]
    exact fired_of_softAt (State.fired_fireStep ..)
  · rw [State.fireOp_ok h (hok ((hP _).mp hi))]
    split
    · exact s.frozeElem_fireFault { kind := kPORT, field := 3 }
    · split
      · exact s.frozeElem_fireFault { kind := kPORT, field := 4 }
      · next hda hdb => exact absurd ⟨Bool.eq_false_iff.mpr hda, Bool.eq_false_iff.mpr hdb⟩ hp
  · obtain ⟨n, hn⟩ := herr (fun q => Bool.false_ne_true (hi.symm.trans ((hP _).mpr q)))
    rw [State.fireOp_error h hn]
    exact s.frozeElem_fireFault (fmtFault n)

/-- The same of an operation that asks no more than an operation format (R125). -/
theorem op_of_need {okF : Fmt → Bool} (hj : exec (j x) s = .next (s.fireOp x op (fun i => i.need okF (.ok (out i))))) :
    Op s x op j (fun i => okF i.f) out :=
  op_of_givesIf hj (fun _ => .need .ok) (fun _ => (and_iff_left trivial).symm)

end

end Sys2Proof.Machine
end
section
/-! SUPPORT. The element's floating operations (O48). -/

namespace Sys2Proof.Machine

open Sys2Proof.Claims

section

variable {s : State} {x : ElemAct} {op : Nat} {j : ElemAct → Instr}

/-! ## The shapes of floating operations (R133) -/

/-- An operation that rounds once in every lane. -/
theorem op_floats {g : OpIn → FVal → FVal → FVal → FVal × Flags} (hj : exec (j x) s = .next (s.fireOp x op (fun i => i.flt (g i)))) :
    Op s x op j fltOk (fun i => floatOut i (g i)) :=
  op_of_need hj

/-- An operation on the lanes' codes. -/
theorem op_floatCodes {g : OpIn → Nat → Nat → Nat} (hj : exec (j x) s = .next (s.fireOp x op (fun i => i.codes isFlt (g i)))) :
    Op s x op j fltOk (fun i => lanesOut i (fun n => g i (la i n) (lb i n))) :=
  op_of_need hj

/-- A compare of the lanes' values. -/
theorem op_floatMasks {g : FVal → FVal → Bool} (hj : exec (j x) s = .next (s.fireOp x op (fun i => i.fcmp g))) :
    Op s x op j fltOk (fun i => maskOut i (fun a b => g (decodeF ((ffmt? i.f).getD fp32) a) (decodeF ((ffmt? i.f).getD fp32) b))) :=
  op_of_need hj

/-- The tree's result in every lane (R50). -/
def treeOut (i : OpIn) (g : FFmt → FVal → FVal → FVal × Flags) : OpOut :=
  let ff := (ffmt? i.f).getD fp32
  let v := treeFold (g ff) (if i.f = 1 then 6 else 7) ((List.range (laneCount i.f)).map (fun n => decodeF ff (la i n)))
  OpOut.one { data := ofLanes (laneBits i.f) (laneCount i.f) (fun _ => (encodeF ff v.1 i.rm false).1), fmt := i.f, key := i.a.key } v.2

theorem op_tree {g : OpIn → FFmt → FVal → FVal → FVal × Flags} (hj : exec (j x) s = .next (s.fireOp x op (fun i => i.tree (g i)))) :
    Op s x op j fltOk (fun i => treeOut i (g i)) :=
  op_of_need hj

end

/-! ## The operations -/

/-- Floating operations lane by lane (R133), each of one of the three shapes. -/
theorem elementFloats : ElementFloats := by
  intro s x dec
  refine ⟨op_floats rfl, op_floats rfl, op_floats rfl, op_floats rfl, op_floats rfl, op_floats rfl, op_floats rfl, ?_, ?_, ?_, ?_, ?_⟩
  · exact op_floatCodes (g := fun i a _ => a % 2 ^ (laneBits i.f - 1)) rfl
  · exact op_floatCodes (g := fun i a _ => (a + 2 ^ (laneBits i.f - 1)) % 2 ^ laneBits i.f) rfl
  · exact op_floatMasks (g := FVal.eq) rfl
  · exact op_floatMasks (g := FVal.lt) rfl
  · exact op_floatMasks (g := fun a b => a.lt b || a.eq b) rfl

/-- FSEL's lanes by the old DA's: whole bits of a BITS cell, lanes of every other format. -/
theorem fsel_res (i : OpIn) : i.res i.f (if i.f = 14 then (i.a.data &&& i.old.data) ||| (i.b.data &&& ~~~i.old.data)
      else ofLanes i.w i.n (fun n => if ld i n = 0 then lb i n else la i n), 0) =
    if i.f = 14 then OpOut.one { data := (i.a.data &&& i.old.data) ||| (i.b.data &&& ~~~i.old.data), fmt := 14, key := i.a.key }
      else lanesOut i (fun n => if ld i n = 0 then lb i n else la i n) := by
  split
  · next h => rw [OpIn.res, h]
  · rfl

/-- FSCL, the two trees and FSEL (R50, R133). -/
theorem elementFloatSpecial : ElementFloatSpecial := by
  intro s x
  refine ⟨op_of_need (okF := isFlt) rfl, op_tree (g := fun _ _ a b => (FVal.max a b, 0)) rfl, ?_, ?_⟩
  · exact op_tree (g := fun i ff a b =>
      (decodeF ff (encodeF ff (FVal.add i.rm a b).1 i.rm false).1, (FVal.add i.rm a b).2 ||| (encodeF ff (FVal.add i.rm a b).1 i.rm false).2)) rfl
  · refine op_of_givesIf (P := fun _ => True) rfl (fun i => ?_) (fun _ => iff_of_true rfl trivial)
    rw [← fsel_res]
    exact .ok

/-- Settles O48: an operation rounds in every lane, maps the lanes' codes, compares the lanes or folds them in the tree; FSCL and FSEL stand alone. -/
theorem elementFloat : Obligations.ElementFloat := ⟨elementFloats, elementFloatSpecial⟩

end Sys2Proof.Machine
end
section
/-! SUPPORT. The element's dot products, ternary packing, LNS and FX128 (O51). -/

namespace Sys2Proof.Machine

open Sys2Proof.Claims

/-! ## Products -/

/-- Saturation by cases is the sum cut to the range (R41, R42). -/
theorem fxAdd_cut (a b : Nat) : ((fxAdd a b).1, if (fxAdd a b).2 then fFXSAT else 0) =
    (wrap 128 (max fxMin (min fxMax (sext 128 a + sext 128 b))),
      if sext 128 a + sext 128 b < fxMin ∨ fxMax < sext 128 a + sext 128 b then fFXSAT else 0) := by
  have hrange : fxMin ≤ fxMax := by decide
  unfold fxAdd
  generalize sext 128 a + sext 128 b = z
  by_cases hhi : fxMax < z
  · simp [hhi, min_eq_left hhi.le, max_eq_right hrange]
  · by_cases hlo : z < fxMin
    · simp [hhi, hlo, min_eq_right (not_lt.mp hhi), max_eq_left hlo.le]
    · simp [hhi, hlo, min_eq_right (not_lt.mp hhi), max_eq_right (not_lt.mp hlo)]

/-- Settles O51: each product asks for its formats and then computes what is stated; only FX128's saturation is written in another way. -/
theorem elementProducts : Obligations.ElementProducts := by
  intro s x byteInt byte acc words
  refine ⟨?_, ?_, ?_, ?_, op_of_need (okF := isLns) rfl, op_of_need (okF := isLns) rfl, ?_⟩
  · refine op_of_givesIf rfl (fun i => .unless (.unless .ok)) (fun i => ?_)
    change (isByteInt i.a.fmt && isByteInt i.b.fmt) = true ↔ _
    simp
  · refine op_of_givesIf rfl (fun i => .unless (.unless .ok)) (fun i => ?_)
    change (i.a.fmt == 6 && isByteInt i.b.fmt) = true ↔ _
    simp
  · refine op_of_givesIf rfl (fun i => .need (.unless (.unless .ok))) (fun i => ?_)
    change (i.f == 10 && decide (i.scalB % 8 ≤ 4) && !(i.ill3e && illegalIn i.a.data.toNat (256 * (i.scalB % 8)) 256)) = true ↔ _
    simp [and_assoc, imp_iff_not_or, or_comm]
  · exact op_of_givesIf rfl (fun i => .need (.unless .ok)) (fun i => by simp)
  · refine op_of_givesIf rfl (fun i => .need (Q := True) ?_) (fun i => by simp)
    simp only [fxAdd_cut]
    exact .ok

end Sys2Proof.Machine
end
section
/-! SUPPORT. The element's conversions (O52). -/

namespace Sys2Proof.Machine

open Sys2Proof.Claims

/-! ## The part rule (R135) -/

/-- The part that SB names exists: no more parts than the lane counts of source and target differ by. -/
def OpIn.partFits (i : OpIn) (t : Fmt) : Bool :=
  decide (i.scalB / 16 % 16 < max (laneCount t / laneCount i.f) (laneCount i.f / laneCount t))

/-- The cell of a conversion into format t, g on each lane of the part; an old DA of that format keeps the lanes of the other parts. -/
def OpIn.partOut (i : OpIn) (t : Fmt) (g : Nat → Nat × Flags) : OpOut :=
  let part := i.scalB / 16 % 16
  let ns := laneCount i.f
  let nd := laneCount t
  let keep := if i.oldD && i.old.fmt == t then i.old.data.toNat else 0
  let r := lanesF (laneBits t) nd (fun n =>
    if ns ≤ nd then (if part * ns ≤ n ∧ n < part * ns + ns then g (la i (n - part * ns)) else (lane (laneBits t) n keep, 0))
    else g (la i (part * nd + n)))
  OpOut.one { data := r.1, fmt := t, key := i.a.key } r.2

/-- A conversion by the part rule: to more lanes and to fewer, or FMT where there is no such part. -/
theorem GivesIf.parts (i : OpIn) (t : Fmt) (g : Nat → Nat × Flags) : GivesIf (i.partFits t = true) (i.parts t g) (i.partOut t g) := by
  have h : i.parts t g = if max (laneCount t / laneCount i.f) (laneCount i.f / laneCount t) ≤ i.scalB / 16 % 16 then .error (fmtFault 6)
      else .ok (i.partOut t g) := by
    by_cases hn : laneCount i.f ≤ laneCount t
    · simp only [OpIn.parts, OpIn.partOut, OpIn.n, hn, if_true]
      rfl
    · simp only [OpIn.parts, OpIn.partOut, OpIn.n, hn, if_false]
      rfl
  have hfit : i.partFits t = true ↔ ¬max (laneCount t / laneCount i.f) (laneCount i.f / laneCount t) ≤ i.scalB / 16 % 16 ∧ True := by
    rw [and_true, not_le]
    exact decide_eq_true_iff
  rw [h, hfit]
  exact .unless .ok

/-! ## The conversions -/

/-- Settles O52: each conversion asks for its formats, and CVT, DQNT and FXCVT then follow the part rule, each with its own lane. -/
theorem elementConvert : Obligations.ElementConvert := by
  intro s x target part fits conv
  refine ⟨?_, ?_, ?_, ?_⟩
  · refine op_of_givesIf rfl (fun i => .need (.guard (.parts i i.target (i.cvtLane i.target)))) (fun i => ?_)
    change (isCvtF i.f && isCvtF i.target && i.partFits i.target) = true ↔ _
    simp [and_assoc]
  · refine op_of_givesIf rfl (fun i => .need (.guard (.parts i i.target (i.dqntLane i.target)))) (fun i => ?_)
    change ((i.f == 4 || i.f == 5 || i.f == 12 || i.f == 13) && isFlt i.target && i.partFits i.target) = true ↔ _
    simp [and_assoc, or_assoc, isScaledF]
  · refine op_of_givesIf rfl (fun i => .need (.guard (.parts i i.target _))) (fun i => ?_)
    change (((i.f == 11 && isFxPeer i.target) || (isFxPeer i.f && i.target == 11)) && i.partFits i.target) = true ↔ _
    simp only [Bool.and_eq_true, Bool.or_eq_true, beq_iff_eq]
    tauto
  · refine op_of_givesIf rfl (fun i => .need (.unless .ok)) (fun i => ?_)
    change (isFlt i.f && !(i.fb.isNone && i.selB != 13)) = true ↔ _
    rw [Bool.and_eq_true, Bool.not_eq_true', and_true, Bool.not_eq_true]

end Sys2Proof.Machine
end
section
/-! SUPPORT. Every floating code that is no NaN encodes back to itself (O49): a code is its sign bit, its exponent field and its fraction field. -/

namespace Sys2Proof.Machine

/-! ## The fields of a code (R31) -/

section

variable {f : FFmt} {s : Bool} {rm fe fr : Nat}

/-- An integer is its own rounding. -/
theorem roundMag_zero (m : Nat) : roundMag rm s m 0 = m := by simp [roundMag]

theorem encodeF_zero (e : Int) : encodeF f (.fin s 0 e) rm false = (signBit f s, 0) := rfl

theorem encodeF_inf (h : f.ieee = true) : encodeF f (.inf s) rm false = (infCode f s, 0) := by simp [encodeF, h]

/-- A denormal's fraction encodes to itself. -/
theorem encodeF_denormal (h0 : fr ≠ 0) (hfr : fr < 2 ^ f.mb) : encodeF f (.fin s fr (f.emin - f.mb)) rm false = (signBit f s + fr, 0) := by
  have hlog : fr.log2 < f.mb := (Nat.log2_lt h0).mpr hfr
  have hmax : max (floorLog2 fr (f.emin - f.mb)) f.emin = f.emin := max_eq_right (by unfold floorLog2; omega)
  simp only [encodeF, hmax, sub_self, roundMag_zero, le_refl, if_true, beq_iff_eq, h0, if_false, hfr]
  rfl

/-- A significand with its leading bit encodes to the exponent field and the fraction, in a format that has that exponent. -/
theorem encodeF_normal (h1 : 1 ≤ fe) (hfe : fe < 2 ^ f.eb) (hfr : fr < 2 ^ f.mb) (hinf : ¬(f.ieee = true ∧ fe = 2 ^ f.eb - 1))
    (hnan : ¬(f.ieee = false ∧ fe = 2 ^ f.eb - 1 ∧ fr = 2 ^ f.mb - 1)) :
    encodeF f (.fin s (2 ^ f.mb + fr) ((fe : Int) - f.bias - f.mb)) rm false = (signBit f s + fe * 2 ^ f.mb + fr, 0) := by
  have hm : 2 ^ f.mb + fr ≠ 0 := by have := Nat.two_pow_pos f.mb; omega
  have hlog : (2 ^ f.mb + fr).log2 = f.mb := (Nat.log2_eq_iff hm).mpr ⟨by omega, by rw [pow_succ]; omega⟩
  have hfloor : floorLog2 (2 ^ f.mb + fr) ((fe : Int) - f.bias - f.mb) = (fe : Int) - f.bias := by unfold floorLog2; rw [hlog]; omega
  have hmax : max ((fe : Int) - f.bias) f.emin = (fe : Int) - f.bias := max_eq_left (by unfold FFmt.emin; omega)
  have hlt : ¬2 ^ f.mb + fr < 2 ^ f.mb := by omega
  have htop : ¬2 ^ f.mb + fr = 2 ^ (f.mb + 1) := by rw [pow_succ]; omega
  have hfield : ((fe : Int) - f.bias + f.bias).toNat = fe := by omega
  have hover : ((f.ieee && decide (fe ≥ 2 ^ f.eb - 1)) ||
      (!f.ieee && (decide (fe ≥ 2 ^ f.eb) || (fe == 2 ^ f.eb - 1 && fr == 2 ^ f.mb - 1)))) = false := by
    cases hi : f.ieee
    · have : ¬2 ^ f.eb ≤ fe := not_le.mpr hfe
      simpa [hi, this] using hnan
    · have hne : fe ≠ 2 ^ f.eb - 1 := fun q => hinf ⟨hi, q⟩
      have : ¬2 ^ f.eb - 1 ≤ fe := by omega
      simp [this]
  simp only [encodeF, hfloor, hmax, sub_self, roundMag_zero, le_refl, if_true, beq_iff_eq, hm, if_false, hlt, htop, hfield, Nat.add_sub_cancel_left]
  rw [hover]
  rfl

/-- A code is its sign bit, its exponent field and its fraction field. -/
theorem code_eq_fields {c : Nat} (hc : c < 2 ^ f.width) :
    signBit f (c / 2 ^ (f.eb + f.mb) % 2 == 1) + c / 2 ^ f.mb % 2 ^ f.eb * 2 ^ f.mb + c % 2 ^ f.mb = c := by
  have hquot : c / 2 ^ f.mb / 2 ^ f.eb = c / 2 ^ (f.eb + f.mb) := by rw [Nat.div_div_eq_div_mul, ← pow_add, add_comm]
  have hsign : signBit f (c / 2 ^ (f.eb + f.mb) % 2 == 1) = c / 2 ^ (f.eb + f.mb) * 2 ^ (f.eb + f.mb) := by
    have hlt : c / 2 ^ (f.eb + f.mb) < 2 := Nat.div_lt_of_lt_mul (by rwa [FFmt.width, pow_succ] at hc)
    interval_cases c / 2 ^ (f.eb + f.mb) <;> simp [signBit]
  calc signBit f (c / 2 ^ (f.eb + f.mb) % 2 == 1) + c / 2 ^ f.mb % 2 ^ f.eb * 2 ^ f.mb + c % 2 ^ f.mb
      = (2 ^ f.eb * (c / 2 ^ f.mb / 2 ^ f.eb) + c / 2 ^ f.mb % 2 ^ f.eb) * 2 ^ f.mb + c % 2 ^ f.mb := by rw [hsign, hquot]; ring
    _ = c := by rw [Nat.div_add_mod, Nat.div_add_mod']

/-- A code that is no NaN is that of its value, whatever the format's sizes. -/
theorem encodeF_decodeF {c : Nat} (hc : c < 2 ^ f.width) (hn : decodeF f c ≠ .nan) : encodeF f (decodeF f c) rm false = (c, 0) := by
  have hfields := code_eq_fields hc
  have hex : c / 2 ^ f.mb % 2 ^ f.eb < 2 ^ f.eb := Nat.mod_lt _ (Nat.two_pow_pos _)
  have hfr : c % 2 ^ f.mb < 2 ^ f.mb := Nat.mod_lt _ (Nat.two_pow_pos _)
  revert hn
  unfold decodeF
  dsimp only
  generalize (c / 2 ^ (f.eb + f.mb) % 2 == 1) = s at hfields
  generalize c / 2 ^ f.mb % 2 ^ f.eb = ex at hfields hex
  generalize c % 2 ^ f.mb = fr at hfields hfr
  split
  · next htop =>
    obtain ⟨hieee, hexp⟩ := Bool.and_eq_true_iff.mp htop
    split
    · next h0 =>
      intro _
      rw [encodeF_inf hieee, infCode, ← eq_of_beq hexp, ← hfields, eq_of_beq h0, add_zero]
    · exact fun hn => absurd rfl hn
  · next htop =>
    split
    · exact fun hn => absurd rfl hn
    · next hnan =>
      intro _
      split
      · next hzero =>
        rw [eq_of_beq hzero, zero_mul, add_zero] at hfields
        by_cases h0 : fr = 0
        · rw [h0, encodeF_zero, ← hfields, h0, add_zero]
        · rw [encodeF_denormal h0 hfr, hfields]
      · next hpos =>
        rw [encodeF_normal (by simpa [Nat.one_le_iff_ne_zero] using hpos) hex hfr (by simpa using htop) (by simpa using hnan), hfields]

end

/-- Settles O49, for a binary format of any sizes. -/
theorem floatCodesExact : Obligations.FloatCodesExact := fun _ _ _ _ _ hc hn => encodeF_decodeF hc hn

end Sys2Proof.Machine
end
section
/-! SUPPORT. Sequencer words (O1, O3): the bits and fields of a number, and the word of an instruction as its code with the operands added. -/

namespace Sys2Proof

/-! ## Bits and fields of a number -/

theorem fld_eq {n w hi lo : Nat} {v : BitVec n} (h : bits w hi lo = v.toNat) : fld w hi lo = v := by
  rw [fld, h, BitVec.ofNat_toNat, BitVec.setWidth_eq]

theorem toNat_fld {w hi lo n : Nat} (h : n = hi - lo + 1) : (fld w hi lo : BitVec n).toNat = bits w hi lo := by
  subst h
  rw [fld, BitVec.toNat_ofNat, bits, Nat.mod_mod]

section

variable {x v n lo hi k : Nat}

/-- An operand v at bit lo of x, where x has bits lo + n - 1 to lo empty, changes nothing above it. -/
theorem add_operand_div (hv : v < 2 ^ n) (h0 : x / 2 ^ lo % 2 ^ n = 0) (hk : lo + n ≤ k) : (x + v * 2 ^ lo) / 2 ^ k = x / 2 ^ k := by
  obtain ⟨m, rfl⟩ := Nat.exists_eq_add_of_le hk
  have hx := Nat.div_add_mod (x / 2 ^ lo) (2 ^ n)
  rw [h0, add_zero] at hx
  rw [pow_add, pow_add, ← Nat.div_div_eq_div_mul, ← Nat.div_div_eq_div_mul, ← Nat.div_div_eq_div_mul, ← Nat.div_div_eq_div_mul,
    Nat.add_mul_div_right _ _ (Nat.two_pow_pos _), ← hx, Nat.mul_add_div (Nat.two_pow_pos _), Nat.div_eq_of_lt hv, add_zero,
    Nat.mul_div_cancel_left _ (Nat.two_pow_pos _)]

/-- It changes nothing below it. -/
theorem bits_add_operand_below (hlo : k ≤ hi) (hhi : hi < lo) : bits (x + v * 2 ^ lo) hi k = bits x hi k := by
  have hsplit : v * 2 ^ lo = 2 ^ k * (2 ^ (hi - k + 1) * (2 ^ (lo - hi - 1) * v)) := by
    rw [show lo = k + ((hi - k + 1) + (lo - hi - 1)) by omega, pow_add, pow_add]
    have hsub : k + (hi - k + 1 + (lo - hi - 1)) - hi - 1 = lo - hi - 1 := by omega
    rw [hsub]
    ring
  rw [bits, hsplit, Nat.add_mul_div_left _ _ (Nat.two_pow_pos _), Nat.add_mul_mod_self_left, bits]

/-- Its place then holds it. -/
theorem bits_add_operand_same (hv : v < 2 ^ (hi - lo + 1)) (h0 : bits x hi lo = 0) : bits (x + v * 2 ^ lo) hi lo = v := by
  rw [bits, Nat.add_mul_div_right _ _ (Nat.two_pow_pos _), Nat.add_mod, ← bits, h0, zero_add, Nat.mod_mod, Nat.mod_eq_of_lt hv]

end

/-! ## Operands in their places -/

/-- Two places, each given by its highest and its lowest bit, have no bit in common. -/
abbrev Apart (p q : Nat × Nat) : Prop := p.1 < q.2 ∨ q.1 < p.2

/-- The number c with each operand of the second list added at its place in the first. -/
def withOperands (c : Nat) : List (Nat × Nat) → List (Σ n, BitVec n) → Nat
  | (_, lo) :: ps, ⟨_, v⟩ :: vs => withOperands (c + v.toNat * 2 ^ lo) ps vs
  | _, _ => c

/-- The fields of w at the places of the first list are the operands of the second. -/
def Reads (w : Nat) : List (Nat × Nat) → List (Σ n, BitVec n) → Prop
  | (hi, lo) :: ps, ⟨_, v⟩ :: vs => fld w hi lo = v ∧ Reads w ps vs
  | _, _ => True

theorem bits_add_operand {c hi lo : Nat} {q : Nat × Nat} {v : BitVec (hi - lo + 1)} (hle : lo ≤ hi) (h0 : bits c hi lo = 0) (hq : q.2 ≤ q.1)
    (hp : Apart (hi, lo) q) : bits (c + v.toNat * 2 ^ lo) q.1 q.2 = bits c q.1 q.2 := by
  obtain hlt | hlt := hp
  · rw [bits, add_operand_div v.isLt h0 (by omega), bits]
  · exact bits_add_operand_below hq hlt

/-- Operands in places that are empty in c and apart from each other are read there, and every other place reads as c's. -/
theorem withOperands_reads {c : Nat} {ps : List (Nat × Nat)} {vs : List (Σ n, BitVec n)} (h0 : ∀ p ∈ ps, p.2 ≤ p.1 ∧ bits c p.1 p.2 = 0)
    (hps : ps.Pairwise Apart) (hn : vs.map Sigma.fst = ps.map (fun p => p.1 - p.2 + 1)) :
    Reads (withOperands c ps vs) ps vs ∧
      (∀ q : Nat × Nat, q.2 ≤ q.1 → (∀ p ∈ ps, Apart p q) → bits (withOperands c ps vs) q.1 q.2 = bits c q.1 q.2) ∧
      ∀ k, (∀ p ∈ ps, p.1 < k) → withOperands c ps vs / 2 ^ k = c / 2 ^ k := by
  induction ps generalizing c vs with
  | nil => exact ⟨by cases vs <;> trivial, fun _ _ _ => by cases vs <;> rfl, fun _ _ => by cases vs <;> rfl⟩
  | cons p ps ih =>
    obtain ⟨hi, lo⟩ := p
    cases vs with
    | nil => nomatch hn
    | cons o vs =>
      obtain ⟨n, v⟩ := o
      obtain ⟨hn1, hnt⟩ := List.cons.inj hn
      change n = hi - lo + 1 at hn1
      subst hn1
      obtain ⟨hp, hps⟩ := List.pairwise_cons.mp hps
      obtain ⟨hle, hz⟩ := h0 (hi, lo) List.mem_cons_self
      have htail : ∀ q ∈ ps, q.2 ≤ q.1 ∧ bits (c + v.toNat * 2 ^ lo) q.1 q.2 = 0 := fun q hq => by
        obtain ⟨hq1, hq2⟩ := h0 q (List.mem_cons_of_mem _ hq)
        exact ⟨hq1, (bits_add_operand hle hz hq1 (hp q hq)).trans hq2⟩
      obtain ⟨hreads, hcode, hdiv⟩ := ih htail hps hnt
      refine ⟨⟨fld_eq ?_, hreads⟩, fun q hq hap => ?_, fun k hk => ?_⟩
      · exact (hcode (hi, lo) hle (fun q hq => (hp q hq).symm)).trans (bits_add_operand_same v.isLt hz)
      · exact (hcode q hq (fun r hr => hap r (List.mem_cons_of_mem _ hr))).trans (bits_add_operand hle hz hq (hap _ List.mem_cons_self))
      · have hhi : hi < k := hk _ List.mem_cons_self
        exact (hdiv k (fun r hr => hk r (List.mem_cons_of_mem _ hr))).trans (add_operand_div v.isLt hz (by omega))

/-- A word that is a code with operands in empty places: the operands are read back, and every other place reads as the code's. -/
theorem word_reads {c w : Nat} (ps : List (Nat × Nat)) (vs : List (Σ n, BitVec n)) (he : some (withOperands c ps vs) = some w)
    (h0 : c / 2 ^ 32 = 0 ∧ (∀ p ∈ ps, p.2 ≤ p.1 ∧ bits c p.1 p.2 = 0) ∧ (∀ p ∈ ps, p.1 < 32) ∧ ps.Pairwise Apart := by decide)
    (hn : vs.map Sigma.fst = ps.map (fun p => p.1 - p.2 + 1) := by rfl) :
    w < 2 ^ 32 ∧ Reads w ps vs ∧ ∀ hi lo, (_ : lo ≤ hi ∧ ∀ p ∈ ps, Apart p (hi, lo) := by decide) → bits w hi lo = bits c hi lo := by
  obtain ⟨hlt, hempty, h32, hps⟩ := h0
  obtain ⟨hreads, hcode, hdiv⟩ := withOperands_reads hempty hps hn
  rw [← Option.some.inj he]
  exact ⟨Nat.lt_of_div_eq_zero (Nat.two_pow_pos _) ((hdiv 32 h32).trans hlt), hreads, fun hi lo h => hcode (hi, lo) h.1 h.2⟩

/-! ## The majors (R58) -/

section

variable {w : Nat}

theorem decodeWord_sys (h : bits w 31 26 = 0) : decodeWord w = decodeSys w := by rw [decodeWord, h]; rfl
theorem decodeWord_alu (h : bits w 31 26 = 1) : decodeWord w = decodeAlu w := by rw [decodeWord, h]; rfl
theorem decodeWord_cmp (h : bits w 31 26 = 2) : decodeWord w = decodeCmp w := by rw [decodeWord, h]; rfl
theorem decodeWord_pred (h : bits w 31 26 = 3) : decodeWord w = decodePred w := by rw [decodeWord, h]; rfl
theorem decodeWord_cmpi (h : bits w 31 26 = 14) : decodeWord w = decodeCmpi w := by rw [decodeWord, h]; rfl
theorem decodeWord_jreg (h : bits w 31 26 = 19) : decodeWord w = decodeJreg w := by rw [decodeWord, h]; rfl
theorem decodeWord_amo (h : bits w 31 26 = 38) : decodeWord w = decodeAmo w := by rw [decodeWord, h]; rfl
theorem decodeWord_pref (h : bits w 31 26 = 39) : decodeWord w = decodePref w := by rw [decodeWord, h]; rfl
theorem decodeWord_thr (h : bits w 31 26 = 40) : decodeWord w = decodeThr w := by rw [decodeWord, h]; rfl
theorem decodeWord_tags (h : bits w 31 26 = 41) : decodeWord w = decodeTags w := by rw [decodeWord, h]; rfl
theorem decodeWord_aps (h : bits w 31 26 = 42) : decodeWord w = decodeAps w := by rw [decodeWord, h]; rfl
theorem decodeWord_dbg (h : bits w 31 26 = 56) : decodeWord w = decodeDbg w := by rw [decodeWord, h]; rfl
theorem decodeWord_strm (h : bits w 31 26 = 48) : decodeWord w = decodeStrm w := by rw [decodeWord, h]; rfl
theorem decodeWord_mx (h : bits w 31 26 = 49) : decodeWord w = decodeMx w := by rw [decodeWord, h]; rfl
theorem decodeWord_rb (h : bits w 31 26 = 50) : decodeWord w = decodeRb w := by rw [decodeWord, h]; rfl
theorem decodeWord_ox (h : bits w 31 26 = 51) : decodeWord w = decodeOx w := by rw [decodeWord, h]; rfl
theorem decodeWord_rte (h : bits w 31 26 = 52) : decodeWord w = decodeRte w := by rw [decodeWord, h]; rfl

end

/-! ## From the instruction to its word and back -/

/-- The word of an instruction is its code plus its operands (encode), so the checks of its row hold and each field is the operand. -/
theorem decodeWord_encode {i : Instr} {w : Nat} (hi : WellFormed i = true) (he : encode i = some w) : w < 2 ^ 32 ∧ decodeWord w = .ok i := by
  cases i with
  | nop | eret | wfe | fenceT | fenceC | fenceL | fenceD | fenceP | fenceS | ret | yield | exit =>
    cases Option.some.inj he
    exact ⟨by decide, rfl⟩
  | trap i =>
    obtain ⟨hw, ⟨hi, -⟩, hcode⟩ := word_reads [(20, 11)] [⟨10, i⟩] he
    refine ⟨hw, ?_⟩
    rw [decodeWord_sys (hcode 31 26), decodeSys, hcode 10 5, hi]
    exact if_pos ⟨hcode 4 0, hcode 25 21⟩
  | mfs d s =>
    obtain ⟨hw, ⟨hd, hs, -⟩, hcode⟩ := word_reads [(25, 21), (15, 11)] [⟨5, d⟩, ⟨5, s⟩] he
    refine ⟨hw, ?_⟩
    rw [decodeWord_sys (hcode 31 26), decodeSys, hcode 10 5, hd, hs]
    exact (if_pos ⟨hcode 4 0, hcode 20 16⟩).trans (if_pos hi)
  | mts a s =>
    obtain ⟨hw, ⟨ha, hs, -⟩, hcode⟩ := word_reads [(20, 16), (15, 11)] [⟨5, a⟩, ⟨5, s⟩] he
    obtain ⟨hlisted, hown⟩ := Bool.and_eq_true_iff.mp hi
    have hrow : s.toNat ≠ 7 ∧ s.toNat ≠ 16 ∧ s.toNat ≠ 18 ∧ s.toNat ≠ 19 := by simpa [sregOwnRow, and_assoc] using hown
    obtain ⟨h7, h16, h18, h19⟩ := hrow
    have hsr : bits w 15 11 = s.toNat := (toNat_fld rfl).symm.trans (congrArg BitVec.toNat hs)
    refine ⟨hw, ?_⟩
    rw [decodeWord_sys (hcode 31 26), decodeSys, hcode 10 5, hsr, ha, hs]
    exact (if_neg (fun ⟨_, h, _⟩ => h7 h)).trans ((if_neg (fun ⟨_, h, _⟩ => h16 h)).trans ((if_neg (fun ⟨_, h, _⟩ => h18 h)).trans
      ((if_neg (fun ⟨_, h, _⟩ => h19 h)).trans ((if_pos ⟨hcode 4 0, hcode 25 21⟩).trans (if_pos hlisted)))))
  | mtsTime a =>
    obtain ⟨hw, ⟨ha, -⟩, hcode⟩ := word_reads [(20, 16)] [⟨5, a⟩] he
    refine ⟨hw, ?_⟩
    rw [decodeWord_sys (hcode 31 26), decodeSys, hcode 10 5, ha]
    exact if_pos ⟨hcode 4 0, hcode 15 11, hcode 25 21⟩
  | mtsAgelim a =>
    obtain ⟨hw, ⟨ha, -⟩, hcode⟩ := word_reads [(20, 16)] [⟨5, a⟩] he
    refine ⟨hw, ?_⟩
    rw [decodeWord_sys (hcode 31 26), decodeSys, hcode 10 5, hcode 15 11, ha]
    exact (if_neg (fun ⟨_, h, _⟩ => absurd h (by decide))).trans (if_pos ⟨hcode 4 0, rfl, hcode 25 21⟩)
  | mtsSpill a =>
    obtain ⟨hw, ⟨ha, -⟩, hcode⟩ := word_reads [(20, 16)] [⟨5, a⟩] he
    refine ⟨hw, ?_⟩
    rw [decodeWord_sys (hcode 31 26), decodeSys, hcode 10 5, hcode 15 11, ha]
    exact (if_neg (fun ⟨_, h, _⟩ => absurd h (by decide))).trans ((if_neg (fun ⟨_, h, _⟩ => absurd h (by decide))).trans
      (if_pos ⟨hcode 4 0, rfl, hcode 25 21⟩))
  | mtsWdog a =>
    obtain ⟨hw, ⟨ha, -⟩, hcode⟩ := word_reads [(20, 16)] [⟨5, a⟩] he
    refine ⟨hw, ?_⟩
    rw [decodeWord_sys (hcode 31 26), decodeSys, hcode 10 5, hcode 15 11, ha]
    exact (if_neg (fun ⟨_, h, _⟩ => absurd h (by decide))).trans ((if_neg (fun ⟨_, h, _⟩ => absurd h (by decide))).trans
      ((if_neg (fun ⟨_, h, _⟩ => absurd h (by decide))).trans (if_pos ⟨hcode 4 0, rfl, hcode 25 21⟩)))
  | tlbinv d a b =>
    obtain ⟨hw, ⟨hd, ha, hb, -⟩, hcode⟩ := word_reads [(25, 21), (20, 16), (15, 11)] [⟨5, d⟩, ⟨5, a⟩, ⟨5, b⟩] he
    refine ⟨hw, ?_⟩
    rw [decodeWord_sys (hcode 31 26), decodeSys, hcode 10 5, hd, ha, hb]
    exact if_pos (hcode 4 0)
  | resume a | kill a =>
    obtain ⟨hw, ⟨ha, -⟩, hcode⟩ := word_reads [(20, 16)] [⟨5, a⟩] he
    refine ⟨hw, ?_⟩
    rw [decodeWord_sys (hcode 31 26), decodeSys, hcode 10 5, ha]
    exact if_pos ⟨hcode 4 0, hcode 15 11, hcode 25 21⟩
  | add d a b | sub d a b | mul d a b | mulh d a b | mulhu d a b | div d a b | divu d a b | rem d a b | remu d a b | and_ d a b | or_ d a b
  | xor_ d a b | andn d a b | shl d a b | shr d a b | sar d a b | min d a b | max d a b | minu d a b | maxu d a b =>
    obtain ⟨hw, ⟨hd, ha, hb, -⟩, hcode⟩ := word_reads [(25, 21), (20, 16), (15, 11)] [⟨5, d⟩, ⟨5, a⟩, ⟨5, b⟩] he
    refine ⟨hw, ?_⟩
    rw [decodeWord_alu (hcode 31 26), decodeAlu, hcode 10 5, hd, ha, hb]
    exact if_pos (hcode 4 0)
  | shli d a n h | shri d a n h | sari d a n h =>
    obtain ⟨hw, ⟨hd, ha, hn, hh, -⟩, hcode⟩ := word_reads [(25, 21), (20, 16), (15, 11), (0, 0)] [⟨5, d⟩, ⟨5, a⟩, ⟨5, n⟩, ⟨1, h⟩] he
    refine ⟨hw, ?_⟩
    rw [decodeWord_alu (hcode 31 26), decodeAlu, hcode 10 5, hd, ha, hn, hh]
    exact if_pos (hcode 4 1)
  | clz d a | ctz d a | popc d a | sextb d a | sexth d a | sextw d a | zextw d a =>
    obtain ⟨hw, ⟨hd, ha, -⟩, hcode⟩ := word_reads [(25, 21), (20, 16)] [⟨5, d⟩, ⟨5, a⟩] he
    refine ⟨hw, ?_⟩
    rw [decodeWord_alu (hcode 31 26), decodeAlu, hcode 10 5, hd, ha]
    exact if_pos ⟨hcode 4 0, hcode 15 11⟩
  | ceq d a b | cne d a b | clt d a b | cltu d a b | cle d a b | cleu d a b =>
    obtain ⟨hw, ⟨hd, ha, hb, -⟩, hcode⟩ := word_reads [(23, 21), (20, 16), (15, 11)] [⟨3, d⟩, ⟨5, a⟩, ⟨5, b⟩] he
    refine ⟨hw, ?_⟩
    rw [decodeWord_cmp (hcode 31 26), decodeCmp, hcode 10 5, hd, ha, hb]
    exact if_pos ⟨hcode 4 0, hcode 25 24⟩
  | pand d a b | por d a b | pxor d a b | pandn d a b =>
    obtain ⟨hw, ⟨hd, ha, hb, -⟩, hcode⟩ := word_reads [(23, 21), (18, 16), (13, 11)] [⟨3, d⟩, ⟨3, a⟩, ⟨3, b⟩] he
    refine ⟨hw, ?_⟩
    rw [decodeWord_pred (hcode 31 26), decodePred, hcode 10 5, hd, ha, hb]
    exact if_pos ⟨hcode 4 0, hcode 15 14, hcode 20 19, hcode 25 24⟩
  | pnot d a =>
    obtain ⟨hw, ⟨hd, ha, -⟩, hcode⟩ := word_reads [(23, 21), (18, 16)] [⟨3, d⟩, ⟨3, a⟩] he
    refine ⟨hw, ?_⟩
    rw [decodeWord_pred (hcode 31 26), decodePred, hcode 10 5, hd, ha]
    exact if_pos ⟨hcode 4 0, hcode 15 11, hcode 20 19, hcode 25 24⟩
  | pset d v =>
    obtain ⟨hw, ⟨hd, hv, -⟩, hcode⟩ := word_reads [(23, 21), (0, 0)] [⟨3, d⟩, ⟨1, v⟩] he
    refine ⟨hw, ?_⟩
    rw [decodeWord_pred (hcode 31 26), decodePred, hcode 10 5, hd, hv]
    exact if_pos ⟨hcode 4 1, hcode 20 11, hcode 25 24⟩
  | sel d a b p =>
    obtain ⟨hw, ⟨hd, ha, hb, hp, -⟩, hcode⟩ := word_reads [(25, 21), (20, 16), (15, 11), (2, 0)] [⟨5, d⟩, ⟨5, a⟩, ⟨5, b⟩, ⟨3, p⟩] he
    refine ⟨hw, ?_⟩
    rw [decodeWord_pred (hcode 31 26), decodePred, hcode 10 5, hd, ha, hb, hp]
    exact if_pos (hcode 4 3)
  | pmovg d a =>
    obtain ⟨hw, ⟨hd, ha, -⟩, hcode⟩ := word_reads [(23, 21), (20, 16)] [⟨3, d⟩, ⟨5, a⟩] he
    refine ⟨hw, ?_⟩
    rw [decodeWord_pred (hcode 31 26), decodePred, hcode 10 5, hd, ha]
    exact if_pos ⟨hcode 4 0, hcode 15 11, hcode 25 24⟩
  | gmovp d a =>
    obtain ⟨hw, ⟨hd, ha, -⟩, hcode⟩ := word_reads [(25, 21), (18, 16)] [⟨5, d⟩, ⟨3, a⟩] he
    refine ⟨hw, ?_⟩
    rw [decodeWord_pred (hcode 31 26), decodePred, hcode 10 5, hd, ha]
    exact if_pos ⟨hcode 4 0, hcode 15 11, hcode 20 19⟩
  | addi d a i | andi d a i | ori d a i | xori d a i | ldb d a i | ldh d a i | ldw d a i | ldd d a i | ldbu d a i | ldhu d a i | ldwu d a i
  | stb d a i | sth d a i | stw d a i | std d a i | ldp d a i | stp d a i =>
    obtain ⟨hw, ⟨hd, ha, hi, -⟩, hcode⟩ := word_reads [(25, 21), (20, 16), (15, 0)] [⟨5, d⟩, ⟨5, a⟩, ⟨16, i⟩] he
    refine ⟨hw, ?_⟩
    rw [decodeWord, hcode 31 26, hd, ha, hi]
    rfl
  | li d i | lih d i =>
    obtain ⟨hw, ⟨hd, hi, -⟩, hcode⟩ := word_reads [(25, 21), (15, 0)] [⟨5, d⟩, ⟨16, i⟩] he
    refine ⟨hw, ?_⟩
    rw [decodeWord, hcode 31 26, hd, hi]
    exact if_pos (hcode 20 16)
  | cmpiEq p a i | cmpiNe p a i | cmpiLt p a i | cmpiLtu p a i =>
    obtain ⟨hw, ⟨hp, ha, hi, -⟩, hcode⟩ := word_reads [(25, 23), (20, 16), (15, 0)] [⟨3, p⟩, ⟨5, a⟩, ⟨16, i⟩] he
    refine ⟨hw, ?_⟩
    rw [decodeWord_cmpi (hcode 31 26), decodeCmpi, hcode 22 21, hp, ha, hi]
    rfl
  | br p s o =>
    obtain ⟨hw, ⟨hp, hs, ho, -⟩, hcode⟩ := word_reads [(25, 23), (22, 22), (21, 0)] [⟨3, p⟩, ⟨1, s⟩, ⟨22, o⟩] he
    refine ⟨hw, ?_⟩
    rw [decodeWord, hcode 31 26, hp, hs, ho]
    rfl
  | jmp o | call o =>
    obtain ⟨hw, ⟨ho, -⟩, hcode⟩ := word_reads [(25, 0)] [⟨26, o⟩] he
    refine ⟨hw, ?_⟩
    rw [decodeWord, hcode 31 26, ho]
    rfl
  | jr a | callr a =>
    obtain ⟨hw, ⟨ha, -⟩, hcode⟩ := word_reads [(20, 16)] [⟨5, a⟩] he
    refine ⟨hw, ?_⟩
    rw [decodeWord_jreg (hcode 31 26), decodeJreg, hcode 10 5, ha]
    exact if_pos ⟨hcode 4 0, hcode 15 11, hcode 25 21⟩
  | aadd d a b s v | aand d a b s v | aor d a b s v | axor d a b s v | amin d a b s v | amax d a b s v | aminu d a b s v | amaxu d a b s v
  | axchg d a b s v | acas d a b s v =>
    obtain ⟨hw, ⟨hd, ha, hb, hs, hv, -⟩, hcode⟩ := word_reads [(25, 21), (20, 16), (15, 11), (1, 1), (0, 0)] [⟨5, d⟩, ⟨5, a⟩, ⟨5, b⟩, ⟨1, s⟩, ⟨1, v⟩] he
    refine ⟨hw, ?_⟩
    rw [decodeWord_amo (hcode 31 26), decodeAmo, hcode 10 5, hd, ha, hb, hs, hv]
    exact if_pos (hcode 4 2)
  | fxaddAmo d a b s =>
    obtain ⟨hw, ⟨hd, ha, hb, hs, -⟩, hcode⟩ := word_reads [(25, 21), (20, 16), (15, 11), (1, 1)] [⟨5, d⟩, ⟨5, a⟩, ⟨5, b⟩, ⟨1, s⟩] he
    refine ⟨hw, ?_⟩
    rw [decodeWord_amo (hcode 31 26), decodeAmo, hcode 10 5, hd, ha, hb, hs]
    exact if_pos ⟨hcode 0 0, hcode 4 2⟩
  | prefR a i | prefW a i =>
    obtain ⟨hw, ⟨ha, hi, -⟩, hcode⟩ := word_reads [(20, 16), (15, 0)] [⟨5, a⟩, ⟨16, i⟩] he
    refine ⟨hw, ?_⟩
    rw [decodeWord_pref (hcode 31 26), decodePref, hcode 25 21, ha, hi]
    rfl
  | join d a | gsize d a | launch d a =>
    obtain ⟨hw, ⟨hd, ha, -⟩, hcode⟩ := word_reads [(25, 21), (20, 16)] [⟨5, d⟩, ⟨5, a⟩] he
    refine ⟨hw, ?_⟩
    rw [decodeWord_thr (hcode 31 26), decodeThr, hcode 10 5, hd, ha]
    exact if_pos ⟨hcode 4 0, hcode 15 11⟩
  | leave a | arrive a | gwait a =>
    obtain ⟨hw, ⟨ha, -⟩, hcode⟩ := word_reads [(20, 16)] [⟨5, a⟩] he
    refine ⟨hw, ?_⟩
    rw [decodeWord_thr (hcode 31 26), decodeThr, hcode 10 5, ha]
    exact if_pos ⟨hcode 4 0, hcode 15 11, hcode 25 21⟩
  | setrole n =>
    obtain ⟨hw, ⟨hn, -⟩, hcode⟩ := word_reads [(1, 0)] [⟨2, n⟩] he
    refine ⟨hw, ?_⟩
    rw [decodeWord_thr (hcode 31 26), decodeThr, hcode 10 5, hn]
    exact if_pos ⟨hcode 4 2, hcode 25 11⟩
  | tidOf d =>
    obtain ⟨hw, ⟨hd, -⟩, hcode⟩ := word_reads [(25, 21)] [⟨5, d⟩] he
    refine ⟨hw, ?_⟩
    rw [decodeWord_thr (hcode 31 26), decodeThr, hcode 10 5, hd]
    exact if_pos ⟨hcode 4 0, hcode 20 11⟩
  | twaitany d a | tffr d a =>
    obtain ⟨hw, ⟨hd, ha, -⟩, hcode⟩ := word_reads [(25, 21), (20, 16)] [⟨5, d⟩, ⟨5, a⟩] he
    refine ⟨hw, ?_⟩
    rw [decodeWord_tags (hcode 31 26), decodeTags, hcode 10 5, hd, ha]
    exact if_pos ⟨hcode 4 0, hcode 15 11⟩
  | twaitall a | tclr a =>
    obtain ⟨hw, ⟨ha, -⟩, hcode⟩ := word_reads [(20, 16)] [⟨5, a⟩] he
    refine ⟨hw, ?_⟩
    rw [decodeWord_tags (hcode 31 26), decodeTags, hcode 10 5, ha]
    exact if_pos ⟨hcode 4 0, hcode 15 11, hcode 25 21⟩
  | ttest d a =>
    obtain ⟨hw, ⟨hd, ha, -⟩, hcode⟩ := word_reads [(23, 21), (20, 16)] [⟨3, d⟩, ⟨5, a⟩] he
    refine ⟨hw, ?_⟩
    rw [decodeWord_tags (hcode 31 26), decodeTags, hcode 10 5, hd, ha]
    exact if_pos ⟨hcode 4 0, hcode 15 11, hcode 25 24⟩
  | apbase d a | apmode d a | apidx d a =>
    obtain ⟨hw, ⟨hd, ha, -⟩, hcode⟩ := word_reads [(24, 21), (20, 16)] [⟨4, d⟩, ⟨5, a⟩] he
    refine ⟨hw, ?_⟩
    rw [decodeWord_aps (hcode 31 26), decodeAps, hcode 10 5, hd, ha]
    exact if_pos ⟨hcode 4 0, hcode 15 11, hcode 25 25⟩
  | apdim d a b n =>
    obtain ⟨hw, ⟨hd, ha, hb, hn, -⟩, hcode⟩ := word_reads [(24, 21), (20, 16), (15, 11), (1, 0)] [⟨4, d⟩, ⟨5, a⟩, ⟨5, b⟩, ⟨2, n⟩] he
    refine ⟨hw, ?_⟩
    rw [decodeWord_aps (hcode 31 26), decodeAps, hcode 10 5, hd, ha, hb, hn]
    exact if_pos ⟨hcode 4 2, hcode 25 25⟩
  | apget d a n =>
    obtain ⟨hw, ⟨hd, ha, hn, -⟩, hcode⟩ := word_reads [(25, 21), (19, 16), (1, 0)] [⟨5, d⟩, ⟨4, a⟩, ⟨2, n⟩] he
    refine ⟨hw, ?_⟩
    rw [decodeWord_aps (hcode 31 26), decodeAps, hcode 10 5, hd, ha, hn]
    exact if_pos ⟨hcode 4 2, hcode 15 11, hcode 20 20⟩
  | node d a | walk d a =>
    obtain ⟨hw, ⟨hd, ha, -⟩, hcode⟩ := word_reads [(25, 21), (20, 16)] [⟨5, d⟩, ⟨5, a⟩] he
    refine ⟨hw, ?_⟩
    rw [decodeWord_dbg (hcode 31 26), decodeDbg, hcode 10 5, hd, ha]
    exact if_pos ⟨hcode 4 0, hcode 15 11⟩
  | trc a | step a =>
    obtain ⟨hw, ⟨ha, -⟩, hcode⟩ := word_reads [(20, 16)] [⟨5, a⟩] he
    refine ⟨hw, ?_⟩
    rw [decodeWord_dbg (hcode 31 26), decodeDbg, hcode 10 5, ha]
    exact if_pos ⟨hcode 4 0, hcode 15 11, hcode 25 21⟩
  | brk i =>
    obtain ⟨hw, ⟨hi, -⟩, hcode⟩ := word_reads [(20, 11)] [⟨10, i⟩] he
    refine ⟨hw, ?_⟩
    rw [decodeWord_dbg (hcode 31 26), decodeDbg, hcode 10 5, hi]
    exact if_pos ⟨hcode 4 0, hcode 25 21⟩
  | sload p a t v | sread p a t v | sstore p a t v | sgather p a t v | sscatter p a t v =>
    obtain ⟨hw, ⟨hp, ha, ht, hv, -⟩, hcode⟩ := word_reads [(21, 15), (14, 11), (10, 5), (4, 0)] [⟨7, p⟩, ⟨4, a⟩, ⟨6, t⟩, ⟨5, v⟩] he
    refine ⟨hw, ?_⟩
    rw [decodeWord_strm (hcode 31 26), decodeStrm, hcode 25 22, hp, ha, ht, hv]
    rfl
  | scell p n c v =>
    obtain ⟨hw, ⟨hp, hn, hc, hv, -⟩, hcode⟩ := word_reads [(21, 15), (14, 11), (7, 5), (4, 0)] [⟨7, p⟩, ⟨4, n⟩, ⟨3, c⟩, ⟨5, v⟩] he
    refine ⟨hw, ?_⟩
    rw [decodeWord_strm (hcode 31 26), decodeStrm, hcode 25 22, hp, hn, hc, hv]
    exact if_pos (hcode 10 8)
  | sbar n =>
    obtain ⟨hw, ⟨hn, -⟩, hcode⟩ := word_reads [(14, 11)] [⟨4, n⟩] he
    refine ⟨hw, ?_⟩
    rw [decodeWord_strm (hcode 31 26), decodeStrm, hcode 25 22, hn]
    exact if_pos ⟨hcode 10 0, hcode 21 15⟩
  | sdrain c =>
    obtain ⟨hw, ⟨hc, -⟩, hcode⟩ := word_reads [(0, 0)] [⟨1, c⟩] he
    refine ⟨hw, ?_⟩
    rw [decodeWord_strm (hcode 31 26), decodeStrm, hcode 25 22, hc]
    exact if_pos (hcode 21 1)
  | sedge n t | sqry n t | ssplice n t | scancel n t =>
    obtain ⟨hw, ⟨hn, ht, -⟩, hcode⟩ := word_reads [(14, 11), (10, 5)] [⟨4, n⟩, ⟨6, t⟩] he
    refine ⟨hw, ?_⟩
    rw [decodeWord_strm (hcode 31 26), decodeStrm, hcode 25 22, hn, ht]
    exact if_pos ⟨hcode 4 0, hcode 21 15⟩
  | scfg n t c =>
    obtain ⟨hw, ⟨hn, ht, hc, -⟩, hcode⟩ := word_reads [(14, 11), (10, 5), (0, 0)] [⟨4, n⟩, ⟨6, t⟩, ⟨1, c⟩] he
    refine ⟨hw, ?_⟩
    rw [decodeWord_strm (hcode 31 26), decodeStrm, hcode 25 22, hn, ht, hc]
    exact if_pos ⟨hcode 4 1, hcode 21 15⟩
  | sswap n c =>
    obtain ⟨hw, ⟨hn, hc, -⟩, hcode⟩ := word_reads [(14, 11), (0, 0)] [⟨4, n⟩, ⟨1, c⟩] he
    refine ⟨hw, ?_⟩
    rw [decodeWord_strm (hcode 31 26), decodeStrm, hcode 25 22, hn, hc]
    exact if_pos ⟨hcode 10 1, hcode 21 15⟩
  | sarg p n =>
    obtain ⟨hw, ⟨hp, hn, -⟩, hcode⟩ := word_reads [(21, 15), (14, 11)] [⟨7, p⟩, ⟨4, n⟩] he
    refine ⟨hw, ?_⟩
    rw [decodeWord_strm (hcode 31 26), decodeStrm, hcode 25 22, hp, hn]
    exact (if_pos (hcode 10 0)).trans (if_pos (by simpa [WellFormed] using hi))
  | mxmode f =>
    obtain ⟨hw, ⟨hf, -⟩, hcode⟩ := word_reads [(3, 0)] [⟨4, f⟩] he
    refine ⟨hw, ?_⟩
    rw [decodeWord_mx (hcode 31 26), decodeMx, hcode 25 21, hf]
    exact (if_pos (hcode 20 4)).trans (if_pos hi)
  | mxpanel n =>
    obtain ⟨hw, ⟨hn, -⟩, hcode⟩ := word_reads [(0, 0)] [⟨1, n⟩] he
    refine ⟨hw, ?_⟩
    rw [decodeWord_mx (hcode 31 26), decodeMx, hcode 25 21, hn]
    exact if_pos (hcode 20 1)
  | mxrun a t m c =>
    obtain ⟨hw, ⟨ha, ht, hm, hc, -⟩, hcode⟩ := word_reads [(20, 16), (3, 3), (2, 2), (1, 0)] [⟨5, a⟩, ⟨1, t⟩, ⟨1, m⟩, ⟨2, c⟩] he
    refine ⟨hw, ?_⟩
    rw [decodeWord_mx (hcode 31 26), decodeMx, hcode 25 21, ha, ht, hm, hc]
    exact if_pos (hcode 15 4)
  | mxdrain a d f t =>
    obtain ⟨hw, ⟨ha, hd, hf, ht, -⟩, hcode⟩ := word_reads [(20, 16), (5, 5), (4, 1), (0, 0)] [⟨5, a⟩, ⟨1, d⟩, ⟨4, f⟩, ⟨1, t⟩] he
    refine ⟨hw, ?_⟩
    rw [decodeWord_mx (hcode 31 26), decodeMx, hcode 25 21, ha, hd, hf, ht]
    exact if_pos (hcode 15 6)
  | mxzero t =>
    obtain ⟨hw, ⟨ht, -⟩, hcode⟩ := word_reads [(0, 0)] [⟨1, t⟩] he
    refine ⟨hw, ?_⟩
    rw [decodeWord_mx (hcode 31 26), decodeMx, hcode 25 21, ht]
    exact if_pos (hcode 20 1)
  | mxadp a b s =>
    obtain ⟨hw, ⟨ha, hb, hs, -⟩, hcode⟩ := word_reads [(20, 16), (15, 11), (3, 0)] [⟨5, a⟩, ⟨5, b⟩, ⟨4, s⟩] he
    refine ⟨hw, ?_⟩
    rw [decodeWord_mx (hcode 31 26), decodeMx, hcode 25 21, ha, hb, hs]
    exact if_pos (hcode 10 4)
  | mxcode a i =>
    obtain ⟨hw, ⟨ha, hi, -⟩, hcode⟩ := word_reads [(20, 16), (1, 0)] [⟨5, a⟩, ⟨2, i⟩] he
    refine ⟨hw, ?_⟩
    rw [decodeWord_mx (hcode 31 26), decodeMx, hcode 25 21, ha, hi]
    exact if_pos (hcode 15 2)
  | mxstat a s =>
    obtain ⟨hw, ⟨ha, hs, -⟩, hcode⟩ := word_reads [(20, 16), (3, 0)] [⟨5, a⟩, ⟨4, s⟩] he
    refine ⟨hw, ?_⟩
    rw [decodeWord_mx (hcode 31 26), decodeMx, hcode 25 21, ha, hs]
    exact if_pos (hcode 15 4)
  | rbload a c =>
    obtain ⟨hw, ⟨ha, hc, -⟩, hcode⟩ := word_reads [(20, 16), (2, 0)] [⟨5, a⟩, ⟨3, c⟩] he
    refine ⟨hw, ?_⟩
    rw [decodeWord_rb (hcode 31 26), decodeRb, hcode 25 21, ha, hc]
    exact if_pos (hcode 15 3)
  | rbctx c =>
    obtain ⟨hw, ⟨hc, -⟩, hcode⟩ := word_reads [(2, 0)] [⟨3, c⟩] he
    refine ⟨hw, ?_⟩
    rw [decodeWord_rb (hcode 31 26), decodeRb, hcode 25 21, hc]
    exact if_pos (hcode 20 3)
  | rbrun a =>
    obtain ⟨hw, ⟨ha, -⟩, hcode⟩ := word_reads [(20, 16)] [⟨5, a⟩] he
    refine ⟨hw, ?_⟩
    rw [decodeWord_rb (hcode 31 26), decodeRb, hcode 25 21, ha]
    exact if_pos (hcode 15 0)
  | rbxmode n k p =>
    obtain ⟨hw, ⟨hn, hk, hp, -⟩, hcode⟩ := word_reads [(7, 5), (4, 3), (2, 0)] [⟨3, n⟩, ⟨2, k⟩, ⟨3, p⟩] he
    refine ⟨hw, ?_⟩
    rw [decodeWord_rb (hcode 31 26), decodeRb, hcode 25 21, hn, hk, hp]
    exact (if_pos (hcode 20 8)).trans (if_pos (by simpa [WellFormed] using hi))
  | rbstat a s =>
    obtain ⟨hw, ⟨ha, hs, -⟩, hcode⟩ := word_reads [(20, 16), (3, 0)] [⟨5, a⟩, ⟨4, s⟩] he
    refine ⟨hw, ?_⟩
    rw [decodeWord_rb (hcode 31 26), decodeRb, hcode 25 21, ha, hs]
    exact if_pos (hcode 15 4)
  | oxdecl a s | oxqry a s =>
    obtain ⟨hw, ⟨ha, hs, -⟩, hcode⟩ := word_reads [(20, 16), (2, 0)] [⟨5, a⟩, ⟨3, s⟩] he
    refine ⟨hw, ?_⟩
    rw [decodeWord_ox (hcode 31 26), decodeOx, hcode 25 21, ha, hs]
    exact if_pos (hcode 15 3)
  | oxsplit s | oxmerge s =>
    obtain ⟨hw, ⟨hs, -⟩, hcode⟩ := word_reads [(2, 0)] [⟨3, s⟩] he
    refine ⟨hw, ?_⟩
    rw [decodeWord_ox (hcode 31 26), decodeOx, hcode 25 21, hs]
    exact if_pos (hcode 20 3)
  | oxpin p s =>
    obtain ⟨hw, ⟨hp, hs, -⟩, hcode⟩ := word_reads [(3, 3), (2, 0)] [⟨1, p⟩, ⟨3, s⟩] he
    refine ⟨hw, ?_⟩
    rw [decodeWord_ox (hcode 31 26), decodeOx, hcode 25 21, hp, hs]
    exact if_pos (hcode 20 4)
  | rtset a e =>
    obtain ⟨hw, ⟨ha, he, -⟩, hcode⟩ := word_reads [(20, 16), (7, 0)] [⟨5, a⟩, ⟨8, e⟩] he
    refine ⟨hw, ?_⟩
    rw [decodeWord_rte (hcode 31 26), decodeRte, hcode 25 21, ha, he]
    exact if_pos (hcode 15 8)
  | mcset a b g =>
    obtain ⟨hw, ⟨ha, hb, hg, -⟩, hcode⟩ := word_reads [(20, 16), (15, 11), (5, 0)] [⟨5, a⟩, ⟨5, b⟩, ⟨6, g⟩] he
    refine ⟨hw, ?_⟩
    rw [decodeWord_rte (hcode 31 26), decodeRte, hcode 25 21, ha, hb, hg]
    exact (if_pos (hcode 10 6)).trans (if_pos (by simpa [WellFormed] using hi))
  | mcsetX a b h g =>
    obtain ⟨hw, ⟨ha, hb, hh, hg, -⟩, hcode⟩ := word_reads [(20, 16), (15, 11), (7, 7), (5, 0)] [⟨5, a⟩, ⟨5, b⟩, ⟨1, h⟩, ⟨6, g⟩] he
    refine ⟨hw, ?_⟩
    rw [decodeWord_rte (hcode 31 26), decodeRte, hcode 25 21, ha, hb, hh, hg]
    have h6 : bits w 6 6 = 1 := hcode 6 6
    have hne : bits w 10 6 ≠ 0 := by unfold bits at h6 ⊢; omega
    exact (if_neg hne).trans ((if_pos ⟨h6, hcode 10 8⟩).trans (if_pos (by simpa [WellFormed] using hi)))
  | racecfg a u =>
    obtain ⟨hw, ⟨ha, hu, -⟩, hcode⟩ := word_reads [(20, 16), (0, 0)] [⟨5, a⟩, ⟨1, u⟩] he
    refine ⟨hw, ?_⟩
    rw [decodeWord_rte (hcode 31 26), decodeRte, hcode 25 21, ha, hu]
    exact if_pos (hcode 15 1)
  | gateset a g =>
    obtain ⟨hw, ⟨ha, hg, -⟩, hcode⟩ := word_reads [(20, 16), (3, 0)] [⟨5, a⟩, ⟨4, g⟩] he
    refine ⟨hw, ?_⟩
    rw [decodeWord_rte (hcode 31 26), decodeRte, hcode 25 21, ha, hg]
    exact if_pos (hcode 15 4)
  | loopset a l =>
    obtain ⟨hw, ⟨ha, hl, -⟩, hcode⟩ := word_reads [(20, 16), (3, 0)] [⟨5, a⟩, ⟨4, l⟩] he
    refine ⟨hw, ?_⟩
    rw [decodeWord_rte (hcode 31 26), decodeRte, hcode 25 21, ha, hl]
    exact if_pos (hcode 15 4)
  | _ => exact (Option.some_ne_none w he.symm).elim

/-- Settles O1: the word of an instruction is its code with the operands added, and each is read back from its own place. -/
theorem wordRoundTrip : Obligations.WordRoundTrip := fun _ _ => decodeWord_encode

end Sys2Proof
end
section
/-! SUPPORT. What the decoder answers (O3): a row checks every bit that is no operand, so its instruction has that very word. -/

namespace Sys2Proof

/-! ## A word is the sum of its fields -/

theorem bits_cut {w hi lo : Nat} (hlo : 0 < lo) (hhi : lo ≤ hi) : bits w hi 0 = bits w hi lo * 2 ^ lo + bits w (lo - 1) 0 := by
  have hpow : 2 ^ (hi + 1) = 2 ^ lo * 2 ^ (hi - lo + 1) := by rw [← pow_add]; congr 1; omega
  simp only [bits, pow_zero, Nat.div_one, Nat.sub_zero]
  rw [Nat.sub_add_cancel hlo, hpow, Nat.mod_mul]
  ring

/-- The fields of w from bit hi down that the cuts l part, each at its place; the last one reaches down to bit 0. -/
def cutSum (w : Nat) : Nat → List Nat → Nat
  | hi, [] => bits w hi 0
  | hi, lo :: l => bits w hi lo * 2 ^ lo + cutSum w (lo - 1) l

/-- The cuts go down from bit hi, and none of them is at bit 0. -/
def cutsDown : Nat → List Nat → Bool
  | _, [] => true
  | hi, lo :: l => Nat.blt 0 lo && Nat.ble lo hi && cutsDown (lo - 1) l

theorem cutSum_eq {w hi : Nat} {l : List Nat} (hl : cutsDown hi l = true) : cutSum w hi l = bits w hi 0 := by
  induction l generalizing hi with
  | nil => rfl
  | cons lo l ih =>
    simp only [cutsDown, Bool.and_eq_true, Nat.blt_eq, Nat.ble_eq] at hl
    obtain ⟨⟨hlo, hhi⟩, hl⟩ := hl
    rw [cutSum, ih hl, ← bits_cut hlo hhi]

/-- A word is the sum of its fields, wherever it is cut. -/
theorem word_cut {w : Nat} (hw : w < 2 ^ 32) (l : List Nat) (hl : cutsDown 31 l = true) : w = cutSum w 31 l := by
  rw [cutSum_eq hl, bits, pow_zero, Nat.div_one, Nat.mod_eq_of_lt hw]

/-! ## Rows that are sound -/

/-- What the decoder answers for w, where it answers, is well-formed and has the word w. -/
def Sound (w : Nat) (r : Except DecodeError Instr) : Prop := ∀ i, r = .ok i → WellFormed i = true ∧ encode i = some w

section

variable {w : Nat}

theorem sound_error {e : DecodeError} : Sound w (.error e) := fun _ h => nomatch h

theorem sound_ok {v : Nat} {i : Instr} (hi : WellFormed i = true) (he : encode i = some v) (hv : v = w) : Sound w (.ok i) := by
  rintro _ ⟨⟩
  exact ⟨hi, hv ▸ he⟩

theorem sound_ite {p : Prop} [Decidable p] {r q : Except DecodeError Instr} (hr : p → Sound w r) (hq : ¬p → Sound w q) :
    Sound w (if p then r else q) := by
  split
  · exact hr ‹p›
  · exact hq ‹¬p›

/-- A row that checks p and refuses the word where p does not hold. -/
theorem sound_row {p : Prop} [Decidable p] {r : Except DecodeError Instr} {e : DecodeError} (hr : p → Sound w r) :
    Sound w (if p then r else .error e) :=
  sound_ite hr (fun _ => sound_error)

/-! ## The decoders of the majors -/

theorem decodeSys_sound (hw : w < 2 ^ 32) (hm : bits w 31 26 = 0) : Sound w (decodeSys w) := by
  have h1 := word_cut hw [26, 11, 5] rfl
  have h2 := word_cut hw [26, 21, 11, 5] rfl
  have h3 := word_cut hw [26, 21, 16, 11, 5] rfl
  simp only [cutSum, Nat.reduceSub] at h1 h2 h3
  unfold decodeSys
  split
  case h_1 => exact sound_row (fun _ => sound_ok rfl rfl (by omega))
  case h_3 => exact sound_row (fun _ => sound_ok rfl rfl (by omega))
  case h_4 => exact sound_row (fun _ => sound_ok rfl rfl (by omega))
  case h_5 =>
    refine sound_ite (fun _ => ?_) (fun _ => sound_ite (fun _ => ?_) (fun _ => sound_ite (fun _ => ?_) (fun _ => sound_ite (fun _ => ?_) (fun _ =>
      sound_ite (fun _ => ?_) (fun _ => sound_row (fun _ => ?_))))))
    all_goals exact sound_ok rfl rfl (by omega)
  case h_6 =>
    exact sound_row (fun _ => sound_row (fun hs => sound_ok hs rfl (by simp only [toNat_fld]; omega)))
  case h_7 =>
    refine sound_ite (fun _ => ?_) (fun h7 => sound_ite (fun _ => ?_) (fun h16 => sound_ite (fun _ => ?_) (fun h18 => sound_ite (fun _ => ?_)
      (fun h19 => sound_row (fun _ => sound_row (fun hs => sound_ok (Bool.and_eq_true_iff.mpr ⟨hs, ?_⟩) rfl ?_))))))
    case refine_5 => simp only [sregOwnRow, toNat_fld, Bool.not_eq_true', Bool.or_eq_false_iff, beq_eq_false_iff_ne]; omega
    case refine_6 => simp only [toNat_fld]; omega
    all_goals exact sound_ok rfl rfl (by simp only [toNat_fld]; omega)
  case h_11 => exact sound_error
  all_goals exact sound_row (fun _ => sound_ok rfl rfl (by simp only [toNat_fld]; omega))

theorem decodeAlu_sound (hw : w < 2 ^ 32) (hm : bits w 31 26 = 1) : Sound w (decodeAlu w) := by
  have h1 := word_cut hw [26, 21, 16, 11, 5] rfl
  have h2 := word_cut hw [26, 21, 16, 11, 5, 1] rfl
  simp only [cutSum, Nat.reduceSub] at h1 h2
  unfold decodeAlu
  split
  case h_31 => exact sound_error
  all_goals exact sound_row (fun _ => sound_ok rfl rfl (by simp only [toNat_fld]; omega))

theorem decodeCmp_sound (hw : w < 2 ^ 32) (hm : bits w 31 26 = 2) : Sound w (decodeCmp w) := by
  have h1 := word_cut hw [26, 24, 21, 16, 11, 5] rfl
  simp only [cutSum, Nat.reduceSub] at h1
  unfold decodeCmp
  split
  case h_7 => exact sound_error
  all_goals exact sound_row (fun _ => sound_ok rfl rfl (by simp only [toNat_fld]; omega))

theorem decodePred_sound (hw : w < 2 ^ 32) (hm : bits w 31 26 = 3) : Sound w (decodePred w) := by
  have h1 := word_cut hw [26, 21, 16, 11, 5, 3] rfl
  have h2 := word_cut hw [26, 21, 19, 16, 11, 5] rfl
  have h3 := word_cut hw [26, 24, 21, 11, 5, 1] rfl
  have h4 := word_cut hw [26, 24, 21, 16, 11, 5] rfl
  have h5 := word_cut hw [26, 24, 21, 19, 16, 11, 5] rfl
  have h6 := word_cut hw [26, 24, 21, 19, 16, 14, 11, 5] rfl
  simp only [cutSum, Nat.reduceSub] at h1 h2 h3 h4 h5 h6
  unfold decodePred
  split
  case h_10 => exact sound_error
  all_goals exact sound_row (fun _ => sound_ok rfl rfl (by simp only [toNat_fld]; omega))

theorem decodeCmpi_sound (hw : w < 2 ^ 32) (hm : bits w 31 26 = 14) : Sound w (decodeCmpi w) := by
  have h1 := word_cut hw [26, 23, 21, 16] rfl
  simp only [cutSum, Nat.reduceSub] at h1
  unfold decodeCmpi
  split
  case h_5 => exact sound_error
  all_goals exact sound_ok rfl rfl (by simp only [toNat_fld]; omega)

theorem decodeJreg_sound (hw : w < 2 ^ 32) (hm : bits w 31 26 = 19) : Sound w (decodeJreg w) := by
  have h1 := word_cut hw [26, 11, 5] rfl
  have h2 := word_cut hw [26, 21, 16, 11, 5] rfl
  simp only [cutSum, Nat.reduceSub] at h1 h2
  unfold decodeJreg
  split
  case h_3 => exact sound_row (fun _ => sound_ok rfl rfl (by omega))
  case h_4 => exact sound_error
  all_goals exact sound_row (fun _ => sound_ok rfl rfl (by simp only [toNat_fld]; omega))

theorem decodeAmo_sound (hw : w < 2 ^ 32) (hm : bits w 31 26 = 38) : Sound w (decodeAmo w) := by
  have h1 := word_cut hw [26, 21, 16, 11, 5, 2, 1] rfl
  simp only [cutSum, Nat.reduceSub] at h1
  unfold decodeAmo
  split
  case h_12 => exact sound_error
  all_goals exact sound_row (fun _ => sound_ok rfl rfl (by simp only [toNat_fld]; omega))

theorem decodePref_sound (hw : w < 2 ^ 32) (hm : bits w 31 26 = 39) : Sound w (decodePref w) := by
  have h1 := word_cut hw [26, 21, 16] rfl
  simp only [cutSum, Nat.reduceSub] at h1
  unfold decodePref
  split
  case h_3 => exact sound_error
  all_goals exact sound_ok rfl rfl (by simp only [toNat_fld]; omega)

theorem decodeThr_sound (hw : w < 2 ^ 32) (hm : bits w 31 26 = 40) : Sound w (decodeThr w) := by
  have h1 := word_cut hw [26, 11, 5] rfl
  have h2 := word_cut hw [26, 11, 5, 2] rfl
  have h3 := word_cut hw [26, 21, 11, 5] rfl
  have h4 := word_cut hw [26, 21, 16, 11, 5] rfl
  simp only [cutSum, Nat.reduceSub] at h1 h2 h3 h4
  unfold decodeThr
  split
  case h_6 => exact sound_row (fun _ => sound_ok rfl rfl (by omega))
  case h_7 => exact sound_row (fun _ => sound_ok rfl rfl (by omega))
  case h_11 => exact sound_error
  all_goals exact sound_row (fun _ => sound_ok rfl rfl (by simp only [toNat_fld]; omega))

theorem decodeTags_sound (hw : w < 2 ^ 32) (hm : bits w 31 26 = 41) : Sound w (decodeTags w) := by
  have h1 := word_cut hw [26, 21, 16, 11, 5] rfl
  have h2 := word_cut hw [26, 24, 21, 16, 11, 5] rfl
  simp only [cutSum, Nat.reduceSub] at h1 h2
  unfold decodeTags
  split
  case h_6 => exact sound_error
  all_goals exact sound_row (fun _ => sound_ok rfl rfl (by simp only [toNat_fld]; omega))

theorem decodeAps_sound (hw : w < 2 ^ 32) (hm : bits w 31 26 = 42) : Sound w (decodeAps w) := by
  have h1 := word_cut hw [26, 21, 20, 16, 11, 5, 2] rfl
  have h2 := word_cut hw [26, 25, 21, 16, 11, 5] rfl
  have h3 := word_cut hw [26, 25, 21, 16, 11, 5, 2] rfl
  simp only [cutSum, Nat.reduceSub] at h1 h2 h3
  unfold decodeAps
  split
  case h_6 => exact sound_error
  all_goals exact sound_row (fun _ => sound_ok rfl rfl (by simp only [toNat_fld]; omega))

theorem decodeStrm_sound (hw : w < 2 ^ 32) (hm : bits w 31 26 = 48) : Sound w (decodeStrm w) := by
  have h1 := word_cut hw [26, 22, 1] rfl
  have h2 := word_cut hw [26, 22, 15, 11] rfl
  have h3 := word_cut hw [26, 22, 15, 11, 1] rfl
  have h4 := word_cut hw [26, 22, 15, 11, 5] rfl
  have h5 := word_cut hw [26, 22, 15, 11, 5, 1] rfl
  have h6 := word_cut hw [26, 22, 15, 11, 8, 5] rfl
  simp only [cutSum, Nat.reduceSub] at h1 h2 h3 h4 h5 h6
  unfold decodeStrm
  split
  case h_1 => exact sound_ok rfl rfl (by simp only [toNat_fld]; omega)
  case h_2 => exact sound_ok rfl rfl (by simp only [toNat_fld]; omega)
  case h_3 => exact sound_ok rfl rfl (by simp only [toNat_fld]; omega)
  case h_4 => exact sound_ok rfl rfl (by simp only [toNat_fld]; omega)
  case h_5 => exact sound_ok rfl rfl (by simp only [toNat_fld]; omega)
  case h_13 =>
    exact sound_row (fun _ => sound_row (fun hp => sound_ok (by simpa [WellFormed] using hp) rfl (by simp only [toNat_fld]; omega)))
  case h_16 => exact sound_error
  all_goals exact sound_row (fun _ => sound_ok rfl rfl (by simp only [toNat_fld]; omega))

theorem decodeMx_sound (hw : w < 2 ^ 32) (hm : bits w 31 26 = 49) : Sound w (decodeMx w) := by
  have h1 := word_cut hw [26, 21, 1] rfl
  have h2 := word_cut hw [26, 21, 4] rfl
  have h3 := word_cut hw [26, 21, 16, 2] rfl
  have h4 := word_cut hw [26, 21, 16, 4] rfl
  have h5 := word_cut hw [26, 21, 16, 4, 3, 2] rfl
  have h6 := word_cut hw [26, 21, 16, 6, 5, 1] rfl
  have h7 := word_cut hw [26, 21, 16, 11, 4] rfl
  simp only [cutSum, Nat.reduceSub] at h1 h2 h3 h4 h5 h6 h7
  unfold decodeMx
  split
  case h_1 =>
    exact sound_row (fun _ => sound_row (fun hf => sound_ok hf rfl (by simp only [toNat_fld]; omega)))
  case h_9 => exact sound_error
  all_goals exact sound_row (fun _ => sound_ok rfl rfl (by simp only [toNat_fld]; omega))

theorem decodeRb_sound (hw : w < 2 ^ 32) (hm : bits w 31 26 = 50) : Sound w (decodeRb w) := by
  have h1 := word_cut hw [26, 21, 3] rfl
  have h2 := word_cut hw [26, 21, 8, 5, 3] rfl
  have h3 := word_cut hw [26, 21, 16] rfl
  have h4 := word_cut hw [26, 21, 16, 3] rfl
  have h5 := word_cut hw [26, 21, 16, 4] rfl
  simp only [cutSum, Nat.reduceSub] at h1 h2 h3 h4 h5
  unfold decodeRb
  split
  case h_4 =>
    exact sound_row (fun _ => sound_row (fun hk => sound_ok (by simpa [WellFormed] using hk) rfl (by simp only [toNat_fld]; omega)))
  case h_6 => exact sound_error
  all_goals exact sound_row (fun _ => sound_ok rfl rfl (by simp only [toNat_fld]; omega))

theorem decodeOx_sound (hw : w < 2 ^ 32) (hm : bits w 31 26 = 51) : Sound w (decodeOx w) := by
  have h1 := word_cut hw [26, 21, 3] rfl
  have h2 := word_cut hw [26, 21, 4, 3] rfl
  have h3 := word_cut hw [26, 21, 16, 3] rfl
  simp only [cutSum, Nat.reduceSub] at h1 h2 h3
  unfold decodeOx
  split
  case h_6 => exact sound_error
  all_goals exact sound_row (fun _ => sound_ok rfl rfl (by simp only [toNat_fld]; omega))

theorem decodeRte_sound (hw : w < 2 ^ 32) (hm : bits w 31 26 = 52) : Sound w (decodeRte w) := by
  have h1 := word_cut hw [26, 21, 16, 1] rfl
  have h2 := word_cut hw [26, 21, 16, 4] rfl
  have h3 := word_cut hw [26, 21, 16, 8] rfl
  have h4 := word_cut hw [26, 21, 16, 11, 6] rfl
  have h5 := word_cut hw [26, 21, 16, 11, 8, 7, 6] rfl
  simp only [cutSum, Nat.reduceSub] at h1 h2 h3 h4 h5
  unfold decodeRte
  split
  case h_2 =>
    refine sound_ite (fun _ => sound_row (fun hg => sound_ok (by simpa [WellFormed] using hg) rfl ?_)) (fun _ =>
      sound_row (fun _ => sound_row (fun hg => sound_ok (by simpa [WellFormed] using hg) rfl ?_)))
    all_goals simp only [toNat_fld]; omega
  case h_6 => exact sound_error
  all_goals exact sound_row (fun _ => sound_ok rfl rfl (by simp only [toNat_fld]; omega))

theorem decodeDbg_sound (hw : w < 2 ^ 32) (hm : bits w 31 26 = 56) : Sound w (decodeDbg w) := by
  have h1 := word_cut hw [26, 21, 11, 5] rfl
  have h2 := word_cut hw [26, 21, 16, 11, 5] rfl
  simp only [cutSum, Nat.reduceSub] at h1 h2
  unfold decodeDbg
  split
  case h_6 => exact sound_error
  all_goals exact sound_row (fun _ => sound_ok rfl rfl (by simp only [toNat_fld]; omega))

/-- What the decoder answers is well-formed and has the word that was decoded (R58, R59). -/
theorem decodeWord_sound (hw : w < 2 ^ 32) : Sound w (decodeWord w) := by
  have h1 := word_cut hw [26] rfl
  have h2 := word_cut hw [26, 21, 16] rfl
  have h3 := word_cut hw [26, 23, 22] rfl
  simp only [cutSum, Nat.reduceSub] at h1 h2 h3
  unfold decodeWord
  split
  case h_1 hm => exact decodeSys_sound hw hm
  case h_2 hm => exact decodeAlu_sound hw hm
  case h_3 hm => exact decodeCmp_sound hw hm
  case h_4 hm => exact decodePred_sound hw hm
  case h_9 => exact sound_row (fun _ => sound_ok rfl rfl (by simp only [toNat_fld]; omega))
  case h_10 => exact sound_row (fun _ => sound_ok rfl rfl (by simp only [toNat_fld]; omega))
  case h_11 hm => exact decodeCmpi_sound hw hm
  case h_15 hm => exact decodeJreg_sound hw hm
  case h_29 hm => exact decodeAmo_sound hw hm
  case h_30 hm => exact decodePref_sound hw hm
  case h_31 hm => exact decodeThr_sound hw hm
  case h_32 hm => exact decodeTags_sound hw hm
  case h_33 hm => exact decodeAps_sound hw hm
  case h_34 hm => exact decodeStrm_sound hw hm
  case h_35 hm => exact decodeMx_sound hw hm
  case h_36 hm => exact decodeRb_sound hw hm
  case h_37 hm => exact decodeOx_sound hw hm
  case h_38 hm => exact decodeRte_sound hw hm
  case h_39 hm => exact decodeDbg_sound hw hm
  case h_40 => exact sound_error
  all_goals exact sound_ok rfl rfl (by simp only [toNat_fld]; omega)

end

/-! ## What the decoder refuses -/

section

variable {w : Nat}

theorem bits_major (hw : w < 2 ^ 32) : bits w 31 26 = w / 2 ^ 26 := Nat.mod_eq_of_lt (by omega)

/-- A word that is refused is no instruction's. -/
theorem encode_ne_of_error {e : DecodeError} (h : decodeWord w = .error e) {i : Instr} (hi : WellFormed i = true) : encode i ≠ some w :=
  fun he => nomatch h.symm.trans (decodeWord_encode hi he).2

/-- The majors that R58 reserves. -/
theorem decodeWord_reservedMajor (hw : w < 2 ^ 32)
    (h : [4, 5, 6, 7, 15, 20, 21, 22, 23, 31, 43, 44, 45, 46, 47, 53, 54, 55, 57, 58, 59, 60, 61, 62, 63].contains (w / 2 ^ 26) = true) :
    decodeWord w = .error .reservedMajor := by
  rw [← bits_major hw] at h
  unfold decodeWord
  split
  case h_40 => rfl
  all_goals next hm => rw [hm] at h; exact absurd h (by decide)

theorem decodeSys_reserved (h : 10 ≤ bits w 10 5) : decodeSys w = .error .reservedFunction := by
  unfold decodeSys
  split
  case h_11 => rfl
  all_goals omega

theorem decodeAlu_reserved (h : 30 ≤ bits w 10 5) : decodeAlu w = .error .reservedFunction := by
  unfold decodeAlu
  split
  case h_31 => rfl
  all_goals omega

theorem decodeCmp_reserved (h : 6 ≤ bits w 10 5) : decodeCmp w = .error .reservedFunction := by
  unfold decodeCmp
  split
  case h_7 => rfl
  all_goals omega

theorem decodePred_reserved (h : 9 ≤ bits w 10 5) : decodePred w = .error .reservedFunction := by
  unfold decodePred
  split
  case h_10 => rfl
  all_goals omega

/-- The function codes of SYS, ALU, CMP and PRED that no row lists. -/
theorem decodeWord_reservedFunction (hw : w < 2 ^ 32)
    (h : (w / 2 ^ 26 = 0 ∧ 10 ≤ bits w 10 5) ∨ (w / 2 ^ 26 = 1 ∧ 30 ≤ bits w 10 5) ∨ (w / 2 ^ 26 = 2 ∧ 6 ≤ bits w 10 5) ∨
      (w / 2 ^ 26 = 3 ∧ 9 ≤ bits w 10 5)) : decodeWord w = .error .reservedFunction := by
  rw [← bits_major hw] at h
  obtain ⟨hm, hf⟩ | ⟨hm, hf⟩ | ⟨hm, hf⟩ | ⟨hm, hf⟩ := h
  · exact (decodeWord_sys hm).trans (decodeSys_reserved hf)
  · exact (decodeWord_alu hm).trans (decodeAlu_reserved hf)
  · exact (decodeWord_cmp hm).trans (decodeCmp_reserved hf)
  · exact (decodeWord_pred hm).trans (decodePred_reserved hf)

/-- The one code that STRM does not list. -/
theorem decodeWord_reservedStream (h : w / 2 ^ 22 = 48 * 16 + 15) : decodeWord w = .error .reservedFunction := by
  have hm : bits w 31 26 = 48 := by unfold bits; omega
  have hf : bits w 25 22 = 15 := by unfold bits; omega
  rw [decodeWord_strm hm, decodeStrm, hf]
  rfl

end

/-- Settles O3: the decoders are sound row by row; a refused word is no instruction's since every instruction's word decodes (O1). -/
theorem decodeSound : Obligations.DecodeSound := fun _ hw =>
  ⟨decodeWord_sound hw, fun _ he _ hi => encode_ne_of_error he hi, decodeWord_reservedMajor hw,
    fun _ hfn h => decodeWord_reservedFunction hw (by rwa [hfn] at h), decodeWord_reservedStream⟩

end Sys2Proof
end
section
/-! SUPPORT. Element entries (O2): the action word as the trigger half with OP and the selects added in their places. -/

namespace Sys2Proof

/-- The OP value of an element operation names it, and the selects' encoding checks are all that well-formedness asks (R74, R76). -/
theorem elemOpOf_elemOpcode {i : Instr} {op : Nat} {x : ElemAct} (h : elemOpcode i = some (op, x)) :
    op < 2 ^ 8 ∧ elemOpOf op x = some i ∧ WellFormed i = x.legal := by
  cases i with
  | elemNop x | mov x | pass x | keyx x | keys x | cntdn x | oxpiv x | oxend x | fadd x | fsub x | fmul x | fma x | fms x | fmin x | fmax x
  | fabs x | fneg x | fscl x | fred x | frmax x | fcmpeq x | fcmplt x | fcmple x | fsel x | iadd x | isub x | imul x | imac4 x | asub3 x | imin x
  | imax x | ishl x | ishr x | isar x | iand x | ior x | ixor x | inot x | icmpeq x | icmplt x | cvt x | qnt8 x | dqnt x | unp3 x | pk3 x | lmul x
  | lacc x | fxcvt x | fxadd x | perm x | bcast x | clamp x | kcmp x | ksel x =>
    cases Option.some.inj h
    exact ⟨by decide, rfl, rfl⟩
  | _ => exact (Option.some_ne_none _ h.symm).elim

/-- The places of OP and the selects in an entry (R72). -/
def entryPlaces : List (Nat × Nat) := [(63, 56), (55, 51), (50, 46), (45, 41), (40, 36), (35, 32)]

/-- What an entry holds there. -/
def entryFields (op : Nat) (x : ElemAct) : List (Σ n, BitVec n) :=
  [⟨8, BitVec.ofNat 8 op⟩, ⟨5, x.sa⟩, ⟨5, x.sb⟩, ⟨5, x.da⟩, ⟨5, x.db⟩, ⟨4, x.ta⟩]

/-- A trigger half is empty in those places (R54). -/
theorem trigger_empty {trig : Nat} (ht : trig < 2 ^ 32) : ∀ p ∈ entryPlaces, p.2 ≤ p.1 ∧ bits trig p.1 p.2 = 0 := by
  intro p hp
  obtain ⟨hle, h32⟩ := (by decide : ∀ p ∈ entryPlaces, p.2 ≤ p.1 ∧ 32 ≤ p.2) p hp
  exact ⟨hle, by rw [bits, Nat.div_eq_of_lt (ht.trans_le (Nat.pow_le_pow_right two_pos h32)), Nat.zero_mod]⟩

/-- An entry with OP and the selects in bits 63:32 holds them there, whatever its trigger half is. -/
theorem entry_reads {op trig : Nat} {x : ElemAct} (hop : op < 2 ^ 8) (ht : trig < 2 ^ 32) :
    bits (withOperands trig entryPlaces (entryFields op x)) 63 56 = op ∧ decodeElemAct (withOperands trig entryPlaces (entryFields op x)) = x := by
  obtain ⟨⟨hf, hsa, hsb, hda, hdb, hta, -⟩, -⟩ := withOperands_reads (vs := entryFields op x) (trigger_empty ht) (by decide) rfl
  refine ⟨?_, by rw [decodeElemAct, hsa, hsb, hda, hdb, hta]⟩
  rw [← toNat_fld (n := 8) rfl, hf, BitVec.toNat_ofNat, Nat.mod_eq_of_lt hop]

theorem decodeEntry_encodeAction {i : Instr} {w trig : Nat} (hi : WellFormed i = true) (he : encodeAction i = some w) (ht : trig < 2 ^ 32) :
    decodeEntry (w + trig) = some i := by
  unfold encodeAction at he
  split at he
  next op x hop =>
    obtain ⟨hlt, hof, hlegal⟩ := elemOpOf_elemOpcode hop
    have hw : w + trig = withOperands trig entryPlaces (entryFields op x) := by
      rw [← Option.some.inj he]
      simp only [withOperands, entryPlaces, entryFields, BitVec.toNat_ofNat, Nat.mod_eq_of_lt hlt]
      ring
    obtain ⟨hbits, hact⟩ := entry_reads (x := x) hlt ht
    rw [hw, decodeEntry, hact, hbits, hof]
    exact if_pos (hlegal.symm.trans hi)
  next => nomatch he

/-- Settles O2: OP and the selects are read back from their places above the trigger half, and OP names the operation. -/
theorem entryRoundTrip : Obligations.EntryRoundTrip := fun _ _ _ => decodeEntry_encodeAction

end Sys2Proof
end
section
/-! SUPPORT. The spec's listed words (O4), the register file (O10), the trap forms (O21) and MFS (O24). -/

namespace Sys2Proof.Machine

open Sys2Proof.Claims

/-- Settles O4: each listed word decodes by computation. -/
theorem specWordsDecode : Obligations.SpecWordsDecode := ⟨rfl, rfl, rfl, rfl, rfl, rfl, rfl, rfl, rfl, rfl, rfl⟩

/-- Settles O10, from the laws of the two register files. -/
theorem registerFile : Obligations.RegisterFile := fun t d r v p q b =>
  ⟨t.rd_zero, t.rdP_zero, t.wr_zero v, t.wrP_zero b, t.rd_wr d r v, t.rdP_wr d v q, t.rdP_wrP p q b, t.rd_wrP p b r⟩

/-! ## The trap forms -/

/-- A trap of the executing thread whose EPC is not its own word, as TRAP and BRK raise it (R106). -/
theorem does_trapAt {i : Instr} {s : State} {code : BitVec 8} {eval : Word} {epc : VA}
    (h : exec i s = .next (s.trapAt s.cur.1 s.cur.2 code eval epc)) : Does i s (fun s t => TookTrap s t s.cur.1 s.cur.2 code eval epc) :=
  ⟨_, h, tookTrap_trapAt s _ _ _ _ _⟩

/-- BRK's EVAL: the immediate with bit 10 set (R106). -/
theorem brk_eval (i : BitVec 10) : i.setWidth 64 ||| 0x400 = BitVec.ofNat 64 (i.toNat + 2 ^ 10) := by
  have hor : i.toNat + 2 ^ 10 = i.toNat ||| 2 ^ 10 := by
    rw [Nat.or_comm, Nat.add_comm]
    exact Nat.two_pow_add_eq_or_of_lt i.isLt 1
  rw [hor, BitVec.ofNat_or, BitVec.ofNat_toNat]
  rfl

theorem exec_brk_of_be {i : BitVec 10} {s : State} (h : s.me.be = true) :
    exec (.brk i) s = .next (s.trapAt s.cur.1 s.cur.2 kTRAPI (i.setWidth 64 ||| 0x400) (s.me.pc + 4)) :=
  congrArg Host.Outcome.next (if_pos h)

theorem exec_brk_of_not_be {i : BitVec 10} {s : State} (h : s.me.be = false) : exec (.brk i) s = .next s.skip :=
  congrArg Host.Outcome.next (if_neg (Bool.eq_false_iff.mp h))

theorem trapWords : TrapWords := by
  intro s i T
  refine ⟨?_, fun hb => ?_, fun hb => ⟨_, exec_brk_of_not_be hb, skipped_skip s⟩⟩
  · exact does_trapAt (congrArg (fun v => Host.Outcome.next (s.trapAt s.cur.1 s.cur.2 kTRAPI v (s.me.pc + 4))) (BitVec.ofNat_toNat 64 i).symm)
  · exact does_trapAt ((exec_brk_of_be hb).trans (by rw [brk_eval]))

theorem eret : Eret := by
  intro s
  refine ⟨fun hm => ⟨s.modMe Thread.eret, congrArg Host.Outcome.next (if_pos hm), onlyMe_modMe s _, State.me_modMe s _⟩, fun hm => ?_⟩
  have hill : exec .eret s = .next (s.ill .eret 1) := congrArg Host.Outcome.next (if_neg (Bool.eq_false_iff.mp hm))
  exact does_ill hill rfl (by decide) (by decide)

theorem illegalWord : IllegalWord := by
  intro s w
  refine ⟨_, rfl, ?_⟩
  rw [illEval_of_lt w.isLt (by decide)]
  exact tookTrap_trap s _ _

/-- Settles O21: each form is a trap at its own EPC, or a step of the thread alone. -/
theorem trapForms : Obligations.TrapForms := ⟨trapWords, eret, illegalWord⟩

/-! ## MFS -/

section

variable {s : State} {d r : BitVec 5}

theorem exec_mfs_of_unlisted (h : sregListed r = false) : exec (.mfs d r) s = .next (s.ill (.mfs d r) 0) := by
  show execMfs d r s = _
  simp [execMfs, h]

theorem exec_mfs_of_controller (h : sregController r = true) (hm : s.me.cm = false) : exec (.mfs d r) s = .next (s.ill (.mfs d r) 1) := by
  have hl : sregListed r = true := by
    simp only [sregController, sregListed, Bool.and_eq_true, Bool.or_eq_true, decide_eq_true_eq] at h ⊢
    exact .inr h
  show execMfs d r s = _
  simp [execMfs, hl, h, hm]

/-- A register that the mode may read. -/
theorem does_mfs {v : Word} (hl : sregListed r = true) (hm : sregController r = true → s.me.cm = true) (hv : s.readSreg r = v) :
    Does (.mfs d r) s (fun s t => Wrote s t d v) := by
  subst hv
  refine ⟨s.put d (s.readSreg r), ?_, wrote_put s d _⟩
  show execMfs d r s = _
  cases hc : sregController r
  · simp [execMfs, hl, hc]
  · simp [execMfs, hl, hc, hm hc]

theorem does_mfs_ill {k : Nat} (h : exec (.mfs d r) s = .next (s.ill (.mfs d r) k)) (hk : k < 4) :
    Does (.mfs d r) s (fun s t =>
      TookTrap s t s.cur.1 s.cur.2 kILL (BitVec.ofNat 64 (0xA0 + d.toNat * 2 ^ 21 + r.toNat * 2 ^ 11 + k * 2 ^ 32)) s.me.pc) :=
  does_ill h rfl (by omega) hk

/-! What each register that is not the thread's own reads as. -/

theorem readSreg_taskId {id : TaskId} (h : s.myCore.task = some id) : s.readSreg 3 = id.setWidth 64 := by
  show (match s.myCore.task with | some id => id.setWidth 64 | none => 0) = _
  rw [h]

theorem readSreg_tenant {t : Task} (h : s.taskOf s.cur.1 = some t) : s.readSreg 4 = t.lrec.tenant.setWidth 64 := by
  show (s.tenantOf s.cur.1).setWidth 64 = _
  rw [State.tenantOf, h]

theorem readSreg_clock {t : Task} (h : s.taskOf s.cur.1 = some t) : s.readSreg 6 = BitVec.ofNat 64 (t.clock s.slot) := by
  show BitVec.ofNat 64 (s.clockOf s.cur.1) = _
  rw [State.clockOf, h]

theorem readSreg_wdog {t : Task} (h : s.taskOf s.cur.1 = some t) : s.readSreg 19 = BitVec.ofNat 64 t.wdog := by
  show BitVec.ofNat 64 (s.wdogOf s.cur.1) = _
  rw [State.wdogOf, h]

/-- A core whose task is gone shows the last task's CLOCK and WDOG (R356). -/
theorem readSreg_lastTask {cl wd : Nat} (h : s.taskOf s.cur.1 = none) (hl : s.myCore.lastTask = some (cl, wd)) :
    s.readSreg 6 = BitVec.ofNat 64 cl ∧ s.readSreg 19 = BitVec.ofNat 64 wd := by
  have hl : (s.core s.cur.1).lastTask = some (cl, wd) := hl
  constructor
  · show BitVec.ofNat 64 (s.clockOf s.cur.1) = _
    rw [State.clockOf, h, hl]
  · show BitVec.ofNat 64 (s.wdogOf s.cur.1) = _
    rw [State.wdogOf, h, hl]

end

/-- CLOCK stands from the task's end (R355, R356). -/
theorem Task.clock_of_first {t : Task} {f : Nat} (h : t.first = some f) (n : Nat) :
    t.clock n = (if t.phase = .starting ∨ t.phase = .running then n else min n t.clockEnd) - f := by
  unfold Task.clock
  rw [h]
  cases t.phase <;> rfl

theorem Task.clock_of_no_first {t : Task} (h : t.first = none) (n : Nat) : t.clock n = 0 := by
  unfold Task.clock
  rw [h]

/-- Settles O24: each register's own value, and the ILL causes by mode. -/
theorem readSpecial : Obligations.ReadSpecial := by
  intro s d r T W x
  have hown {r : BitVec 5} (hl : sregListed r = true) (hc : sregController r = false) {v : Word} (hv : s.readSreg r = v) :
      Does (.mfs d r) s (fun s t => Wrote s t d v) := does_mfs hl (fun h => nomatch hc.symm.trans h) hv
  refine ⟨fun hl => does_mfs_ill (exec_mfs_of_unlisted hl) (by decide), fun hr hm => does_mfs_ill (exec_mfs_of_controller ?_ hm) (by decide),
    ?_, ?_, ?_, ?_, ?_, ?_, ?_, ?_, ?_, ?_, ?_, ?_, fun t ht => ⟨?_, ?_, ?_, ?_, ?_⟩, fun cl wd ht hl => ⟨?_, ?_⟩, ?_⟩
  · simpa [sregController] using hr
  all_goals rintro rfl
  iterate 10 exact hown rfl rfl rfl
  iterate 2 exact fun hm => does_mfs rfl (fun _ => hm) rfl
  · exact fun htask => hown rfl rfl (readSreg_taskId htask)
  · exact hown rfl rfl (readSreg_tenant ht)
  · exact fun f hf => hown rfl rfl ((readSreg_clock ht).trans (congrArg (BitVec.ofNat 64) (Task.clock_of_first hf s.slot)))
  · exact fun hf => hown rfl rfl ((readSreg_clock ht).trans (congrArg (BitVec.ofNat 64) (Task.clock_of_no_first hf s.slot)))
  · exact fun hm => does_mfs rfl (fun _ => hm) (readSreg_wdog ht)
  · exact hown rfl rfl (readSreg_lastTask ht hl).1
  · exact fun hm => does_mfs rfl (fun _ => hm) (readSreg_lastTask ht hl).2
  · exact fun hm => does_mfs rfl (fun _ => hm) rfl

end Sys2Proof.Machine
end

section
/-! SUPPORT. The element's integer and bitwise operations (O50). -/

namespace Sys2Proof.Machine

open Sys2Proof.Claims

section

variable {s : State} {x : ElemAct} {op : Nat} {j : ElemAct → Instr}

/-! ## The shapes of integer operations (R134) -/

/-- An integer operation that wraps in every lane. -/
theorem op_ints {g : Int → Int → Int} (hj : exec (j x) s = .next (s.fireOp x op (fun i => i.ints g))) : Op s x op j intOk (fun i => intOut i g) :=
  op_of_need hj

/-- An operation on the codes of integer lanes. -/
theorem op_intCodes {g : OpIn → Nat → Nat → Nat} (hj : exec (j x) s = .next (s.fireOp x op (fun i => i.codes isIntF (g i)))) :
    Op s x op j intOk (fun i => lanesOut i (fun n => g i (la i n) (lb i n))) :=
  op_of_need hj

/-- A compare of the lanes' integers. -/
theorem op_intMasks {g : Int → Int → Bool} (hj : exec (j x) s = .next (s.fireOp x op (fun i => i.icmp g))) :
    Op s x op j intOk (fun i => maskOut i (fun a b => g (intOf i.f a) (intOf i.f b))) :=
  op_of_need hj

/-- An operation that takes every format. -/
theorem op_any {out : OpIn → OpOut} (hj : exec (j x) s = .next (s.fireOp x op (fun i => .ok (out i)))) : Op s x op j anyOk out :=
  op_of_givesIf hj (fun _ => .ok) (fun _ => iff_of_true rfl trivial)

/-- CLAMP of a floating format rounds nothing, and of an integer format wraps nothing; other formats it does not take (R139). -/
theorem clamp_givesIf (i : OpIn) : GivesIf ((fltOk i || intOk i) = true)
    (if isFlt i.f then i.flt (fun a b _ => (clampF a b, 0)) else i.ints (fun a b => min (max a (-(b.natAbs : Int))) b.natAbs))
    (if fltOk i then floatOut i (fun a b _ => (clampF a b, 0)) else intOut i (fun a b => min (max a (-(b.natAbs : Int))) b.natAbs)) := by
  by_cases hf : isFlt i.f = true
  · have hok : fltOk i = true := hf
    rw [if_pos hf, if_pos hok, hok, Bool.true_or]
    exact ⟨fun _ => if_pos hf, fun h => absurd rfl h⟩
  · have hok : ¬fltOk i = true := hf
    rw [if_neg hf, if_neg hok, Bool.eq_false_iff.mpr hok, Bool.false_or]
    exact ⟨fun h => if_pos h, fun h => ⟨_, if_neg h⟩⟩

end

/-- Settles O50: an operation wraps in every lane, maps the lanes' codes, compares the lanes, or takes whole payloads; CLAMP stands alone. -/
theorem elementInteger : Obligations.ElementInteger := by
  intro s x bits
  refine ⟨op_ints rfl, op_ints rfl, op_ints rfl, ?_, ?_, ?_, ?_, ?_, op_any rfl, op_any rfl, op_any rfl, op_any rfl, ?_, ?_, ?_⟩
  · exact op_ints (g := fun a b => if a ≤ b then a else b) rfl
  · exact op_ints (g := fun a b => if a ≤ b then b else a) rfl
  · exact op_intCodes (g := fun i a b => a * 2 ^ (b % laneBits i.f)) rfl
  · exact op_intCodes (g := fun i a b => a / 2 ^ (b % laneBits i.f)) rfl
  · exact op_intCodes (g := fun i a b => wrap (laneBits i.f) (intOf i.f a / 2 ^ (b % laneBits i.f))) rfl
  · exact op_intMasks (g := fun a b => decide (a = b)) rfl
  · exact op_intMasks (g := fun a b => decide (a < b)) rfl
  · exact op_of_givesIf rfl clamp_givesIf (fun _ => Iff.rfl)

end Sys2Proof.Machine
end

section
/-! SUPPORT. The element's moving and keyed operations, and the two that act on an Oxbow routine (O53). -/

namespace Sys2Proof.Machine

open Sys2Proof.Claims

section

variable {s : State} {x : ElemAct} {op : Nat} {j : ElemAct → Instr}

/-! ## Moving and keyed operations (R132, R139, R140) -/

/-- An operation that takes every format, its result stated in another way. -/
theorem op_any_of_eq {f out : OpIn → OpOut} (hj : exec (j x) s = .next (s.fireOp x op (fun i => .ok (f i)))) (hout : ∀ i, f i = out i) :
    Op s x op j anyOk out := by
  rw [← funext hout]
  exact op_any hj

/-- The moving and keyed operations: BCAST by its three kinds of format, and KCMP by the keys themselves, where the model takes their numbers. -/
theorem elementMovers : ElementMovers := by
  intro s x
  refine ⟨op_any rfl, op_any rfl, op_any rfl, op_any rfl, op_any rfl, op_of_need (okF := isIntF) rfl, op_any rfl, ?_, ?_, op_any rfl⟩
  · refine op_any_of_eq rfl (fun i => ?_)
    split
    · next h => simp [show i.f = 14 from BitVec.eq_of_toNat_eq h]
    · next h => simp [show i.f = 10 from BitVec.eq_of_toNat_eq h]
    · next h14 h10 =>
      rw [if_neg (fun h => h14 (congrArg BitVec.toNat h)), if_neg (fun h => h10 (congrArg BitVec.toNat h))]
      rfl
  · refine op_any_of_eq rfl (fun i => ?_)
    simp only [BitVec.lt_def, BitVec.toNat_inj]

/-! ## Routine operations (R312, R313) -/

/-- An operation whose destinations are predicates or NONE has no output to fault on. -/
theorem portsOk_of_needP (h : ElemOk s x op) (hP : (opUse op).needP = true) (o : OpOut) : PortsOk s x op o := by
  obtain ⟨-, hact, -⟩ := h
  have hd : (x.da.toNat = 8 ∨ x.da.toNat = 9 ∨ x.da.toNat = 31) ∧ (x.db.toNat = 8 ∨ x.db.toNat = 9 ∨ x.db.toNat = 31) := by
    simpa [actOk, hP, or_assoc] using (Bool.and_eq_true_iff.mp hact).2
  have hnone : (31 : BitVec 5).toNat = 31 := rfl
  refine ⟨State.emitsReserved_of_not_out _ _ ?_, State.emitsReserved_of_not_out _ _ ?_⟩
  · dsimp only [OpUse.mask]
    split <;> omega
  · dsimp only [OpUse.mask]
    split <;> omega

theorem State.slot_fireStep (u : OpUse) (o : OpOut) : (s.fireStep x u o).slot = s.slot := by
  obtain ⟨-, -, hslot, -⟩ := State.ports_popElems s.fire.core s.fire.elem (popList x u o) (popList_nodup x u o) s
  have hemit (t : State) (f : Core → Core) (tag : BitVec 3) : (((t.modCore s.fire.core f).emitTo s.fire.core s.fire.elem x.da tag o.ra).emitTo
      s.fire.core s.fire.elem x.db tag o.rb).slot = t.slot := by rw [slot_emitTo, slot_emitTo]; rfl
  exact (hemit ..).trans hslot

/-- A firing that always gives o, where nothing can stop it. -/
theorem State.fireOp_of_needP (h : ElemOk s x op) (hP : (opUse op).needP = true) {f : OpIn → OpOut} {o : OpOut}
    (ho : f (s.opIn ((opUse op).mask x) (opUse op)) = o) :
    Fired op x o s (s.fireOp x op (fun i => .ok (f i))) ∧ (s.fireOp x op (fun i => .ok (f i))).slot = s.slot := by
  obtain ⟨hda, hdb⟩ := portsOk_of_needP h hP o
  rw [State.fireOp_ok (f := fun i => .ok (f i)) h (congrArg Except.ok ho), hda, hdb]
  exact ⟨fired_of_softAt (State.fired_fireStep ..), State.slot_fireStep ..⟩

end

/-- The pop of a head that is no STEER leaves the element as it was. -/
theorem State.elem_popElem {u : State} {c : CoreId} {e : ElemId} {ch : Nat} {y : Cell} (hy : (u.core c).head? u.slot (48 + e.val) ch = some y)
    (ht : y.h.tag ≠ tSTEER) : ((u.popElem c e ch).core c).elems[e] = (u.core c).elems[e] := by
  rw [Core.elem_of_inner (u.inner_popElem c e ch), Elem.steer_one _ _ _ _ hy, if_neg ht]

/-- A routine that an OXEND ends: its stage, and the Oxbow's SPL at the head of C0 (R313). -/
theorem State.endsRoutine_iff (s : State) (c : CoreId) (e : ElemId) : s.endsRoutine c e = true ↔
    (∃ k g, s.routineOf c e = some (k, g)) ∧ ∃ y, (s.core c).head? s.slot (48 + e.val) 0 = some y ∧ y.m.spl = true ∧ y.h.tag = tSPL := by
  unfold State.endsRoutine
  rw [Bool.and_eq_true, Option.isSome_iff_exists, Prod.exists]
  cases (s.core c).head? s.slot (48 + e.val) 0 <;> simp

/-- What OXEND adds to its firing where a routine ends: the SPL leaves, the element has ended, and its stage counts from this slot (R313, R314). -/
def State.endRoutine (u : State) (c : CoreId) (e : ElemId) (k : CoreId) (g : StageId) (slot : Nat) : State :=
  ((u.popElem c e 0).modCore c (fun x => x.modElem e (fun el => { el with ended := true, splSeen := false }))).modCore k
    (fun x => x.modStage g (fun y => { y with since := slot }))

section

variable (u : State) (c k : CoreId) (e : ElemId) (g : StageId) (n : Nat)

theorem State.mem_endRoutine : (u.endRoutine c e k g n).mem = u.mem := by
  rw [State.endRoutine, State.mem_modCore, State.mem_modCore, State.mem_popElem]

theorem State.since_endRoutine : ((u.endRoutine c e k g n).core k).stages[g].since = n := by
  rw [State.endRoutine, State.core_modCore]
  simp [Core.modStage]

theorem State.ports_endRoutine : ((u.endRoutine c e k g n).core c).ports = ((u.popElem c e 0).core c).ports := by
  rw [State.endRoutine, State.ports_modStage, State.core_modCore]
  rfl

variable {u c e}

theorem State.elem_endRoutine {y : Cell} (hy : (u.core c).head? u.slot (48 + e.val) 0 = some y) (ht : y.h.tag ≠ tSTEER) :
    ((u.endRoutine c e k g n).core c).elems[e] = { (u.core c).elems[e] with ended := true, splSeen := false } := by
  have h : ((u.endRoutine c e k g n).core c).inner =
      ((u.popElem c e 0).core c |>.modElem e (fun el => { el with ended := true, splSeen := false })).inner := by
    rw [State.endRoutine, State.inner_modStage, State.core_modCore]
  rw [Core.elem_of_inner h, State.elem_popElem hy ht]

end

/-- The result of OXPIV: SA, and to a predicate whether the pivot is accepted. -/
def oxpivOut (b : Bool) (i : OpIn) : OpOut := { ra := { v := i.a, pred := some b }, rb := { v := i.a } }

/-- The result of OXEND: zero, and to a predicate whether a routine ends. -/
def oxendOut (b : Bool) (i : OpIn) : OpOut :=
  let r : Res := { v := { data := 0, fmt := i.f, key := 0 }, pred := some b }
  { ra := r, rb := r }

section

variable {s : State} {x : ElemAct}

theorem exec_oxpiv_none (hg : s.pivotStage? s.fire.core s.fire.elem (s.opIn x (opUse 0x06)).scalA = none) :
    exec (.oxpiv x) s = .next (s.fireOp x 0x06 (fun i => .ok (oxpivOut false i))) := by
  show execOxpiv x s = _
  unfold execOxpiv
  simp only [hg]
  rfl

theorem exec_oxpiv_some {g : StageId} {u : State} (hg : s.pivotStage? s.fire.core s.fire.elem (s.opIn x (opUse 0x06)).scalA = some g)
    (hu : s.fireOp x 0x06 (fun i => .ok (oxpivOut true i)) = u) (hf : (u.core s.fire.core).elems[s.fire.elem].frozen = none) :
    exec (.oxpiv x) s =
      .next (u.modCore s.fire.core (fun k => k.modStage g (fun y => { y with pivot := BitVec.ofNat 16 (s.opIn x (opUse 0x06)).scalA }))) := by
  show execOxpiv x s = _
  subst hu
  unfold execOxpiv
  simp only [hg]
  exact congrArg Host.Outcome.next (if_neg (fun h => Bool.false_ne_true ((congrArg Option.isSome hf).symm.trans h)))

theorem exec_oxend_false (hends : s.endsRoutine s.fire.core s.fire.elem = false) :
    exec (.oxend x) s = .next (s.fireOp x 0x07 (fun i => .ok (oxendOut false i))) := by
  show execOxend x s = _
  unfold execOxend
  simp only [hends]
  rfl

theorem exec_oxend_true {k : CoreId} {g : StageId} {u : State} (hends : s.endsRoutine s.fire.core s.fire.elem = true)
    (hr : s.routineOf s.fire.core s.fire.elem = some (k, g)) (hu : s.fireOp x 0x07 (fun i => .ok (oxendOut true i)) = u)
    (hf : (u.core s.fire.core).elems[s.fire.elem].frozen = none) :
    exec (.oxend x) s = .next (u.endRoutine s.fire.core s.fire.elem k g s.slot) := by
  show execOxend x s = _
  subst hu
  unfold execOxend
  simp only [hends, hr]
  exact congrArg Host.Outcome.next (if_pos ((Bool.true_and _).trans (congrArg Option.isNone hf)))

/-- The frozen record of an element is that before the firing. -/
theorem frozen_of_fired {op : Nat} {o : OpOut} {u : State} (h : Fired op x o s u) :
    (u.core s.fire.core).elems[s.fire.elem].frozen = (s.core s.fire.core).elems[s.fire.elem].frozen := by
  obtain ⟨-, -, -, -, hfrozen, -⟩ := h
  exact hfrozen

/-- OXEND's firing pops no channel. -/
theorem cells_of_oxend {o : OpOut} {u : State} (h : Fired 0x07 x o s u) (n : Fin 4) :
    (((u.core s.fire.core).egAt (48 + s.fire.elem.val)).chan n.val).cells =
      (((s.core s.fire.core).egAt (48 + s.fire.elem.val)).chan n.val).cells := by
  obtain ⟨-, -, -, -, -, -, -, hcells, -⟩ := h
  exact (hcells n).trans (if_neg (by simp [pops, opUse]))

/-- OXEND where a routine ends: the firing u and then the end of the routine. -/
theorem endRoutine_of_fired {o : OpOut} {u : State} {k : CoreId} {g : StageId} (h : Fired 0x07 x o s u) (hslot : u.slot = s.slot)
    (hends : s.endsRoutine s.fire.core s.fire.elem = true) :
    let c := s.fire.core
    let e := s.fire.elem
    let t := u.endRoutine c e k g s.slot
    (t.core c).elems[e] = { (u.core c).elems[e] with ended := true, splSeen := false } ∧
    (∀ n : Fin 4, (((t.core c).egAt (48 + e.val)).chan n.val).cells =
      if n = 0 then (((s.core c).egAt (48 + e.val)).chan 0).cells.tail else (((s.core c).egAt (48 + e.val)).chan n.val).cells) ∧
    (∀ p, (t.core c).ingAt p = (u.core c).ingAt p) ∧ (∀ p, p ≠ 48 + e.val → (t.core c).egAt p = (s.core c).egAt p) := by
  intro c e t
  obtain ⟨-, y, hy, -, htag⟩ := (s.endsRoutine_iff _ _).mp hends
  have hcells : ∀ n : Fin 4, (((u.core c).egAt (48 + e.val)).chan n.val).cells = (((s.core c).egAt (48 + e.val)).chan n.val).cells :=
    cells_of_oxend h
  have hhead : ∀ n : Fin 4, (u.core c).head? u.slot (48 + e.val) n.val = (s.core c).head? s.slot (48 + e.val) n.val := fun n => by
    unfold Core.head?
    rw [hcells, hslot]
  have hports : (t.core c).ports = ((u.popElem c e 0).core c).ports := u.ports_endRoutine ..
  obtain ⟨hing, -, hother, htail⟩ := u.ports_popElem c e 0
  have hing' : (t.core c).ing = (u.core c).ing := (congrArg (·.1) hports).trans hing
  have hside : (t.core c).eg = ((u.popElem c e 0).core c).eg := congrArg (·.2.1) hports
  have heg : ∀ p, (t.core c).egAt p = ((u.popElem c e 0).core c).egAt p := fun p => by rw [Core.egAt, hside]; rfl
  obtain ⟨-, -, -, -, -, -, -, -, -, -, hfired, -⟩ := h
  refine ⟨State.elem_endRoutine k g s.slot ((hhead 0).trans hy) (by rw [htag]; decide), fun n => ?_, fun p => ?_, fun p hp => ?_⟩
  · rw [heg, htail, hhead, hcells]
    by_cases hn : n = 0
    · subst hn
      exact if_pos ⟨rfl, congrArg Option.isSome hy⟩
    · rw [if_neg hn, if_neg (fun h => hn (Fin.ext h.1))]
  · unfold Core.ingAt
    rw [hing']
  · exact (heg p).trans ((hother p hp).trans (hfired p hp).1)

end

/-- OXPIV and OXEND: the firing, and what an accepted pivot or the end of a routine adds to it; an entry that holds a reserved encoding. -/
theorem elementRoutines : ElementRoutines := by
  intro s x c e v
  refine ⟨fun hok hg => ?_, fun g hok hg hf => ?_, fun hok hends => ?_, fun hok hends hf => ?_,
    ⟨_, rfl, s.frozeElem_fireFault { kind := kTABLE, field := _ }⟩⟩
  · exact ⟨_, exec_oxpiv_none hg, (State.fireOp_of_needP hok rfl rfl).1⟩
  · have hfired := (State.fireOp_of_needP (f := oxpivOut true) hok rfl rfl).1
    exact ⟨_, exec_oxpiv_some hg rfl ((frozen_of_fired hfired).trans hf), _, hfired, rfl⟩
  · exact ⟨_, exec_oxend_false hends, (State.fireOp_of_needP hok rfl rfl).1⟩
  · obtain ⟨⟨k, g, hr⟩, -⟩ := (s.endsRoutine_iff c e).mp hends
    obtain ⟨hfired, hslot⟩ := State.fireOp_of_needP (f := oxendOut true) hok rfl rfl
    obtain ⟨helem, hcells, hing, heg⟩ := endRoutine_of_fired (k := k) (g := g) hfired hslot hends
    refine ⟨_, exec_oxend_true hends hr rfl ((frozen_of_fired hfired).trans hf), _, hfired, helem, hcells, hing, heg, fun k' g' hr' => ?_, ?_⟩
    · obtain ⟨rfl, rfl⟩ := Prod.mk.inj (Option.some.inj (hr.symm.trans hr'))
      exact State.since_endRoutine ..
    · exact Sys2Proof.Machine.SameMem.of_mem ((State.mem_endRoutine ..).trans (State.mem_fireOp ..))

/-- Settles O53: the moving and keyed operations by their results, and the routine operations by their firing and what they add to it. -/
theorem elementMoves : Obligations.ElementMoves := ⟨elementMovers, elementRoutines⟩

end Sys2Proof.Machine
end

section
/-! SUPPORT. What stops a firing, and an element's pass boundary (O54). -/

namespace Sys2Proof.Machine

open Sys2Proof.Claims

/-! ## What stops a firing (R76, R125, R127, R131) -/

section

variable {s : State} {x : ElemAct} {op : Nat} {f : OpIn → Except OpFault OpOut}

/-- Reserved selects and fields, and the sources and destinations that R131 does not let the operation have. -/
theorem frozeElem_table (h : x.legal = false ∨ actOk x (opUse op) = false) : FrozeElem kTABLE s (s.fireOp x op f) := by
  have hbad : (!x.legal || !actOk x (opUse op)) = true := by simpa using h
  unfold State.fireOp
  exact (if_pos hbad) ▸ s.frozeElem_fireFault { kind := kTABLE, field := tableField op x }

theorem does_table {j : ElemAct → Instr} (hj : exec (j x) s = .next (s.fireOp x op f)) (h : x.legal = false ∨ actOk x (opUse op) = false) :
    Does (j x) s (FrozeElem kTABLE) := ⟨_, hj, frozeElem_table h⟩

section

variable (hl : x.legal = true) (ha : actOk x (opUse op) = true)
include hl ha

/-- An uncorrectable error in what the firing reads. -/
theorem frozeElem_ecc (he : s.fireEcc? ((opUse op).mask x) op ≠ none) : FrozeElem kECC s (s.fireOp x op f) := by
  obtain ⟨k, hk⟩ := Option.ne_none_iff_exists'.mp he
  unfold State.fireOp
  simp only [hl, ha, hk, Bool.not_true, Bool.or_self, Bool.false_eq_true, if_false]
  exact s.frozeElem_fireFault { kind := kECC, field := k }

variable (he : s.fireEcc? ((opUse op).mask x) op = none)
include he

/-- A first destination that is an output without a route. -/
theorem frozeElem_port (hda : (s.core s.fire.core).unboundO s.fire.elem ((opUse op).mask x).da = true) : FrozeElem kPORT s (s.fireOp x op f) := by
  unfold State.fireOp
  simp only [hl, ha, he, hda, Bool.not_true, Bool.or_self, Bool.false_eq_true, if_false, if_true]
  exact s.frozeElem_fireFault { kind := kPORT, field := 3 }

/-- A second operand of another format; the operation itself then faults with FMT at most. -/
theorem frozeElem_mixed (hda : (s.core s.fire.core).unboundO s.fire.elem ((opUse op).mask x).da = false)
    (hdb : (s.core s.fire.core).unboundO s.fire.elem ((opUse op).mask x).db = false) (hb : (opUse op).b = true) (hraw : (opUse op).rawB = false)
    {g : Fmt} (hg : s.srcFmt? s.fire.core s.fire.elem ((opUse op).mask x).sb = some g)
    (hne : g ≠ s.opFormat s.fire.core s.fire.elem ((opUse op).mask x) (opUse op)) (hf : ∀ i k, f i = .error k → k.kind = kFMT) :
    FrozeElem kFMT s (s.fireOp x op f) := by
  have hmixed : (g != (s.opIn ((opUse op).mask x) (opUse op)).f) = true := bne_iff_ne.mpr hne
  unfold State.fireOp
  simp only [hl, ha, he, hda, hdb, hb, hraw, hg, hmixed, Bool.not_true, Bool.not_false, Bool.or_self, Bool.and_self, Bool.false_eq_true, if_false,
    if_true, Bool.true_and]
  split
  · next k hk =>
    rw [← hf _ k hk]
    split
    · rw [hf _ k hk]
      exact s.frozeElem_fireFault { kind := kFMT, field := 2 }
    · exact s.frozeElem_fireFault k
  · exact s.frozeElem_fireFault { kind := kFMT, field := 2 }

end

/-- An operation that asks for an operation format faults with FMT at most. -/
theorem kind_of_need {i : OpIn} {okF : Fmt → Bool} {o : OpOut} {k : OpFault} (h : i.need okF (.ok o) = .error k) : k.kind = kFMT := by
  unfold OpIn.need at h
  split at h
  · exact absurd h (by simp)
  · rw [← Except.error.inj h]
    rfl

/-- Only an output can lack a route. -/
theorem unboundO_of_le {y : Core} {e : ElemId} {d : BitVec 5} (h : d.toNat ≤ 3) : y.unboundO e d = false := by
  have : ¬(4 ≤ d.toNat ∧ d.toNat ≤ 7) := by omega
  simp [Core.unboundO, this]

theorem frozen_of_frozeElem {k : BitVec 8} {t : State} (h : FrozeElem k s t) : ((t.core s.fire.core).elems[s.fire.elem]).frozen.isSome = true := by
  obtain ⟨-, ⟨r, -, helem⟩, -⟩ := h
  rw [helem]
  rfl

/-- To a firing that freezes its element OXPIV adds nothing, whether or not the pivot is one to accept. -/
theorem does_oxpiv_of_frozeElem {k : BitVec 8} (h : ∀ f, FrozeElem k s (s.fireOp x 0x06 f)) : Does (.oxpiv x) s (FrozeElem k) := by
  cases hg : s.pivotStage? s.fire.core s.fire.elem (s.opIn x (opUse 0x06)).scalA with
  | none => exact ⟨_, exec_oxpiv_none hg, h _⟩
  | some g =>
    refine ⟨_, ?_, h (fun i => .ok (oxpivOut true i))⟩
    show execOxpiv x s = _
    unfold execOxpiv
    simp only [hg]
    exact congrArg Host.Outcome.next (if_pos (frozen_of_frozeElem (h _)))

/-- To a firing that freezes its element OXEND adds nothing, whether or not a routine would end. -/
theorem does_oxend_of_frozeElem {k : BitVec 8} (h : ∀ f, FrozeElem k s (s.fireOp x 0x07 f)) : Does (.oxend x) s (FrozeElem k) := by
  cases hends : s.endsRoutine s.fire.core s.fire.elem with
  | false => exact ⟨_, exec_oxend_false hends, h _⟩
  | true =>
    refine ⟨_, ?_, h (fun i => .ok (oxendOut true i))⟩
    have hsome := frozen_of_frozeElem (h (fun i => .ok (oxendOut true i)))
    show execOxend x s = _
    unfold execOxend
    simp only [hends, Bool.true_and]
    exact congrArg Host.Outcome.next (if_neg (fun hnone => Option.isSome_iff_ne_none.mp hsome (Option.isNone_iff_eq_none.mp hnone)))

end

/-- What stops a firing, each by the check that finds it. -/
theorem firingFaults : FiringFaults := by
  intro s x c e
  refine ⟨fun hl => ⟨does_table rfl (.inl hl), does_table rfl (.inl hl)⟩, ⟨?_, ?_, ?_, ?_, ?_, ?_, ?_, ?_, ?_⟩,
    fun hl he => ⟨_, rfl, frozeElem_ecc hl rfl he⟩, fun hl he => ⟨_, rfl, frozeElem_ecc hl rfl he⟩,
    fun hl he hda => ⟨_, rfl, frozeElem_port hl rfl he hda⟩, fun hl he hda => ⟨_, rfl, frozeElem_port hl rfl he hda⟩,
    fun hl hd he he' hdb ⟨g, hg, hne⟩ => ?_⟩
  iterate 7 exact fun _ ha => does_table rfl (.inr ha)
  · exact fun _ ha => does_oxpiv_of_frozeElem (fun _ => frozeElem_table (.inr ha))
  · exact fun _ ha => does_oxend_of_frozeElem (fun _ => frozeElem_table (.inr ha))
  · have hda : (s.core c).unboundO e x.da = false := unboundO_of_le hd
    refine ⟨⟨_, rfl, ?_⟩, ⟨_, rfl, ?_⟩, ⟨_, rfl, ?_⟩⟩
    · exact frozeElem_mixed hl rfl he hda hdb rfl rfl hg hne (fun _ _ => kind_of_need)
    · exact frozeElem_mixed hl rfl he hda hdb rfl rfl hg hne (fun _ _ => kind_of_need)
    · have ha : actOk x (opUse 0x13) = true := by simp [actOk, opUse, hd]
      exact frozeElem_mixed hl ha he' hda hdb rfl rfl hg hne (fun _ _ => kind_of_need)

/-! ## The pass boundary (R126) -/

/-- What the statement of a pass boundary tells beside memory: the elements of the core, and the cells waiting in the element's output buffer. -/
def State.bounds (s : State) (c : CoreId) (e : ElemId) : Vector Elem 32 × Nat := ((s.core c).elems, ((s.core c).ingAt (48 + e.val)).obuf.length)

theorem State.bounds_popHead (s : State) (c : CoreId) (e : ElemId) (ch : Nat) : (s.popHead c (48 + e.val) ch).bounds c e = s.bounds c e := by
  have helems : ((s.popHead c (48 + e.val) ch).core c).elems = (s.core c).elems := congrArg (·.2.2) (s.inner_popHead c c (48 + e.val) ch)
  obtain ⟨hing, -⟩ := s.ports_popHead c (48 + e.val) ch
  unfold State.bounds Core.ingAt
  rw [helems, hing]

theorem State.bounds_offer (s : State) (c : CoreId) (e : ElemId) (o : Offer) :
    (s.modCore c (fun x => x.offer (48 + e.val) o)).bounds c e = ((s.core c).elems, ((s.core c).ingAt (48 + e.val)).obuf.length + 1) := by
  have hp : 48 + e.val < 128 := by omega
  unfold State.bounds
  rw [State.core_modCore]
  simp [Core.offer, Core.modIng, Core.ingAt, vmod_same _ _ _ _ hp]

/-- Each of the cells offered stands in the output buffer. -/
theorem State.bounds_offers {α : Type} (c : CoreId) (e : ElemId) (o : State → α → Offer) (l : List α) (s : State) :
    (l.foldl (fun s a => s.modCore c (fun x => x.offer (48 + e.val) (o s a))) s).bounds c e = ((s.bounds c e).1, (s.bounds c e).2 + l.length) := by
  induction l generalizing s with
  | nil => rfl
  | cons a l ih =>
    rw [List.foldl_cons, ih, State.bounds_offer, List.length_cons, Nat.add_assoc, Nat.add_comm 1]
    rfl

/-- The state of a pass boundary before the element takes its pending K: the DRNs popped and those offered. -/
def State.drained (s : State) (c : CoreId) (e : ElemId) : State :=
  let cfg := (s.core c).elemCfg e
  cfg.boundOuts.foldl (fun s en => s.modCore c (fun x => x.offer (48 + e.val) { offerEntry en tDRN 0 0 with elem := some e, since := s.slot + 1 }))
    (cfg.bound.foldl (fun s ch => s.popHead c (48 + e.val) ch) s)

theorem State.bounds_drained (s : State) (c : CoreId) (e : ElemId) :
    (s.drained c e).bounds c e = ((s.core c).elems, ((s.core c).ingAt (48 + e.val)).obuf.length + ((s.core c).elemCfg e).boundOuts.length) := by
  unfold State.drained
  dsimp only
  rw [State.bounds_offers, State.foldl_keep (fun s => s.bounds c e) _ (fun s ch => s.bounds_popHead c e ch)]
  rfl

/-- The last step of a pass boundary: K takes its pending value and the pass is counted. -/
def Elem.crossed (a : Elem) (slot : Nat) : Elem :=
  { a with k := a.kpend.getD a.k, kpend := none, passes := a.passes + 1, credit := false, acted := some slot }

/-- A pass boundary, in terms of the state u after the DRNs went through and a pending K is clear of errors. -/
theorem exec_elementDrain {s : State} {c : CoreId} {e : ElemId} (hr : s.elemRuns c e = true) (hd : s.drainReady c e = true) :
    ∃ u : State, u.cores = (s.drained c e).cores ∧
      exec (.elementDrain c e) s = .next (u.modCore c (fun x => (x.modElem e (·.crossed u.slot)).cross (48 + e.val))) := by
  have hif : (s.elemRuns c e && s.drainReady c e) = true := by rw [hr, hd]; rfl
  refine ⟨if (((s.drained c e).core c).elems[e]).kpend.isSome then (s.drained c e).clearSpots [.kreg c e] else s.drained c e, ?_, ?_⟩
  · split <;> rfl
  · show execElementDrain c e s = _
    exact if_pos hif

/-- A pass boundary by its parts; an element that is not ready for one stays. -/
theorem elementBoundary : ElementBoundary := by
  intro s c e
  refine ⟨fun hr hd => ?_, fun hd => ?_⟩
  · obtain ⟨u, hu, hexec⟩ := exec_elementDrain hr hd
    have hcore : u.core c = (s.drained c e).core c := congrArg (·[c]) hu
    obtain ⟨helems, hlen⟩ := Prod.mk.inj (s.bounds_drained c e)
    have helem : (u.core c).elems[e] = (s.core c).elems[e] := by rw [hcore, helems]
    refine ⟨_, hexec, Sys2Proof.Machine.SameMem.of_mem (execElementDrain_leavesMem c e s _ hexec), ?_⟩
    rw [State.core_modCore]
    have hnew : (((u.core c).modElem e (·.crossed u.slot)).cross (48 + e.val)).elems[e] = ((s.core c).elems[e]).crossed u.slot := by
      simp [Core.cross, Core.modElem, helem]
    rw [hnew]
    refine ⟨rfl, rfl, rfl, rfl, rfl, ?_⟩
    rw [← hlen, ← hcore]
    rfl
  · have hif : (s.elemRuns c e && s.drainReady c e) = false := by rw [hd, Bool.and_false]
    show execElementDrain c e s = _
    exact if_neg (by rw [hif]; decide)

/-- Settles O54: the checks of a firing in their order, and the pass boundary. -/
theorem elementStops : Obligations.ElementStops := ⟨firingFaults, elementBoundary⟩

end Sys2Proof.Machine
end

section
/-! SUPPORT. The writes that wait for the end of a slot (O43). -/

namespace Sys2Proof.Machine

open Sys2Proof.Claims

/-! ## Entries and bits written -/

theorem vget_vset_same {α : Type} {n i : Nat} {v : Vector α n} {a d : α} (h : i < n) : vget (vset v i a) i d = a := by
  rw [vget_vset _ _ _ _ _ h, if_pos rfl]

theorem vget_vset_ne {α : Type} {n i j : Nat} {v : Vector α n} {a d : α} (h : j ≠ i) : vget (vset v i a) j d = vget v j d := by
  by_cases hj : j < n
  · rw [vget_vset _ _ _ _ _ hj, if_neg h.symm]
  · simp [vget, hj]

theorem getElem_vmod {α : Type} {n : Nat} (v : Vector α n) (i : Fin n) (f : α → α) : (vmod v i.val f)[i] = f v[i] := by
  simp [vmod]

/-- The low bits of a value read back as what replaced them. -/
theorem setBits_mod {n k : Nat} (x : BitVec n) (m : BitVec k) (h : k ≤ n) : (setBits x 0 k m.toNat).toNat % 2 ^ k = m.toNat := by
  have hm : (setBits x 0 k m.toNat).setWidth k = m := by
    refine BitVec.eq_of_getLsbD_eq (fun i hi => ?_)
    have hn : i < n := by omega
    rw [BitVec.getLsbD_setWidth, setBits, BitVec.getLsbD_or, BitVec.getLsbD_and, BitVec.getLsbD_not, BitVec.getLsbD_ofNat, BitVec.getLsbD_ofNat]
    simp [hi, hn, Nat.mod_eq_of_lt m.isLt, BitVec.getLsbD]
  rw [← BitVec.toNat_setWidth, hm]

/-! ## One write -/

/-- The debug port's write to an element, as its core shows it (R379, R380). -/
def Core.dbgLate (x : Core) (e : ElemId) (tgt off : Nat) (l : List Byte) : Core :=
  if tgt < 8 then x.modElem e (fun y => y.dbgWrite tgt off l)
  else if ((x.egAt (48 + e.val)).chan (tgt - 8)).moved then x
  else x.modEg (48 + e.val) (fun g => g.modChan (tgt - 8) (fun q => q.dbgWrite off l))

/-- What one write that waited does to its core at the end of the slot (R77, R163, R200-R203, R338, R342, R369). -/
def Core.lateWrite (x : Core) (w : Late) : Core :=
  match w with
  | .route e i => { x with routes := vset x.routes e.toNat i, rids := vset x.rids e.toNat (BitVec.ofNat 8 (getBits i 56 8)) }
  | .group g m => { x with mgroups := vset x.mgroups g.toNat m }
  | .budget l b => x.modLoop l.val (fun y => { y with budget := b })
  | .code i v => x.modMe (fun m => { m with cts := vset m.cts i.toNat v })
  | .step e run => x.stepUnit e run
  | .gate g v => { x with gates := x.gates.set g.val { x.gates[g] with arm := v } g.isLt }
  | .table b e i l => x.modSlot b (fun y => { y with elems := vmod y.elems e.val (fun z => { z with
      table := (List.range l.length).foldl (fun v k => vset v (i + k) (l.getD k 0)) z.table }) })
  | .trace v => { x with trace := v }
  | .be k v => x.setThr k { x.thr k with be := v }
  | .elem e tgt off l => x.dbgLate e tgt off l
  | .ranges g r => x.modStage g (fun y => { y with ranges := r })
  | .xgroup _ _ _ _ => x

theorem State.core_dbgWrite (s : State) (c : CoreId) (e : ElemId) (tgt off : Nat) (l : List Byte) :
    (s.dbgWrite c e tgt off l).core c = (s.core c).dbgLate e tgt off l := by
  unfold State.dbgWrite Core.dbgLate
  dsimp only
  split
  · exact State.core_modCore ..
  · split
    · rfl
    · exact State.core_modCore ..

/-- A core of which one write waits shows it once the slot has ended. -/
theorem State.core_applyLate {s : State} {c : CoreId} {w : Late} (h : (s.core c).late = [w]) :
    (s.applyLate c).core c = { s.core c with late := [] }.lateWrite w := by
  have hs : (s.modCore c (fun x => { x with late := [] })).core c = { s.core c with late := [] } := State.core_modCore ..
  rw [← hs]
  unfold State.applyLate
  simp only [h, List.isEmpty_cons, Bool.false_eq_true, if_false, List.foldl_cons, List.foldl_nil]
  cases w with
  | elem e tgt off l => exact State.core_dbgWrite ..
  | xgroup g half v o => rfl
  | _ => exact State.core_modCore ..

/-- Half a crossbar group's write is in the module's table, not in its core. -/
theorem State.xgroups_applyLate {s : State} {c : CoreId} {g : BitVec 6} {half : Bool} {v : BitVec 128} {o : TaskId}
    (h : (s.core c).late = [.xgroup g half v o]) :
    (s.applyLate c).xgroups[c.cluster] = vmod s.xgroups[c.cluster] g.toNat (fun y => y.write half v o) := by
  unfold State.applyLate
  rw [h]
  exact Vector.getElem_set_self ..

/-- No write adds another to those that wait. -/
theorem Core.late_lateWrite (x : Core) (w : Late) : (x.lateWrite w).late = x.late := by
  cases w with
  | elem e tgt off l =>
    show (x.dbgLate e tgt off l).late = _
    unfold Core.dbgLate
    (repeat' split) <;> rfl
  | step e run =>
    show (x.stepUnit e run).late = _
    unfold Core.stepUnit
    (repeat' split) <;> rfl
  | _ => rfl

/-! ## STEP (R342) -/

section

variable {x : Core} {e : ElemId}

theorem Core.elem_stepUnit (run : Bool) : (x.stepUnit (some e) run).elems[e] =
    if x.elems[e].frozen.isSome then x.elems[e]
    else if run then { x.elems[e] with halted := false, credit := false }
    else if x.elems[e].halted then { x.elems[e] with credit := true } else { x.elems[e] with halted := true } := by
  simp [Core.stepUnit, Core.modElem]

/-- A frozen element takes no STEP. -/
theorem Core.elem_stepUnit_frozen {run : Bool} (h : x.elems[e].frozen ≠ none) : (x.stepUnit (some e) run).elems[e] = x.elems[e] := by
  rw [Core.elem_stepUnit, if_pos (Option.isSome_iff_ne_none.mpr h)]

theorem Core.elem_stepUnit_run (h : x.elems[e].frozen = none) :
    (x.stepUnit (some e) true).elems[e] = { x.elems[e] with halted := false, credit := false } := by
  rw [Core.elem_stepUnit, h]
  rfl

/-- A running element halts; a halted one may act for a slot. -/
theorem Core.elem_stepUnit_once (h : x.elems[e].frozen = none) : ((x.stepUnit (some e) false).elems[e]).halted = true ∧
    ((x.stepUnit (some e) false).elems[e]).credit = (x.elems[e].halted || x.elems[e].credit) := by
  rw [Core.elem_stepUnit, h]
  cases hh : x.elems[e].halted
  · exact ⟨rfl, rfl⟩
  · exact ⟨hh, rfl⟩

theorem Core.weir_stepUnit_once :
    (x.stepUnit none false).weirHalted = true ∧ (x.weirHalted = true → (x.stepUnit none false).weirCredit = true) := by
  cases hh : x.weirHalted <;> simp [Core.stepUnit, hh]

end

/-! ## The statement -/

/-- What waits for the end of a slot takes its place there, each kind of write by its own clause. -/
theorem lateWrites : LateWrites := by
  intro s c w x t y hl
  have hy : y = { x with late := [] }.lateWrite w := State.core_applyLate hl
  refine ⟨Sys2Proof.Machine.SameMem.of_mem (s.mem_applyLate c), ?_, ?_, ?_, ?_, ?_, ?_, ?_, ?_, ?_, ?_, ?_, ?_, ?_, ?_, ?_, ?_, ?_⟩
  · rw [hy, Core.late_lateWrite]
  · rintro e i rfl
    rw [hy]
    exact ⟨vget_vset_same e.isLt, vget_vset_same e.isLt, fun f hf => vget_vset_ne hf⟩
  · rintro g m rfl
    rw [hy]
    exact ⟨vget_vset_same g.isLt, fun f hf => vget_vset_ne hf⟩
  · rintro l b rfl
    have hloop : vget y.loops l.val {} = { vget x.loops l.val {} with budget := b } := by
      rw [hy]
      exact vmod_same _ _ _ _ l.isLt
    rw [hloop]
    exact ⟨rfl, rfl⟩
  · rintro i v rfl
    rw [hy]
    exact ⟨vget_vset_same i.isLt, rfl⟩
  · rintro g v rfl
    simp [hy, Core.lateWrite]
  · rintro b e i l n rfl hi hn
    have htable : ((y.slotAt b).elems[e]).table =
        (List.range l.length).foldl (fun v k => vset v (i + k) (l.getD k 0)) ((x.slotAt b).elems[e]).table := by
      rw [hy, Core.lateWrite, Core.slotAt_modSlot]
      exact congrArg ElemCfg.table (getElem_vmod ..)
    rw [htable, vget_foldl_vset _ _ _ _ (fun k => l.getD k 0) _ hn]
  · rintro v rfl
    rw [hy]
    rfl
  · rintro k v rfl
    show y.thr k = _
    rw [hy]
    exact Core.thr_setThr ..
  · rintro g r rfl
    simp [hy, Core.lateWrite, Core.modStage]
  · rintro g half m o rfl
    have hgroup : vget t.xgroups[c.cluster] g.toNat {} = (vget s.xgroups[c.cluster] g.toNat {}).write half m o := by
      rw [State.xgroups_applyLate hl]
      exact vmod_same _ _ _ _ g.isLt
    rw [hgroup]
    refine ⟨rfl, ?_⟩
    rintro rfl
    exact setBits_mod _ m (by decide)
  · rintro rfl
    rw [hy]
    rfl
  · rintro rfl -
    rw [hy]
    exact Core.weir_stepUnit_once.1
  · rintro rfl hh
    rw [hy]
    exact ⟨Core.weir_stepUnit_once.2 hh, Core.weir_stepUnit_once.1⟩
  · rintro e rfl hf
    rw [hy]
    exact congrArg Elem.halted (Core.elem_stepUnit_run hf)
  · rintro e rfl hf
    rw [hy]
    exact Core.elem_stepUnit_once (x := { x with late := [] }) hf
  · rintro e r rfl hf
    rw [hy]
    exact Core.elem_stepUnit_frozen (x := { x with late := [] }) hf

end Sys2Proof.Machine
end

section
/-! SUPPORT. The routing forms at issue, and the descriptor read that ends an RTSET (O43). -/

namespace Sys2Proof.Machine

open Sys2Proof.Claims

/-! ## Forms that complete at once (R181, R201-R203) -/

section

variable {s : State} {j : Instr}

/-- A form that leaves a write for the end of the slot and goes on. -/
theorem does_later {w : Late} (hj : exec j s = .next ((s.modCore s.cur.1 (fun x => x.later w)).skip)) :
    Does j s (fun s t => OnlyCore s.cur.1 s t ∧ t.me = { s.me with pc := s.me.pc + 4 } ∧ t.myCore.late = s.myCore.late ++ [w]) := by
  refine ⟨_, hj, onlyCore_skip s _, me_skip s _ rfl, ?_⟩
  exact congrArg Core.late (core_skip s ((s.core s.cur.1).later w))

variable {a b : BitVec 5} {h : BitVec 1} {g : BitVec 6}

/-- The half of a group's mask that MCSET.X writes (R181). -/
def mcsetXMask (h : BitVec 1) (x y : Nat) : BitVec 128 := BitVec.ofNat 128 (x + 2 ^ 64 * (if h = 1 then y % 2 ^ 32 else y))

theorem exec_mcsetX_ill (hh : h = 1) (hy : (s.me.rd b).toNat / 2 ^ 16 % 2 ^ 16 ≠ 0) :
    exec (.mcsetX a b h g) s = .next (s.ill (.mcsetX a b h g) 3) :=
  congrArg Host.Outcome.next (if_pos ⟨hh, hy⟩)

section

variable (hy : h = 1 → (s.me.rd b).toNat / 2 ^ 16 % 2 ^ 16 = 0)
include hy

theorem exec_mcsetX_foreign (hf : s.xgroupForeign s.cur.1 g = true) : exec (.mcsetX a b h g) s = .next (s.accTrap kPROT g.toNat .write) :=
  congrArg Host.Outcome.next ((if_neg (fun q => q.2 (hy q.1))).trans (if_pos hf))

theorem exec_mcsetX_own (hf : s.xgroupForeign s.cur.1 g = false) : exec (.mcsetX a b h g) s =
    .next ((s.modCore s.cur.1 (fun x => x.later
      (.xgroup g (decide (h = 1)) (mcsetXMask h (s.me.rd a).toNat (s.me.rd b).toNat) (s.myCore.task.getD 0)))).skip) := by
  refine congrArg Host.Outcome.next ((if_neg (fun q => q.2 (hy q.1))).trans ((if_neg (Bool.eq_false_iff.mp hf)).trans ?_))
  have hmask : (if h = 1 then BitVec.ofNat 128 ((s.me.rd a).toNat + 2 ^ 64 * ((s.me.rd b).toNat % 2 ^ 32))
      else BitVec.ofNat 128 ((s.me.rd a).toNat + 2 ^ 64 * (s.me.rd b).toNat)) = mcsetXMask h (s.me.rd a).toNat (s.me.rd b).toNat := by
    unfold mcsetXMask
    split <;> rfl
  rw [← hmask]
  rfl

end

theorem State.me_trap (s : State) (code : BitVec 8) (eval : Word) : (s.trap code eval).me = (s.trap code eval).thr s.cur.1 s.cur.2 := by
  have hcur : (s.trap code eval).cur = s.cur := by
    unfold State.trap State.trapAt
    dsimp only
    split <;> rfl
  rw [State.me, hcur]

/-- A trap's cause of R60 stands above the word in EVAL. -/
theorem illEval_div (word : Nat) {cause : Nat} (hc : cause < 4) : (illEval word cause).toNat / 2 ^ 32 = cause := by
  unfold illEval
  rw [BitVec.toNat_ofNat]
  omega

/-- EVAL of a refused write of group g (R181). -/
theorem accessEval_group (g : BitVec 6) : accessEval g.toNat .write = BitVec.ofNat 64 (g.toNat + 2 ^ 56) := by
  have hg := g.isLt
  have hmod : g.toNat % 2 ^ 56 = g.toNat := Nat.mod_eq_of_lt (by omega)
  rw [accessEval, hmod, Nat.mul_one]

theorem does_racecfg (s : State) (a : BitVec 5) (u : BitVec 1) :
    Does (.racecfg a u) s (fun s t => OnlyCore s.cur.1 s t ∧ t.me = { s.me with pc := s.me.pc + 4 } ∧
      (t.myCore.races[(Fin.ofNat 2 u.toNat : Fin 2)]).cfg = s.me.rd a) := by
  refine ⟨_, rfl, onlyCore_skip s _, me_skip s _ rfl, ?_⟩
  refine (congrArg (fun x : Core => (x.races[(Fin.ofNat 2 u.toNat : Fin 2)]).cfg) (core_skip s _)).trans ?_
  simp [Core.modRace, Core.setThr]

end

/-! ## RTSET at issue (R200) -/

section

variable {s : State} {a : BitVec 5} {e : BitVec 8}

theorem toNat_vaOf (v : Word) : (vaOf v).toNat = v.toNat % 2 ^ 55 := BitVec.toNat_setWidth ..

/-- RTSET waits for a walk. -/
theorem exec_rtset_walk (h : s.translate s.cur.1 ((s.me.rd a).toNat % 2 ^ 55) .read = none) (hal : (s.me.rd a).toNat % 2 ^ 55 % 32 = 0) :
    exec (.rtset a e) s = .next (s.parkMe (.walk (BitVec.ofNat 55 (s.me.rd a).toNat) .read)) := by
  have hva : BitVec.ofNat 55 ((s.me.rd a).toNat % 2 ^ 55) = BitVec.ofNat 55 (s.me.rd a).toNat := by
    apply BitVec.eq_of_toNat_eq
    simp
  show Host.Outcome.next (s.descRead _ (vaOf (s.me.rd a)).toNat 32 _) = _
  rw [State.descRead, toNat_vaOf, if_neg (not_not.mpr hal), h, hva]

/-- RTSET parks on the read of its entry image. -/
theorem exec_rtset_read {pa : Nat} (h : s.translate s.cur.1 ((s.me.rd a).toNat % 2 ^ 55) .read = some pa)
    (hal : (s.me.rd a).toNat % 2 ^ 55 % 32 = 0) :
    exec (.rtset a e) s = .next (s.parkMe (.desc (.rtset e) pa ((encode (.rtset a e)).getD 0))) := by
  show Host.Outcome.next (s.descRead _ (vaOf (s.me.rd a)).toNat 32 _) = _
  rw [State.descRead, toNat_vaOf, if_neg (not_not.mpr hal), h]

end

/-- The forms at issue: a write that waits, or a trap; RTSET first reads its image. -/
theorem routingIssue : RoutingIssue := by
  intro s a b e g h u l x y N
  refine ⟨does_later rfl, fun hh hf => ?_, fun hh hy => ?_, does_later rfl, does_racecfg s a u, fun ht hx => ?_, fun pa ht hx => ?_⟩
  · subst hh
    exact does_later (exec_mcsetX_own (fun h0 => absurd h0 (by decide)) hf)
  · obtain ⟨-, hcause, heval, -⟩ := tookTrap_trap s kILL (illEval ((encode (.mcsetX a b h g)).getD 0) 3)
    refine ⟨_, exec_mcsetX_ill hh hy, ?_⟩
    dsimp only
    rw [State.ill, State.me_trap, hcause, heval]
    exact ⟨rfl, illEval_div _ (by decide)⟩
  · exact ⟨_, exec_rtset_walk ht (by omega), parked_parkMe ..⟩
  · obtain ⟨⟨-, hmem⟩, hme⟩ := parked_parkMe s (.desc (.rtset e) pa ((encode (.rtset a e)).getD 0))
    exact ⟨_, exec_rtset_read ht (by omega), hmem, congrArg Thread.st hme, _, congrArg Thread.pend hme⟩

/-! ## The read ends (R200, R258) -/

theorem Memory.readN_succ (m : Memory) (n : Nat) : ∀ a, Memory.readN m a (n + 1) = Memory.readN m a n + (Memory.get m (a + n)).toNat * 256 ^ n := by
  induction n with
  | zero => intro a; simp [Memory.readN]
  | succ n ih =>
    intro a
    rw [Memory.readN, ih, Memory.readN, show a + 1 + n = a + (n + 1) by omega]
    ring

/-- A read without buffered stores is a read of memory. -/
theorem State.readOwn_of_empty {s : State} {c : CoreId} (h : (s.core c).wbuf = []) (pa n : Nat) : s.readOwn c pa n = Memory.readN s.hbm pa n := by
  induction n with
  | zero => rfl
  | succ n ih =>
    rw [Memory.readN_succ, ← ih]
    unfold State.readOwn
    rw [List.range_succ, List.foldl_append, h]
    rfl

section

variable {s : State} {c : CoreId} {k : Tid} {e : BitVec 8} {pa w : Nat}

/-- The core once its RTSET has read its image. -/
def Core.rtsetDone (x : Core) (k : Tid) (e : BitVec 8) (img : BitVec 256) (slot : Nat) : Core :=
  (x.later (.route e img)).setThr k ((x.thr k).next.wake slot)

variable (hst : (s.thr c k).st = .parked) (hp : (s.thr c k).pend = .desc (.rtset e) pa w)
include hst hp

theorem exec_rtsetRead_bad (hb : s.hbmBad pa 32 = true) :
    exec (.descriptorReadDone c k) s = .next (s.trapAt c k kECC (accessEval (pa / 64 * 64) .read) (s.thr c k).pc) := by
  show execDescriptorReadDone c k s = _
  unfold execDescriptorReadDone
  rw [hst, hp]
  exact if_pos hb

theorem exec_rtsetRead (hb : s.hbmBad pa 32 = false) : exec (.descriptorReadDone c k) s = .next ((s.softHbm pa 32).setCore c
    ((s.core c).rtsetDone k e (BitVec.ofNat 256 (s.readOwn c pa 32)) s.slot)) := by
  show execDescriptorReadDone c k s = _
  unfold execDescriptorReadDone
  rw [hst, hp]
  refine (if_neg (Bool.eq_false_iff.mp hb)).trans (congrArg Host.Outcome.next ?_)
  show ((s.softHbm pa 32).setCore c _).finish c k id = _
  rw [State.finish, State.modThr_eq, State.setCore_setCore, State.core_setCore]
  rfl

end

/-- A descriptor read ends: in a trap, or with the image among the writes that wait. -/
theorem descriptorRead : DescriptorRead := by
  intro s c k e pa w hst hp
  refine ⟨fun hb => ⟨_, exec_rtsetRead_bad hst hp hb, tookTrap_trapAt ..⟩, fun hb => ?_⟩
  refine ⟨_, BitVec.ofNat 256 (s.readOwn c pa 32), exec_rtsetRead hst hp hb, ⟨?_, Sys2Proof.Machine.SameMem.of_eq rfl rfl⟩, ?_, ?_,
    fun hw => ?_⟩
  · rw [State.core_setCore]
    rfl
  · show ((s.softHbm pa 32).setCore c _).thr c k = _
    rw [State.thr_setCore, Core.rtsetDone, Core.thr_setThr]
    rfl
  · rw [State.core_setCore]
    rfl
  · rw [State.readOwn_of_empty hw]

theorem core_parkMe (s : State) (p : Pend) : (s.parkMe p).core s.cur.1 = s.myCore.setThr s.cur.2 (s.me.park p) := by
  rw [State.parkMe, State.modMe_eq, State.core_setCore]
  rfl

/-- The forms complete as they issue; RTSET with its read. -/
theorem routesComplete : RoutesComplete := by
  intro s a b e g h u l pa c k x y N
  refine ⟨fun hal ht hb hw => ?_, does_later rfl, fun hf hy => does_later (exec_mcsetX_own hy hf), fun hf hy => ?_, does_later rfl,
    does_racecfg s a u⟩
  · let p : Pend := .desc (.rtset e) pa ((encode (.rtset a e)).getD 0)
    have hthr : (s.parkMe p).thr c k = { s.me with st := .parked, pend := p } := (parked_parkMe s p).2
    have hcore : (s.parkMe p).core c = s.myCore.setThr k (s.me.park p) := core_parkMe s p
    obtain ⟨-, hread⟩ := descriptorRead (s.parkMe p) c k e pa _ (congrArg Thread.st hthr) (congrArg Thread.pend hthr)
    obtain ⟨t, img, hend, -, hfin, hlate, himg⟩ := hread hb
    refine ⟨_, t, exec_rtset_read ht hal, hend,
      Sys2Proof.Machine.SameMem.of_mem (execDescriptorReadDone_leavesMem c k (s.parkMe p) t hend), ?_, ?_⟩
    · rw [Finished, hfin, hthr]
      rfl
    · rw [hlate, hcore, himg (by rw [hcore]; exact hw)]
      rfl
  · refine ⟨_, exec_mcsetX_foreign hy hf, ?_⟩
    rw [← accessEval_group]
    exact tookTrap_trap ..

/-- Settles O43: the forms at issue and at their end, the descriptor read between, and the writes at the end of the slot. -/
theorem routingForms : Obligations.RoutingForms := ⟨routingIssue, descriptorRead, routesComplete, lateWrites⟩

end Sys2Proof.Machine
end

section
/-! SUPPORT. The register forms of the sequencer: ALU (O11), multiplication (O12) and division (O13). -/

namespace Sys2Proof.Machine

open Sys2Proof.Claims

/-! ## Forms that write a register at once -/

/-- A form whose meaning is a write of Gd: the value may be written another way. -/
theorem does_put {i : Instr} {s : State} {d : BitVec 5} {v w : Word} (h : exec i s = .next (s.put d w)) (hv : w = v) :
    Does i s (fun s t => Wrote s t d v) := ⟨_, h, hv ▸ wrote_put s d w⟩

/-! ## The values of the ALU (R93) -/

theorem shiftLeft_eq_ofNat (x : Word) (k : Nat) : x <<< k = BitVec.ofNat 64 (x.toNat * 2 ^ k) := by
  apply BitVec.eq_of_toNat_eq
  rw [BitVec.toNat_shiftLeft, BitVec.toNat_ofNat, Nat.shiftLeft_eq]

theorem ushiftRight_eq_ofNat (x : Word) (k : Nat) : x >>> k = BitVec.ofNat 64 (x.toNat / 2 ^ k) := by
  apply BitVec.eq_of_toNat_eq
  rw [BitVec.toNat_ushiftRight, BitVec.toNat_ofNat, Nat.shiftRight_eq_div_pow]
  exact (Nat.mod_eq_of_lt (Nat.lt_of_le_of_lt (Nat.div_le_self _ _) x.isLt)).symm

theorem sshiftRight_eq_ofInt (x : Word) (k : Nat) : x.sshiftRight k = BitVec.ofInt 64 (x.toInt / 2 ^ k) := by
  rw [BitVec.sshiftRight, Int.shiftRight_eq_div_pow, Nat.cast_pow, Nat.cast_ofNat]

theorem minS_eq (x y : Word) : minS x y = BitVec.ofInt 64 (min x.toInt y.toInt) := by
  unfold minS
  split
  next h => rw [min_eq_left (BitVec.slt_iff_toInt_lt.mp h).le, BitVec.ofInt_toInt]
  next h => rw [min_eq_right (not_lt.mp (mt BitVec.slt_iff_toInt_lt.mpr h)), BitVec.ofInt_toInt]

theorem maxS_eq (x y : Word) : maxS x y = BitVec.ofInt 64 (max x.toInt y.toInt) := by
  unfold maxS
  split
  next h => rw [max_eq_right (BitVec.slt_iff_toInt_lt.mp h).le, BitVec.ofInt_toInt]
  next h => rw [max_eq_left (not_lt.mp (mt BitVec.slt_iff_toInt_lt.mpr h)), BitVec.ofInt_toInt]

theorem minU_eq (x y : Word) : minU x y = BitVec.ofNat 64 (min x.toNat y.toNat) := by
  unfold minU
  split
  next h => rw [min_eq_left (BitVec.ult_iff_lt.mp h).le, BitVec.ofNat_toNat, BitVec.setWidth_eq]
  next h => rw [min_eq_right (not_lt.mp (mt BitVec.ult_iff_lt.mpr h)), BitVec.ofNat_toNat, BitVec.setWidth_eq]

theorem maxU_eq (x y : Word) : maxU x y = BitVec.ofNat 64 (max x.toNat y.toNat) := by
  unfold maxU
  split
  next h => rw [max_eq_right (BitVec.ult_iff_lt.mp h).le, BitVec.ofNat_toNat, BitVec.setWidth_eq]
  next h => rw [max_eq_left (not_lt.mp (mt BitVec.ult_iff_lt.mpr h)), BitVec.ofNat_toNat, BitVec.setWidth_eq]

theorem zextw_eq (x : Word) : (x.setWidth 32).setWidth 64 = BitVec.ofNat 64 (x.toNat % 2 ^ 32) := by
  rw [← BitVec.toNat_setWidth, BitVec.ofNat_toNat]

theorem aluResults : AluResults := by
  intro s d a b n h x y k m W
  refine ⟨does_put rfl rfl, does_put rfl rfl, does_put rfl rfl, does_put rfl rfl, does_put rfl rfl, does_put rfl rfl, ?_⟩
  refine ⟨does_put rfl (shiftLeft_eq_ofNat x k), does_put rfl (ushiftRight_eq_ofNat x k), does_put rfl (sshiftRight_eq_ofInt x k), ?_⟩
  refine ⟨does_put rfl (shiftLeft_eq_ofNat x m), does_put rfl (ushiftRight_eq_ofNat x m), does_put rfl (sshiftRight_eq_ofInt x m), ?_⟩
  refine ⟨does_put rfl (minS_eq x y), does_put rfl (maxS_eq x y), does_put rfl (minU_eq x y), does_put rfl (maxU_eq x y), ?_⟩
  exact ⟨does_put rfl rfl, does_put rfl rfl, does_put rfl rfl, does_put rfl (zextw_eq x)⟩

/-! ## Bit counts (R93) -/

/-- The significant bits of a number that is not zero end in its highest one bit. -/
theorem sigBits_of_ne {n : Nat} (h : n ≠ 0) : sigBits n = n.log2 + 1 := if_neg h

theorem testBit_of_log2_lt {n i : Nat} (h : n.log2 < i) : n.testBit i = false :=
  Nat.testBit_lt_two_pow (Nat.lt_of_lt_of_le Nat.lt_log2_self (Nat.pow_le_pow_right (by decide) h))

theorem toNat_ne_zero {x : Word} (h : x ≠ 0) : x.toNat ≠ 0 := fun e => h (BitVec.eq_of_toNat_eq e)

theorem log2_lt_64 {x : Word} (h : x ≠ 0) : x.toNat.log2 < 64 := (Nat.log2_lt (toNat_ne_zero h)).mpr x.isLt

/-- Some bit of a word that is not zero is one: the highest. -/
theorem find_bit_isSome {x : Word} (h : x ≠ 0) : ((List.range 64).find? (fun i => x.getLsbD i)).isSome = true := by
  rw [List.find?_isSome]
  exact ⟨_, List.mem_range.mpr (log2_lt_64 h), Nat.testBit_log2 (toNat_ne_zero h)⟩

theorem bitCounts : BitCounts := by
  intro s d a x
  refine ⟨64 - sigBits x.toNat, ((List.range 64).find? (fun i => x.getLsbD i)).getD 64, _, does_put rfl rfl, does_put rfl rfl,
    does_put rfl rfl, fun hx => ?_, fun hx => ?_, fun hx => ?_, rfl⟩
  · rw [hx]; decide
  · have hlog := log2_lt_64 hx
    have htop : 63 - (64 - sigBits x.toNat) = x.toNat.log2 := by rw [sigBits_of_ne (toNat_ne_zero hx)]; omega
    rw [htop]
    refine ⟨by rw [sigBits_of_ne (toNat_ne_zero hx)]; omega, Nat.testBit_log2 (toNat_ne_zero hx), fun i hi => testBit_of_log2_lt hi⟩
  · obtain ⟨i, hi⟩ := Option.isSome_iff_exists.mp (find_bit_isSome hx)
    obtain ⟨hbit, hlt, hlow⟩ := List.find?_range_eq_some.mp hi
    rw [hi, Option.getD_some]
    exact ⟨List.mem_range.mp hlt, hbit, fun j hj => by simpa using hlow j hj⟩

/-- Settles O11: each form is a write of Gd, and its value is a shift, a choice or an extension of the operands. -/
theorem aluForms : Obligations.AluForms := ⟨aluResults, bitCounts⟩

/-! ## Forms that take several clocks (R92) -/

theorem does_putLater {i : Instr} {s : State} {d : BitVec 5} {v w : Word} {m n : Nat} (h : exec i s = .next (s.putLater d w m))
    (hv : w = v) (hm : m = n) : Does i s (fun s t => Later s t d v n) := ⟨_, h, hv ▸ hm ▸ later_putLater s d w m⟩

theorem mulResults : MulResults := by
  intro s d a b x y
  refine ⟨does_putLater rfl ?_ rfl, does_putLater rfl rfl rfl, does_putLater rfl rfl rfl⟩
  exact BitVec.eq_of_toNat_eq (by rw [BitVec.toNat_mul, BitVec.toNat_ofNat])

theorem exec_multiclockDone {s : State} {c : CoreId} {k : Tid} {d : BitVec 5} {v : Word} {last : Nat} (hst : (s.thr c k).st = .busy)
    (hp : (s.thr c k).pend = .result d v last) :
    exec (.multiclockDone c k) s = if last ≤ s.slot then .next (s.finish c k (fun th => th.wr d v)) else .next s := by
  show execMulticlockDone c k s = _
  rw [execMulticlockDone, hst, hp]

theorem busyEnds : BusyEnds := by
  intro s c k d v last hst hp
  rw [exec_multiclockDone hst hp]
  refine ⟨fun h => ⟨_, if_pos h, onlyThread_finish s c k _, finished_finish s c k _⟩, fun h => if_neg (not_le.mpr h)⟩

/-- Settles O12: a product waits two clocks, and the end of a count is the thread's own completion. -/
theorem busyForms : Obligations.BusyForms := ⟨mulResults, busyEnds⟩

/-! ## Division (R92, R94) -/

theorem divS_of_ne {x y : Word} (h : y ≠ 0) : divS x y = x.sdiv y := by
  rw [divS, if_neg h]
  apply BitVec.eq_of_toInt_eq
  rw [BitVec.toInt_ofInt, BitVec.toInt_sdiv]

theorem remS_of_ne {x y : Word} (h : y ≠ 0) : remS x y = x.srem y := by
  rw [remS, if_neg h, ← BitVec.toInt_srem, BitVec.ofInt_toInt]

theorem sigBits_le {n k : Nat} (h : n < 2 ^ k) : sigBits n ≤ k := by
  unfold sigBits
  split
  · exact Nat.zero_le k
  next h0 => exact (Nat.log2_lt h0).mpr h

theorem lt_two_pow_sigBits (n : Nat) : n < 2 ^ sigBits n := by
  unfold sigBits
  split
  next h => rw [h]; decide
  · exact Nat.lt_log2_self

/-- A magnitude by the clocks of its division: no smaller than its highest one bit. -/
theorem two_pow_sigBits_le {n : Nat} (h : n ≠ 0) : 2 ^ (2 + sigBits n - 3) ≤ n := by
  rw [sigBits_of_ne h, show 2 + (n.log2 + 1) - 3 = n.log2 by omega]; exact Nat.log2_self_le h

theorem natAbs_toInt_le (x : Word) : x.toInt.natAbs ≤ 2 ^ 63 := by
  have := BitVec.toInt_lt (x := x)
  have := BitVec.le_toInt x
  omega

/-- No dividend has more than 64 significant bits, so that the cap of 66 clocks is never met. -/
theorem divClocks_eq {n : Nat} (h : n < 2 ^ 64) : divClocks n = 2 + sigBits n := by
  have := sigBits_le h
  unfold divClocks; omega

theorem divClocks_signed (x : Word) : divClocks x.toInt.natAbs = 2 + sigBits x.toInt.natAbs :=
  divClocks_eq (Nat.lt_of_le_of_lt (natAbs_toInt_le x) (by decide))

theorem divCompletes : DivCompletes := by
  intro s d a b x y size D
  exact ⟨does_putLater rfl rfl (divClocks_signed x), does_putLater rfl rfl (divClocks_signed x), does_putLater rfl rfl (divClocks_eq x.isLt),
    does_putLater rfl rfl (divClocks_eq x.isLt)⟩

theorem toInt_ne_zero {x : Word} (h : x ≠ 0) : x.toInt ≠ 0 := fun e => h (BitVec.eq_of_toInt_eq (e.trans BitVec.toInt_zero.symm))

/-- The signed quotient and remainder where the quotient is a word's value (R94). -/
theorem divS_remS_spec {x y : Word} (hy : y ≠ 0) (ho : ¬(x = BitVec.ofInt 64 (-(2 ^ 63)) ∧ y = BitVec.allOnes 64)) :
    x.toInt = (divS x y).toInt * y.toInt + (remS x y).toInt ∧ (remS x y).toInt.natAbs < y.toInt.natAbs ∧
      (0 ≤ x.toInt → 0 ≤ (remS x y).toInt) ∧ (x.toInt ≤ 0 → (remS x y).toInt ≤ 0) := by
  have hq : x ≠ BitVec.intMin 64 ∨ y ≠ -1#64 := by
    refine not_and_or.mp fun h => ho ⟨h.1.trans (by decide), h.2.trans (by decide)⟩
  rw [divS_of_ne hy, remS_of_ne hy, BitVec.toInt_sdiv_of_ne_or_ne x y hq, BitVec.toInt_srem]
  have hy0 := toInt_ne_zero hy
  refine ⟨(Int.tdiv_mul_add_tmod x.toInt y.toInt).symm, ?_, fun h => Int.tmod_nonneg _ h, fun h => ?_⟩
  · rw [Int.natAbs_tmod]; exact Nat.mod_lt _ (Int.natAbs_pos.mpr hy0)
  · have := Int.tmod_nonneg y.toInt (Int.neg_nonneg.mpr h)
    rw [Int.neg_tmod] at this; omega

theorem divU_remU_spec {x y : Word} (hy : y ≠ 0) :
    x.toNat = (divU x y).toNat * y.toNat + (remU x y).toNat ∧ (remU x y).toNat < y.toNat := by
  have hpos : 0 < y.toNat := Nat.pos_of_ne_zero (toNat_ne_zero hy)
  rw [divU, remU, if_neg hy, if_neg hy, BitVec.toNat_ofNat, BitVec.toNat_ofNat,
    Nat.mod_eq_of_lt (Nat.lt_of_le_of_lt (Nat.div_le_self _ _) x.isLt), Nat.mod_eq_of_lt (Nat.lt_of_le_of_lt (Nat.mod_le _ _) x.isLt)]
  exact ⟨(Nat.div_add_mod' _ _).symm, Nat.mod_lt _ hpos⟩

theorem quotients : Quotients := by
  intro s d a b x y
  have hmag : x.toInt.natAbs < 2 ^ 64 := Nat.lt_of_le_of_lt (natAbs_toInt_le x) (by decide)
  have hn := sigBits_le hmag
  have hu := sigBits_le x.isLt
  refine ⟨divS x y, remS x y, divU x y, remU x y, 2 + sigBits x.toInt.natAbs, 2 + sigBits x.toNat, does_putLater rfl rfl (divClocks_signed x),
    does_putLater rfl rfl (divClocks_signed x), does_putLater rfl rfl (divClocks_eq x.isLt), does_putLater rfl rfl (divClocks_eq x.isLt),
    fun hy => ⟨if_pos hy, if_pos hy, if_pos hy, if_pos hy⟩, fun hx hy => ?_, fun hy ho => divS_remS_spec hy ho, fun hy => divU_remU_spec hy,
    by omega, by omega, by omega, by omega, ?_, fun hx => ?_, ?_, fun hx => ?_, fun hx => ?_⟩
  · rw [hx, hy]; exact ⟨by decide, by decide⟩
  · rw [Nat.add_sub_cancel_left]; exact lt_two_pow_sigBits _
  · exact two_pow_sigBits_le (Int.natAbs_ne_zero.mpr (toInt_ne_zero hx))
  · rw [Nat.add_sub_cancel_left]; exact lt_two_pow_sigBits _
  · exact two_pow_sigBits_le (toNat_ne_zero hx)
  · rw [hx]; decide

/-- Settles O13: the quotient and remainder are those of the integers but for the two fixed cases, and the clocks count significant bits. -/
theorem divResults : Obligations.DivResults := ⟨quotients, divCompletes⟩

end Sys2Proof.Machine
end

section
/-! SUPPORT. Compares (O14, O15), predicate forms (O16), immediate forms (O17), branches and jumps (O18, O19), trap entry (O20) and NOP (O22). -/

namespace Sys2Proof.Machine

open Sys2Proof.Claims

/-! ## Words and predicate results -/

/-- A form decodes from its word, however the word's sum is written. -/
theorem decodes {i : Instr} {v w : Nat} (hi : WellFormed i = true) (he : encode i = some w) (hv : v = w) : decodeWord v = .ok i :=
  hv ▸ (decodeWord_encode hi he).2

theorem does_putP {i : Instr} {s : State} {d : BitVec 3} {v w : Bool} (h : exec i s = .next (s.putP d w)) (hv : w = v) :
    Does i s (fun s t => WroteP s t d v) := ⟨_, h, hv ▸ wroteP_putP s d w⟩

/-! ## The relations (R95, R96) -/

theorem relEq_eq (x y : Word) : relEq x y = decide (x = y) := rfl
theorem relNe_eq (x y : Word) : relNe x y = decide (x ≠ y) := (decide_not (p := x = y)).symm
theorem relLt_eq (x y : Word) : relLt x y = decide (x.toInt < y.toInt) := rfl
theorem relLtu_eq (x y : Word) : relLtu x y = decide (x.toNat < y.toNat) := rfl
theorem relLe_eq (x y : Word) : relLe x y = decide (x.toInt ≤ y.toInt) := rfl
theorem relLeu_eq (x y : Word) : relLeu x y = decide (x.toNat ≤ y.toNat) := rfl

/-- Settles O14: each word is its form's code with the operands added, and each form writes its relation. -/
theorem compareRegisters : Obligations.CompareRegisters := by
  intro s d a b x y word W
  refine ⟨⟨decodes rfl rfl ?_, does_putP rfl (relEq_eq x y)⟩, ⟨decodes rfl rfl ?_, does_putP rfl (relNe_eq x y)⟩,
    ⟨decodes rfl rfl ?_, does_putP rfl (relLt_eq x y)⟩, ⟨decodes rfl rfl ?_, does_putP rfl (relLtu_eq x y)⟩,
    ⟨decodes rfl rfl ?_, does_putP rfl (relLe_eq x y)⟩, ⟨decodes rfl rfl ?_, does_putP rfl (relLeu_eq x y)⟩⟩
  all_goals simp only [word]; omega

/-- Settles O15: as for CMP, with the sign-extended immediate as the second operand. -/
theorem compareImmediate : Obligations.CompareImmediate := by
  intro s p a i x y word W
  refine ⟨⟨decodes rfl rfl ?_, does_putP rfl (relEq_eq x y)⟩, ⟨decodes rfl rfl ?_, does_putP rfl (relNe_eq x y)⟩,
    ⟨decodes rfl rfl ?_, does_putP rfl (relLt_eq x y)⟩, ⟨decodes rfl rfl ?_, does_putP rfl (relLtu_eq x y)⟩⟩
  all_goals simp only [word]; omega

/-! ## Predicate forms (R97) -/

theorem pset_value (v : BitVec 1) : (v == 1) = decide (v = 1) := rfl

theorem pmovg_value (x : Word) : (x != 0) = decide (x ≠ 0) := relNe_eq x 0

/-- Settles O16: each word is its form's code with the operands added, and each form writes its value. -/
theorem predicateForms : Obligations.PredicateForms := by
  intro s d a b gd ga gb v x y word P G
  refine ⟨⟨decodes rfl rfl ?_, does_putP rfl rfl⟩, ⟨decodes rfl rfl ?_, does_putP rfl rfl⟩,
    ⟨decodes rfl rfl ?_, does_putP rfl rfl⟩, ⟨decodes rfl rfl ?_, does_putP rfl rfl⟩,
    ⟨decodes rfl rfl ?_, does_putP rfl rfl⟩, ⟨decodes rfl rfl ?_, does_putP rfl (pset_value v)⟩,
    ⟨decodes rfl rfl ?_, does_put rfl rfl⟩, ⟨decodes rfl rfl ?_, does_putP rfl (pmovg_value _)⟩,
    ⟨decodes rfl rfl ?_, does_put rfl rfl⟩, s.me.rdP_zero⟩
  all_goals simp only [word]; omega

/-! ## Immediate forms (R98) -/

theorem add_simm (x : Word) (i : BitVec 16) : x + simm i = BitVec.ofInt 64 (x.toInt + i.toInt) := by
  rw [BitVec.ofInt_add, BitVec.ofInt_toInt]; rfl

theorem zimm_eq (i : BitVec 16) : zimm i = BitVec.ofNat 64 i.toNat := (BitVec.ofNat_toNat 64 i).symm

/-- LIH's value: the low 48 bits move up by 16, and the immediate takes their place. -/
theorem shiftLeft_or_zimm (x : Word) (i : BitVec 16) : x <<< 16 ||| zimm i = BitVec.ofNat 64 (x.toNat % 2 ^ 48 * 2 ^ 16 + i.toNat) := by
  have hx : x <<< 16 = BitVec.ofNat 64 (x.toNat % 2 ^ 48 * 2 ^ 16) := by
    rw [shiftLeft_eq_ofNat]
    apply BitVec.eq_of_toNat_eq
    rw [BitVec.toNat_ofNat, BitVec.toNat_ofNat]; omega
  rw [hx, zimm_eq, ← BitVec.ofNat_or, Nat.mul_comm, ← Nat.two_pow_add_eq_or_of_lt i.isLt]

/-- Settles O17: each word is its form's code with the operands added, and each form writes its value. -/
theorem immediateForms : Obligations.ImmediateForms := by
  intro s d a i x word W
  refine ⟨⟨decodes rfl rfl ?_, does_put rfl (add_simm x i)⟩, ⟨decodes rfl rfl ?_, does_put rfl (congrArg (x &&& ·) (zimm_eq i))⟩,
    ⟨decodes rfl rfl ?_, does_put rfl (congrArg (x ||| ·) (zimm_eq i))⟩, ⟨decodes rfl rfl ?_, does_put rfl (congrArg (x ^^^ ·) (zimm_eq i))⟩,
    ⟨decodes rfl rfl ?_, does_put rfl rfl⟩, ⟨decodes rfl rfl ?_, does_put rfl (shiftLeft_or_zimm _ i)⟩⟩
  all_goals simp only [word]; omega

/-! ## Branches and jumps (R99, R100) -/

/-- A target in words from a VA, in integers modulo 2^55. -/
theorem ofInt_pc_add (pc : VA) (k : Int) : BitVec.ofInt 55 (pc.toNat + 4 * k) = pc + BitVec.ofInt 55 k * 4 := by
  rw [Int.mul_comm, BitVec.ofInt_add, BitVec.ofInt_mul, BitVec.ofInt_natCast, BitVec.ofNat_toNat, BitVec.setWidth_eq]
  rfl

theorem target_eq {n : Nat} (pc : VA) (o : BitVec n) : target pc o = BitVec.ofInt 55 (pc.toNat + 4 * o.toInt) :=
  (ofInt_pc_add pc o.toInt).symm

/-- A change of PC alone. -/
theorem went_pc (s : State) (pc : VA) : Went s (s.modMe (fun t => { t with pc := pc })) pc none := by
  refine ⟨onlyMe_modMe s _, by rw [State.me_modMe], fun r => ?_, by rw [State.me_modMe]⟩
  rw [State.me_modMe]
  split
  next h => rw [h]; rfl
  · rfl

/-- A change of PC that leaves a link in G31. -/
theorem went_link (s : State) (pc : VA) (l : Word) : Went s (s.modMe (fun t => { t.wr 31 l with pc := pc })) pc (some l) := by
  refine ⟨onlyMe_modMe s _, by rw [State.me_modMe], fun r => ?_, ?_⟩
  · rw [State.me_modMe]
    refine (Thread.rd_wr s.me 31 r l).trans ?_
    split
    next h => rw [if_pos h.1]; rfl
    next h => rw [if_neg fun e => h ⟨e, by decide⟩]
  · rw [State.me_modMe]; rfl

theorem linkOf_eq {pc : VA} : linkOf pc = BitVec.ofNat 64 (pc.toNat + 4) := by
  rw [linkOf, BitVec.ofNat_add, BitVec.ofNat_toNat]; rfl

theorem does_go {i : Instr} {s : State} {pc v : VA} (h : exec i s = .next (s.modMe (fun t => { t with pc := v }))) (hv : v = pc) :
    Does i s (fun s t => Went s t pc none) := ⟨_, h, hv ▸ went_pc s v⟩

theorem does_call {i : Instr} {s : State} {pc v : VA} {l k : Word} (h : exec i s = .next (s.modMe (fun t => { t.wr 31 k with pc := v })))
    (hv : v = pc) (hk : k = l) : Does i s (fun s t => Went s t pc (some l)) := ⟨_, h, hv ▸ hk ▸ went_link s v k⟩

theorem exec_br_taken {s : State} {p : BitVec 3} {v : BitVec 1} (o : BitVec 22) (h : s.me.rdP p = decide (v = 1)) :
    exec (.br p v o) s = .next (s.modMe (fun t => { t with pc := target s.me.pc o })) := by
  have hb : s.me.rdP p = (v == 1) := h
  show execBr p v o s = _
  simp only [execBr, State.modMe, State.modThr]
  rw [show s.thr s.cur.1 s.cur.2 = s.me from rfl, if_pos hb]

theorem exec_br_not_taken {s : State} {p : BitVec 3} {v : BitVec 1} (o : BitVec 22) (h : s.me.rdP p ≠ decide (v = 1)) :
    exec (.br p v o) s = .next s.skip := by
  have hb : ¬s.me.rdP p = (v == 1) := h
  show execBr p v o s = _
  simp only [execBr, State.skip, State.modMe, State.modThr]
  rw [show s.thr s.cur.1 s.cur.2 = s.me from rfl, if_neg hb]

/-- Settles O18: each word is its form's code with the offset added, and each form goes to its target, modulo 2^55. -/
theorem branches : Obligations.Branches := by
  intro s p v o j pc dest
  refine ⟨decodes rfl rfl (by omega), decodes rfl rfl (by omega), decodes rfl rfl (by omega), ?_, ?_, ?_, fun hpc k => ?_⟩
  · by_cases h : s.me.rdP p = decide (v = 1)
    · exact does_go (exec_br_taken o h) ((target_eq s.me.pc o).trans (if_pos h).symm)
    · exact does_go (exec_br_not_taken o h) ((ofInt_pc_add s.me.pc 1).symm.trans (if_neg h).symm)
  · exact does_go rfl (target_eq s.me.pc j)
  · exact does_call rfl (target_eq s.me.pc j) linkOf_eq
  · simp only [dest, BitVec.toNat_ofInt]
    omega

/-! ## Jumps by register (R65, R100) -/

theorem accessEval_execute {a : Nat} (h : a < 2 ^ 56) : accessEval a .execute = BitVec.ofNat 64 (a + 2 * 2 ^ 56) := by
  rw [accessEval, Nat.mod_eq_of_lt h, Nat.mul_comm]

/-- A jump by register: ALIGN for a target that is no multiple of 4, else the target and the link. -/
theorem does_jumpReg {i : Instr} {s : State} {v : Word} {link : Bool} (h : exec i s = .next (s.jumpReg v link)) :
    (v.toNat % 4 = 0 → Does i s (fun s t => Went s t (v.setWidth 55) (if link then some (BitVec.ofNat 64 (s.me.pc.toNat + 4)) else none))) ∧
    (v.toNat % 4 ≠ 0 → Does i s (fun s t =>
      TookTrap s t s.cur.1 s.cur.2 kALIGN (BitVec.ofNat 64 (v.toNat % 2 ^ 55 + 2 * 2 ^ 56)) s.me.pc)) := by
  have hv := toNat_vaOf v
  refine ⟨fun ha => ⟨_, h, ?_⟩, fun ha => ⟨_, h, ?_⟩⟩
  · rw [State.jumpReg, if_neg (by omega)]
    cases link
    · exact went_pc s _
    · rw [if_pos rfl, ← linkOf_eq]; exact went_link s _ _
  · rw [State.jumpReg, if_pos (by omega), hv, State.accTrap, accessEval_execute (by omega)]
    exact tookTrap_trap s _ _

/-- Settles O19: the three forms are one jump by a register that is read before the link is written. -/
theorem registerJumps : Obligations.RegisterJumps := by
  intro s a link J
  exact ⟨decodes rfl rfl (by omega), decodes rfl rfl (by omega), decodes rfl rfl rfl, does_jumpReg (link := false) rfl, does_jumpReg (link := true) rfl,
    does_jumpReg (link := false) rfl⟩

/-! ## Trap entry and NOP -/

/-- Settles O20: the one operation by which every trap is taken. -/
theorem trapEntry : Obligations.TrapEntry := tookTrap_trapAt

/-- Settles O22. -/
theorem nopOnlyPc : Obligations.NopOnlyPc := ⟨rfl, fun s => ⟨_, rfl, skipped_skip s⟩⟩

end Sys2Proof.Machine
end

section
/-! SUPPORT. WFE, the fences, YIELD and SETROLE (O23). -/

namespace Sys2Proof.Machine

open Sys2Proof.Claims

/-! ## At issue -/

theorem does_parkMe {i : Instr} {s : State} {p : Pend} (h : exec i s = .next (s.parkMe p)) : Does i s (fun s t => Parked s t p) :=
  ⟨_, h, parked_parkMe s p⟩

theorem State.parkMe_setCore (s : State) (x : Core) (p : Pend) :
    (s.setCore s.cur.1 x).parkMe p = s.setCore s.cur.1 (x.setThr s.cur.2 ((x.thr s.cur.2).park p)) := by
  simp [State.parkMe, State.modMe_eq]

theorem waitForms : WaitForms := by
  intro s n
  refine ⟨fun h => ⟨_, congrArg Host.Outcome.next (if_pos h), onlyMe_modMe s _, State.me_modMe s _⟩,
    fun h => does_parkMe (congrArg Host.Outcome.next (if_neg (Bool.eq_false_iff.mp h))), ⟨_, rfl, skipped_skip s⟩,
    does_parkMe rfl, does_parkMe rfl, does_parkMe rfl, does_parkMe rfl, does_parkMe rfl,
    ⟨_, rfl, onlyMe_modMe s _, State.me_modMe s _⟩, ⟨_, rfl, onlyMe_modMe s _, State.me_modMe s _⟩⟩

/-! ## The end of a fence (R110, R250) -/

/-- What the end of a fence does to its core's lines: S and P drop them. -/
def State.fenced (s : State) (c : CoreId) (sc : Scope) : State := if sc = .s ∨ sc = .p then s.modCore c Core.dropLines else s

/-- A thread that waits for no load is left as it is. -/
theorem Core.thr_dropLines (x : Core) (k : Tid) (h : ∀ pa w sx d keep, (x.thr k).pend ≠ .load pa w sx d keep) :
    x.dropLines.thr k = x.thr k := by
  simp only [Core.thr] at h ⊢
  simp only [Core.dropLines, Core.mapThr, Fin.getElem_fin, Vector.getElem_ofFn]
  split
  next hl => exact absurd hl (h _ _ _ _ _)
  · rfl

theorem State.fenced_setCore (s : State) (c : CoreId) (sc : Scope) : s.fenced c sc = s.setCore c ((s.fenced c sc).core c) := by
  unfold State.fenced
  split <;> simp

theorem State.slot_fenced (s : State) (c : CoreId) (sc : Scope) : (s.fenced c sc).slot = s.slot := by
  rw [State.fenced_setCore]; rfl

theorem State.thr_fenced (s : State) {c : CoreId} {k : Tid} {sc sc' : Scope} {l : List (Nat × Nat × Nat)} (hp : (s.thr c k).pend = .fence sc' l) :
    (s.fenced c sc).thr c k = s.thr c k := by
  unfold State.fenced
  split
  · rw [State.modCore_eq, State.thr_setCore]
    refine Core.thr_dropLines _ k fun pa w sx d keep h => ?_
    rw [← State.thr_def, hp] at h
    cases h
  · rfl

theorem State.dcache_fenced (s : State) (c : CoreId) (sc : Scope) :
    ((s.fenced c sc).core c).dcache = if sc = .s ∨ sc = .p then [] else (s.core c).dcache := by
  unfold State.fenced
  split
  · rw [State.modCore_eq, State.core_setCore]; rfl
  · rfl

section ends
variable {s : State} {c : CoreId} {k : Tid} {sc : Scope} {l : List (Nat × Nat × Nat)} (hst : (s.thr c k).st = .parked)
  (hp : (s.thr c k).pend = .fence sc l)
include hst hp

theorem exec_fenceComplete_met (hm : (s.core c).fenceMet c k sc l = true) : exec (.fenceComplete c k) s = .next ((s.fenced c sc).finish c k id) := by
  show execFenceComplete c k s = _
  simp only [execFenceComplete, hst, hp]
  rw [if_pos hm]; rfl

theorem exec_fenceComplete_unmet (hm : (s.core c).fenceMet c k sc l = false) : exec (.fenceComplete c k) s = .next s := by
  show execFenceComplete c k s = _
  simp only [execFenceComplete, hst, hp]
  exact if_neg (Bool.eq_false_iff.mp hm)

omit hst in
/-- The end of a fence is the thread's completion, with the lines dropped or not. -/
theorem fenced_ends : OnlyCore c s ((s.fenced c sc).finish c k id) ∧ Finished s ((s.fenced c sc).finish c k id) c k id ∧
    (((s.fenced c sc).finish c k id).core c).dcache = if sc = .s ∨ sc = .p then [] else (s.core c).dcache := by
  have hfin := finished_finish (s.fenced c sc) c k id
  unfold Finished at hfin ⊢
  rw [State.thr_fenced s hp, State.slot_fenced] at hfin
  refine ⟨?_, hfin, ?_⟩
  · rw [State.fenced_setCore]
    unfold State.finish
    rw [State.modThr_eq, State.setCore_setCore]
    exact onlyCore_setCore ..
  · rw [← State.dcache_fenced s c sc]
    unfold State.finish
    rw [State.modThr_eq, State.core_setCore, Core.setThr_dcache]

end ends

theorem fenceEnds : FenceEnds := by
  intro s c k sc l hst hp
  exact ⟨fun hm => ⟨_, exec_fenceComplete_met hst hp hm, fenced_ends hp⟩, exec_fenceComplete_unmet hst hp⟩

/-! ## Issue and end together -/

/-- What a parked thread's end leaves, from before its issue: the thread as it was then, at the next word. -/
theorem finished_of_parked {s t : State} {p : Pend} (h : Finished (s.parkMe p) t s.cur.1 s.cur.2 id) : Finished s t s.cur.1 s.cur.2 id := by
  unfold Finished at h ⊢
  have hthr : (s.parkMe p).thr s.cur.1 s.cur.2 = s.me.park p := State.me_modMe s _
  rw [hthr] at h
  exact h

theorem onlyCore_of_parked {s t : State} {p : Pend} (h : OnlyCore s.cur.1 (s.parkMe p) t) : OnlyCore s.cur.1 s t := by
  obtain ⟨he, hh, hq⟩ := h
  refine ⟨he.trans ?_, hh, hq⟩
  rw [State.parkMe, State.modMe_eq, State.setCore_setCore]

theorem does_fence {i : Instr} {s : State} {sc : Scope} {l : List (Nat × Nat × Nat)} (h : exec i s = .next (s.parkMe (.fence sc l)))
    (hm : s.myCore.fenceMet s.cur.1 s.cur.2 sc l = true) :
    DoesBy i (.fenceComplete s.cur.1 s.cur.2) s (fun s t => OnlyCore s.cur.1 s t ∧ Finished s t s.cur.1 s.cur.2 id ∧
      (t.core s.cur.1).dcache = if sc = .s ∨ sc = .p then [] else s.myCore.dcache) := by
  have hthr : (s.parkMe (.fence sc l)).thr s.cur.1 s.cur.2 = s.me.park (.fence sc l) := State.me_modMe s _
  have hcore := core_parkMe s (.fence sc l)
  have hst : ((s.parkMe (.fence sc l)).thr s.cur.1 s.cur.2).st = .parked := by rw [hthr]; rfl
  have hp : ((s.parkMe (.fence sc l)).thr s.cur.1 s.cur.2).pend = .fence sc l := by rw [hthr]; rfl
  obtain ⟨hoc, hfin, hdc⟩ := fenced_ends hp
  rw [hcore, Core.setThr_dcache] at hdc
  exact ⟨_, _, h, exec_fenceComplete_met hst hp (by rw [hcore]; exact hm), onlyCore_of_parked hoc, finished_of_parked hfin, hdc⟩

theorem fencesComplete : FencesComplete := by
  intro s c k x F
  exact ⟨does_fence rfl, does_fence rfl, does_fence rfl, does_fence rfl, does_fence rfl⟩

/-- Settles O23: each form parks or goes on at issue, and a fence's end is the thread's completion, with the lines that S and P drop. -/
theorem systemForms : Obligations.SystemForms := ⟨waitForms, fenceEnds, fencesComplete⟩

end Sys2Proof.Machine
end

section
/-! SUPPORT. Loads (O26), stores (O27) and atomic operations at issue (O32). -/

namespace Sys2Proof.Machine

open Sys2Proof.Claims

/-! ## Addresses and values -/

theorem accessEval_read {a : Nat} (h : a < 2 ^ 56) : accessEval a .read = BitVec.ofNat 64 a := by
  rw [accessEval, Nat.mod_eq_of_lt h, Nat.mul_zero, Nat.add_zero]

theorem accessEval_write {a : Nat} (h : a < 2 ^ 56) : accessEval a .write = BitVec.ofNat 64 (a + 2 ^ 56) := by
  rw [accessEval, Nat.mod_eq_of_lt h, Nat.mul_one]

/-- A form that raises an access trap whose EVAL is the address and 2^56 for a write. -/
theorem does_accTrap {i : Instr} {s : State} {code : BitVec 8} {va : Nat} {k : Kind} {v : Word} (h : exec i s = .next (s.accTrap code va k))
    (hv : accessEval va k = v) : Does i s (fun s t => TookTrap s t s.cur.1 s.cur.2 code v s.me.pc) :=
  ⟨_, h, hv ▸ tookTrap_trap s code _⟩

theorem Thread.toNat_ea (t : Thread) (a : BitVec 5) (i : BitVec 16) : (t.ea a i).toNat = (t.rd a + i.signExtend 64).toNat % 2 ^ 55 :=
  toNat_vaOf _

theorem vaOf_eq_ofNat (v : Word) : vaOf v = BitVec.ofNat 55 (v.toNat % 2 ^ 55) := by
  rw [← toNat_vaOf, BitVec.ofNat_toNat, BitVec.setWidth_eq]

theorem sext_eq_toInt {w x : Nat} (hw : 0 < w) (hx : x < 2 ^ w) : sext w x = (BitVec.ofNat w x).toInt := by
  obtain ⟨n, rfl⟩ : ∃ n, w = n + 1 := ⟨w - 1, by omega⟩
  have hn : (BitVec.ofNat (n + 1) x).toNat = x := Nat.mod_eq_of_lt hx
  rw [sext, BitVec.toInt, hn, Nat.add_sub_cancel, Nat.pow_succ', Nat.cast_mul, Nat.cast_ofNat, Nat.cast_pow, Nat.cast_ofNat, Int.pow_succ']
  exact if_congr (by omega) rfl rfl

theorem bufByte_lt {l : List BufStore} {a b : Nat} (h : bufByte? l a = some b) : b < 256 := by
  suffices hgen : ∀ (l : List BufStore) (o : Option Nat), (∀ b ∈ o, b < 256) → ∀ b ∈ l.foldl (fun acc x =>
      if x.pa ≤ a && a < x.pa + x.w then some (x.v.toNat / 256 ^ (a - x.pa) % 256) else acc) o, b < 256 from
    hgen l none (by simp) b h
  intro l
  induction l with
  | nil => exact fun o ho => ho
  | cons x r ih =>
    intro o ho
    refine ih _ ?_
    dsimp only
    split
    · rintro b ⟨⟩; exact Nat.mod_lt _ (by decide)
    · exact ho

theorem Core.byteAt_lt {x : Core} {a b : Nat} (h : x.byteAt? a = some b) : b < 256 := by
  unfold Core.byteAt? at h
  split at h
  next hb => cases h; exact bufByte_lt hb
  next =>
    obtain ⟨l, -, rfl⟩ := Option.map_eq_some_iff.mp h
    exact Nat.mod_lt _ (by decide)

theorem Core.loadBytes_lt {x : Core} {w : Nat} : ∀ {a v : Nat}, x.loadBytes? a w = some v → v < 256 ^ w := by
  induction w with
  | zero => rintro a v ⟨⟩; decide
  | succ w ih =>
    intro a v h
    unfold Core.loadBytes? at h
    split at h
    next b r hb hr =>
      cases h
      have := Core.byteAt_lt hb
      have := ih hr
      rw [Nat.pow_succ']; omega
    next => cases h

/-- The extended value (R244) of a number that w bytes hold. -/
theorem extend_eq {w v : Nat} (hw : 0 < w) (hv : v < 256 ^ w) (sx : Bool) :
    extend w sx v = if sx then BitVec.ofInt 64 (BitVec.ofNat (8 * w) v).toInt else BitVec.ofNat 64 v := by
  rw [extend, sext_eq_toInt (by omega) (by rw [Nat.pow_mul]; exact hv)]

/-! ## Loads (R244, R245) -/

section load
variable {i : Instr} {s : State} {d a : BitVec 5} {imm : BitVec 16} {w : Nat} {sx : Bool} (h : exec i s = .next (s.load d a imm w sx))
include h

theorem exec_load_misaligned (ha : (s.me.ea a imm).toNat % w ≠ 0) : exec i s = .next (s.accTrap kALIGN (s.me.ea a imm).toNat .read) :=
  h.trans (congrArg Host.Outcome.next (if_pos ha))

variable (ha : (s.me.ea a imm).toNat % w = 0)
include ha

theorem exec_load_aligned : exec i s = .next (match s.translate s.cur.1 (s.me.ea a imm).toNat .read with
    | none => s.parkMe (.walk (s.me.ea a imm) .read)
    | some pa => s.loadPA pa w sx d) :=
  h.trans (congrArg Host.Outcome.next (if_neg (not_not.mpr ha)))

theorem exec_load_walk (ht : s.translate s.cur.1 (s.me.ea a imm).toNat .read = none) :
    exec i s = .next (s.parkMe (.walk (s.me.ea a imm) .read)) := by
  rw [exec_load_aligned h ha, ht]

theorem exec_load_hit {pa v : Nat} (ht : s.translate s.cur.1 (s.me.ea a imm).toNat .read = some pa) (hv : s.myCore.loadBytes? pa w = some v) :
    exec i s = .next (s.put d (extend w sx v)) := by
  simp only [exec_load_aligned h ha, ht, State.loadPA, hv]

theorem exec_load_miss {pa : Nat} (ht : s.translate s.cur.1 (s.me.ea a imm).toNat .read = some pa) (hv : s.myCore.loadBytes? pa w = none) :
    exec i s = .next (s.parkMe (.load pa w sx d true)) := by
  simp only [exec_load_aligned h ha, ht, State.loadPA, hv]

end load

/-- Settles O26: every load is one operation, which checks, translates and reads in this order. -/
theorem loads : Obligations.Loads := by
  intro s d a i va L
  have hea : (s.me.ea a i).toNat = va := s.me.toNat_ea a i
  have hva : va < 2 ^ 55 := Nat.mod_lt _ (by decide)
  have one : ∀ (j : Instr) (w : Nat) (sx : Bool), 0 < w → exec j s = .next (s.load d a i w sx) → L j w sx := by
    intro j w sx hw h
    refine ⟨fun ha => ?_, fun ha ht => ?_, fun pa ha ht => ⟨fun v hv => ?_, fun hv => ?_⟩⟩
    · exact does_accTrap (exec_load_misaligned h (hea ▸ ha)) (by rw [hea, accessEval_read (by omega)])
    · exact does_parkMe ((vaOf_eq_ofNat _) ▸ exec_load_walk h (hea ▸ ha) (hea ▸ ht))
    · exact does_put (exec_load_hit h (hea ▸ ha) (hea ▸ ht) hv) (extend_eq hw (Core.loadBytes_lt hv) sx)
    · exact does_parkMe (exec_load_miss h (hea ▸ ha) (hea ▸ ht) hv)
  exact ⟨one _ 1 true (by decide) rfl, one _ 2 true (by decide) rfl, one _ 4 true (by decide) rfl, one _ 8 false (by decide) rfl,
    one _ 1 false (by decide) rfl, one _ 2 false (by decide) rfl, one _ 4 false (by decide) rfl⟩

/-! ## Stores (R244, R245) -/

theorem storePA_of_place {s : State} {va pa w : Nat} {v : Word} (hl : s.myCore.wbuf.length < 8) :
    s.storePA va pa w v = (s.setCore s.cur.1 (s.myCore.bufferStore s.cur.2 va pa w v)).skip := if_pos hl

theorem storePA_of_full {s : State} {va pa w : Nat} {v : Word} (hl : 8 ≤ s.myCore.wbuf.length) :
    s.storePA va pa w v = s.setCore s.cur.1 ((s.myCore.enqueueWait s.cur.2).setThr s.cur.2 (s.me.park (.store va pa w v))) := by
  exact (if_neg (not_lt.mpr hl)).trans (State.parkMe_setCore s (s.myCore.enqueueWait s.cur.2) _)

section store
variable {i : Instr} {s : State} {d a : BitVec 5} {imm : BitVec 16} {w : Nat} (h : exec i s = .next (s.store d a imm w))
include h

theorem exec_store_misaligned (ha : (s.me.ea a imm).toNat % w ≠ 0) : exec i s = .next (s.accTrap kALIGN (s.me.ea a imm).toNat .write) :=
  h.trans (congrArg Host.Outcome.next (if_pos ha))

variable (ha : (s.me.ea a imm).toNat % w = 0)
include ha

theorem exec_store_aligned : exec i s = .next (match s.translate s.cur.1 (s.me.ea a imm).toNat .write with
    | none => s.parkMe (.walk (s.me.ea a imm) .write)
    | some pa => s.storePA (s.me.ea a imm).toNat pa w (BitVec.ofNat 64 ((s.me.rd d).toNat % 2 ^ (8 * w)))) :=
  h.trans (congrArg Host.Outcome.next (if_neg (not_not.mpr ha)))

theorem exec_store_walk (ht : s.translate s.cur.1 (s.me.ea a imm).toNat .write = none) :
    exec i s = .next (s.parkMe (.walk (s.me.ea a imm) .write)) := by
  rw [exec_store_aligned h ha, ht]

theorem exec_store_translated {pa : Nat} (ht : s.translate s.cur.1 (s.me.ea a imm).toNat .write = some pa) :
    exec i s = .next (s.storePA (s.me.ea a imm).toNat pa w (BitVec.ofNat 64 ((s.me.rd d).toNat % 2 ^ (8 * w)))) := by
  rw [exec_store_aligned h ha, ht]

end store

/-- Settles O27: every store is one operation, which checks, translates and then takes a place or waits for one. -/
theorem stores : Obligations.Stores := by
  intro s d a i va S
  have hea : (s.me.ea a i).toNat = va := s.me.toNat_ea a i
  have hva : va < 2 ^ 55 := Nat.mod_lt _ (by decide)
  have one : ∀ (j : Instr) (w : Nat), exec j s = .next (s.store d a i w) → S j w := by
    intro j w h
    refine ⟨fun ha => ?_, fun ha ht => ?_, fun pa ha ht => ⟨fun hl => ?_, fun hl => ?_⟩⟩
    · exact does_accTrap (exec_store_misaligned h (hea ▸ ha)) (by rw [hea, accessEval_write (by omega)])
    · exact does_parkMe ((vaOf_eq_ofNat _) ▸ exec_store_walk h (hea ▸ ha) (hea ▸ ht))
    · refine ⟨_, exec_store_translated h (hea ▸ ha) (hea ▸ ht), ?_⟩
      rw [storePA_of_place hl, hea]
      refine ⟨onlyCore_skip s _, me_skip s _ rfl, ?_⟩
      exact congrArg Core.wbuf (core_skip s _)
    · refine ⟨_, exec_store_translated h (hea ▸ ha) (hea ▸ ht), ?_⟩
      rw [storePA_of_full hl, hea]
      refine ⟨onlyCore_setCore .., ?_, ?_, ?_⟩
      · rw [State.me_setCore, Core.thr_setThr]; rfl
      · rw [State.myCore_setCore]; rfl
      · rw [State.myCore_setCore]; rfl
  exact ⟨one _ 1 rfl, one _ 2 rfl, one _ 4 rfl, one _ 8 rfl⟩

/-! ## Atomic operations (R247, R248) -/

/-- The bytes of an AMO's operands: those of its location, but for FXADD, whose addend is a register. -/
def amoOperandBytes (op : AmoOp) (wide : BitVec 1) : Nat := match op with | .fxadd => 8 | _ => amoBytes op wide

/-- An operand of an AMO as it issues: the low bytes of a register. -/
def Thread.amoOperand (t : Thread) (op : AmoOp) (wide : BitVec 1) (r : BitVec 5) : Word :=
  BitVec.ofNat 64 ((t.rd r).toNat % 2 ^ (8 * amoOperandBytes op wide))

theorem State.amo_va (s : State) (op : AmoOp) (d a b : BitVec 5) (wide : BitVec 1) :
    s.amo op d a b 0 wide = if (vaOf (s.me.rd a)).toNat % amoBytes op wide ≠ 0 then s.accTrap kALIGN (vaOf (s.me.rd a)).toNat .write
      else match s.translate s.cur.1 (vaOf (s.me.rd a)).toNat .write with
        | none => s.parkMe (.walk (vaOf (s.me.rd a)) .write)
        | some pa => s.parkMe (.amo op (amoBytes op wide) false pa (s.me.amoOperand op wide b) d (s.me.amoOperand op wide d) false
            (vaOf (s.me.rd a)).toNat) := rfl

theorem State.amo_pool (s : State) (op : AmoOp) (d a b : BitVec 5) (wide : BitVec 1) :
    s.amo op d a b 1 wide = if (s.me.rd a).toNat % 2 ^ 28 % amoBytes op wide ≠ 0 then s.accTrap kALIGN ((s.me.rd a).toNat % 2 ^ 28) .write
      else if poolCore ((s.me.rd a).toNat % 2 ^ 28) ≠ s.cur.1.val ∨ 48 ≤ poolBank ((s.me.rd a).toNat % 2 ^ 28) then
        s.accTrap kPROT ((s.me.rd a).toNat % 2 ^ 28) .write
      else s.parkMe (.amo op (amoBytes op wide) true ((s.me.rd a).toNat % 2 ^ 28) (s.me.amoOperand op wide b) d (s.me.amoOperand op wide d)
        false 0) := rfl

section amo
variable {i : Instr} {s : State} {op : AmoOp} {d a b : BitVec 5} {wide : BitVec 1}

section va
variable (h : exec i s = .next (s.amo op d a b 0 wide))
include h

theorem exec_amo_misaligned (ha : (vaOf (s.me.rd a)).toNat % amoBytes op wide ≠ 0) :
    exec i s = .next (s.accTrap kALIGN (vaOf (s.me.rd a)).toNat .write) := by
  rw [h, State.amo_va, if_pos ha]

variable (ha : (vaOf (s.me.rd a)).toNat % amoBytes op wide = 0)
include ha

theorem exec_amo_walk (ht : s.translate s.cur.1 (vaOf (s.me.rd a)).toNat .write = none) :
    exec i s = .next (s.parkMe (.walk (vaOf (s.me.rd a)) .write)) := by
  rw [h, State.amo_va, if_neg (not_not.mpr ha), ht]

theorem exec_amo_va {pa : Nat} (ht : s.translate s.cur.1 (vaOf (s.me.rd a)).toNat .write = some pa) :
    exec i s = .next (s.parkMe (.amo op (amoBytes op wide) false pa (s.me.amoOperand op wide b) d (s.me.amoOperand op wide d) false
      (vaOf (s.me.rd a)).toNat)) := by
  rw [h, State.amo_va, if_neg (not_not.mpr ha), ht]

end va

section pool
variable {p : Nat} (h : exec i s = .next (s.amo op d a b 1 wide)) (hp : (s.me.rd a).toNat % 2 ^ 28 = p)
include h hp

theorem exec_amo_pool_misaligned (ha : p % amoBytes op wide ≠ 0) : exec i s = .next (s.accTrap kALIGN p .write) := by
  rw [h, State.amo_pool, hp, if_pos ha]

theorem exec_amo_pool_foreign (ha : p % amoBytes op wide = 0) (hb : poolCore p ≠ s.cur.1.val ∨ 48 ≤ poolBank p) :
    exec i s = .next (s.accTrap kPROT p .write) := by
  rw [h, State.amo_pool, hp, if_neg (not_not.mpr ha), if_pos hb]

theorem exec_amo_pool (ha : p % amoBytes op wide = 0) (hb : ¬(poolCore p ≠ s.cur.1.val ∨ 48 ≤ poolBank p)) :
    exec i s = .next (s.parkMe (.amo op (amoBytes op wide) true p (s.me.amoOperand op wide b) d (s.me.amoOperand op wide d) false 0)) := by
  rw [h, State.amo_pool, hp, if_neg (not_not.mpr ha), if_neg hb]

end pool
end amo

/-- The core of a pool address (R237). -/
theorem poolCore_of_lt {p : Nat} (h : p < 2 ^ 28) : poolCore p = p / 2 ^ 22 := by unfold poolCore; omega

/-- Settles O32: every AMO is one operation at issue, in either space. -/
theorem atomicIssue : Obligations.AtomicIssue := by
  intro s d a b wide A W
  have hva := toNat_vaOf (s.me.rd a)
  have hvlt : (s.me.rd a).toNat % 2 ^ 55 < 2 ^ 55 := Nat.mod_lt _ (by decide)
  have hplt : (s.me.rd a).toNat % 2 ^ 28 < 2 ^ 28 := Nat.mod_lt _ (by decide)
  have hcore := poolCore_of_lt hplt
  have one : ∀ (j : BitVec 1 → Instr) (op : AmoOp) (wd : BitVec 1), (∀ sp, exec (j sp) s = .next (s.amo op d a b sp wd)) →
      A j op (amoBytes op wd) (amoOperandBytes op wd) := by
    intro j op wd h
    refine ⟨fun ha => ?_, fun ha ht => ?_, fun pa ha ht => ?_, fun ha => ?_, fun ha hb => ?_, fun ha hb hc => ?_⟩
    · exact does_accTrap (exec_amo_misaligned (h 0) (hva ▸ ha)) (by rw [hva, accessEval_write (by omega)])
    · exact does_parkMe ((vaOf_eq_ofNat _) ▸ exec_amo_walk (h 0) (hva ▸ ha) (hva ▸ ht))
    · exact does_parkMe ((exec_amo_va (h 0) (hva ▸ ha) (hva ▸ ht)).trans (by rw [hva]; rfl))
    · exact does_accTrap (exec_amo_pool_misaligned (h 1) rfl ha) (accessEval_write (by omega))
    · exact does_accTrap (exec_amo_pool_foreign (h 1) rfl ha (hcore ▸ hb)) (accessEval_write (by omega))
    · exact does_parkMe (exec_amo_pool (h 1) rfl ha (by rw [hcore]; exact not_or.mpr ⟨not_not.mpr hb, not_le.mpr hc⟩))
  exact ⟨one (fun sp => .aadd d a b sp wide) .add wide fun _ => rfl, one (fun sp => .aand d a b sp wide) .and wide fun _ => rfl,
    one (fun sp => .aor d a b sp wide) .or wide fun _ => rfl, one (fun sp => .axor d a b sp wide) .xor wide fun _ => rfl,
    one (fun sp => .amin d a b sp wide) .min wide fun _ => rfl, one (fun sp => .amax d a b sp wide) .max wide fun _ => rfl,
    one (fun sp => .aminu d a b sp wide) .minu wide fun _ => rfl, one (fun sp => .amaxu d a b sp wide) .maxu wide fun _ => rfl,
    one (fun sp => .axchg d a b sp wide) .xchg wide fun _ => rfl, one (fun sp => .acas d a b sp wide) .cas wide fun _ => rfl,
    one (fun sp => .fxaddAmo d a b sp) .fxadd 1 fun _ => rfl⟩

end Sys2Proof.Machine
end

section
/-! SUPPORT. Line fills of the two caches, and the prefetches (O29). -/

namespace Sys2Proof.Machine

open Sys2Proof.Claims

/-! ## Bytes of a line (R2, R245) -/

/-- The number whose n digits to a base are f 0, f 1, ... -/
def digitSum (base : Nat) (f : Nat → Nat) (n : Nat) : Nat := (List.range n).foldl (fun acc i => acc + f i * base ^ i) 0

theorem digitSum_succ (base : Nat) (f : Nat → Nat) (n : Nat) : digitSum base f (n + 1) = digitSum base f n + f n * base ^ n := by
  simp [digitSum, List.range_succ, List.foldl_append]

section digits
variable {base : Nat} {f : Nat → Nat} (hf : ∀ i, f i < base)
include hf

theorem digitSum_lt (n : Nat) : digitSum base f n < base ^ n := by
  induction n with
  | zero => exact Nat.one_pos
  | succ n ih =>
    have hmul : (f n + 1) * base ^ n ≤ base * base ^ n := Nat.mul_le_mul_right _ (hf n)
    rw [Nat.succ_mul] at hmul
    rw [digitSum_succ, Nat.pow_succ']; omega

theorem digitSum_digit {n j : Nat} (hj : j < n) : digitSum base f n / base ^ j % base = f j := by
  have hpos : 0 < base := Nat.lt_of_le_of_lt (Nat.zero_le _) (hf 0)
  induction n with
  | zero => omega
  | succ n ih =>
    rw [digitSum_succ]
    rcases Nat.lt_succ_iff_lt_or_eq.mp hj with h | rfl
    · obtain ⟨m, rfl⟩ : ∃ m, n = j + 1 + m := ⟨n - (j + 1), by omega⟩
      rw [show f (j + 1 + m) * base ^ (j + 1 + m) = base ^ j * (base * (f (j + 1 + m) * base ^ m)) by rw [Nat.pow_add, Nat.pow_succ]; ring,
        Nat.add_mul_div_left _ _ (Nat.pow_pos hpos), Nat.add_mul_mod_self_left, ih h]
    · rw [Nat.add_mul_div_right _ _ (Nat.pow_pos hpos), Nat.div_eq_of_lt (digitSum_lt hf j), Nat.zero_add, Nat.mod_eq_of_lt (hf j)]

end digits

/-- A byte of a field that whole bytes bound. -/
theorem getBits_byte {n : Nat} (x : BitVec n) (k : Nat) {w i : Nat} (hi : i < w) :
    getBits x (8 * k) (8 * w) / 256 ^ i % 256 = x.toNat / 256 ^ (k + i) % 256 := by
  obtain ⟨m, rfl⟩ : ∃ m, w = i + (m + 1) := ⟨w - i - 1, by omega⟩
  have h256 : ∀ j, (2 : Nat) ^ (8 * j) = 256 ^ j := fun j => Nat.pow_mul 2 8 j
  rw [getBits, h256, h256, Nat.pow_add 256 i, Nat.mod_mul_right_div_self, Nat.div_div_eq_div_mul, ← Nat.pow_add, Nat.pow_succ']
  exact Nat.mod_mul_right_mod _ _ _

/-- A line's width in bits and in bytes. -/
theorem two_pow_line : (2 : Nat) ^ 512 = 256 ^ 64 := by
  rw [show (512 : Nat) = 8 * 64 from rfl, Nat.pow_mul]

theorem toNat_ofNat_line (n : Nat) : (BitVec.ofNat 512 n).toNat = n % 256 ^ 64 :=
  (BitVec.toNat_ofNat n 512).trans (congrArg (n % ·) two_pow_line)

/-- A byte of HBM's own line. -/
theorem State.hbmLine_byte (s : State) (no : Nat) {j : Nat} (hj : j < 64) :
    (s.hbmLine no).toNat / 256 ^ j % 256 = (Memory.get s.hbm (64 * no + j)).toNat := by
  have hb := congrArg BitVec.toNat (Memory.byte_readN s.hbm 64 (64 * no) j hj)
  have hpow : (256 : Nat) ^ 64 = 256 ^ j * (256 * 256 ^ (63 - j)) := by
    rw [← Nat.pow_succ', ← Nat.pow_add, show j + (63 - j + 1) = 64 by omega]
  rw [BitVec.toNat_ofNat] at hb
  rw [State.hbmLine, toNat_ofNat_line, hpow, Nat.mod_mul_right_div_self, Nat.mod_mul_right_mod]
  exact hb

/-- What a thread of the core reads at an address whose line is filled: the youngest buffered store's byte, else that of HBM (R245). -/
def State.coveredByte (s : State) (b : List BufStore) (a : Nat) : Nat := (bufByte? b a).getD (Memory.get s.hbm a).toNat

theorem State.coveredByte_lt (s : State) (b : List BufStore) (a : Nat) : s.coveredByte b a < 256 := by
  unfold State.coveredByte
  cases h : bufByte? b a with
  | none => exact (Memory.get s.hbm a).isLt
  | some v => exact bufByte_lt h

/-- A merged line holds the bytes that its core's threads see. -/
theorem State.mergeLine_byte (s : State) (b : List BufStore) (no : Nat) {j : Nat} (hj : j < 64) :
    (mergeLine b no (s.hbmLine no)).toNat / 256 ^ j % 256 = s.coveredByte b (64 * no + j) := by
  cases b with
  | nil => exact s.hbmLine_byte no hj
  | cons x r =>
    have hlt := fun i => s.coveredByte_lt (x :: r) (64 * no + i)
    have hsum : mergeLine (x :: r) no (s.hbmLine no) = BitVec.ofNat 512 (digitSum 256 (fun i => s.coveredByte (x :: r) (64 * no + i)) 64) := by
      rw [mergeLine, if_neg (by simp)]
      refine congrArg (BitVec.ofNat 512) (List.foldl_ext _ _ _ fun acc i hi => ?_)
      have hline : getBits (s.hbmLine no) (8 * i) 8 = (Memory.get s.hbm (64 * no + i)).toNat := by
        rw [← s.hbmLine_byte no (List.mem_range.mp hi), getBits, Nat.pow_mul]
        rfl
      simp only [hline, State.coveredByte]
      cases bufByte? (x :: r) (64 * no + i) <;> rfl
    rw [hsum, toNat_ofNat_line, Nat.mod_eq_of_lt (digitSum_lt hlt 64), digitSum_digit hlt hj]

/-! ## A data-cache line fill (R91, R245, R258) -/

/-- A fill of line no with data: its correctable errors corrected, and the line installed unless a fence dropped the fill (R250). -/
def State.dfilled (s : State) (c : CoreId) (no : Nat) (data : BitVec 512) (keep : Bool) : State :=
  let u := s.softHbm (no * 64) 64
  if keep then (u.modCore c (fun k => { k with dcache := installLine k.dcache { no := no, data := data } u.fresh })).tickFresh else u

section dfilled
variable (s : State) (c : CoreId) (no : Nat) (data : BitVec 512) (keep : Bool)

theorem State.mem_dfilled : (s.dfilled c no data keep).mem = s.mem := by cases keep <;> rfl

theorem State.slot_dfilled : (s.dfilled c no data keep).slot = s.slot := by cases keep <;> rfl

theorem State.thr_dfilled (k : Tid) : (s.dfilled c no data keep).thr c k = s.thr c k := by
  cases keep
  · rfl
  · have hcore : (s.dfilled c no data true).core c = { s.core c with dcache := installLine (s.core c).dcache { no := no, data := data } s.fresh } :=
      State.core_setCore ..
    rw [State.thr, hcore]; rfl

end dfilled

section dfill
variable {s : State} {c : CoreId} {k : Tid} {pa w : Nat} {sx keep : Bool} {d : BitVec 5} (hst : (s.thr c k).st = .parked)
  (hp : (s.thr c k).pend = .load pa w sx d keep)
include hst hp

theorem exec_dcacheLineFill_early (hr : s.slot < (s.thr c k).readyAt) : exec (.dcacheLineFill c k) s = .next s := by
  show execDcacheLineFill c k s = _
  simp only [execDcacheLineFill, hst, hp]
  exact if_pos hr

variable (hr : (s.thr c k).readyAt ≤ s.slot) (hl : (s.core c).loadBytes? pa w = none)
include hr hl

theorem exec_dcacheLineFill_bad (hb : s.lineBad (pa / 64) = true) :
    exec (.dcacheLineFill c k) s = .next (s.trapAt c k kECC (accessEval (pa / 64 * 64) .read) (s.thr c k).pc) := by
  show execDcacheLineFill c k s = _
  simp only [execDcacheLineFill, hst, hp, hl, hb, if_neg (not_lt.mpr hr), if_true]

theorem exec_dcacheLineFill_good (hb : s.lineBad (pa / 64) = false) :
    exec (.dcacheLineFill c k) s =
      .next ((s.dfilled c (pa / 64) (mergeLine (s.core c).wbuf (pa / 64) (s.hbmLine (pa / 64))) keep).finish c k (fun th =>
        th.wr d (extend w sx (getBits (mergeLine (s.core c).wbuf (pa / 64) (s.hbmLine (pa / 64))) (8 * (pa % 64)) (8 * w))))) := by
  show execDcacheLineFill c k s = _
  simp only [execDcacheLineFill, hst, hp, hl, hb, if_neg (not_lt.mpr hr), Bool.false_eq_true, if_false]
  rfl

end dfill

/-- A completion after changes that leave the thread and the slot is the thread's completion. -/
theorem finished_of_kept {s u : State} {c : CoreId} {k : Tid} (f : Thread → Thread) (ht : u.thr c k = s.thr c k) (hs : u.slot = s.slot) :
    Finished s (u.finish c k f) c k f := by
  have h := finished_finish u c k f
  unfold Finished at h ⊢
  rw [ht, hs] at h
  exact h

theorem dataFill : DataFill := by
  intro s c k pa w sx keep d hst hp hl hw ha
  refine ⟨exec_dcacheLineFill_early hst hp, fun hr => ⟨fun hb => ⟨_, exec_dcacheLineFill_bad hst hp hr hl hb, tookTrap_trapAt ..⟩, fun hb => ?_⟩⟩
  refine ⟨_, _, exec_dcacheLineFill_good hst hp hr hl hb, SameMem.of_mem ((State.mem_finish ..).trans (s.mem_dfilled ..)),
    finished_of_kept _ (s.thr_dfilled ..) (s.slot_dfilled ..), fun i hi => ?_⟩
  have hin : pa % 64 + i < 64 := by rcases hw with rfl | rfl | rfl | rfl <;> omega
  rw [getBits_byte _ _ hi, s.mergeLine_byte _ _ hin, show 64 * (pa / 64) + (pa % 64 + i) = pa + i by omega, State.coveredByte]
  cases bufByte? (s.core c).wbuf (pa + i) <;> rfl

/-! ## An instruction-cache line fill (R91, R236) -/

theorem find_append_of_none {α : Type} {p : α → Bool} {l : List α} {x : α} (hl : ∀ y ∈ l, p y = false) (hx : p x = true) :
    (l ++ [x]).find? p = some x := by
  rw [List.find?_append, List.find?_eq_none.mpr (fun y hy => by simp [hl y hy]), List.find?_cons_of_pos hx]
  rfl

/-- A line that is installed is the one found under its number. -/
theorem findLine_installLine (l : List Line) (x : Line) (n : Nat) : findLine (installLine l x n) x.no = some x := by
  have hother : ∀ y ∈ l.filter (fun y => y.no != x.no), (y.no == x.no) = false := by
    intro y hy
    have := (List.mem_filter.mp hy).2
    simpa using this
  have happ : ∀ q : Line → Bool, findLine ((l.filter (fun y => y.no != x.no)).filter q ++ [x]) x.no = some x := fun q =>
    find_append_of_none (fun y hy => hother y (List.mem_filter.mp hy).1) (by simp)
  unfold installLine
  dsimp only
  split
  · exact find_append_of_none hother (by simp)
  · split
    · exact happ _
    · exact find_append_of_none hother (by simp)

section ifill
variable {s : State} {c : CoreId} {k : Tid} {line : Nat} (hst : (s.thr c k).st = .parked) (hp : (s.thr c k).pend = .ifetch line)
include hst hp

theorem exec_icacheLineFill_bad (hb : s.lineBad line = true) :
    exec (.icacheLineFill c k) s = .next (s.trapAt c k kECC (accessEval (64 * line) .execute) (s.thr c k).pc) := by
  show execIcacheLineFill c k s = _
  simp only [execIcacheLineFill, hst, hp, hb, if_true]

theorem exec_icacheLineFill_good (hb : s.lineBad line = false) :
    exec (.icacheLineFill c k) s = .next (((s.softHbm (64 * line) 64).setCore c
      (({ s.core c with icache := installLine (s.core c).icache { no := line, data := s.hbmLine line } s.fresh }).setThr k ((s.thr c k).wake s.slot)
        )).tickFresh) := by
  show execIcacheLineFill c k s = _
  simp only [execIcacheLineFill, hst, hp, hb, Bool.false_eq_true, if_false, State.modCore_eq, State.modThr_eq, State.core_setCore,
    State.setCore_setCore]
  rfl

end ifill

theorem fetchFill : FetchFill := by
  intro s c k line hst hp
  refine ⟨fun hb => ⟨_, exec_icacheLineFill_bad hst hp hb, tookTrap_trapAt ..⟩, fun hb => ⟨_, exec_icacheLineFill_good hst hp hb,
    SameMem.of_mem rfl, ?_, { no := line, data := s.hbmLine line }, ?_, rfl⟩⟩
  · rw [State.thr, State.core_tickFresh, State.core_setCore, Core.thr_setThr]; rfl
  · rw [State.core_tickFresh, State.core_setCore, Core.setThr_icache]
    exact findLine_installLine _ { no := line, data := s.hbmLine line } _

/-! ## Prefetches (R249) -/

/-- Nothing of core c differs but its TLB and its data cache, as the steps of a prefetch leave it; with keepData, neither does the data cache. -/
structure Prefetched (keepData : Prop) (c : CoreId) (s t : State) : Prop where
  cur : t.cur = s.cur
  core : ∃ tlb dcache, t.core c = { s.core c with tlb := tlb, dcache := dcache } ∧ (keepData → dcache = (s.core c).dcache)

theorem Prefetched.refl (p : Prop) (c : CoreId) (s : State) : Prefetched p c s s := ⟨rfl, _, _, rfl, fun _ => rfl⟩

theorem Prefetched.trans {p : Prop} {c : CoreId} {s t u : State} (h : Prefetched p c s t) (g : Prefetched p c t u) : Prefetched p c s u := by
  obtain ⟨hc, l, m, hcore, hm⟩ := h
  obtain ⟨gc, l', m', gcore, gm⟩ := g
  rw [hcore] at gcore gm
  exact ⟨gc.trans hc, l', m', gcore, fun hp => (gm hp).trans (hm hp)⟩

theorem Prefetched.of_aside {p : Prop} {c : CoreId} {s t : State} (h : Aside s t) : Prefetched p c s t :=
  ⟨by rw [h.eq], _, _, h.core _, fun _ => rfl⟩

/-- The entry that a prefetch's walk finds enters the TLB, unless the walk would change it. -/
def State.prefetchXlat (s : State) (c : CoreId) (va : VA) (line : Bool) : State :=
  match s.walk c va.toNat (if line then .read else .write) with
  | .leaf _ _ changed level frame w x d =>
    if changed then s
    else s.modCore c (fun k => { k with tlb := tlbFill k.tlb (xlatOf va.toNat level frame w x d (s.tenantOf c)) s.fresh })
  | _ => s

/-- The line of a prefetch for a read enters the data cache, unless it is there or holds an error. -/
def State.prefetchData (s : State) (c : CoreId) (va : VA) : State :=
  match s.translate c va.toNat .read with
  | some pa =>
    if (findLine (s.core c).dcache (pa / 64)).isSome || s.lineBad (pa / 64) then s
    else (s.softHbm (pa / 64 * 64) 64).modCore c (fun k => { k with
      dcache := installLine k.dcache { no := pa / 64, data := mergeLine k.wbuf (pa / 64) (s.hbmLine (pa / 64)) } s.fresh })
  | none => s

theorem prefetched_xlat (p : Prop) (s : State) (c : CoreId) (va : VA) (line : Bool) : Prefetched p c s (s.prefetchXlat c va line) := by
  unfold State.prefetchXlat
  split
  · split
    · exact .refl p c s
    · exact ⟨rfl, _, _, State.core_setCore .., fun _ => rfl⟩
  · exact .refl p c s

theorem prefetched_data (s : State) (c : CoreId) (va : VA) : Prefetched False c s (s.prefetchData c va) := by
  unfold State.prefetchData
  split
  · split
    · exact .refl _ c s
    · exact ⟨rfl, _, _, State.core_setCore .., False.elim⟩
  · exact .refl _ c s

/-- A prefetch that fills: the walk, the TLB entry and the line. -/
def State.prefetchFill (s : State) (c : CoreId) (va : VA) (line : Bool) : State :=
  let u := (s.walked c va.toNat).prefetchXlat c va line
  if line then u.prefetchData c va else u

theorem prefetched_fill (s : State) (c : CoreId) (va : VA) (line : Bool) : Prefetched (line = false) c s (s.prefetchFill c va line) := by
  have hx : ∀ p, Prefetched p c s ((s.walked c va.toNat).prefetchXlat c va line) := fun p =>
    (Prefetched.of_aside (aside_walked s _ _)).trans (prefetched_xlat p _ c va line)
  cases line
  · exact hx _
  · obtain ⟨hc, l, m, hcore, -⟩ := (hx False).trans (prefetched_data _ c va)
    exact ⟨hc, l, m, hcore, fun h => by cases h⟩

theorem State.prefetch_eq (s : State) (va : VA) (line : Bool) :
    s.prefetch va line = if Config.prefetchFills s.fresh then (s.prefetchFill s.cur.1 va line).tickFresh.skip else s.tickFresh.skip := rfl

theorem me_tickFresh_skip (u : State) : u.tickFresh.skip.me = { u.me with pc := u.me.pc + 4 } := me_skip_self u.tickFresh

theorem myCore_tickFresh_skip (u : State) : u.tickFresh.skip.myCore = u.myCore.setThr u.cur.2 u.me.next := by
  unfold State.skip
  rw [State.modMe_eq, State.myCore_setCore]
  rfl

theorem prefetch_spec (s : State) (va : VA) (line : Bool) :
    (s.prefetch va line).me = { s.me with pc := s.me.pc + 4 } ∧ (s.prefetch va line).myCore.icache = s.myCore.icache ∧
      (line = false → (s.prefetch va line).myCore.dcache = s.myCore.dcache) := by
  obtain ⟨u, hu, hc, l, m, hcore, hm⟩ : ∃ u, s.prefetch va line = u.tickFresh.skip ∧ Prefetched (line = false) s.cur.1 s u := by
    rw [State.prefetch_eq]
    split
    · exact ⟨_, rfl, prefetched_fill s _ va line⟩
    · exact ⟨_, rfl, .refl _ _ s⟩
  rw [hu, me_tickFresh_skip, myCore_tickFresh_skip]
  have hmine : u.myCore = { s.core s.cur.1 with tlb := l, dcache := m } := by rw [State.myCore, hc, hcore]
  have hme : u.me = s.me := by rw [State.me, State.thr, hc, hcore]; rfl
  rw [hme, Core.setThr_icache, Core.setThr_dcache, hmine]
  exact ⟨rfl, rfl, hm⟩

theorem prefetch : Prefetch := by
  intro s a i
  obtain ⟨hr, hri, -⟩ := prefetch_spec s (s.me.ea a i) true
  obtain ⟨hw, hwi, hwd⟩ := prefetch_spec s (s.me.ea a i) false
  exact ⟨⟨_, rfl, SameMem.of_mem (s.mem_prefetch ..), hr, hri⟩, ⟨_, rfl, SameMem.of_mem (s.mem_prefetch ..), hw, hwi, hwd rfl⟩⟩

/-- Settles O29: the bytes of a filled line are those that its core's threads see, an installed line is found, and a prefetch is a change of the
TLB and the data cache alone. -/
theorem fills : Obligations.Fills := ⟨dataFill, fetchFill, prefetch⟩

end Sys2Proof.Machine
end

section
/-! SUPPORT. LDP and STP, and a thread's direct access at its bank (O31). -/

namespace Sys2Proof.Machine

open Sys2Proof.Claims

/-! ## LDP and STP at issue (R105, R237, R241, R242, R246) -/

/-- The core with one more direct access in its order (R238). -/
def Core.withDirect (x : Core) (e : Direct) : Core := { x with direct := x.direct ++ [e] }

section issue
variable {s : State} {d a : BitVec 5} {i : BitVec 16} {p : Nat} (hpa : s.me.pa a i = p)
include hpa

theorem exec_ldp_fault {code : BitVec 8} (h : poolCheck s.cur.1 p = some code) : exec (.ldp d a i) s = .next (s.accTrap code p .read) := by
  subst hpa
  show execLdp d a i s = _
  simp only [execLdp, h]

theorem exec_stp_fault {code : BitVec 8} (h : poolCheck s.cur.1 p = some code) : exec (.stp d a i) s = .next (s.accTrap code p .write) := by
  subst hpa
  show execStp d a i s = _
  simp only [execStp, h]

variable (hc : poolCheck s.cur.1 p = none)
include hc

section bank
variable (hb : poolBank p < 48)
include hb

theorem exec_ldp_bank : exec (.ldp d a i) s =
    .next (s.setCore s.cur.1 ((s.myCore.withDirect { t := s.cur.2, addr := p, op := .load }).setThr s.cur.2 (s.me.park (.ldp d)))) := by
  subst hpa
  show execLdp d a i s = _
  simp only [execLdp, hc, if_neg (Nat.ne_of_lt (hb.trans (by decide : 48 < 62))), if_neg (Nat.ne_of_lt (hb.trans (by decide : 48 < 63)))]
  exact congrArg Host.Outcome.next (State.parkMe_setCore s (s.myCore.withDirect { t := s.cur.2, addr := s.me.pa a i, op := .load }) _)

theorem exec_stp_bank : exec (.stp d a i) s =
    .next (s.setCore s.cur.1 (s.myCore.withDirect { t := s.cur.2, addr := p, op := .store (s.me.rd d) })).skip := by
  subst hpa
  show execStp d a i s = _
  simp only [execStp, hc, if_neg (Nat.ne_of_lt (hb.trans (by decide : 48 < 62))), if_neg (Nat.ne_of_lt (hb.trans (by decide : 48 < 63)))]
  rfl

end bank

section status
variable (hb : poolBank p = 63)
include hb

theorem exec_ldp_status : exec (.ldp d a i) s = .next (s.put d (s.myCore.statusWindow (poolOff p))) := by
  subst hpa
  show execLdp d a i s = _
  simp only [execLdp, hc, hb, if_true, if_neg (by decide : ¬(63 : Nat) = 62)]

theorem exec_stp_status (ho : poolOff p / 8 < 48) : exec (.stp d a i) s =
    .next (s.setCore s.cur.1 (s.myCore.modBank (poolOff p / 8) (fun b => { b with fxsat := (s.me.rd d).getLsbD 0 }))).skip := by
  subst hpa
  show execStp d a i s = _
  simp only [execStp, hc, hb, if_true, if_neg (by decide : ¬(63 : Nat) = 62), if_pos ho]
  rfl

end status

section mailbox
variable (hb : poolBank p = 62)
include hb

theorem exec_ldp_mail {v : Word} (hv : s.me.mailWindow? (poolOff p) = some v) : exec (.ldp d a i) s = .next (s.put d v) := by
  subst hpa
  show execLdp d a i s = _
  simp only [execLdp, hc, hb, if_true, hv]

theorem exec_ldp_mail_waits (hv : s.me.mailWindow? (poolOff p) = none) : exec (.ldp d a i) s = .next (s.parkMe (.mailbox d (poolOff p))) := by
  subst hpa
  show execLdp d a i s = _
  simp only [execLdp, hc, hb, if_true, hv]

theorem exec_stp_mail (ho : poolOff p = 0x200) : exec (.stp d a i) s = .next (s.popMail s.cur.1 s.cur.2).skip := by
  subst hpa
  show execStp d a i s = _
  simp only [execStp, hc, hb, if_true, ho]

end mailbox
end issue

theorem poolCheck_misaligned {c : CoreId} {p : Nat} (h : p % 8 ≠ 0) : poolCheck c p = some kALIGN := if_pos h

theorem poolCheck_foreign {c : CoreId} {p : Nat} (ha : p % 8 = 0) (h : poolCore p ≠ c.val ∨ (48 ≤ poolBank p ∧ poolBank p ≤ 61)) :
    poolCheck c p = some kPROT := by
  rw [poolCheck, if_neg (not_not.mpr ha), if_pos h]

theorem poolCheck_own {c : CoreId} {p : Nat} (ha : p % 8 = 0) (hc : poolCore p = c.val) (hb : ¬(48 ≤ poolBank p ∧ poolBank p ≤ 61)) :
    poolCheck c p = none := by
  rw [poolCheck, if_neg (not_not.mpr ha), if_neg (not_or.mpr ⟨not_not.mpr hc, hb⟩)]

/-! ## The windows (R241, R242) -/

theorem statusWindow_of_bank {x : Core} {off : Nat} (ha : off % 8 = 0) (hb : off / 8 < 48) :
    x.statusWindow off = (x.bankAt (off / 8)).status := if_pos ⟨ha, hb⟩

section mail
variable {t : Thread} {off : Nat}

theorem mailWindow_empty (hm : t.mailbox = []) (ho : off ≤ 0x100) : t.mailWindow? off = none := by
  unfold Thread.mailWindow?
  rcases Nat.lt_or_eq_of_le ho with h | rfl
  · rw [if_pos h, hm]; rfl
  · rw [if_neg (by decide), if_pos rfl, hm]; rfl

variable {x : Cell} {r : List Cell} (hm : t.mailbox = x :: r)
include hm

theorem mailWindow_data (ho : off < 0x100) : t.mailWindow? off = some (BitVec.ofNat 64 (x.data.toNat / 2 ^ (8 * off))) := by
  rw [Thread.mailWindow?, if_pos ho, hm]
  refine congrArg some (BitVec.eq_of_toNat_eq ?_)
  rw [BitVec.toNat_ofNat, BitVec.toNat_ofNat, Nat.mod_mod]

theorem mailWindow_header : t.mailWindow? 0x100 = some x.h.word := by
  rw [Thread.mailWindow?, if_neg (by decide), if_pos rfl, hm]; rfl

end mail

theorem Core.bankAt_modBank (x : Core) {b : Nat} (f : Bank → Bank) (h : b < 48) : (x.modBank b f).bankAt b = f (x.bankAt b) :=
  vmod_same _ _ _ _ h

/-- A pop of the mailbox takes its oldest cell, and nothing else of the thread changes (R242). -/
theorem State.thr_popMail {s : State} {c : CoreId} {t : Tid} {x : Cell} {r : List Cell} (hm : (s.thr c t).mailbox = x :: r) :
    (s.popMail c t).cur = s.cur ∧ (s.popMail c t).thr c t = { s.thr c t with mailbox := r } := by
  unfold State.popMail
  rw [hm]
  dsimp only
  refine ⟨by rw [State.consume_eq]; rfl, ?_⟩
  have hthreads := congrArg Prod.fst (State.inner_consume ((s.modThr c t (fun th => { th with mailbox := r })).modCore c (fun k =>
      let k := k.modEg (118 + t.val % 4) (fun g => g.modChan 0 (fun q => { q with freed := q.freed + 1, moved := true }))
      if x.h.tag = tDRN then (k.modEg (118 + t.val % 4) (fun g => { g with passes := g.passes + 1 })).cross (118 + t.val % 4) else k)) c c x)
  refine (congrArg (fun v : Vector Thread 16 => v[t]) hthreads).trans ?_
  rw [State.modThr_eq, State.modCore_eq, State.core_setCore, State.core_setCore]
  have hkeep : ∀ y : Core, (let k := y.modEg (118 + t.val % 4) (fun g => g.modChan 0 (fun q => { q with freed := q.freed + 1, moved := true }))
      if x.h.tag = tDRN then (k.modEg (118 + t.val % 4) (fun g => { g with passes := g.passes + 1 })).cross (118 + t.val % 4) else k).inner.1 =
        y.threads := by
    intro y; dsimp only; split <;> rfl
  rw [hkeep]
  exact Core.thr_setThr ..

theorem poolIssue : PoolIssue := by
  intro s d a i p v mine T
  have hlt : p < 2 ^ 28 := Nat.mod_lt _ (by decide)
  have hpa : s.me.pa a i = p := rfl
  have hcore : poolCore p = p / 2 ^ 22 := poolCore_of_lt hlt
  have hbank : poolBank p = p / 2 ^ 16 % 64 := rfl
  have hoff : poolOff p = p % 2 ^ 16 := rfl
  have hread : ∀ {code}, poolCheck s.cur.1 p = some code → T (.ldp d a i) code 0 := fun h =>
    does_accTrap (exec_ldp_fault hpa h) (by rw [accessEval_read (by omega), Nat.zero_mul, Nat.add_zero])
  have hwrite : ∀ {code}, poolCheck s.cur.1 p = some code → T (.stp d a i) code 1 := fun h =>
    does_accTrap (exec_stp_fault hpa h) (by rw [accessEval_write (by omega), Nat.one_mul])
  refine ⟨fun ha => ⟨hread (poolCheck_misaligned ha), hwrite (poolCheck_misaligned ha)⟩, fun ha hf => ?_, fun ha hm hb => ?_,
    fun ha hm hb ho => ?_, fun ha hm hb => ⟨fun he ho => ?_, fun x r he => ⟨fun ho => ?_, fun ho => ?_, fun ho => ?_⟩⟩⟩
  · have hchk := poolCheck_foreign (c := s.cur.1) ha (hcore ▸ hf)
    exact ⟨hread hchk, hwrite hchk⟩
  · have hchk := poolCheck_own ha (hcore.trans hm) (by omega)
    refine ⟨⟨_, exec_ldp_bank hpa hchk hb, ?_⟩, ⟨_, exec_stp_bank hpa hchk hb, onlyCore_skip s _, me_skip s _ rfl, congrArg Core.direct (core_skip s _)⟩⟩
    refine ⟨onlyCore_setCore .., ?_, ?_⟩
    · rw [State.me_setCore, Core.thr_setThr]; rfl
    · rw [State.myCore_setCore]; rfl
  · have hchk := poolCheck_own ha (hcore.trans hm) (by omega)
    have hal : poolOff p % 8 = 0 := by omega
    refine ⟨does_put (exec_ldp_status hpa hchk hb) (statusWindow_of_bank hal ho), ?_⟩
    refine ⟨_, exec_stp_status hpa hchk hb ho, onlyCore_skip s _, me_skip s _ rfl, ?_⟩
    rw [State.myCore]
    refine (congrArg (fun x => Core.bankAt x (poolOff p / 8)) (core_skip s _)).trans ?_
    exact Core.bankAt_modBank _ _ ho
  · have hchk := poolCheck_own ha (hcore.trans hm) (by omega)
    exact does_parkMe (exec_ldp_mail_waits hpa hchk hb (mailWindow_empty he ho))
  · have hchk := poolCheck_own ha (hcore.trans hm) (by omega)
    exact does_put (exec_ldp_mail hpa hchk hb (mailWindow_data he ho)) rfl
  · have hchk := poolCheck_own ha (hcore.trans hm) (by omega)
    exact does_put (exec_ldp_mail hpa hchk hb (hoff ▸ ho ▸ mailWindow_header he)) rfl
  · have hchk := poolCheck_own ha (hcore.trans hm) (by omega)
    obtain ⟨hcur, hthr⟩ := State.thr_popMail (s := s) (c := s.cur.1) (t := s.cur.2) he
    have hme : (s.popMail s.cur.1 s.cur.2).me = { s.me with mailbox := r } := by rw [State.me, hcur]; exact hthr
    refine ⟨_, exec_stp_mail hpa hchk hb ho, ?_, SameMem.of_mem ((State.mem_skip _).trans (s.mem_popMail _ _)), ?_⟩
    · rw [me_skip_self, hme]
    · rw [me_skip_self, hme]

/-! ## A direct access at its bank (R238, R246, R258) -/

/-- The correction of pool words changes banks' counts alone. -/
theorem State.thr_softPool (s : State) (a n : Nat) (c : CoreId) (k : Tid) : (s.softPool a n).thr c k = s.thr c k := by
  unfold State.softPool
  dsimp only
  rw [State.foldl_keep (fun u => u.thr c k)]
  · rfl
  · intro u w
    exact congrArg (fun v : Vector Thread 16 => v[k]) (State.core_modCore_keep u c _ _ Core.threads (fun _ => rfl))

section access
variable {s : State} {c : CoreId} {k : Tid} {x : Direct} (hd : (s.core c).directOf? c s.slot k = some x)
include hd

theorem exec_poolAccessDone_store {v : Word} (hop : x.op = .store v) :
    exec (.poolAccessDone c k) s = .next ((s.setCore c ((s.core c).directDone x)).poolWrite x.addr 8 v.toNat) := by
  show execPoolAccessDone c k s = _
  simp only [execPoolAccessDone, hd, hop, State.modCore_eq]

/-- The bank's side of a load: the access leaves the order, and the word's correctable errors are corrected. -/
def State.directRead (s : State) (c : CoreId) (x : Direct) : State := (s.setCore c ((s.core c).directDone x)).softPool x.addr 8

omit hd in
theorem State.thr_directRead (s : State) (c : CoreId) (x : Direct) : (s.directRead c x).thr c k = s.thr c k := by
  rw [State.directRead, State.thr_softPool, State.thr_setCore]; rfl

omit hd in
theorem State.slot_directRead (s : State) (c : CoreId) (x : Direct) : (s.directRead c x).slot = s.slot := State.slot_softPool ..

omit hd in
theorem State.mem_directRead (s : State) (c : CoreId) (x : Direct) : (s.directRead c x).mem = s.mem := State.mem_softPool ..

variable {d : BitVec 5} (hop : x.op = .load) (hst : (s.thr c k).st = .parked) (hp : (s.thr c k).pend = .ldp d)
include hop hst hp

theorem exec_poolAccessDone_load (hb : s.poolBad x.addr 8 = false) :
    exec (.poolAccessDone c k) s =
      .next ((s.directRead c x).finish c k (fun th => th.wr d (BitVec.ofNat 64 (Memory.readN s.pool x.addr 8)))) := by
  have ht := s.thr_directRead (k := k) c x
  unfold State.directRead at ht ⊢
  show execPoolAccessDone c k s = _
  simp only [execPoolAccessDone, hd, hop, State.modCore_eq, ht, hst, hp, hb, Bool.false_eq_true, if_false]

theorem exec_poolAccessDone_bad (hb : s.poolBad x.addr 8 = true) :
    exec (.poolAccessDone c k) s = .next ((s.directRead c x).trapAt c k kECC (accessEval x.addr .read) (s.thr c k).pc) := by
  have ht := s.thr_directRead (k := k) c x
  unfold State.directRead at ht ⊢
  show execPoolAccessDone c k s = _
  simp only [execPoolAccessDone, hd, hop, State.modCore_eq, ht, hst, hp, hb, if_true]

theorem poolAccessDone_load (hb : s.poolBad x.addr 8 = false) : ∃ t, exec (.poolAccessDone c k) s = .next t ∧ SameMem s t ∧
    Finished s t c k (fun th => th.wr d (BitVec.ofNat 64 (Memory.readN s.pool x.addr 8))) :=
  ⟨_, exec_poolAccessDone_load hd hop hst hp hb, SameMem.of_mem ((State.mem_finish ..).trans (s.mem_directRead c x)),
    finished_of_kept _ (s.thr_directRead c x) (s.slot_directRead c x)⟩

end access

/-- An ECC trap freezes its thread in every mode (R103, R104). -/
theorem frozen_of_tookTrap {s t : State} {c : CoreId} {k : Tid} {eval : Word} {epc : VA} (h : TookTrap s t c k kECC eval epc) :
    (t.thr c k).ecause = kECC ∧ (t.thr c k).st = .frozen := by
  obtain ⟨-, hcause, -, -, -, -, -, hst⟩ := h
  rw [if_neg (fun hc => hc.2.2 rfl)] at hst
  exact ⟨hcause, hst.1⟩

theorem poolAccess : PoolAccess := by
  intro s c k x hd hwf
  have hpool : Memory.wf s.pool = true := ((Bool.and_eq_true _ _).mp hwf).2
  refine ⟨fun v hop => ⟨_, exec_poolAccessDone_store hd hop, ?_, fun a => ?_⟩, fun d hop hst hp hb => poolAccessDone_load hd hop hst hp hb,
    fun d hop hst hp hb => ⟨_, exec_poolAccessDone_bad hd hop hst hp hb, frozen_of_tookTrap (tookTrap_trapAt ..)⟩⟩
  · exact congrArg Prod.fst (State.mem_poolMarks (s.setCore c ((s.core c).directDone x)) x.addr 8)
  · exact Memory.get_writeN 8 x.addr v.toNat s.pool hpool a

/-! ## LDP completes at a bank where nothing else waits -/

/-- A rotation of four sources of which one alone waits reaches it. -/
theorem find_rotation {p : Nat → Bool} (h0 : p 0 = false) (h1 : p 1 = false) (h2 : p 2 = true) (h3 : p 3 = false) (r : Fin 4) :
    ((List.range 4).map (fun i => (r.val + i) % 4)).find? p = some 2 := by
  fin_cases r <;> simp [List.range_succ, h0, h1, h2, h3]

/-- The one direct access of a core whose bank is open is performed. -/
theorem Core.directOf_lone {x : Core} {c : CoreId} {slot : Nat} {e : Direct} (hd : x.direct = [e])
    (hserved : (x.bankAt (poolBank e.addr)).served = false) (hsys : (x.bankAt (poolBank e.addr)).sys = [])
    (hreq : x.bankRequest? slot (poolBank e.addr) = none) (hgen : x.bankGen? c (poolBank e.addr) = none) :
    x.directOf? c slot e.t = some e := by
  have hfront : x.bankDirect? (poolBank e.addr) = some e := by
    rw [Core.bankDirect?, hd]; exact List.find?_cons_of_pos (beq_self_eq_true _)
  have hpick : x.bankPick c slot (poolBank e.addr) = some 2 := by
    rw [Core.bankPick, hserved]
    exact find_rotation (congrArg Option.isSome hreq) (congrArg Option.isSome hgen) (congrArg Option.isSome hfront)
      (congrArg (fun l => !l.isEmpty) hsys) _
  rw [Core.directOf?, hd]
  exact List.find?_cons_of_pos (by rw [hfront, hpick]; simp)

/-- An LDP's issue and its bank's read together: from before the issue, the thread's completion with the 8 bytes. -/
theorem does_ldp {i : Instr} {s : State} {x : Core} {d : BitVec 5} {p : Nat}
    (h : exec i s = .next (s.setCore s.cur.1 (x.setThr s.cur.2 (s.me.park (.ldp d)))))
    (hdo : (x.setThr s.cur.2 (s.me.park (.ldp d))).directOf? s.cur.1 s.slot s.cur.2 = some { t := s.cur.2, addr := p, op := .load })
    (hbad : s.poolBad p 8 = false) : DoesBy i (.poolAccessDone s.cur.1 s.cur.2) s (fun s t => SameMem s t ∧
      Finished s t s.cur.1 s.cur.2 (fun th => th.wr d (BitVec.ofNat 64 (Memory.readN s.pool p 8)))) := by
  have hthr : (s.setCore s.cur.1 (x.setThr s.cur.2 (s.me.park (.ldp d)))).thr s.cur.1 s.cur.2 = s.me.park (.ldp d) := by
    rw [State.thr_setCore, Core.thr_setThr]
  rw [← State.core_setCore s s.cur.1 (x.setThr s.cur.2 (s.me.park (.ldp d)))] at hdo
  obtain ⟨t, ht, hsame, hfin⟩ := poolAccessDone_load hdo rfl (by rw [hthr]; rfl) (by rw [hthr]; rfl) hbad
  refine ⟨_, t, h, ht, hsame, ?_⟩
  unfold Finished at hfin ⊢
  rw [hthr] at hfin
  rw [hfin]
  unfold Thread.wr Thread.park
  split <;> rfl

section reads
variable (x : Core) (e : Direct) (k : Tid) (p : Pend)

/-- A core's thread parks for its direct access. -/
def Core.parkDirect : Core := (x.withDirect e).setThr k ((x.thr k).park p)

theorem Core.mailbox_parkDirect (i : Tid) : ((x.parkDirect e k p).thr i).mailbox = (x.thr i).mailbox := by
  by_cases h : i = k
  · subst h; rw [Core.parkDirect, Core.thr_setThr]; rfl
  · rw [Core.parkDirect, Core.thr_setThr_ne _ _ _ _ h]; rfl

theorem Core.placesFor_parkDirect (h : Header) : (x.parkDirect e k p).placesFor h = x.placesFor h := by
  have hmail (q : Nat) : (x.parkDirect e k p).mailHeld q = x.mailHeld q := by
    simp only [Core.mailHeld, Core.mailbox_parkDirect]
  have hair (q ch : Nat) : (x.parkDirect e k p).inAir q ch = x.inAir q ch := rfl
  have hused (q ch : Nat) : (x.parkDirect e k p).chanUsed q ch = x.chanUsed q ch := by
    simp only [Core.chanUsed, hmail, hair]; rfl
  have hfree (q ch : Nat) : (x.parkDirect e k p).chanFree q ch = x.chanFree q ch := by
    simp only [Core.chanFree, hused]; rfl
  have hchan (q : Nat) : (x.parkDirect e k p).chanOf? q h = x.chanOf? q h := rfl
  simp only [Core.placesFor, hchan, hfree]

theorem Core.credit_parkDirect (c : CoreId) (q : StrmId) : (x.parkDirect e k p).credit c q = x.credit c q := by
  have hdest (y : Header × Option Far) : (x.parkDirect e k p).destPlaces y = x.destPlaces y := by
    simp only [Core.destPlaces, Core.placesFor_parkDirect]; rfl
  have hrid (a : BitVec 8) (r : BitVec 256) : (x.parkDirect e k p).entryRid a r = x.entryRid a r := rfl
  have hplaces (y : Strm) : (x.parkDirect e k p).strmPlaces c q y = x.strmPlaces c q y := by
    simp only [Core.strmPlaces, hdest, hrid, Core.placesFor_parkDirect]; rfl
  simp only [Core.credit, hplaces]; rfl

/-- A direct access and its parked thread leave the generators of the banks as they are. -/
theorem Core.bankGen?_parkDirect (c : CoreId) (b : Nat) : (x.parkDirect e k p).bankGen? c b = x.bankGen? c b := by
  have hstrm : (x.parkDirect e k p).bankStrm? b = x.bankStrm? b := rfl
  have hfree : (x.parkDirect e k p).obufFree b = x.obufFree b := rfl
  simp only [Core.bankGen?, hstrm, hfree, Core.credit_parkDirect]; rfl
end reads

/-- An LDP of the own slice, at a bank where nothing else waits, completes. -/
theorem does_ldp_lone {s : State} {d a : BitVec 5} {i : BitVec 16} {p : Nat} (hp : (s.me.rd a + i.signExtend 64).toNat % 2 ^ 28 = p)
    (ha : p % 8 = 0) (hm : poolCore p = s.cur.1.val) (hb : poolBank p < 48) (hopen : BankOpen s s.cur.1 (poolBank p))
    (hbad : s.poolBad p 8 = false) : DoesBy (.ldp d a i) (.poolAccessDone s.cur.1 s.cur.2) s (fun s t => SameMem s t ∧
      Finished s t s.cur.1 s.cur.2 (fun th => th.wr d (BitVec.ofNat 64 (Memory.readN s.pool p 8)))) := by
  obtain ⟨hserved, hsys, hreq, hgen, hdir⟩ := hopen
  have hchk : poolCheck s.cur.1 p = none := poolCheck_own ha hm (fun q => absurd q.1 (Nat.not_le.mpr hb))
  have hnil : s.myCore.direct = [] := hdir
  have hdo : ((s.myCore.withDirect { t := s.cur.2, addr := p, op := .load }).setThr s.cur.2 (s.me.park (.ldp d))).directOf? s.cur.1 s.slot s.cur.2 =
      some { t := s.cur.2, addr := p, op := .load } := by
    refine Core.directOf_lone (e := { t := s.cur.2, addr := p, op := .load }) ?_ hserved hsys hreq
      ((Core.bankGen?_parkDirect ..).trans hgen)
    rw [Core.setThr_direct, Core.withDirect, hnil]; rfl
  exact does_ldp (exec_ldp_bank hp hchk hb) hdo hbad

theorem poolCompletes : PoolCompletes := by
  intro s d a i p ha hm hb hopen hbad
  exact does_ldp_lone rfl ha ((poolCore_of_lt (Nat.mod_lt _ (by decide))).trans hm) hb hopen hbad

/-- Settles O31: the checks of a pool address in their order, the windows, and a bank's own read or write. -/
theorem poolForms : Obligations.PoolForms := ⟨poolIssue, poolAccess, poolCompletes⟩

end Sys2Proof.Machine
end

section
/-! SUPPORT. TLBINV, RESUME, KILL, STEP and WALK, and the end of a TLBINV (O36). -/

namespace Sys2Proof.Machine

open Sys2Proof.Claims

/-! ## A change of any core, then the next word -/

theorem State.me_skip (s : State) : s.skip.me = { s.me with pc := s.me.pc + 4 } := State.me_modMe _ _

/-- A change of a core that keeps the executing thread. -/
theorem State.me_setCore_keep {s : State} {c : CoreId} {x : Core} (h : c = s.cur.1 → x.thr s.cur.2 = s.me) : (s.setCore c x).me = s.me := by
  show ((s.setCore c x).core s.cur.1).thr s.cur.2 = s.me
  rw [State.core_setCore_if]
  split
  next e => exact h e.symm
  · rfl

/-- The step to the next word changes no other thread. -/
theorem State.thr_skip_ne {s : State} {c : CoreId} {k : Tid} (h : c ≠ s.cur.1 ∨ k ≠ s.cur.2) : s.skip.thr c k = s.thr c k :=
  thr_setCore_other s s.cur.1 s.cur.2 _ (fun _ hj => Core.thr_setThr_ne _ _ _ _ hj) c k h

/-- What a core has beside its threads stays at the step to the next word. -/
theorem State.core_skip_keep {α : Type} (g : Core → α) (hg : ∀ (x : Core) k th, g (x.setThr k th) = g x) (s : State) (c : CoreId) :
    g (s.skip.core c) = g (s.core c) := State.core_modCore_keep s c s.cur.1 _ g (fun _ => hg _ _ _)

/-- What a core has beside its threads stays as a thread completes. -/
theorem State.core_finish_keep {α : Type} (g : Core → α) (hg : ∀ (x : Core) k th, g (x.setThr k th) = g x) (s : State) (c : CoreId) (k : Tid)
    (f : Thread → Thread) (j : CoreId) : g ((s.finish c k f).core j) = g (s.core j) := State.core_modCore_keep s j c _ g (fun _ => hg _ _ _)

/-- A change of a core that keeps the executing thread, and the step to the next word. -/
theorem State.me_setCore_skip {s : State} {c : CoreId} {x : Core} (h : c = s.cur.1 → x.thr s.cur.2 = s.me) :
    (s.setCore c x).skip.me = { s.me with pc := s.me.pc + 4 } := by rw [State.me_skip, State.me_setCore_keep h]

/-! ## The checks (R60, R113) -/

theorem State.controller_task {s : State} (h : s.me.cm = false) (i : Instr) (f : State) : s.controller i f = s.ill i 1 :=
  if_neg (Bool.eq_false_iff.mp h)

theorem State.controller_on {s : State} (h : s.me.cm = true) (i : Instr) (f : State) : s.controller i f = f := if_pos h

/-- ILL with a cause of R60. -/
theorem does_illCause {j i : Instr} {s : State} {cause : Nat} (h : exec j s = .next (s.ill i cause)) (hc : cause < 4) :
    Does j s (fun s t => t.me.ecause = kILL ∧ t.me.eval.toNat / 2 ^ 32 = cause ∧ SameMem s t) := by
  obtain ⟨-, hcause, heval, -, -, hmem, -⟩ := tookTrap_trap s kILL (illEval ((encode i).getD 0) cause)
  refine ⟨_, h, ?_⟩
  dsimp only
  rw [State.ill, State.me_trap, hcause, heval]
  exact ⟨rfl, illEval_div _ hc, hmem⟩

theorem State.foreign_eq {s : State} {c : CoreId} {k : Task} (h : s.taskOf c = some k) : s.foreign c = (k.lrec.tenant != s.tenantOf s.cur.1) := by
  rw [State.foreign, h]

theorem State.foreign_of_ne {s : State} {c : CoreId} {k : Task} (h : s.taskOf c = some k) (ht : k.lrec.tenant ≠ s.tenantOf s.cur.1) :
    s.foreign c = true := (State.foreign_eq h).trans (bne_iff_ne.mpr ht)

theorem State.foreign_of_eq {s : State} {c : CoreId} {k : Task} (h : s.taskOf c = some k) (ht : k.lrec.tenant = s.tenantOf s.cur.1) :
    s.foreign c = false := by rw [State.foreign_eq h, ht]; exact bne_self_eq_false' (a := s.tenantOf s.cur.1)

theorem State.outside_eq {s : State} {c : CoreId} {k : Task} (h : s.taskOf c = some k) : s.outside c = s.foreign c := by
  rw [State.outside, h]

/-- PROT of a controller form on another tenant's unit. -/
theorem does_unitProt {j : Instr} {s : State} {a : BitVec 5} (h : exec j s = .next (s.unitProt a)) : Does j s (fun s t =>
    TookTrap s t s.cur.1 s.cur.2 kPROT (BitVec.ofNat 64 ((s.me.rd a).toNat % 2 ^ 55)) s.me.pc) := by
  refine does_accTrap h ?_
  rw [toNat_vaOf, accessEval_read (by omega)]

/-! ## The forms at issue -/

section on
variable {s : State} {d a b : BitVec 5} {k : Task} {c : CoreId} (hm : s.me.cm = true)
include hm

theorem exec_tlbinv_empty (hb : s.me.rd b = 0) : exec (.tlbinv d a b) s = .next s.skip := by
  refine congrArg Host.Outcome.next ((State.controller_on hm _ _).trans (if_pos ?_))
  rw [hb]; rfl

theorem exec_tlbinv (hb : s.me.rd b ≠ 0) : exec (.tlbinv d a b) s = .next ((s.onTenant ((s.me.rd d).setWidth 6) (fun x =>
      x.pauseStrms ((s.me.rd d).setWidth 6) ((s.me.rd a).toNat % 2 ^ 55) (min ((s.me.rd a).toNat % 2 ^ 55 + (s.me.rd b).toNat) (2 ^ 55)))).parkMe
    (.tlbinv ((s.me.rd d).setWidth 6) ((s.me.rd a).toNat % 2 ^ 55) (min ((s.me.rd a).toNat % 2 ^ 55 + (s.me.rd b).toNat) (2 ^ 55)))) := by
  rw [← toNat_vaOf]
  exact congrArg Host.Outcome.next ((State.controller_on hm _ _).trans (if_neg (toNat_ne_zero hb)))

section unit
variable {u : Nat} (hu : (s.me.rd a).toNat % 2 ^ 32 = u) (hc : uidCore u = c)
include hu hc

theorem exec_resume_foreign (hf : s.foreign c = true) : exec (.resume a) s = .next (s.unitProt a) := by
  subst hu hc
  exact congrArg Host.Outcome.next ((State.controller_on hm _ _).trans (if_pos hf))

theorem exec_resume (hf : s.foreign c = false) (ht : s.taskOf c = some k) (hk : k.phase = .running)
    (hne : ¬(uidKind u = 3 ∧ c = s.cur.1 ∧ Fin.ofNat 16 (uidIndex u) = s.cur.2)) :
    exec (.resume a) s = .next (s.resumeUnit c (uidKind u) (uidIndex u)).skip := by
  subst hu hc
  show execResume a s = _
  simp only [execResume, ht, hk, TaskPhase.stopped, Bool.false_eq_true, if_false]
  rw [State.controller_on hm, if_neg (Bool.eq_false_iff.mp hf), if_neg hne]

theorem exec_step_ill (hk : (uidKind u == 0 && isElemPort (uidIndex u % 128)) = false) (hw : uidKind u ≠ 14) :
    exec (.step a) s = .next (s.ill (.step a) 3) := by
  subst hu hc
  refine congrArg Host.Outcome.next ((State.controller_on hm _ _).trans (if_pos ?_))
  rw [hk, bne_iff_ne.mpr hw]; rfl

theorem exec_step_elem (hf : s.foreign c = false) (hk : uidKind u = 0) (hp : isElemPort (uidIndex u % 128) = true) :
    exec (.step a) s = .next (s.setCore c ((s.core c).later (.step (some (elemOfPort (uidIndex u % 128))) ((s.me.rd a).getLsbD 32)))).skip := by
  subst hu hc
  show execStep a s = _
  simp only [execStep, hk, hp, hf]
  rw [State.controller_on hm]
  rfl

theorem exec_step_weir (hf : s.foreign c = false) (hk : uidKind u = 14) :
    exec (.step a) s = .next (s.setCore c ((s.core c).later (.step none ((s.me.rd a).getLsbD 32)))).skip := by
  subst hu hc
  show execStep a s = _
  simp only [execStep, hk, hf]
  rw [State.controller_on hm]
  rfl

end unit

section walk
variable {u : BitVec 32} (hu : (s.me.rd a).setWidth 32 = u) (hc : uidCore u.toNat = c) (ht : s.taskOf c = some k)
include hu hc ht

theorem exec_walk_foreign (hf : s.foreign c = true) : exec (.walk d a) s = .next (s.unitProt a) := by
  subst hu hc
  exact congrArg Host.Outcome.next ((State.controller_on hm _ _).trans (if_pos ((State.outside_eq ht).trans hf)))

theorem exec_walk (hf : s.foreign c = false) :
    exec (.walk d a) s = .next ((s.setCore s.cur.1 (s.myCore.setWr 0 u 0)).parkMe (.sounding d [u])) := by
  subst hu hc
  exact congrArg Host.Outcome.next ((State.controller_on hm _ _).trans (if_neg (Bool.eq_false_iff.mp ((State.outside_eq ht).trans hf))))

end walk

section kill
variable {id : TaskId} (hid : (s.me.rd a).setWidth 32 = id)
include hid

theorem exec_kill_none (ht : s.taskById id = none) : exec (.kill a) s = .next s.skip := by
  subst hid
  show execKill a s = _
  simp only [execKill, ht]
  rw [State.controller_on hm]

theorem exec_kill (ht : s.taskById id = some k) (hk : k.phase = .running) (hten : k.lrec.tenant = s.tenantOf s.cur.1) :
    exec (.kill a) s = .next (s.stopTask id 0).skip := by
  subst hid
  show execKill a s = _
  simp only [execKill, ht, hk, TaskPhase.stopped, hten, not_true, ne_eq, Bool.false_eq_true, if_false]
  rw [State.controller_on hm]

end kill

end on

/-! ## What they do -/

/-- A task that a stop finds running begins to stop in this slot (R356). -/
theorem State.taskById_modTask (s : State) (id : TaskId) (f : Task → Task) (hf : ∀ t, (f t).lrec = t.lrec) :
    (s.modTask id f).taskById id = (s.taskById id).map f := by
  have hid : (fun t => decide (t.lrec.id = id)) ∘ (fun t => if t.lrec.id = id then f t else t) = fun t : Task => decide (t.lrec.id = id) := by
    funext t
    dsimp only [Function.comp]
    split <;> simp [hf]
  rw [State.taskById, State.modTask, List.find?_map, hid, State.taskById]
  cases h : s.tasks.find? (fun t => decide (t.lrec.id = id)) with
  | none => rfl
  | some t =>
    have : t.lrec.id = id := of_decide_eq_true (List.find?_some (p := fun t : Task => decide (t.lrec.id = id)) h)
    rw [Option.map_some, Option.map_some, if_pos this]

theorem State.taskById_stopTask {s : State} {id : TaskId} {k : Task} (ht : s.taskById id = some k) (hk : k.phase = .running) (kind : BitVec 8) :
    (s.stopTask id kind).taskById id = some { k with phase := .stopping kind s.slot, clockEnd := s.slot } := by
  rw [State.stopTask, State.taskById_modTask s id _ (fun t => by split <;> rfl), ht, Option.map_some, if_neg (by rw [hk]; exact Bool.false_ne_true)]

theorem does_kill {j : Instr} {s : State} {id : TaskId} {k : Task} (h : exec j s = .next (s.stopTask id 0).skip) (ht : s.taskById id = some k)
    (hk : k.phase = .running) : Does j s (fun s t => t.me = { s.me with pc := s.me.pc + 4 } ∧ SameMem s t ∧
      ∀ k', t.taskById id = some k' → k'.phase = .stopping 0 s.slot) := by
  refine ⟨_, h, State.me_skip _, SameMem.of_mem (by rw [State.mem_skip, State.mem_stopTask]), fun k' hk' => ?_⟩
  have := (State.taskById_stopTask ht hk 0).symm.trans hk'
  cases this; rfl

theorem does_step {j : Instr} {s : State} {c : CoreId} {l : Late} (h : exec j s = .next (s.setCore c ((s.core c).later l)).skip) :
    Does j s (fun s t => t.me = { s.me with pc := s.me.pc + 4 } ∧ SameMem s t ∧ (t.core c).late = (s.core c).late ++ [l]) := by
  refine ⟨_, h, State.me_setCore_skip (fun e => by rw [e]; rfl), SameMem.of_mem rfl, ?_⟩
  rw [State.core_skip_keep Core.late (fun _ _ _ => rfl), State.core_setCore]; rfl

/-- RESUME of a frozen thread other than the executing one. -/
theorem does_resume {j : Instr} {s : State} {c : CoreId} {i : Tid} (h : exec j s = .next (s.modThr c i (fun t => t.resume s.slot)).skip)
    (hne : c ≠ s.cur.1 ∨ i ≠ s.cur.2) (hst : (s.thr c i).st = .frozen) :
    Does j s (fun s t => t.me = { s.me with pc := s.me.pc + 4 } ∧ SameMem s t ∧
      t.thr c i = { s.thr c i with st := .ready, pend := .none, readyAt := s.slot + 1, pc := (s.thr c i).epc }) := by
  rw [State.modThr_eq] at h
  refine ⟨_, h, State.me_setCore_skip (fun e => ?_), SameMem.of_mem rfl, ?_⟩
  · rw [Core.thr_setThr_ne _ _ _ _ (fun q => (hne.elim (fun w => w e) (fun w => w q.symm))), e]; rfl
  · rw [State.thr_skip_ne (by exact hne), State.thr_setCore, Core.thr_setThr]
    exact if_pos hst

/-! ## A change of every core of a tenant -/

/-- Whether a core runs a task of the tenant. -/
def State.serves (s : State) (ten : Tenant) (c : CoreId) : Bool := (s.taskOf c).any (fun t => t.lrec.tenant == ten)

theorem State.serves_iff {s : State} {ten : Tenant} {c : CoreId} :
    s.serves ten c = true ↔ ∃ z, s.taskOf c = some z ∧ z.lrec.tenant = ten := by
  simp [State.serves, Option.any_eq_true]

/-- One step of a change of a tenant's cores. -/
def State.serveCore (s : State) (ten : Tenant) (f : Core → Core) (c : CoreId) : State := if s.serves ten c then s.modCore c f else s

theorem State.onTenant_eq (s : State) (ten : Tenant) (f : Core → Core) :
    s.onTenant ten f = (List.finRange 64).foldl (fun t c => t.serveCore ten f c) s := by
  unfold State.onTenant
  congr 1
  funext t c
  unfold State.serveCore State.serves
  cases t.taskOf c with
  | none => rfl
  | some z => by_cases h : z.lrec.tenant = ten <;> simp [h]

section tenant
variable {ten : Tenant} {f : Core → Core} (hf : ∀ x, (f x).task = x.task)
include hf

theorem State.serves_serveCore (s : State) (c j : CoreId) : (s.serveCore ten f c).serves ten j = s.serves ten j := by
  have htask : ((s.serveCore ten f c).core j).task = (s.core j).task := by
    unfold State.serveCore
    split
    · exact State.core_modCore_keep s j c f Core.task hf
    · rfl
  have htasks : (s.serveCore ten f c).tasks = s.tasks := by unfold State.serveCore; split <;> rfl
  unfold State.serves State.taskOf
  rw [htask, htasks]

omit hf in
theorem State.core_serveCore (s : State) (c j : CoreId) :
    (s.serveCore ten f c).core j = if j = c ∧ s.serves ten j = true then f (s.core j) else s.core j := by
  unfold State.serveCore
  by_cases h : j = c
  · subst h
    cases s.serves ten j <;> simp
  · rw [if_neg (show ¬(j = c ∧ s.serves ten j = true) from fun q => h q.1)]
    split
    · exact State.core_setCore_ne _ _ _ _ h
    · rfl

/-- The cores of a list change once each where the tenant's tasks run. -/
theorem State.core_foldl_serveCore (l : List CoreId) (hl : l.Nodup) (s : State) (j : CoreId) :
    (l.foldl (fun t c => t.serveCore ten f c) s).core j = if j ∈ l ∧ s.serves ten j = true then f (s.core j) else s.core j := by
  induction l generalizing s with
  | nil => simp
  | cons c r ih =>
    obtain ⟨hc, hr⟩ := List.nodup_cons.mp hl
    rw [List.foldl_cons, ih hr, State.serves_serveCore hf, State.core_serveCore]
    by_cases h : j = c
    · subst h; simp [hc]
    · simp [h]

theorem State.core_onTenant (s : State) (j : CoreId) : (s.onTenant ten f).core j = if s.serves ten j = true then f (s.core j) else s.core j := by
  rw [State.onTenant_eq, State.core_foldl_serveCore hf _ (List.nodup_finRange 64)]
  simp

end tenant

/-- What a change of a core keeps, a change of a tenant's cores keeps. -/
theorem State.onTenant_keep {α : Type} (g : State → α) (hg : ∀ (s : State) (c : CoreId) x, g (s.setCore c x) = g s) (s : State) (ten : Tenant)
    (f : Core → Core) : g (s.onTenant ten f) = g s := by
  rw [State.onTenant_eq]
  refine State.foldl_keep g _ (fun s c => ?_) _ _
  unfold State.serveCore
  split
  · exact hg ..
  · rfl

theorem State.slot_onTenant (s : State) (ten : Tenant) (f : Core → Core) : (s.onTenant ten f).slot = s.slot :=
  State.onTenant_keep State.slot (fun _ _ _ => rfl) s ten f

theorem State.cur_onTenant (s : State) (ten : Tenant) (f : Core → Core) : (s.onTenant ten f).cur = s.cur :=
  State.onTenant_keep State.cur (fun _ _ _ => rfl) s ten f

theorem State.tasks_onTenant (s : State) (ten : Tenant) (f : Core → Core) : (s.onTenant ten f).tasks = s.tasks :=
  State.onTenant_keep State.tasks (fun _ _ _ => rfl) s ten f

theorem State.thr_onTenant {s : State} {ten : Tenant} {f : Core → Core} (hf : ∀ x, (f x).task = x.task) (ht : ∀ x, (f x).threads = x.threads)
    (c : CoreId) (k : Tid) : (s.onTenant ten f).thr c k = s.thr c k := by
  rw [State.thr, State.core_onTenant hf]
  split
  · rw [Core.thr, ht]; rfl
  · rfl

/-! ## The end of a TLBINV (R112, R256) -/

/-- A core whose translations of the range are gone. -/
def Core.Untranslated (x : Core) (ten : Tenant) (lo hi : Nat) : Prop :=
  (∀ e ∈ x.tlb, e.meets ten lo hi = false) ∧ (∀ y ∈ x.splices, ∀ e ∈ y.extents, e.meets ten lo hi = false) ∧
    ∀ q : StrmId, ∀ e ∈ (x.strms[q]).extents, e.meets ten lo hi = false

theorem Core.untranslated_setThr (x : Core) (k : Tid) (th : Thread) (ten : Tenant) (lo hi : Nat) :
    (x.setThr k th).Untranslated ten lo hi = x.Untranslated ten lo hi := rfl

theorem meets_of_mem_filter {l : List Xlat} {ten : Tenant} {lo hi : Nat} : ∀ e ∈ l.filter (fun e => !e.meets ten lo hi), e.meets ten lo hi = false := by
  intro e he
  exact Bool.not_eq_true' _ ▸ (List.mem_filter.mp he).2

theorem Core.untranslated_dropXlat (x : Core) (ten : Tenant) (lo hi : Nat) (others : List (Tenant × Nat × Nat)) :
    (x.dropXlat ten lo hi others).Untranslated ten lo hi := by
  refine ⟨meets_of_mem_filter, fun y hy e he => ?_, fun q e he => ?_⟩
  · obtain ⟨z, -, rfl⟩ := List.mem_map.mp hy
    exact meets_of_mem_filter e he
  · simp only [Core.dropXlat, Fin.getElem_fin, Vector.getElem_map] at he
    split at he <;> exact meets_of_mem_filter e he

section drop
variable (x : Core) (ten : Tenant) (lo hi : Nat) (others : List (Tenant × Nat × Nat))

theorem Core.task_dropXlat : (x.dropXlat ten lo hi others).task = x.task := rfl
theorem Core.threads_dropXlat : (x.dropXlat ten lo hi others).threads = x.threads := rfl
theorem Core.task_pauseStrms : (x.pauseStrms ten lo hi).task = x.task := rfl
theorem Core.threads_pauseStrms : (x.pauseStrms ten lo hi).threads = x.threads := rfl

end drop

/-- A TLBINV's end before its thread goes on: the tenant's cores drop their translations of the range. -/
def State.invalidated (s : State) (c : CoreId) (k : Tid) (ten : Tenant) (lo hi : Nat) : State :=
  s.onTenant ten (fun x => x.dropXlat ten lo hi (s.otherInvs c k))

theorem State.core_invalidated {s : State} {ten : Tenant} {j : CoreId} (h : s.serves ten j = true) (c : CoreId) (k : Tid) (lo hi : Nat) :
    (s.invalidated c k ten lo hi).core j = (s.core j).dropXlat ten lo hi (s.otherInvs c k) := by
  rw [State.invalidated, State.core_onTenant (fun x => x.task_dropXlat ten lo hi _), if_pos h]

theorem State.thr_invalidated (s : State) (c : CoreId) (k : Tid) (ten : Tenant) (lo hi : Nat) (c' : CoreId) (k' : Tid) :
    (s.invalidated c k ten lo hi).thr c' k' = s.thr c' k' := 
  State.thr_onTenant (fun x => x.task_dropXlat ten lo hi _) (fun x => x.threads_dropXlat ten lo hi _) c' k'

theorem State.slot_invalidated (s : State) (c : CoreId) (k : Tid) (ten : Tenant) (lo hi : Nat) : (s.invalidated c k ten lo hi).slot = s.slot :=
  State.slot_onTenant ..

section invalidated
variable {s : State} {c : CoreId} {k : Tid} {ten : Tenant} {lo hi : Nat} (hst : (s.thr c k).st = .parked)
  (hp : (s.thr c k).pend = .tlbinv ten lo hi) (hs : (s.core c).storesDone k = true)
  (hdone : ∀ j z, s.taskOf j = some z → z.lrec.tenant = ten → (s.core j).invDone ten lo hi = true)
include hst hp hs hdone

theorem exec_tlbinvComplete : exec (.tlbinvComplete c k) s = .next ((s.invalidated c k ten lo hi).finish c k id) := by
  show execTlbinvComplete c k s = _
  simp only [execTlbinvComplete, hst, hp]
  refine if_pos ?_
  rw [hs, Bool.true_and, List.all_eq_true]
  intro j hj
  have hten := (List.mem_filter.mp hj).2
  cases ht : s.taskOf j with
  | none => rw [ht] at hten; cases hten
  | some z => rw [ht] at hten; exact hdone j z ht (eq_of_beq hten)

/-- The thread completes, and the tenant's cores hold no translation of the range. -/
theorem tlbinvComplete_ends : ∃ t, exec (.tlbinvComplete c k) s = .next t ∧ SameMem s t ∧ Finished s t c k id ∧
    ∀ j z, s.taskOf j = some z → z.lrec.tenant = ten → (t.core j).Untranslated ten lo hi := by
  refine ⟨_, exec_tlbinvComplete hst hp hs hdone, SameMem.of_mem ((State.mem_finish ..).trans (State.mem_onTenant ..)), ?_, fun j z hj hz => ?_⟩
  · have hfin := finished_finish (s.invalidated c k ten lo hi) c k id
    unfold Finished at hfin ⊢
    rw [State.thr_invalidated, State.slot_invalidated] at hfin
    exact hfin
  · rw [State.core_finish_keep (fun x : Core => x.Untranslated ten lo hi) (fun x i th => x.untranslated_setThr i th ten lo hi),
      State.core_invalidated (State.serves_iff.mpr ⟨z, hj, hz⟩)]
    exact Core.untranslated_dropXlat ..

end invalidated

theorem invalidateEnds : InvalidateEnds := by
  intro s c k ten lo hi hst hp hs hdone
  obtain ⟨t, ht, hmem, hfin, hun⟩ := tlbinvComplete_ends hst hp hs hdone
  exact ⟨t, ht, hmem, by rw [hfin], by rw [hfin]; rfl, hun⟩

/-! ## Each form against its statement -/

theorem uidIndex_mod (u : Nat) : uidIndex u % 128 = u % 2 ^ 7 := Nat.mod_mod_of_dvd u (by decide)

theorem isElemPort_eq_true {p : Nat} (h : 48 ≤ p) (h' : p ≤ 79) : isElemPort p = true := by
  simp [isElemPort, h, h']

theorem isElemPort_eq_false {p : Nat} (h : p < 48 ∨ 79 < p) : isElemPort p = false := by
  simp only [isElemPort, Bool.and_eq_false_iff, decide_eq_false_iff_not]
  omega

/-- WALK at issue: the thread parks with the chain's first unit. -/
theorem does_walk {s : State} {d a : BitVec 5} {k : Task} {u : BitVec 32} {c : CoreId} (hm : s.me.cm = true) (hu : (s.me.rd a).setWidth 32 = u)
    (hc : uidCore u.toNat = c) (ht : s.taskOf c = some k) (hf : s.foreign c = false) :
    Does (.walk d a) s (fun s t => t.me = { s.me with st := .parked, pend := .sounding d [u] } ∧ SameMem s t) :=
  ⟨_, exec_walk hm hu hc ht hf, 
    (State.me_modMe _ _).trans (congrArg (fun th : Thread => th.park (.sounding d [u])) (State.me_setCore_keep (fun _ => rfl))), SameMem.of_mem rfl⟩

theorem does_tlbinv {s : State} {d a b : BitVec 5} {ten : Tenant} {lo hi : Nat} {f : Core → Core}
    (h : exec (.tlbinv d a b) s = .next ((s.onTenant ten f).parkMe (.tlbinv ten lo hi))) :
    Does (.tlbinv d a b) s (fun s t => SameMem s t ∧ t.me.st = .parked ∧ t.me.pend = .tlbinv ten lo hi) := by
  have hme : ((s.onTenant ten f).parkMe (.tlbinv ten lo hi)).me = (s.onTenant ten f).me.park (.tlbinv ten lo hi) := State.me_modMe _ _
  exact ⟨_, h, SameMem.of_mem (by rw [State.mem_parkMe, State.mem_onTenant]), by rw [hme]; rfl, by rw [hme]; rfl⟩

/-- A controller form in task mode. -/
theorem does_controller_task {j : Instr} {s f : State} (h : exec j s = .next (s.controller j f)) (hm : s.me.cm = false) :
    Does j s (fun s t => t.me.ecause = kILL ∧ t.me.eval.toNat / 2 ^ 32 = 1 ∧ SameMem s t) :=
  does_illCause (h.trans (congrArg Host.Outcome.next (State.controller_task hm j f))) (by decide)

theorem controllerIssue : ControllerIssue := by
  intro s d a b k u c X F
  have hu32 : ((s.me.rd a).setWidth 32).toNat = u := BitVec.toNat_setWidth ..
  refine ⟨does_controller_task rfl, does_controller_task rfl, does_controller_task rfl, does_controller_task rfl, does_controller_task rfl,
    fun hm ht hne => does_unitProt (exec_resume_foreign hm rfl rfl (State.foreign_of_ne ht hne)),
    fun hm ht hne => ?_, fun hm hb => ⟨_, exec_tlbinv_empty hm hb, skipped_skip s⟩,
    fun hm hb => does_tlbinv (exec_tlbinv hm hb), fun hm ht hten hk => ?_,
    fun hm ht hk hten => does_kill (exec_kill hm rfl ht hk hten) ht hk, fun hm ht => ⟨_, exec_kill_none hm rfl ht, skipped_skip s⟩⟩
  · exact does_unitProt (exec_walk_foreign hm rfl (congrArg uidCore hu32) ht (State.foreign_of_ne ht hne))
  have hf := State.foreign_of_eq ht hten
  refine ⟨fun hkind hc hst => ?_, fun hp hw => ?_, fun hkind h48 h79 => ?_, fun hkind => ?_, ?_⟩
  · have hex := exec_resume (a := a) hm rfl rfl hf ht hk (fun q => hc q.2.1)
    rw [show uidKind u = 3 from hkind] at hex
    exact does_resume hex (.inl hc) hst
  · refine does_illCause (exec_step_ill hm rfl rfl ?_ hw) (by decide)
    rw [uidIndex_mod]
    rcases hp with hp | hp
    · exact (Bool.and_eq_false_iff).mpr (.inl (beq_eq_false_iff_ne.mpr hp))
    · rw [isElemPort_eq_false hp]; exact Bool.and_false _
  · rw [← uidIndex_mod u]
    exact does_step (exec_step_elem hm rfl rfl hf hkind (by rw [uidIndex_mod]; exact isElemPort_eq_true h48 h79))
  · exact does_step (exec_step_weir hm rfl rfl hf hkind)
  · exact does_walk hm rfl (congrArg uidCore hu32) ht hf

/-! ## The parked forms complete -/

/-- The executing thread parks. -/
theorem State.core_parkMe (s : State) (p : Pend) (j : CoreId) :
    (s.parkMe p).core j = if j = s.cur.1 then (s.core j).setThr s.cur.2 (s.me.park p) else s.core j := by
  rw [State.parkMe, State.modMe_eq, State.core_setCore_if]
  split
  next h => rw [h]; rfl
  · rfl

theorem State.taskOf_congr {s t : State} {c : CoreId} (h : (t.core c).task = (s.core c).task) (hl : t.tasks = s.tasks) : t.taskOf c = s.taskOf c := by
  unfold State.taskOf; rw [h, hl]

/-- A paused generator's extents are those it had. -/
theorem Core.invDone_pauseStrms (x : Core) (ten : Tenant) (lo hi : Nat) : (x.pauseStrms ten lo hi).invDone ten lo hi = x.invDone ten lo hi := by
  have hstrm : (x.pauseStrms ten lo hi).strms.toList.all (fun y => !(y.meets ten lo hi) || y.writes.isEmpty) =
      x.strms.toList.all (fun y => !(y.meets ten lo hi) || y.writes.isEmpty) := by
    rw [Core.pauseStrms, Vector.toList_map, List.all_map]
    congr 1
    funext y
    dsimp only [Function.comp]
    split <;> rfl
  unfold Core.invDone
  rw [hstrm]
  rfl

/-- A thread that parks for a TLBINV holds up none. -/
theorem Core.invDone_setThr_tlbinv {x : Core} {ten : Tenant} {lo hi : Nat} (h : x.invDone ten lo hi = true) (k : Tid) {th : Thread}
    {ten' : Tenant} {lo' hi' : Nat} (hp : th.pend = .tlbinv ten' lo' hi') : (x.setThr k th).invDone ten lo hi = true := by
  unfold Core.invDone at h ⊢
  obtain ⟨hwt, hs⟩ := (Bool.and_eq_true _ _).mp h
  obtain ⟨hw, hl⟩ := (Bool.and_eq_true _ _).mp hwt
  refine (Bool.and_eq_true _ _).mpr ⟨(Bool.and_eq_true _ _).mpr ⟨hw, ?_⟩, hs⟩
  rw [List.all_eq_true] at hl ⊢
  intro y hy
  rw [Core.setThr, Vector.toList_set] at hy
  rcases List.mem_or_eq_of_mem_set hy with hy | rfl
  · exact hl y hy
  · rw [hp]

section tlbinv
variable {s : State} {ten : Tenant} {lo hi : Nat}

/-- A TLBINV's issue and its end together, in a tenant whose accesses by the old translations are performed. -/
theorem doesBy_tlbinv {i : Instr} (h : exec i s = .next ((s.onTenant ten (fun x => x.pauseStrms ten lo hi)).parkMe (.tlbinv ten lo hi)))
    (hs : s.myCore.storesDone s.cur.2 = true)
    (hdone : ∀ j y, s.taskOf j = some y → y.lrec.tenant = ten → (s.core j).invDone ten lo hi = true) :
    DoesBy i (.tlbinvComplete s.cur.1 s.cur.2) s (fun s t => SameMem s t ∧ Finished s t s.cur.1 s.cur.2 id ∧
      ∀ j y, s.taskOf j = some y → y.lrec.tenant = ten → ∀ e ∈ (t.core j).tlb, e.meets ten lo hi = false) := by
  generalize hv : s.onTenant ten (fun x => x.pauseStrms ten lo hi) = v at h
  have hcur : v.cur = s.cur := by rw [← hv]; exact State.cur_onTenant ..
  have hslot : v.slot = s.slot := by rw [← hv]; exact State.slot_onTenant ..
  have hmem : v.mem = s.mem := by rw [← hv]; exact State.mem_onTenant ..
  have htasks : v.tasks = s.tasks := by rw [← hv]; exact State.tasks_onTenant ..
  have hcore (j : CoreId) : v.core j = if s.serves ten j = true then (s.core j).pauseStrms ten lo hi else s.core j := by
    rw [← hv]; exact State.core_onTenant (fun x => x.task_pauseStrms ten lo hi) s j
  have hthr (c : CoreId) (k : Tid) : v.thr c k = s.thr c k := by
    rw [← hv]; exact State.thr_onTenant (fun x => x.task_pauseStrms ten lo hi) (fun x => x.threads_pauseStrms ten lo hi) c k
  have hvme : v.me = s.me := by rw [State.me, hcur, hthr]; rfl
  have hme : (v.parkMe (.tlbinv ten lo hi)).thr s.cur.1 s.cur.2 = s.me.park (.tlbinv ten lo hi) := by
    rw [← hvme, ← hcur]; exact State.me_modMe v _
  have hpark (j : CoreId) : (v.parkMe (.tlbinv ten lo hi)).core j =
      if j = s.cur.1 then (v.core j).setThr s.cur.2 (s.me.park (.tlbinv ten lo hi)) else v.core j := by
    rw [State.core_parkMe, hvme, hcur]
  have htask (j : CoreId) : (v.parkMe (.tlbinv ten lo hi)).taskOf j = s.taskOf j := by
    refine State.taskOf_congr ?_ htasks
    rw [hpark, hcore]
    split <;> split <;> rfl
  have hinv (j : CoreId) (y : Task) (hj : s.taskOf j = some y) (hy : y.lrec.tenant = ten) :
      ((v.parkMe (.tlbinv ten lo hi)).core j).invDone ten lo hi = true := by
    have hvj : (v.core j).invDone ten lo hi = true := by
      rw [hcore, if_pos (State.serves_iff.mpr ⟨y, hj, hy⟩), Core.invDone_pauseStrms]
      exact hdone j y hj hy
    rw [hpark]
    split
    · exact Core.invDone_setThr_tlbinv hvj _ rfl
    · exact hvj
  have hstores : ((v.parkMe (.tlbinv ten lo hi)).core s.cur.1).storesDone s.cur.2 = true := by
    rw [← hs, hpark, if_pos rfl, hcore]
    split <;> rfl
  obtain ⟨t, ht, hsame, hfin, hun⟩ := tlbinvComplete_ends (by rw [hme]; rfl) (by rw [hme]; rfl) hstores
    (fun j y hj hy => hinv j y ((htask j).symm.trans hj) hy)
  refine ⟨_, t, h, ht, ?_, ?_, fun j y hj hy => (hun j y ((htask j).trans hj) hy).1⟩
  · exact ⟨fun a => (hsame.1 a).trans (congrArg (fun m => Memory.get m a) (congrArg Prod.fst hmem)),
      fun a => (hsame.2 a).trans (congrArg (fun m => Memory.get m a) (congrArg Prod.snd hmem))⟩
  · unfold Finished at hfin ⊢
    rw [hme, show (v.parkMe (.tlbinv ten lo hi)).slot = s.slot from hslot] at hfin
    exact hfin

end tlbinv

/-- The link read ends the walk, with the chain's last unit, its length and the reason. -/
theorem exec_walkLink_stop {s : State} {c : CoreId} {k : Tid} {d : BitVec 5} {u : BitVec 32} {rest : List (BitVec 32)} {reason : Nat}
    (hst : (s.thr c k).st = .parked) (hp : (s.thr c k).pend = .sounding d (u :: rest)) (hl : s.atStart.linkOf u.toNat = .stop reason) :
    exec (.walkLink c k) s = .next ((s.modCore c (fun x => x.setWr rest.length u reason)).finish c k (fun th =>
      th.wr d (walkWord reason (rest.length + 1) u))) := by
  show execWalkLink c k s = _
  simp only [execWalkLink, hst, hp, hl]

/-- A WALK's issue and its one link together, from a unit that nothing blocks. -/
theorem doesBy_walk {i : Instr} {s : State} {d : BitVec 5} {u : BitVec 32} {reason : Nat}
    (h : exec i s = .next ((s.setCore s.cur.1 (s.myCore.setWr 0 u 0)).parkMe (.sounding d [u]))) (hl : s.atStart.linkOf u.toNat = .stop reason) :
    DoesBy i (.walkLink s.cur.1 s.cur.2) s (fun s t => OnlyCore s.cur.1 s t ∧
      Finished s t s.cur.1 s.cur.2 (fun th => th.wr d (BitVec.ofNat 64 (u.toNat + 2 ^ 32 + 2 ^ 40 * reason)))) := by
  rw [State.parkMe_setCore] at h
  have hthr : (s.myCore.setWr 0 u 0).thr s.cur.2 = s.me := rfl
  rw [hthr] at h
  generalize hx : (s.myCore.setWr 0 u 0).setThr s.cur.2 (s.me.park (.sounding d [u])) = x at h
  have hme : (s.setCore s.cur.1 x).thr s.cur.1 s.cur.2 = s.me.park (.sounding d [u]) := by rw [State.thr_setCore, ← hx, Core.thr_setThr]
  refine ⟨_, _, h, exec_walkLink_stop (by rw [hme]; rfl) (by rw [hme]; rfl) hl, ?_, ?_⟩
  · rw [State.finish, State.modThr_eq, State.modCore_eq, State.setCore_setCore, State.setCore_setCore]
    exact onlyCore_setCore ..
  · have hfin := finished_finish ((s.setCore s.cur.1 x).modCore s.cur.1 (fun y => y.setWr 0 u reason)) s.cur.1 s.cur.2
      (fun th => th.wr d (walkWord reason 1 u))
    unfold Finished at hfin ⊢
    have hkeep : ((s.setCore s.cur.1 x).modCore s.cur.1 (fun y => y.setWr 0 u reason)).thr s.cur.1 s.cur.2 = s.me.park (.sounding d [u]) := by
      rw [← hme, State.modCore_eq, State.thr_setCore]; rfl
    rw [hkeep] at hfin
    refine hfin.trans ?_
    unfold Thread.wr Thread.park walkWord
    split <;> rfl

theorem controllerCompletes : ControllerCompletes := by
  intro s d a b z reason c k ten lo hi u uc i hm
  have hu32 : u.toNat = (s.me.rd a).toNat % 2 ^ 32 := BitVec.toNat_setWidth ..
  refine ⟨fun hb hs hdone => doesBy_tlbinv (exec_tlbinv hm hb) hs hdone, fun ht hten => ?_,
    fun ht hk hten => ?_⟩
  · have hf := State.foreign_of_eq ht hten
    refine ⟨fun hl => doesBy_walk (exec_walk hm rfl rfl ht hf) hl, fun hk hkind hne hst => ?_, fun hkind => ?_⟩
    · have hex := exec_resume (a := a) hm hu32.symm rfl hf ht hk (fun q => hne.elim (fun w => w q.2.1) (fun w => w q.2.2))
      rw [show uidKind u.toNat = 3 from hkind] at hex
      obtain ⟨t, h, hme, hmem, hthr⟩ := does_resume hex hne hst
      exact ⟨t, h, hmem, hme, hthr⟩
    · obtain ⟨t, h, hme, hmem, hlate⟩ := does_step (exec_step_weir (a := a) hm hu32.symm rfl hf hkind)
      exact ⟨t, h, hmem, hme, hlate⟩
  · obtain ⟨t, h, hme, hmem, hstop⟩ := does_kill (exec_kill hm rfl ht hk hten) ht hk
    exact ⟨t, h, hmem, hme, hstop⟩

/-- Settles O36: the checks and effects at issue, and the ends of the two parked forms. -/
theorem controllerForms : Obligations.ControllerForms := ⟨controllerIssue, invalidateEnds, controllerCompletes⟩

end Sys2Proof.Machine
end

section
/-! SUPPORT. Rendezvous buffers, loop budgets, mailboxes and race units (O45). -/

namespace Sys2Proof.Machine

open Sys2Proof.Claims

/-! ## A set's operands in their channels (R174, R182) -/

/-- One operand at the end of a channel, to be taken from the next slot. -/
def Chan.putOp (q : Chan) (slot : Nat) (y : Cell) : Chan :=
  { q with cells := q.cells ++ [{ y with m := { y.m with since := slot + 1 } }], fed := some (Fin.ofNat 128 y.h.ip.toNat), put := q.put + 1 }

/-- The operands at the ends of the channels that their OPX names. -/
def Egress.putOps (g : Egress) (slot : Nat) (ops : List Cell) : Egress :=
  ops.foldl (fun g y => g.modChan y.h.opx.toNat (fun q => q.putOp slot y)) g

theorem vmod_vmod {α : Type} {n : Nat} (v : Vector α n) (i : Nat) (f g : α → α) : vmod (vmod v i f) i g = vmod v i (fun a => g (f a)) := by
  unfold vmod
  by_cases h : i < n <;> simp [h]

theorem Core.modEg_modEg (x : Core) (p : Nat) (f g : Egress → Egress) : (x.modEg p f).modEg p g = x.modEg p (fun a => g (f a)) := by
  unfold Core.modEg
  rw [vmod_vmod]

theorem Egress.chan_modChan (g : Egress) {i j : Nat} (hi : i < 4) (f : Chan → Chan) :
    (g.modChan i f).chan j = if j = i then f (g.chan i) else g.chan j := by
  split
  next h => subst h; exact vmod_same _ _ _ _ hi
  next h => exact vmod_other _ _ _ _ _ (Ne.symm h)

theorem Core.putCell_eq (x : Core) (slot p ch : Nat) (y : Cell) :
    x.putCell slot p ch y = x.modEg p (fun g => g.modChan ch (fun q => q.putOp slot y)) := by
  have hchan (g : Egress) (f h : Chan → Chan) : (g.modChan ch f).modChan ch h = g.modChan ch (fun q => h (f q)) := by
    unfold Egress.modChan
    rw [vmod_vmod]
  rw [Core.putCell, Core.pushChan, Core.modEg_modEg]
  simp only [hchan]
  rfl

theorem Core.putSet_eq (x : Core) (slot p : Nat) (f : Egress → Egress) (ops : List Cell) :
    (x.modEg p f).putSet slot p ops = x.modEg p (fun g => (f g).putOps slot ops) := by
  induction ops generalizing f with
  | nil => rfl
  | cons y r ih =>
    have hstep := ih (fun g => (f g).modChan y.h.opx.toNat (fun q => q.putOp slot y))
    rw [Core.putSet, List.foldl_cons, Core.putCell_eq, Core.modEg_modEg]
    exact hstep

theorem Egress.putOps_chans (g : Egress) (slot : Nat) (ops : List Cell) : g.putOps slot ops = { g with chans := (g.putOps slot ops).chans } := by
  induction ops generalizing g with
  | nil => rfl
  | cons y r ih => exact (ih (g.modChan y.h.opx.toNat (fun q => q.putOp slot y))).trans rfl

/-- A channel takes the operands that name it, in order. -/
theorem Egress.chan_putOps (g : Egress) (slot : Nat) (ops : List Cell) (i : Nat) :
    (g.putOps slot ops).chan i = (ops.filter (fun y => y.h.opx.toNat == i)).foldl (fun q y => q.putOp slot y) (g.chan i) := by
  induction ops generalizing g with
  | nil => rfl
  | cons y r ih =>
    have hstep := ih (g.modChan y.h.opx.toNat (fun q => q.putOp slot y))
    rw [Egress.chan_modChan g (by have := y.h.opx.isLt; omega)] at hstep
    refine hstep.trans ?_
    by_cases h : y.h.opx.toNat = i
    · rw [if_pos h.symm, List.filter_cons_of_pos (p := fun y : Cell => y.h.opx.toNat == i) (beq_iff_eq.mpr h), List.foldl_cons, h]
    · rw [if_neg (Ne.symm h), List.filter_cons_of_neg (by simpa using h)]

theorem Chan.cells_putOps (q : Chan) (slot : Nat) (l : List Cell) : (l.foldl (fun q y => q.putOp slot y) q).cells =
    q.cells ++ l.map (fun y => { y with m := { y.m with since := slot + 1 } }) := by
  induction l generalizing q with
  | nil => exact (List.append_nil _).symm
  | cons y r ih => rw [List.foldl_cons, ih, List.map_cons]; exact List.append_assoc ..

theorem Chan.putOps_keep (q : Chan) (slot : Nat) (l : List Cell) : l.foldl (fun q y => q.putOp slot y) q =
    { q with cells := (l.foldl (fun q y => q.putOp slot y) q).cells, fed := (l.foldl (fun q y => q.putOp slot y) q).fed,
             put := (l.foldl (fun q y => q.putOp slot y) q).put } := by
  induction l generalizing q with
  | nil => rfl
  | cons y r ih => exact (ih (q.putOp slot y)).trans rfl

/-! ## The oldest set (R182) -/

/-- A rendezvous buffer without its oldest set. -/
def Egress.released (g : Egress) (rid : BitVec 8) (rest : List RdvSet) : Egress :=
  { g with rdv := rest, rdvRel := g.rdvRel + 1, rdvStall := 0, rdvGone := rid :: g.rdvGone }

section release
variable {s : State} {c : CoreId} {e : ElemId} {r : RdvSet} {rest : List RdvSet} (hz : ((s.core c).egAt (48 + e.val)).frozen = none)
  (hr : ((s.core c).egAt (48 + e.val)).rdv = r :: rest)
include hz hr

theorem exec_rdvSetRelease_partial (h : r.ops.length < r.opn.toNat + 1) : exec (.rdvSetRelease c e) s = .next s := by
  show execRdvSetRelease c e s = _
  simp only [execRdvSetRelease, hz, hr]
  rw [decide_eq_false (Nat.ne_of_lt h)]
  rfl

theorem exec_rdvSetRelease (hn : r.ops.length = r.opn.toNat + 1) (hs : ∀ y ∈ r.ops, y.m.since ≤ s.slot)
    (hroom : ∀ y ∈ r.ops, placeFor ((s.core c).classOf y) (8 - (s.core c).chanUsed (48 + e.val) y.h.opx.toNat) = true) :
    exec (.rdvSetRelease c e) s =
      .next (s.setCore c ((s.core c).modEg (48 + e.val) (fun g => (g.released r.rid rest).putOps s.slot r.ops))) := by
  show execRdvSetRelease c e s = _
  have hcap : chanCap (48 + e.val) = 8 := if_pos (by omega)
  simp only [execRdvSetRelease, hz, hr, Core.roomNow, hcap, State.modCore_eq, Core.putSet_eq]
  refine if_pos ?_
  rw [decide_eq_true hn, List.all_eq_true.mpr (fun y hy => decide_eq_true (hs y hy)), List.all_eq_true.mpr hroom]
  rfl

end release

/-! ## The two stalls (R184, R187) -/

/-- A record joins the queue of its core. -/
theorem State.core_record (s : State) (c : CoreId) (kind : BitVec 8) (unit : BitVec 32) (detail : Nat) (pos arg : BitVec 64) :
    ∃ r, (s.record c kind unit detail pos arg).core c = { s.core c with faults := (s.core c).faults ++ [r] } ∧ r.kind = kind ∧ r.unit = unit :=
  ⟨_, State.core_modCore .., rfl, rfl⟩

theorem State.core_freezeRdv (s : State) (c : CoreId) (p : Nat) (bad : Option Cell) : ∃ (w : BitVec 64) (r : FaultRec),
    (s.freezeRdv c p bad).core c = { (s.core c).modEg p (fun g => { g with frozen := some { kind := kRDV, arg := w }, badCell := bad }) with
      faults := (s.core c).faults ++ [r] } ∧ r.kind = kRDV ∧ r.unit = unitId c 0 p :=
  ⟨_, _, (State.core_modCore ..).trans (by rw [State.core_modCore]; rfl), rfl, rfl⟩

theorem exec_rdvStallFault {s : State} {c : CoreId} {e : ElemId} (hz : ((s.core c).egAt (48 + e.val)).frozen = none)
    (hl : ((s.core c).egAt (48 + e.val)).rdv.length = 32) (ha : 4 * (s.core c).agelim.toNat ≤ ((s.core c).egAt (48 + e.val)).rdvStall) :
    exec (.rdvStallFault c e) s = .next (s.freezeRdv c (48 + e.val) none) := by
  refine if_pos ?_
  rw [hz, hl, decide_eq_true ha]
  rfl

/-- The core whose ports that wait for a budget freeze with it. -/
def Core.loopFrozen (x : Core) (l : LoopId) (ports : List Nat) (w : BitVec 64) : Core :=
  (ports.foldl (fun x p => x.modIng p (fun g => { g with frozen := some { kind := kLOOP, arg := w } })) x).modLoop l.val (fun b => { b with frozen := true })

theorem Core.loopFrozen_faults (x : Core) (l : LoopId) (ports : List Nat) (w : BitVec 64) : (x.loopFrozen l ports w).faults = x.faults := by
  show (ports.foldl _ x).faults = x.faults
  induction ports generalizing x with
  | nil => rfl
  | cons p r ih => exact (ih _).trans rfl

theorem Core.loops_modLoop (x : Core) (l : LoopId) (f : LoopB → LoopB) : (x.modLoop l.val f).loops[l] = f x.loops[l] := by
  simp [Core.modLoop, vmod]

theorem exec_loopFault {s : State} {c : CoreId} {l : LoopId} (hz : ((s.core c).loops[l]).frozen = false)
    (ha : 4 * (s.core c).agelim.toNat ≤ ((s.core c).loops[l]).stall) : ∃ (ports : List Nat) (w pos : BitVec 64), exec (.loopFault c l) s =
      .next ((s.modCore c (fun x => x.loopFrozen l ports w)).record c kLOOP (unitId c 7 l.val) l.val pos w) := by
  refine ⟨_, _, _, if_pos ?_⟩
  rw [vget_lt _ _ _ l.isLt]
  exact (Bool.and_eq_true _ _).mpr ⟨congrArg (!·) hz, decide_eq_true ha⟩

theorem exec_loopFault_early {s : State} {c : CoreId} {l : LoopId} (h : ((s.core c).loops[l]).stall < 4 * (s.core c).agelim.toNat) :
    exec (.loopFault c l) s = .next s := by
  refine if_neg fun q => ?_
  rw [vget_lt _ _ _ l.isLt] at q
  exact absurd (of_decide_eq_true ((Bool.and_eq_true _ _).mp q).2) (Nat.not_le.mpr h)

theorem rendezvousAndLoops : RendezvousAndLoops := by
  intro s c e l g
  have hp : 48 + e.val < 128 := by omega
  refine ⟨fun r rest hz hr hn hs hroom => ⟨_, exec_rdvSetRelease hz hr hn hs hroom, onlyCore_setCore .., ?_⟩,
    fun r rest hz hr h => exec_rdvSetRelease_partial hz hr h, fun hz hl ha => ?_, fun hz ha => ?_, exec_loopFault_early⟩
  · rw [State.core_setCore]
    refine ⟨?_, fun p hne => Core.egAt_modEg_ne _ _ hne⟩
    rw [Core.egAt_modEg _ _ hp]
    refine ⟨Egress.putOps_chans .., fun i => ?_⟩
    rw [Egress.chan_putOps]
    exact ⟨Chan.cells_putOps .., Chan.putOps_keep ..⟩
  · obtain ⟨w, r, hcore, hkind, hunit⟩ := State.core_freezeRdv s c (48 + e.val) none
    refine ⟨_, { kind := kRDV, arg := w }, r, exec_rdvStallFault hz hl ha, SameMem.of_mem (State.mem_freezeRdv ..), ?_, rfl, ?_, hkind, hunit⟩
    · rw [hcore]
      exact congrArg Egress.frozen (Core.egAt_modEg _ _ hp)
    · rw [hcore]
  · obtain ⟨ports, w, pos, hex⟩ := exec_loopFault hz ha
    obtain ⟨r, hcore, hkind, hunit⟩ := State.core_record (s.modCore c (fun x => x.loopFrozen l ports w)) c kLOOP (unitId c 7 l.val) l.val pos w
    rw [State.core_modCore] at hcore
    refine ⟨_, r, hex, SameMem.of_mem rfl, ?_, ?_, hkind, hunit⟩
    · rw [hcore]
      exact congrArg LoopB.frozen (Core.loops_modLoop ..)
    · rw [hcore, Core.loopFrozen_faults]

/-! ## Mailboxes (R109, R242) -/

theorem Thread.setEv_mailbox (th : Thread) (slot : Nat) : (th.setEv slot).mailbox = th.mailbox := by
  unfold Thread.setEv
  split <;> rfl

theorem Thread.setEv_ready {th : Thread} (h : th.st = .ready) (slot : Nat) : th.setEv slot = { th with ev := true } := by
  unfold Thread.setEv
  rw [h]

/-- A parked reader goes on with the word. -/
def Thread.mailWoken (th : Thread) (d : BitVec 5) (v : Word) (slot : Nat) : Thread := { ((th.wr d v).next.wake slot) with ev := true }

theorem Thread.mailWoken_mailbox (th : Thread) (d : BitVec 5) (v : Word) (slot : Nat) : (th.mailWoken d v slot).mailbox = th.mailbox :=
  Thread.wr_mailbox ..

/-- The head of SEQ port p stands in thread k's mailbox. -/
def State.mailed (s : State) (c : CoreId) (p : Nat) (k : Tid) (y : Cell) : State :=
  (s.modCore c (fun x => x.modEg p (fun g => g.modChan 0 (fun q => { q with cells := q.cells.drop 1 })))).modThr c k (fun th =>
    { th with mailbox := th.mailbox ++ [y] })

theorem State.thr_mailed (s : State) (c : CoreId) (p : Nat) (k : Tid) (y : Cell) :
    (s.mailed c p k y).thr c k = { s.thr c k with mailbox := (s.thr c k).mailbox ++ [y] } := by
  rw [State.mailed, State.modThr_eq, State.thr_setCore, Core.thr_setThr, State.core_modCore]
  rfl

section mail
variable {s : State} {c : CoreId} {q : Fin 4} {y : Cell} (hy : (s.core c).head? s.slot (118 + q.val) 0 = some y) {k : Tid}
  (hk : Fin.ofNat 16 (4 * (y.h.key.toNat % 4) + q.val) = k)
include hy hk

theorem exec_mailboxDelivery_woken {d : BitVec 5} {off : Nat} (hst : (s.thr c k).st = .parked) (hp : (s.thr c k).pend = .mailbox d off) :
    exec (.mailboxDelivery c q) s = .next ((s.mailed c (118 + q.val) k y).modThr c k (fun th =>
      th.mailWoken d (((({ s.thr c k with mailbox := (s.thr c k).mailbox ++ [y] } : Thread)).mailWindow? off).getD 0) s.slot)) := by
  subst hk
  have hthr := State.thr_mailed s c (118 + q.val) (Fin.ofNat 16 (4 * (y.h.key.toNat % 4) + q.val)) y
  unfold State.mailed at hthr ⊢
  show execMailboxDelivery c q s = _
  simp only [execMailboxDelivery, hy, hthr, hst, hp]
  rfl

theorem exec_mailboxDelivery_other (hn : ∀ d off, (s.thr c k).st = .parked → (s.thr c k).pend ≠ .mailbox d off) :
    exec (.mailboxDelivery c q) s = .next ((s.mailed c (118 + q.val) k y).modThr c k (fun th => th.setEv s.slot)) := by
  subst hk
  have hthr := State.thr_mailed s c (118 + q.val) (Fin.ofNat 16 (4 * (y.h.key.toNat % 4) + q.val)) y
  unfold State.mailed at hthr ⊢
  show execMailboxDelivery c q s = _
  simp only [execMailboxDelivery, hy]
  split
  next d off hst hp =>
    rw [hthr] at hst hp
    exact absurd hp (hn d off hst)
  · rfl

end mail

theorem mailboxDelivery : MailboxDelivery := by
  intro s c q y hy k
  have hmem (F : Thread → Thread) : SameMem s ((s.mailed c (118 + q.val) k y).modThr c k F) := SameMem.of_mem rfl
  have hthr (F : Thread → Thread) : ((s.mailed c (118 + q.val) k y).modThr c k F).thr c k =
      F { s.thr c k with mailbox := (s.thr c k).mailbox ++ [y] } := by
    rw [← State.thr_mailed s c (118 + q.val) k y, State.modThr_eq, State.thr_setCore, Core.thr_setThr]
    rfl
  by_cases hw : ∃ d off, (s.thr c k).st = .parked ∧ (s.thr c k).pend = .mailbox d off
  · obtain ⟨d, off, hst, hp⟩ := hw
    refine ⟨_, exec_mailboxDelivery_woken hy rfl hst hp, hmem _, ?_, fun d' _ hp' hnil => ?_, fun h => ?_⟩
    · rw [hthr, Thread.mailWoken_mailbox]
    · obtain ⟨rfl, rfl⟩ := Pend.mailbox.inj (hp.symm.trans hp')
      rw [hthr, hnil]
      have hrd := Thread.rd_wr { s.thr c k with mailbox := [] ++ [y] } d d y.h.word
      refine ⟨rfl, rfl, congrArg (· + 4) (Thread.wr_pc ..), hrd.trans ?_⟩
      by_cases hd : d = 0
      · rw [if_neg (fun w => w.2 hd), if_pos hd, hd, Thread.rd_zero]
      · rw [if_pos ⟨rfl, hd⟩, if_neg hd]
    · rw [hst] at h; cases h
  · have hn : ∀ d off, (s.thr c k).st = .parked → (s.thr c k).pend ≠ .mailbox d off := fun d off hst hp => hw ⟨d, off, hst, hp⟩
    refine ⟨_, exec_mailboxDelivery_other hy rfl hn, hmem _, ?_, fun d hst hp => absurd hp (hn d 0x100 hst), fun h => ?_⟩
    · rw [hthr, Thread.setEv_mailbox]
    · rw [hthr, Thread.setEv_ready (th := { s.thr c k with mailbox := (s.thr c k).mailbox ++ [y] }) h]
      exact ⟨rfl, rfl⟩

end Sys2Proof.Machine
end

section
/-! SUPPORT. The outcome of a race (R195-R197), and the race units (O45). -/

namespace Sys2Proof.Machine

open Sys2Proof.Claims

/-! ## The choice (R196) -/

/-- The better of a choice so far and one more expert: the first on ties. -/
def raceBetter (best : Option (Nat × Nat)) (y : Nat × Nat) : Option (Nat × Nat) :=
  match best with
  | none => some y
  | some z => if z.2 < y.2 then some y else some z

/-- The first expert of the highest score, with those before it strictly below and those after it not above. -/
def FirstBest (l : List (Nat × Nat)) (b : Nat × Nat) : Prop :=
  ∃ before after, l = before ++ b :: after ∧ (∀ y ∈ before, y.2 < b.2) ∧ ∀ y ∈ after, y.2 ≤ b.2

theorem foldl_raceBetter (l : List (Nat × Nat)) (z : Nat × Nat) : ∃ b, l.foldl raceBetter (some z) = some b ∧ FirstBest (z :: l) b := by
  induction l generalizing z with
  | nil => exact ⟨z, rfl, [], [], rfl, by simp, by simp⟩
  | cons y r ih =>
    by_cases h : z.2 < y.2
    · obtain ⟨b, hb, before, after, hl, hlt, hle⟩ := ih y
      have hy : y.2 ≤ b.2 := by
        have : y ∈ before ++ b :: after := hl ▸ List.mem_cons_self
        rcases List.mem_append.mp this with hm | hm
        · exact (hlt y hm).le
        · rcases List.mem_cons.mp hm with rfl | hm
          · exact le_rfl
          · exact hle y hm
      refine ⟨b, by rw [List.foldl_cons, raceBetter, if_pos h, hb], z :: before, after, by rw [hl]; rfl, fun w hw => ?_, hle⟩
      rcases List.mem_cons.mp hw with rfl | hw
      · exact h.trans_le hy
      · exact hlt w hw
    · obtain ⟨b, hb, before, after, hl, hlt, hle⟩ := ih z
      refine ⟨b, by rw [List.foldl_cons, raceBetter, if_neg h, hb], ?_⟩
      cases before with
      | nil =>
        obtain ⟨rfl, rfl⟩ := List.cons.inj hl
        refine ⟨[], y :: r, rfl, by simp, fun w hw => ?_⟩
        rcases List.mem_cons.mp hw with rfl | hw
        · exact Nat.not_lt.mp h
        · exact hle w hw
      | cons x before =>
        obtain ⟨rfl, rfl⟩ := List.cons.inj hl
        have hz := hlt z List.mem_cons_self
        refine ⟨z :: y :: before, after, rfl, fun w hw => ?_, hle⟩
        rcases List.mem_cons.mp hw with rfl | hw
        · exact hz
        · rcases List.mem_cons.mp hw with rfl | hw
          · exact (Nat.not_lt.mp h).trans_lt hz
          · exact hlt w (List.mem_cons_of_mem _ hw)

theorem raceChoose_cons (l : List (Nat × Nat)) (hl : l ≠ []) (k : Nat) : ∃ b, FirstBest l b ∧
    raceChoose l (k + 1) = b.1 :: raceChoose (l.filter (fun y => y.1 != b.1)) k := by
  cases l with
  | nil => exact absurd rfl hl
  | cons z r =>
    obtain ⟨b, hb, hbest⟩ := foldl_raceBetter r z
    refine ⟨b, hbest, ?_⟩
    rw [raceChoose]
    split
    next hn => exact absurd (hn.symm.trans hb) (by simp)
    next b' hb' =>
      obtain rfl := Option.some.inj (hb'.symm.trans hb)
      rfl

theorem FirstBest.mem {l : List (Nat × Nat)} {b : Nat × Nat} (h : FirstBest l b) : b ∈ l := by
  obtain ⟨before, after, rfl, -⟩ := h
  simp

/-- A choice of k from as many experts has k. -/
theorem length_raceChoose (k : Nat) (l : List (Nat × Nat)) (hn : (l.map Prod.fst).Nodup) (hk : k ≤ l.length) : (raceChoose l k).length = k := by
  induction k generalizing l with
  | zero => rfl
  | succ k ih =>
    have hl : l ≠ [] := by rintro rfl; exact absurd hk (by simp)
    obtain ⟨b, hb, hc⟩ := raceChoose_cons l hl k
    have hmap : (l.filter (fun y => y.1 != b.1)).map Prod.fst = (l.map Prod.fst).erase b.1 := by
      rw [hn.erase_eq_filter, List.filter_map]; rfl
    have hlen : (l.filter (fun y => y.1 != b.1)).length = l.length - 1 := by
      rw [← List.length_map (f := Prod.fst), hmap, List.length_erase_of_mem (List.mem_map_of_mem hb.mem), List.length_map]
    rw [hc, List.length_cons, ih _ (hmap ▸ hn.erase _) (by omega)]

theorem mem_of_mem_raceChoose (k : Nat) (l : List (Nat × Nat)) : ∀ e ∈ raceChoose l k, e ∈ l.map Prod.fst := by
  induction k generalizing l with
  | zero => intro e he; cases he
  | succ k ih =>
    intro e he
    by_cases hl : l = []
    · subst hl; exact absurd he (by simp [raceChoose])
    obtain ⟨b, hb, hc⟩ := raceChoose_cons l hl k
    rw [hc] at he
    rcases List.mem_cons.mp he with rfl | he
    · exact List.mem_map_of_mem hb.mem
    · obtain ⟨y, hy, rfl⟩ := List.mem_map.mp (ih _ e he)
      exact List.mem_map_of_mem (List.mem_filter.mp hy).1

/-! ## The STEER cell's payload (R197) -/

/-- The experts of a race with their quantised scores. -/
def raceExperts (f : Fmt) (l : List Nat) : List (Nat × Nat) := (List.range l.length).map (fun i => (i, raceQ f (l.getD i 0)))

theorem fst_raceExperts (f : Fmt) (l : List Nat) : (raceExperts f l).map Prod.fst = List.range l.length := by
  rw [raceExperts, List.map_map]
  exact List.map_id _

/-- The first best expert: nobody's quantised score is above its own, and those of lower number are below. -/
theorem firstBest_raceExperts {f : Fmt} {l : List Nat} {b : Nat × Nat} (h : FirstBest (raceExperts f l) b) : b.1 < l.length ∧
    ∀ j, j < l.length → raceQ f (l.getD j 0) ≤ raceQ f (l.getD b.1 0) ∧ (j < b.1 → raceQ f (l.getD j 0) < raceQ f (l.getD b.1 0)) := by
  obtain ⟨i, hi, rfl⟩ := List.mem_map.mp h.mem
  have hlen := List.mem_range.mp hi
  refine ⟨hlen, fun j hj => ?_⟩
  obtain ⟨before, after, hl, hlt, hle⟩ := h
  have hn : before.length = i := by
    have hget : (raceExperts f l)[before.length]? = some (i, raceQ f (l.getD i 0)) := by
      rw [hl, List.getElem?_append_right le_rfl, Nat.sub_self]; rfl
    rw [raceExperts, List.getElem?_map] at hget
    obtain ⟨m, hm, he⟩ := Option.map_eq_some_iff.mp hget
    rw [List.getElem?_range (by
      have := congrArg List.length hl
      rw [raceExperts, List.length_map, List.length_range, List.length_append, List.length_cons] at this
      omega)] at hm
    rw [Option.some.inj hm]
    exact congrArg Prod.fst he
  have hj' : (raceExperts f l)[j]? = some (j, raceQ f (l.getD j 0)) := by
    rw [raceExperts, List.getElem?_map, List.getElem?_range hj]; rfl
  rw [hl] at hj'
  rcases Nat.lt_trichotomy j i with h | h | h
  · rw [List.getElem?_append_left (by omega)] at hj'
    have := hlt _ (List.mem_of_getElem? hj')
    exact ⟨this.le, fun _ => this⟩
  · subst h
    exact ⟨le_rfl, fun h => absurd h (Nat.lt_irrefl _)⟩
  · obtain ⟨m, rfl⟩ : ∃ m, j = before.length + (m + 1) := ⟨j - before.length - 1, by omega⟩
    rw [List.getElem?_append_right (by omega), Nat.add_sub_cancel_left, List.getElem?_cons_succ] at hj'
    exact ⟨hle _ (List.mem_of_getElem? hj'), fun q => absurd q (by omega)⟩

/-- The payload of R197 as a number: the first choice and the count, then the choices, then their scores. -/
theorem foldl_racePayload (es : List Nat) (sc : Nat → Nat) (z n : Nat) :
    (List.range n).foldl (fun acc j => acc + es.getD j 0 * 2 ^ (32 + 16 * j) + sc (es.getD j 0) % 2 ^ 32 * 2 ^ (256 + 32 * j)) z =
      z + 2 ^ 32 * digitSum (2 ^ 16) (fun j => es.getD j 0) n + 2 ^ 256 * digitSum (2 ^ 32) (fun j => sc (es.getD j 0) % 2 ^ 32) n := by
  induction n with
  | zero => simp [digitSum]
  | succ n ih =>
    rw [List.range_succ, List.foldl_append, ih, digitSum_succ, digitSum_succ, List.foldl_cons, List.foldl_nil, Nat.pow_add 2 32, Nat.pow_add 2 256,
      Nat.pow_mul 2 16, Nat.pow_mul 2 32]
    ring

/-- The fields of the payload's number stand apart. -/
theorem racePayload_fields {z k e w : Nat} (hz : z < 2 ^ 8) (hk : k ≤ 8) (he : e < 2 ^ 128) (hw : w < 2 ^ 256) :
    let n := (BitVec.ofNat 2048 (z + 256 * k + 2 ^ 32 * e + 2 ^ 256 * w)).toNat
    n % 2 ^ 8 = z ∧ n / 2 ^ 8 % 2 ^ 8 = k ∧ n / 2 ^ 32 % 2 ^ 16 = e % 2 ^ 16 ∧ n / 2 ^ 256 % 2 ^ 32 = w % 2 ^ 32 := by
  intro n
  have hn : n = z + 256 * k + 2 ^ 32 * e + 2 ^ 256 * w := by
    refine (BitVec.toNat_ofNat ..).trans (Nat.mod_eq_of_lt (Nat.lt_of_lt_of_le (m := 2 ^ 513) ?_ (Nat.pow_le_pow_right (by decide) (by decide))))
    rw [show (2 : Nat) ^ 513 = 2 ^ 256 * (2 * 2 ^ 256) by rw [← Nat.pow_succ', ← Nat.pow_add]]
    omega
  rw [hn]
  omega

theorem racePayload_cons {cfg : BitVec 64} {l : List Nat} {e : Nat} {r : List Nat}
    (h : raceChoose (raceExperts (raceFmt cfg) l) (min (raceK cfg) l.length) = e :: r) :
    racePayload cfg l = BitVec.ofNat 2048 ((raceBase cfg + e) % 2 ^ 8 + 256 * (r.length + 1) +
      2 ^ 32 * digitSum (2 ^ 16) (fun j => (e :: r).getD j 0) (r.length + 1) +
      2 ^ 256 * digitSum (2 ^ 32) (fun j => l.getD ((e :: r).getD j 0) 0 % 2 ^ 32) (r.length + 1)) := by
  unfold raceExperts at h
  unfold racePayload
  dsimp only
  rw [h]
  exact congrArg (BitVec.ofNat 2048) (foldl_racePayload (e :: r) (fun e => l.getD e 0) _ _)

theorem racePayload_nil (cfg : BitVec 64) : racePayload cfg [] = 0 := by
  simp [racePayload, raceChoose]

theorem raceK_bounds (cfg : BitVec 64) : 1 ≤ raceK cfg ∧ raceK cfg ≤ 8 := by
  unfold raceK
  dsimp only
  split <;> omega

/-- The payload names the first best expert, the count of choices, and that expert's score. -/
theorem racePayload_best (cfg : BitVec 64) {l : List Nat} (hl : l ≠ []) (hn : l.length ≤ 256) :
    let n := (racePayload cfg l).toNat
    ∃ e, e < l.length ∧ n % 2 ^ 8 = (raceBase cfg + e) % 2 ^ 8 ∧ n / 2 ^ 8 % 2 ^ 8 = min (raceK cfg) l.length ∧ n / 2 ^ 32 % 2 ^ 16 = e ∧
      n / 2 ^ 256 % 2 ^ 32 = l.getD e 0 % 2 ^ 32 ∧
      ∀ j, j < l.length → raceQ (raceFmt cfg) (l.getD j 0) ≤ raceQ (raceFmt cfg) (l.getD e 0) ∧
        (j < e → raceQ (raceFmt cfg) (l.getD j 0) < raceQ (raceFmt cfg) (l.getD e 0)) := by
  intro n
  have hpos : 0 < l.length := List.length_pos_iff.mpr hl
  have hlen : (raceExperts (raceFmt cfg) l).length = l.length := by rw [raceExperts, List.length_map, List.length_range]
  obtain ⟨hk1, hk8⟩ := raceK_bounds cfg
  obtain ⟨k, hk⟩ : ∃ k, min (raceK cfg) l.length = k + 1 := ⟨min (raceK cfg) l.length - 1, by omega⟩
  have hcount := length_raceChoose (k + 1) (raceExperts (raceFmt cfg) l) (by rw [fst_raceExperts]; exact List.nodup_range) (by omega)
  obtain ⟨b, hb, hc⟩ := raceChoose_cons (raceExperts (raceFmt cfg) l) (by rintro h; rw [h] at hlen; exact absurd hlen.symm (by simpa using hl)) k
  obtain ⟨he, hbest⟩ := firstBest_raceExperts hb
  have hsmall : ∀ x ∈ raceChoose (raceExperts (raceFmt cfg) l) (k + 1), x < 2 ^ 16 := fun x hx => by
    have := mem_of_mem_raceChoose _ _ x hx
    rw [fst_raceExperts, List.mem_range] at this
    omega
  rw [hc] at hsmall hcount
  generalize hr : raceChoose ((raceExperts (raceFmt cfg) l).filter (fun y => y.1 != b.1)) k = r at hc hsmall hcount
  rw [List.length_cons] at hcount
  have hdig (j : Nat) : (b.1 :: r).getD j 0 < 2 ^ 16 := by
    rw [List.getD_eq_getElem?_getD]
    cases h : (b.1 :: r)[j]? with
    | none => decide
    | some x => exact hsmall x (List.mem_of_getElem? h)
  have hsc (j : Nat) : l.getD ((b.1 :: r).getD j 0) 0 % 2 ^ 32 < 2 ^ 32 := Nat.mod_lt _ (by decide)
  have hlow : digitSum (2 ^ 16) (fun j => (b.1 :: r).getD j 0) (r.length + 1) < 2 ^ 128 :=
    (digitSum_lt hdig _).trans_le (by rw [← Nat.pow_mul]; exact Nat.pow_le_pow_right (by decide) (by omega))
  have hhigh : digitSum (2 ^ 32) (fun j => l.getD ((b.1 :: r).getD j 0) 0 % 2 ^ 32) (r.length + 1) < 2 ^ 256 :=
    (digitSum_lt hsc _).trans_le (by rw [← Nat.pow_mul]; exact Nat.pow_le_pow_right (by decide) (by omega))
  have hfields := racePayload_fields (Nat.mod_lt (raceBase cfg + b.1) (by decide : 0 < 2 ^ 8)) (by omega : r.length + 1 ≤ 8) hlow hhigh
  rw [← racePayload_cons (by rw [hk]; exact hc)] at hfields
  obtain ⟨h0, h1, h2, h3⟩ := hfields
  have hd0 := digitSum_digit hdig (Nat.succ_pos r.length)
  have hd1 := digitSum_digit hsc (Nat.succ_pos r.length)
  rw [Nat.pow_zero, Nat.div_one] at hd0 hd1
  exact ⟨b.1, he, h0, h1.trans (hcount.trans hk.symm), h2.trans hd0, h3.trans hd1, hbest⟩

/-! ## The units (R195) -/

/-- A cell's consumption leaves the race units. -/
theorem State.races_consume (s : State) (c k : CoreId) (y : Cell) : ((s.consume c y).core k).races = (s.core k).races := by
  have hc : ∀ x : Core, (x.consumed y).races = x.races := by
    intro x; unfold Core.consumed Core.loopDown Core.modLoop
    (repeat' split) <;> rfl
  have hstage (s : State) (j : CoreId) (g : StageId) (f : Stage → Stage) : ((s.modCore j (fun x => x.modStage g f)).core k).races = (s.core k).races :=
    State.core_modCore_keep s k j _ Core.races (fun _ => rfl)
  have ho : ∀ s : State, ((s.oxConsumed y).core k).races = (s.core k).races := by
    intro s; unfold State.oxConsumed
    dsimp only
    split <;> split <;> simp only [hstage]
  unfold State.consume
  dsimp only
  split
  · rw [ho]; exact State.core_modCore_keep _ _ _ _ Core.races hc
  · exact State.core_modCore_keep _ _ _ _ Core.races hc

theorem State.races_popHead (s : State) (c : CoreId) (p ch : Nat) : ((s.popHead c p ch).core c).races = (s.core c).races := by
  unfold State.popHead
  split
  · rfl
  · rw [State.races_consume, State.core_modCore]
    show ((s.clearHead c p ch).core c).races = _
    rw [State.core_clearHead]

theorem Core.races_modRace (x : Core) (u : Fin 2) (f : RaceUnit → RaceUnit) : (x.modRace u f).races[u] = f x.races[u] := by
  simp [Core.modRace]

/-- A race unit takes its head: what it does to itself, and the cell that leaves. -/
def State.raceTaken (s : State) (c : CoreId) (u : Fin 2) (f : RaceUnit → RaceUnit) : State :=
  (s.modCore c (fun x => x.modRace u f)).popHead c (116 + u.val) 0

theorem State.races_raceTaken (s : State) (c : CoreId) (u : Fin 2) (f : RaceUnit → RaceUnit) :
    ((s.raceTaken c u f).core c).races[u] = f (s.core c).races[u] := by
  have h := Core.races_modRace (s.core c) u f
  rw [← State.core_modCore s c (fun x => x.modRace u f)] at h
  rw [← h]
  exact congrArg (fun l : Vector RaceUnit 2 => l[u]) (State.races_popHead ..)

theorem State.cells_raceTaken (s : State) (c : CoreId) (u : Fin 2) (f : RaceUnit → RaceUnit) :
    ((((s.raceTaken c u f).core c).egAt (116 + u.val)).chan 0).cells = (((s.core c).egAt (116 + u.val)).chan 0).cells.tail := by
  obtain ⟨-, -, -, h⟩ := State.ports_popHead (s.modCore c (fun x => x.modRace u f)) c (116 + u.val) 0
  have h0 := h 0
  rw [if_pos rfl, State.core_modCore] at h0
  exact h0

theorem State.mem_raceTaken (s : State) (c : CoreId) (u : Fin 2) (f : RaceUnit → RaceUnit) : SameMem s (s.raceTaken c u f) :=
  SameMem.of_mem ((State.mem_popHead ..).trans rfl)

/-- A race that its last cell ends, and one that goes on with more scores. -/
def RaceUnit.ended (r : RaceUnit) (z : Race) (slot : Nat) : RaceUnit := { (r.finish z slot) with ops := r.ops + 1 }
def RaceUnit.scored (r : RaceUnit) (z : Race) : RaceUnit := { r with cur := some z, ops := r.ops + 1 }

/-- The race to which a cell adds its scores. -/
def RaceUnit.race (r : RaceUnit) (key : Key) : Race := r.cur.getD { cfg := r.cfg, key := key, scores := [] }

/-- A race with the scores of one more cell, up to 256. -/
def Race.more (z : Race) (p : Payload) : Race := { z with scores := (z.scores ++ raceScores (raceFmt z.cfg) p).take 256 }

section head
variable {s : State} {c : CoreId} {u : Fin 2} {y : Cell} (hy : (s.core c).head? s.slot (116 + u.val) 0 = some y)
  (hz : ((s.core c).races[u]).frozen = none) (hg : ((s.core c).races[u]).goAt ≤ s.slot)
  (hm : (((s.core c).egAt (116 + u.val)).chan 0).moved = false)
include hy hz hg hm

omit hy in
theorem raceRuns : ¬(((s.core c).races[u]).frozen.isSome || decide (s.slot < ((s.core c).races[u]).goAt) ||
    (((s.core c).egAt (116 + u.val)).chan 0).moved) = true := by
  rw [hz, decide_eq_false (Nat.not_lt.mpr hg), hm]
  decide

theorem exec_raceScore_refused (ht : y.h.tag = tSTEER ∨ y.h.tag = tSPL ∨ y.h.tag = tRDE ∨ y.h.tag = tCTRL) :
    exec (.raceScore c u) s = .next (s.freezeRace c u kPORT y.h) := by
  show execRaceScore c u s = _
  simp only [execRaceScore, hy]
  rw [if_neg (raceRuns hz hg hm), if_pos (by tauto)]

theorem exec_raceScore_end {z : Race} (ht : y.h.tag = tEOR) (hcur : ((s.core c).races[u]).cur = some z) :
    exec (.raceScore c u) s = .next (s.raceTaken c u (fun r => r.ended z s.slot)) := by
  show execRaceScore c u s = _
  simp only [execRaceScore, hy, hcur]
  rw [if_neg (raceRuns hz hg hm), ht, if_neg (by decide), if_pos rfl]
  rfl

variable (ht : y.h.tag = tDATA) (hf : 1 ≤ (raceFmt (((s.core c).races[u]).race y.h.key).cfg).toNat)
  (hf' : (raceFmt (((s.core c).races[u]).race y.h.key).cfg).toNat ≤ 8)
include ht hf hf'

theorem exec_raceScore_data : exec (.raceScore c u) s = .next (s.raceTaken c u (fun r =>
    { (if ((((s.core c).races[u]).race y.h.key).more y.data).scores.length = 256 then r.finish ((((s.core c).races[u]).race y.h.key).more y.data) s.slot
      else { r with cur := some ((((s.core c).races[u]).race y.h.key).more y.data) }) with ops := r.ops + 1 })) := by
  have hfmt : ¬(raceFmt (((s.core c).races[u]).race y.h.key).cfg = 0 ∨ 8 < (raceFmt (((s.core c).races[u]).race y.h.key).cfg).toNat) := by
    rintro (h | h)
    · rw [h] at hf; exact absurd hf (by decide)
    · omega
  show execRaceScore c u s = _
  simp only [execRaceScore, hy]
  rw [if_neg (raceRuns hz hg hm), ht, if_neg (by decide), if_neg (by decide), if_neg (by decide)]
  exact (if_neg hfmt).trans rfl

theorem exec_raceScore_more (hn : ((((s.core c).races[u]).race y.h.key).more y.data).scores.length < 256) :
    exec (.raceScore c u) s = .next (s.raceTaken c u (fun r => r.scored ((((s.core c).races[u]).race y.h.key).more y.data))) := by
  rw [exec_raceScore_data hy hz hg hm ht hf hf']
  simp only [if_neg (Nat.ne_of_lt hn)]
  rfl

theorem exec_raceScore_last (hn : ((((s.core c).races[u]).race y.h.key).more y.data).scores.length = 256) :
    exec (.raceScore c u) s = .next (s.raceTaken c u (fun r => r.ended ((((s.core c).races[u]).race y.h.key).more y.data) s.slot)) := by
  rw [exec_raceScore_data hy hz hg hm ht hf hf']
  simp only [if_pos hn]
  rfl

end head

/-- A frozen race unit. -/
theorem freezeRace_frozen (s : State) (c : CoreId) (u : Fin 2) (kind : BitVec 8) (h : Header) :
    ∃ q, (((s.freezeRace c u kind h).core c).races[u]).frozen = some q ∧ q.kind = kind := by
  refine ⟨{ kind := kind, arg := h.word }, ?_, rfl⟩
  unfold State.freezeRace
  dsimp only
  rw [State.record, State.core_modCore]
  refine (congrArg (fun x : Core => x.races[u].frozen) (State.core_modCore s c _)).trans ?_
  exact congrArg RaceUnit.frozen (Core.races_modRace ..)

/-- The outcome of an ended race, in the form of its statement. -/
theorem race_outcome (s : State) (c : CoreId) (u : Fin 2) (z : Race) :
    let r := (s.core c).races[u]
    let r' := ((s.raceTaken c u (fun r => r.ended z s.slot)).core c).races[u]
    let l := z.scores
    r'.cur = none ∧ r'.ops = r.ops + 1 ∧
      ∃ o : Offer, r'.out = r.out ++ [(s.slot + 24, o)] ∧ o.via = .entry (BitVec.ofNat 8 (z.cfg.toNat / 2 ^ 16 % 2 ^ 8)) ∧
        o.cell.h.tag = tSTEER ∧ o.cell.h.key = z.key ∧ (l = [] → o.cell.data = 0) ∧
        (l ≠ [] → l.length ≤ 256 → ∃ e, e < l.length ∧ o.cell.data.toNat % 2 ^ 8 = (z.cfg.toNat / 2 ^ 8 % 2 ^ 8 + e) % 2 ^ 8 ∧
          o.cell.data.toNat / 2 ^ 8 % 2 ^ 8 = min (raceK z.cfg) l.length ∧ o.cell.data.toNat / 2 ^ 32 % 2 ^ 16 = e ∧
          o.cell.data.toNat / 2 ^ 256 % 2 ^ 32 = l.getD e 0 % 2 ^ 32 ∧
          ∀ j, j < l.length → raceQ (raceFmt z.cfg) (l.getD j 0) ≤ raceQ (raceFmt z.cfg) (l.getD e 0) ∧
            (j < e → raceQ (raceFmt z.cfg) (l.getD j 0) < raceQ (raceFmt z.cfg) (l.getD e 0))) := by
  intro r r' l
  have hr : r' = r.ended z s.slot := State.races_raceTaken ..
  rw [hr]
  refine ⟨rfl, rfl, _, rfl, rfl, rfl, rfl, fun hl => ?_, fun hl hn => racePayload_best z.cfg hl hn⟩
  show racePayload z.cfg l = 0
  rw [hl, racePayload_nil]

theorem exec_raceEnd {s : State} {c : CoreId} {u : Fin 2} {z : Nat × Offer} {rest : List (Nat × Offer)} (hout : ((s.core c).races[u]).out = z :: rest) (hz : z.1 ≤ s.slot) :
    exec (.raceEnd c u) s = .next (s.setCore c (((s.core c).modRace u (fun r => { r with out := rest })).offer (116 + u.val) { z.2 with since := s.slot })) := by
  show execRaceEnd c u s = _
  simp only [execRaceEnd, State.modCore_eq, hout, if_pos hz]

theorem races : Races := by
  intro s c u y r Head Left open_ f all Ended
  refine ⟨fun ⟨hy, hz, hg, hm⟩ ht => ?_, fun z ⟨hy, hz, hg, hm⟩ ht hcur => ⟨_, exec_raceScore_end hy hz hg hm ht hcur, State.mem_raceTaken ..,
    State.cells_raceTaken .., race_outcome s c u z⟩, fun ⟨hy, hz, hg, hm⟩ ht hf hf' => ⟨fun hn => ?_, fun hn => ?_⟩, fun hy => ?_, fun z rest hout hz => ?_⟩
  · obtain ⟨q, hq, hk⟩ := freezeRace_frozen s c u kPORT y.h
    exact ⟨_, q, exec_raceScore_refused hy hz hg hm ht, SameMem.of_mem rfl, hq, hk⟩
  · refine ⟨_, exec_raceScore_more hy hz hg hm ht hf hf' hn, State.mem_raceTaken .., State.cells_raceTaken .., ?_⟩
    rw [State.races_raceTaken]
    exact ⟨rfl, rfl, rfl⟩
  · exact ⟨_, exec_raceScore_last hy hz hg hm ht hf hf' hn, State.mem_raceTaken .., State.cells_raceTaken ..,
      race_outcome s c u ((r.race y.h.key).more y.data)⟩
  · show execRaceScore c u s = _
    simp only [execRaceScore, hy]
  · refine ⟨_, exec_raceEnd hout hz, onlyCore_setCore .., ?_, ?_⟩
    · rw [State.core_setCore]
      exact congrArg RaceUnit.out (Core.races_modRace (s.core c) u (fun r => { r with out := rest }))
    · rw [State.core_setCore, Core.offer, Core.ingAt_modIng _ _ (by omega)]
      rfl

/-- Settles O45: the oldest set, the two stalls, the mailboxes and the races. -/
theorem weirUnits : Obligations.WeirUnits := ⟨rendezvousAndLoops, mailboxDelivery, races⟩

end Sys2Proof.Machine
end

section
/-! SUPPORT. LAUNCH at issue and its record at the queue (O58). -/

namespace Sys2Proof.Machine

open Sys2Proof.Claims

/-! ## At issue (R333) -/

section issue
variable {s : State} {d a : BitVec 5} {va : Nat} (hva : (s.me.rd a).toNat % 2 ^ 55 = va)
include hva

theorem exec_launch_misaligned (h : va % 128 ≠ 0) : exec (.launch d a) s = .next (s.accTrap kALIGN va .read) := by
  rw [← toNat_vaOf] at hva
  subst hva
  exact congrArg Host.Outcome.next (if_pos h)

variable (h : va % 128 = 0)
include h

theorem exec_launch_walk (ht : s.translate s.cur.1 va .read = none) :
    exec (.launch d a) s = .next (s.parkMe (.walk (BitVec.ofNat 55 va) .read)) := by
  have hvo : vaOf (s.me.rd a) = BitVec.ofNat 55 va := (vaOf_eq_ofNat _).trans (congrArg _ hva)
  rw [← toNat_vaOf] at hva
  rw [← hvo]
  subst hva
  show execLaunch d a s = _
  simp only [execLaunch, ht]
  rw [if_neg (not_not.mpr h)]

theorem exec_launch_park {p : Nat} (ht : s.translate s.cur.1 va .read = some p) : exec (.launch d a) s = .next (s.parkMe (.launch d p)) := by
  rw [← toNat_vaOf] at hva
  subst hva
  show execLaunch d a s = _
  simp only [execLaunch, ht]
  rw [if_neg (not_not.mpr h)]

end issue

/-! ## A record at its queue (R346, R347) -/

/-- No footprints are needed, and none is there. -/
theorem printsOf_zero (bs : List Byte) : printsOf? bs 0 = some [] := rfl

section queue
variable {s : State} {r : LaunchRec} {bs : List Byte} {n : Nat}

theorem queueRecord_badPrints (h : printsOf? bs n = none) : s.queueRecord r bs n = (s, .error 1) := by
  rw [State.queueRecord, h]

theorem queueRecord_full {l : List Footprint} (h : printsOf? bs n = some l) (hq : 256 ≤ s.queueLen r.tenant) :
    s.queueRecord r bs n = (s, .error 7) := by
  rw [State.queueRecord, h]
  exact if_pos hq

theorem queueRecord_queued {l : List Footprint} (h : printsOf? bs n = some l) (hq : s.queueLen r.tenant < 256) :
    s.queueRecord r bs n = (s.enqueue { r with prints := l }, .ok s.nextTask) := by
  rw [State.queueRecord, h]
  exact if_neg (Nat.not_le.mpr hq)

end queue

/-! ## The owners stay through the reads of a footprint array (R258) -/

theorem Aside.owners {s t : State} (h : Aside s t) : t.owners = s.owners := by rw [h.eq]

theorem State.owners_walkWrite (s : State) (ea e : Nat) (ch : Bool) : (s.walkWrite ea e ch).owners = s.owners := by
  unfold State.walkWrite; split <;> rfl

theorem owners_touch {s u : State} {c : CoreId} {va : Nat} {kd : Kind} {pa : Nat} (h : s.touch c va kd = .ok u pa) : u.owners = s.owners := by
  unfold State.touch at h
  split at h
  · cases h; rfl
  · split at h
    · cases h
    · cases h
    · cases h
      exact (State.owners_walkWrite ..).trans (aside_walked s c va).owners

theorem owners_readPrints {c : CoreId} (n : Nat) : ∀ {s u : State} {va : Nat} {fp : List Byte}, s.readPrints c va n = .ok (u, fp) →
    u.owners = s.owners := by
  induction n with
  | zero => rintro s u va fp ⟨⟩; rfl
  | succ n ih =>
    intro s u va fp h
    rw [State.readPrints] at h
    split at h
    · cases h
    · cases h
    · next v pa ht =>
      split at h
      · cases h
      · dsimp only at h
        split at h
        · next hr =>
          cases h
          exact (ih hr).trans ((aside_softHbm v pa 16).owners.trans (owners_touch ht))
        · cases h

/-! ## LAUNCH_RECORD_QUEUED -/

section aside
variable (s : State) (a n : Nat)

/-! What a check of a record reads stays as a read of memory corrects an error. -/

theorem State.ownBytes_softHbm (c : CoreId) (p m : Nat) : (s.softHbm a n).ownBytes c p m = s.ownBytes c p m := rfl

theorem State.recordReason_softHbm (bs : List Byte) (who : Submitter) : (s.softHbm a n).recordReason bs who = s.recordReason bs who := rfl

theorem State.thr_softHbm (c : CoreId) (k : Tid) : (s.softHbm a n).thr c k = s.thr c k := (aside_softHbm s a n).thr c k

theorem State.tenantOf_softHbm (c : CoreId) : (s.softHbm a n).tenantOf c = s.tenantOf c := (aside_softHbm s a n).tenantOf c

end aside

/-- What follows the read of a record's footprints: an answer in Gd, or a trap. -/
def launchEnd (c : CoreId) (k : Tid) (d : BitVec 5) (bs : List Byte) (p : Except PrintsErr (State × List Byte)) : Out :=
  match p with
  | .error .absent => .fault .absentPhysical
  | .error (.walk u) => .next (u.finish c k (fun th => th.wr d (launchAnswer (.error 6))))
  | .error (.bad u a) => .next (u.trapAt c k kECC (accessEval (a / 64 * 64) .read) (u.thr c k).pc)
  | .ok (u, fp) =>
    let y := u.queueRecord (recordOf bs (Sparse.get? u.owners (byteField bs 2 1))) fp (byteField bs 5 1)
    .next (y.1.finish c k (fun th => th.wr d (launchAnswer y.2)))

section queued
variable {s : State} {c : CoreId} {k : Tid} {d : BitVec 5} {pa : Nat} (hst : (s.thr c k).st = .parked) (hp : (s.thr c k).pend = .launch d pa)
include hst hp

theorem exec_launchRecordQueued_bad (hb : s.hbmBad pa 128 = true) :
    exec (.launchRecordQueued c k) s = .next (s.trapAt c k kECC (accessEval (pa / 64 * 64) .read) (s.thr c k).pc) := by
  show execLaunchRecordQueued c k s = _
  unfold execLaunchRecordQueued
  rw [hst, hp]
  exact if_pos hb

variable (hb : s.hbmBad pa 128 = false) {bs : List Byte} (hbs : s.ownBytes c pa 128 = bs)
include hb hbs

theorem exec_launchRecordQueued_refused {reason : Nat} (hr : s.recordReason bs (.thread (s.tenantOf c) (s.thr c k).cm) = some reason) :
    exec (.launchRecordQueued c k) s = .next ((s.softHbm pa 128).finish c k (fun th => th.wr d (launchAnswer (.error reason)))) := by
  show execLaunchRecordQueued c k s = _
  unfold execLaunchRecordQueued
  split
  next d' pa' hst' hp' =>
    obtain ⟨rfl, rfl⟩ := Pend.launch.inj (hp.symm.trans hp')
    rw [if_neg (Bool.eq_false_iff.mp hb)]
    extract_lets +onlyGivenNames v l done
    have hl : l = bs := (State.ownBytes_softHbm ..).trans hbs
    have hv : v.recordReason bs (.thread (v.tenantOf c) (v.thr c k).cm) = some reason := by
      rw [State.recordReason_softHbm, State.tenantOf_softHbm, State.thr_softHbm, hr]
    rw [hl, hv]
  next hn => exact absurd hp (hn d pa hst)

variable (hr : s.recordReason bs (.thread (s.tenantOf c) (s.thr c k).cm) = none)
include hr

/-- A record that the checks pass goes on with its footprints. -/
theorem exec_launchRecordQueued_passed {p : Except PrintsErr (State × List Byte)}
    (ha : (s.softHbm pa 128).readPrints c (byteField bs 48 8) (byteField bs 5 1) = p) :
    exec (.launchRecordQueued c k) s = launchEnd c k d bs p := by
  show execLaunchRecordQueued c k s = _
  unfold execLaunchRecordQueued
  split
  next d' pa' hst' hp' =>
    obtain ⟨rfl, rfl⟩ := Pend.launch.inj (hp.symm.trans hp')
    rw [if_neg (Bool.eq_false_iff.mp hb)]
    extract_lets +onlyGivenNames v l done
    have hl : l = bs := (State.ownBytes_softHbm ..).trans hbs
    have hv : v.recordReason bs (.thread (v.tenantOf c) (v.thr c k).cm) = none := by
      rw [State.recordReason_softHbm, State.tenantOf_softHbm, State.thr_softHbm, hr]
    rw [hl, hv]
    extract_lets +onlyGivenNames n
    have hread : v.readPrints c (byteField bs 48 8) n = p := ha
    rw [hread]
    rcases p with (_ | u | ⟨u, p⟩) | ⟨u, fp⟩ <;> rfl
  next hn => exact absurd hp (hn d pa hst)

end queued

/-! ## The statements -/

/-- A queued record's TASKID and place, and the thread that goes on. -/
theorem finish_enqueue (u : State) (r : LaunchRec) (l : List Footprint) (c : CoreId) (k : Tid) (f : Thread → Thread) :
    ((u.enqueue { r with prints := l }).finish c k f).nextTask = u.nextTask + 1 ∧
      (vget ((u.enqueue { r with prints := l }).finish c k f).lq r.tenant.toNat {}).recs =
        (vget u.lq r.tenant.toNat {}).recs ++ [{ r with prints := l, id := u.nextTask }] ∧
      Finished u ((u.enqueue { r with prints := l }).finish c k f) c k f :=
  ⟨rfl, State.recs_enqueue u { r with prints := l }, finished_finish (u.enqueue { r with prints := l }) c k f⟩

section outcomes
variable {s : State} {c : CoreId} {k : Tid} {d : BitVec 5} {pa : Nat} (hst : (s.thr c k).st = .parked) (hp : (s.thr c k).pend = .launch d pa)
  (hb : s.hbmBad pa 128 = false) {bs : List Byte} (hbs : s.ownBytes c pa 128 = bs)
include hst hp hb hbs

/-- A record that a check refuses: the reason, and no TASKID is given. -/
theorem launchRecord_refused {reason : Nat} (hr : s.recordReason bs (.thread (s.tenantOf c) (s.thr c k).cm) = some reason) :
    ∃ t, exec (.launchRecordQueued c k) s = .next t ∧ SameMem s t ∧ t.nextTask = s.nextTask ∧ t.lq = s.lq ∧
      Finished s t c k (fun th => th.wr d (launchAnswer (.error reason))) :=
  ⟨_, exec_launchRecordQueued_refused hst hp hb hbs hr, SameMem.of_mem rfl, rfl, rfl, finished_finish (s.softHbm pa 128) c k _⟩

variable (hr : s.recordReason bs (.thread (s.tenantOf c) (s.thr c k).cm) = none)
include hr

variable {r : LaunchRec} (hrec : recordOf bs (Sparse.get? s.owners (byteField bs 2 1)) = r)
include hrec

theorem exec_launchRecord_answered {u v : State} {fp : List Byte} {ans : Except Nat TaskId}
    (ha : (s.softHbm pa 128).readPrints c (byteField bs 48 8) (byteField bs 5 1) = .ok (u, fp))
    (hq : u.queueRecord r fp (byteField bs 5 1) = (v, ans)) :
    exec (.launchRecordQueued c k) s = .next (v.finish c k (fun th => th.wr d (launchAnswer ans))) := by
  have hown : u.owners = s.owners := (owners_readPrints (s := s.softHbm pa 128) _ ha).trans (aside_softHbm s pa 128).owners
  rw [exec_launchRecordQueued_passed hst hp hb hbs hr ha, launchEnd, hown, hrec, hq]

/-- A record whose queue is full. -/
theorem exec_launchRecord_full (hn : byteField bs 5 1 = 0) (hl : 256 ≤ s.queueLen r.tenant) :
    exec (.launchRecordQueued c k) s = .next ((s.softHbm pa 128).finish c k (fun th => th.wr d (launchAnswer (.error 7)))) := by
  refine exec_launchRecord_answered hst hp hb hbs hr hrec (u := s.softHbm pa 128) (fp := []) (by rw [hn]; rfl) ?_
  rw [hn]
  exact queueRecord_full (printsOf_zero []) hl

/-- A record without footprints joins its queue. -/
theorem exec_launchRecord_queued (hn : byteField bs 5 1 = 0) (hl : s.queueLen r.tenant < 256) :
    exec (.launchRecordQueued c k) s = .next (((s.softHbm pa 128).enqueue { r with prints := [] }).finish c k (fun th => th.wr d (launchAnswer (.ok s.nextTask)))) := by
  refine exec_launchRecord_answered hst hp hb hbs hr hrec (u := s.softHbm pa 128) (fp := []) (by rw [hn]; rfl) ?_
  rw [hn]
  exact queueRecord_queued (printsOf_zero []) hl

/-- What a record without footprints leaves: its TASKID, its place, and the thread that goes on. -/
theorem launchRecord_queued (hn : byteField bs 5 1 = 0) (hl : s.queueLen r.tenant < 256) :
    ∃ t, exec (.launchRecordQueued c k) s = .next t ∧ SameMem s t ∧ t.nextTask = s.nextTask + 1 ∧
      (vget t.lq r.tenant.toNat {}).recs = (vget s.lq r.tenant.toNat {}).recs ++ [{ r with prints := [], id := s.nextTask }] ∧
      Finished s t c k (fun th => th.wr d (launchAnswer (.ok s.nextTask))) := by
  have hex := exec_launchRecord_queued hst hp hb hbs hr hrec hn hl
  have hthr : (s.softHbm pa 128).thr c k = s.thr c k := State.thr_softHbm ..
  have hmem : (s.softHbm pa 128).mem = s.mem := State.mem_softHbm ..
  have hslot : (s.softHbm pa 128).slot = s.slot := rfl
  have hnext : (s.softHbm pa 128).nextTask = s.nextTask := rfl
  have hlq : (s.softHbm pa 128).lq = s.lq := rfl
  generalize s.softHbm pa 128 = v at hex hthr hmem hslot hnext hlq
  obtain ⟨ht, hrecs, hfin⟩ := finish_enqueue v r [] c k (fun th => th.wr d (launchAnswer (.ok s.nextTask)))
  unfold Finished at hfin ⊢
  rw [hthr, hslot] at hfin
  exact ⟨_, hex, SameMem.of_mem hmem, by rw [ht, hnext], by rw [hrecs, hlq, hnext], hfin⟩

end outcomes

theorem launchForms : LaunchForms := by
  intro s d a c k pa reason va
  refine ⟨fun h => does_accTrap (exec_launch_misaligned rfl h) (accessEval_read (by omega)), fun p h ht => does_parkMe (exec_launch_park rfl h ht),
    fun h ht => does_parkMe (exec_launch_walk rfl h ht), fun hst hp => ?_⟩
  intro bs who r
  have hbs : s.ownBytes c pa 128 = bs := rfl
  have hrec : recordOf bs (Sparse.get? s.owners (byteField bs 2 1)) = r := rfl
  clear_value r bs
  refine ⟨fun hb => ⟨_, exec_launchRecordQueued_bad hst hp hb, tookTrap_trapAt ..⟩, fun hb hr => launchRecord_refused hst hp hb hbs hr,
    fun hb hr hn hl => ⟨_, exec_launchRecord_full hst hp hb hbs hr hrec hn hl, SameMem.of_mem rfl, rfl, rfl, finished_finish (s.softHbm pa 128) c k _⟩,
    fun hb hr hn hl => launchRecord_queued hst hp hb hbs hr hrec hn hl, fun hb hr => ?_⟩
  intro array
  refine ⟨fun u ha => ⟨_, exec_launchRecordQueued_passed hst hp hb hbs hr ha, rfl, rfl, rfl, finished_finish u c k _⟩,
    fun u p ha => ⟨_, exec_launchRecordQueued_passed hst hp hb hbs hr ha, tookTrap_trapAt ..⟩,
    fun u fp ha hl => ⟨_, exec_launchRecord_answered hst hp hb hbs hr hrec ha (queueRecord_badPrints hl), rfl, rfl, finished_finish u c k _⟩,
    fun u fp l ha hl hq => ⟨_, exec_launchRecord_answered hst hp hb hbs hr hrec ha (queueRecord_queued hl hq),
      finish_enqueue u r l c k _⟩⟩

/-! ## LAUNCH without a delay (R333, R347) -/

/-- A parked thread's result, from before it parked. -/
theorem finished_wr_of_parked {s t : State} {p : Pend} {d : BitVec 5} {v : Word} (h : Finished (s.parkMe p) t s.cur.1 s.cur.2 (fun th => th.wr d v)) :
    Finished s t s.cur.1 s.cur.2 (fun th => th.wr d v) := by
  have hthr : (s.parkMe p).thr s.cur.1 s.cur.2 = s.me.park p := State.me_modMe s _
  unfold Finished at h ⊢
  rw [hthr] at h
  refine h.trans ?_
  unfold Thread.wr Thread.park
  split <;> rfl

/-- A parked thread leaves what a descriptor's read of its core finds. -/
theorem State.ownBytes_parkMe (s : State) (p : Pend) (pa n : Nat) : (s.parkMe p).ownBytes s.cur.1 pa n = s.ownBytes s.cur.1 pa n := by
  have hw : ((s.parkMe p).core s.cur.1).wbuf = (s.core s.cur.1).wbuf := by rw [State.core_parkMe, if_pos rfl]; rfl
  unfold State.ownBytes State.readOwn
  rw [hw]
  rfl

theorem State.tenantOf_parkMe (s : State) (p : Pend) (c : CoreId) : (s.parkMe p).tenantOf c = s.tenantOf c := by
  have htask : ((s.parkMe p).core c).task = (s.core c).task := by rw [State.core_parkMe]; split <;> rfl
  rw [State.tenantOf, State.taskOf_congr htask rfl]
  rfl

theorem launchCompletes : LaunchCompletes := by
  intro s d a pa reason va bs check By hal ht hb
  have hex := exec_launch_park (d := d) rfl hal ht
  have hthr : (s.parkMe (.launch d pa)).thr s.cur.1 s.cur.2 = s.me.park (.launch d pa) := State.me_modMe s _
  have hst : ((s.parkMe (.launch d pa)).thr s.cur.1 s.cur.2).st = .parked := by rw [hthr]; rfl
  have hp : ((s.parkMe (.launch d pa)).thr s.cur.1 s.cur.2).pend = .launch d pa := by rw [hthr]; rfl
  have hbs : (s.parkMe (.launch d pa)).ownBytes s.cur.1 pa 128 = bs := State.ownBytes_parkMe ..
  clear_value bs
  have hcheck : (s.parkMe (.launch d pa)).recordReason bs (.thread ((s.parkMe (.launch d pa)).tenantOf s.cur.1)
      ((s.parkMe (.launch d pa)).thr s.cur.1 s.cur.2).cm) = check := by
    rw [State.tenantOf_parkMe, hthr]
    rfl
  refine ⟨fun hr => ?_, fun hr hn hl => ?_⟩
  · obtain ⟨t, h, hmem, hnext, -, hfin⟩ := launchRecord_refused hst hp hb hbs (hcheck.trans hr)
    exact ⟨_, t, hex, h, hmem, hnext, finished_wr_of_parked hfin⟩
  · obtain ⟨t, h, hmem, hnext, -, hfin⟩ := launchRecord_queued hst hp hb hbs (hcheck.trans hr) rfl hn hl
    exact ⟨_, t, hex, h, hmem, hnext, finished_wr_of_parked hfin⟩

end Sys2Proof.Machine
end

section
/-! SUPPORT. A task's life: reservation, start, first issue, watchdog, stop, end, and the posting of records (O58). -/

namespace Sys2Proof.Machine

open Sys2Proof.Claims

/-! ## The first least element -/

/-- The first element of least measure, with those before it strictly above and those after it not below. -/
def FirstLeast {α : Type} (f : α → Nat) (l : List α) (b : α) : Prop :=
  ∃ before after, l = before ++ b :: after ∧ (∀ y ∈ before, f b < f y) ∧ ∀ y ∈ after, f b ≤ f y

theorem FirstLeast.cons_below {α : Type} {f : α → Nat} {z : α} {l : List α} {b : α} (h : FirstLeast f l b) (hz : f b < f z) : FirstLeast f (z :: l) b := by
  obtain ⟨before, after, rfl, hlt, hle⟩ := h
  refine ⟨z :: before, after, rfl, fun w hw => ?_, hle⟩
  rcases List.mem_cons.mp hw with rfl | hw
  · exact hz
  · exact hlt w hw

theorem FirstLeast.le {α : Type} {f : α → Nat} {l : List α} {b y : α} (h : FirstLeast f l b) (hy : y ∈ l) : f b ≤ f y := by
  obtain ⟨before, after, rfl, hlt, hle⟩ := h
  rcases List.mem_append.mp hy with hm | hm
  · exact (hlt y hm).le
  · rcases List.mem_cons.mp hm with rfl | hm
    · exact le_rfl
    · exact hle y hm

/-- The choice among an element so far and the rest of a list. -/
def leastFrom {α : Type} (f : α → Nat) (l : List α) (z : α) : Option α :=
  l.foldl (fun acc y => match acc with | none => some y | some z => if f y < f z then some y else acc) (some z)

theorem leastFrom_first {α : Type} (f : α → Nat) (l : List α) (z : α) : ∃ b, leastFrom f l z = some b ∧ FirstLeast f (z :: l) b := by
  induction l generalizing z with
  | nil => exact ⟨z, rfl, [], [], rfl, by simp, by simp⟩
  | cons y r ih =>
    by_cases h : f y < f z
    · obtain ⟨b, hb, hbest⟩ := ih y
      exact ⟨b, (congrArg (fun o => List.foldl _ o r) (if_pos h)).trans hb, hbest.cons_below ((hbest.le List.mem_cons_self).trans_lt h)⟩
    · obtain ⟨b, hb, before, after, hl, hlt, hle⟩ := ih z
      refine ⟨b, (congrArg (fun o => List.foldl _ o r) (if_neg h)).trans hb, ?_⟩
      cases before with
      | nil =>
        obtain ⟨rfl, rfl⟩ := List.cons.inj hl
        refine ⟨[], y :: r, rfl, by simp, fun w hw => ?_⟩
        rcases List.mem_cons.mp hw with rfl | hw
        · exact Nat.not_lt.mp h
        · exact hle w hw
      | cons x before =>
        obtain ⟨rfl, rfl⟩ := List.cons.inj hl
        have hz := hlt z List.mem_cons_self
        refine ⟨z :: y :: before, after, rfl, fun w hw => ?_, hle⟩
        rcases List.mem_cons.mp hw with rfl | hw
        · exact hz
        · rcases List.mem_cons.mp hw with rfl | hw
          · exact hz.trans_le (Nat.not_lt.mp h)
          · exact hlt w (List.mem_cons_of_mem _ hw)

theorem leastBy_first {α : Type} (f : α → Nat) {l : List α} (hl : l ≠ []) : ∃ b, leastBy f l = some b ∧ FirstLeast f l b := by
  cases l with
  | nil => exact absurd rfl hl
  | cons z r => exact leastFrom_first f r z

/-! ## The reservation (R350) -/

/-- The heads that have waited T_res, with their queues. -/
def State.dueHeads (s : State) : List (Fin 64 × LaunchRec) :=
  (List.finRange 64).filterMap (fun q => ((s.lq[q]).recs.head?.filter (fun r => decide (s.tres ≤ r.waited))).map (fun r => (q, r)))

theorem State.mem_dueHeads {s : State} {q : Fin 64} {r : LaunchRec} :
    (q, r) ∈ s.dueHeads ↔ (s.lq[q]).recs.head? = some r ∧ s.tres ≤ r.waited := by
  simp only [State.dueHeads, List.mem_filterMap, List.mem_finRange, true_and, Option.map_eq_some_iff, Option.filter_eq_some_iff, decide_eq_true_eq,
    Prod.mk.injEq]
  constructor
  · rintro ⟨p, w, ⟨hw, ht⟩, rfl, rfl⟩
    exact ⟨hw, ht⟩
  · rintro ⟨hr, ht⟩
    exact ⟨q, r, ⟨hr, ht⟩, rfl, rfl⟩

/-- The heads stand in the order of their queues. -/
theorem State.dueHeads_sorted (s : State) : s.dueHeads.Pairwise (fun y z => y.1 < z.1) := by
  refine List.Pairwise.filterMap _ (fun a b hab y hy z hz => ?_) (List.pairwise_lt_finRange 64)
  obtain ⟨-, -, rfl⟩ := Option.map_eq_some_iff.mp hy
  obtain ⟨-, -, rfl⟩ := Option.map_eq_some_iff.mp hz
  exact hab

/-- The reservation that a due head takes. -/
def State.reserveFor (s : State) (y : Fin 64 × LaunchRec) : State :=
  { s with resv := (s.reserveSet? y.2).map (fun l => { queue := BitVec.ofNat 6 y.1.val, cores := l }) }

theorem exec_launchReservation {s : State} (hv : s.resv = none) (hb : s.boot = .running) {o : Option (Fin 64 × LaunchRec)}
    (hl : leastBy (fun y : Fin 64 × LaunchRec => 2 ^ 64 - y.2.waited) s.dueHeads = o) : exec .launchReservation s = .next (o.elim s s.reserveFor) := by
  show execLaunchReservation s = _
  unfold execLaunchReservation
  rw [if_neg (by simp [hv, hb])]
  extract_lets +onlyGivenNames due
  have hdue : due = s.dueHeads := by
    refine congrFun (congrArg List.filterMap (funext fun q => ?_)) _
    rw [LaunchQ.head?]
    cases (s.lq[q]).recs.head? with
    | none => rfl
    | some r => by_cases ht : s.tres ≤ r.waited <;> simp [Option.filter, ht]
  rw [hdue, hl]
  cases o <;> rfl

/-- The head that has waited longest, of the first queue among equals, is the one that reserves. -/
theorem State.longest_dueHead {s : State} {q : Fin 64} {r : LaunchRec} (hr : (s.lq[q]).recs.head? = some r) (ht : s.tres ≤ r.waited)
    (hw : r.waited < 2 ^ 64) (hmax : ∀ (p : Fin 64) w, (s.lq[p]).recs.head? = some w → s.tres ≤ w.waited →
      w.waited < r.waited ∨ w.waited = r.waited ∧ q ≤ p) :
    leastBy (fun y : Fin 64 × LaunchRec => 2 ^ 64 - y.2.waited) s.dueHeads = some (q, r) := by
  have hmem : (q, r) ∈ s.dueHeads := State.mem_dueHeads.mpr ⟨hr, ht⟩
  obtain ⟨⟨p, w⟩, hb, before, after, hl, hlt, hle⟩ := leastBy_first (fun y : Fin 64 × LaunchRec => 2 ^ 64 - y.2.waited) (List.ne_nil_of_mem hmem)
  obtain ⟨hhead, htw⟩ := State.mem_dueHeads.mp (hl ▸ List.mem_append_right before List.mem_cons_self : (p, w) ∈ s.dueHeads)
  have hsort := s.dueHeads_sorted
  have hpw := hmax p w hhead htw
  rw [hl] at hmem hsort
  rcases List.mem_append.mp hmem with hm | hm
  · have := hlt _ hm
    dsimp only at this
    omega
  · rcases List.mem_cons.mp hm with he | hm
    · rw [hb, he]
    · have hpq := (List.pairwise_cons.mp (List.pairwise_append.mp hsort).2.1).1 _ hm
      have := hle _ hm
      dsimp only at this hpq
      omega

/-- The set that a head reserves: the most free cores, the first in order among equals. -/
theorem State.reserveSet_first (s : State) {r : LaunchRec} (hs : r.sets ≠ []) (hlen : ∀ l ∈ r.sets, l.length ≤ 64) :
    let free (l : List CoreId) : Nat := (l.filter (fun k => (s.core k).task.isNone)).length
    ∃ before l after, r.sets = before ++ l :: after ∧ (∀ m ∈ before, free m < free l) ∧ (∀ m ∈ after, free m ≤ free l) ∧
      s.reserveSet? r = some l := by
  intro free
  obtain ⟨l, hl, before, after, hsets, hlt, hle⟩ := leastBy_first (fun l => 64 - free l) hs
  have hfree : ∀ m ∈ r.sets, free m ≤ 64 := fun m hm => (List.length_filter_le ..).trans (hlen m hm)
  refine ⟨before, l, after, hsets, fun m hm => ?_, fun m hm => ?_, hl⟩
  · have : 64 - free l < 64 - free m := hlt m hm
    omega
  · have hm' : 64 - free l ≤ 64 - free m := hle m hm
    have := hfree m (hsets ▸ List.mem_append_right before (List.mem_cons_of_mem l hm))
    omega

/-! ## The start of a gang (R348, R353, R354) -/

/-- What a scrub leaves of the module beside its cores and memories: the reservation, the tasks, the pointer. -/
def State.sched (s : State) : Option Reservation × List Task × Fin 64 := (s.resv, s.tasks, s.lqPtr)

theorem State.sched_softPool (s : State) (a n : Nat) : (s.softPool a n).sched = s.sched := by
  unfold State.softPool
  dsimp only
  rw [State.foldl_keep State.sched]
  · rfl
  · intros; rfl

theorem State.sched_zeroBank (s : State) (c : CoreId) (b : Nat) : (s.zeroBank c b).sched = s.sched :=
  (State.sched_softPool ..).trans rfl

theorem State.sched_scrubCore (s : State) (c : CoreId) (r : LaunchRec) : (s.scrubCore c r).sched = s.sched := by
  unfold State.scrubCore
  exact State.foldl_keep State.sched _ (fun s b => State.sched_zeroBank s c b) _ _

/-- The task of a gang that starts. -/
def State.gang (s : State) (r : LaunchRec) (l : List CoreId) : Task :=
  { lrec := r, cores := l, phase := .starting, startAt := s.slot, first := none, wdog := r.limit, groups := [] }

theorem State.sched_startGang (s : State) (q : Nat) (r : LaunchRec) (l : List CoreId) (deficit : Nat) :
    (s.startGang q r l deficit).sched = (s.resv.filter (fun v => v.queue.toNat != q), s.tasks ++ [s.gang r l], s.lqPtr) := by
  unfold State.startGang
  exact State.foldl_keep State.sched _ (fun s c => State.sched_scrubCore s c r) _ _

theorem vget_vmod_keep {α β : Type} {n : Nat} (g : α → β) (v : Vector α n) (i j : Nat) (f : α → α) (d : α) (h : ∀ x, g (f x) = g x) :
    g (vget (vmod v i f) j d) = g (vget v j d) := by
  by_cases hij : i = j
  · subst hij
    by_cases hi : i < n
    · rw [vmod_same _ _ _ _ hi, h]
    · rw [vget_ge _ _ _ hi, vget_ge _ _ _ hi]
  · rw [vmod_other _ _ _ _ _ hij]

/-- A queue's deficit and mark, written. -/
def State.setDeficit (s : State) (q d : Nat) : State := { s with lq := vmod s.lq q (fun z => { z with def_ := d, fresh := false }) }

/-- A head's placement does not depend on the deficits. -/
theorem State.mayStart_setDeficit (s : State) (q d p : Nat) (r : LaunchRec) : (s.setDeficit q d).mayStart? p r = s.mayStart? p r := by
  have hhead (i : Nat) : (vget (s.setDeficit q d).lq i {}).head? = (vget s.lq i {}).head? :=
    vget_vmod_keep LaunchQ.head? s.lq q i _ {} (fun _ => rfl)
  have hlmax (h : LaunchRec) : (s.setDeficit q d).lmaxOf h = s.lmaxOf h := rfl
  have hlimit : (s.setDeficit q d).limitOk p r = s.limitOk p r := by
    simp only [State.limitOk, hhead, hlmax]
  unfold State.mayStart?
  rw [hlimit]
  rfl

section drr
variable {s : State} {r : LaunchRec} (hh : (vget s.lq s.lqPtr.val {}).head? = some r)
include hh

theorem State.drr_start {l : List CoreId} (hm : s.mayStart? s.lqPtr.val r = some l) (hf : (vget s.lq s.lqPtr.val {}).fresh = false)
    (hd : r.cores ≤ (vget s.lq s.lqPtr.val {}).def_) : s.drr =
      (s.setDeficit s.lqPtr.val (vget s.lq s.lqPtr.val {}).def_).startGang s.lqPtr.val r l ((vget s.lq s.lqPtr.val {}).def_ - r.cores) := by
  have hm' := (s.mayStart_setDeficit s.lqPtr.val (vget s.lq s.lqPtr.val {}).def_ s.lqPtr.val r).trans hm
  unfold State.setDeficit at hm' ⊢
  unfold State.drr
  simp only [hf, Bool.false_eq_true, if_false, hh, hm', if_pos hd]

theorem State.drr_next (hm : s.mayStart? s.lqPtr.val r = none) : ∃ d, s.drr = (s.setDeficit s.lqPtr.val d).nextQueue := by
  refine ⟨if (vget s.lq s.lqPtr.val {}).fresh then min ((vget s.lq s.lqPtr.val {}).def_ + (vget s.weights s.lqPtr.val 1).toNat) 511
    else (vget s.lq s.lqPtr.val {}).def_, ?_⟩
  generalize hd : (if (vget s.lq s.lqPtr.val {}).fresh then min ((vget s.lq s.lqPtr.val {}).def_ + (vget s.weights s.lqPtr.val 1).toNat) 511
    else (vget s.lq s.lqPtr.val {}).def_) = d
  have hm' := (s.mayStart_setDeficit s.lqPtr.val d s.lqPtr.val r).trans hm
  unfold State.setDeficit at hm' ⊢
  unfold State.drr
  simp only [hd, hh, hm']

end drr

theorem exec_gangStart_reserved {s : State} (hb : s.boot = .running) {v : Reservation} (hv : s.resv = some v) {r : LaunchRec}
    (hh : (vget s.lq v.queue.toNat {}).head? = some r) (he : s.edgesMet r = true) (hf : ∀ k ∈ v.cores, s.coreFree k = true) :
    exec .gangStart s = .next ((s.startGang v.queue.toNat r v.cores ((vget s.lq v.queue.toNat {}).def_ - r.cores)).raiseLmax v.queue.toNat r.limit) := by
  show execGangStart s = _
  simp only [execGangStart, hb, hv, hh, ne_eq, not_true, if_false]
  exact if_pos ((Bool.and_eq_true _ _).mpr ⟨he, List.all_eq_true.mpr hf⟩)

theorem exec_gangStart_drr {s : State} (hb : s.boot = .running) (hv : s.resv = none) : exec .gangStart s = .next s.drr := by
  show execGangStart s = _
  simp only [execGangStart, hb, hv, ne_eq, not_true, if_false]

/-! ## First issue and watchdog (R86, R353) -/

/-- A change of some cores, each of which then has a property that the others' changes keep. -/
theorem foldl_cores {P : Core → Prop} {Q : State → Prop} {F : State → CoreId → State} (hQ : ∀ s c, Q s → Q (F s c))
    (hnew : ∀ s c, Q s → P ((F s c).core c)) (hkeep : ∀ s c k, Q s → P (s.core k) → P ((F s c).core k)) (l : List CoreId) {s : State} (hs : Q s) :
    ∀ k, k ∈ l ∨ P (s.core k) → P ((l.foldl F s).core k) := by
  induction l generalizing s with
  | nil => rintro k (hk | hk)
           · cases hk
           · exact hk
  | cons c r ih =>
    intro k hk
    refine ih (hQ s c hs) k ?_
    by_cases h : k = c
    · exact .inr (h ▸ hnew s c hs)
    · refine hk.imp (fun hm => (List.mem_cons.mp hm).resolve_left h) (hkeep s c k hs)

/-- A gang's threads on one core at the first issue. -/
def State.issueCore (t : Task) (s : State) (c : CoreId) : State :=
  s.modCore c (fun x => { x with threads := Vector.ofFn (fun i => t.lrec.thread i (s.slot + 1)), launchSlot := s.slot + 1 })

theorem State.foldl_issueCore_keep {α : Type} (g : State → α) (hg : ∀ s c x, g (State.setCore s c x) = g s) (t : Task) (s : State) :
    g (t.cores.foldl (State.issueCore t) s) = g s := State.foldl_keep g _ (fun s c => hg s c _) _ _

theorem State.thr_issued (t : Task) (s : State) {k : CoreId} (hk : k ∈ t.cores) (i : Tid) :
    (t.cores.foldl (State.issueCore t) s).thr k i = t.lrec.thread i (s.slot + 1) := by
  refine foldl_cores (P := fun x => x.thr i = t.lrec.thread i (s.slot + 1)) (Q := fun u => u.slot = s.slot) (F := State.issueCore t)
    (fun _ _ h => h) (fun u c h => ?_) (fun u c j h hj => ?_) t.cores rfl k (.inl hk)
  · rw [State.issueCore, State.core_modCore, h]
    simp [Core.thr]
  · rw [State.issueCore, State.modCore_eq, State.core_setCore_if]
    split
    · rw [h]; simp [Core.thr]
    · exact hj

/-- A task whose first instructions issue in slot n. -/
def Task.issued (n : Nat) (t : Task) : Task := { t with phase := .running, first := some n }

section task
variable {s : State} {id : TaskId} {t : Task} (ht : s.taskById id = some t)
include ht

theorem exec_firstIssue (hp : t.phase = .starting) (hs : t.startAt < s.slot) (hi : t.lrec.image = 0) : exec (.firstIssue id) s =
    .next ((t.cores.foldl (State.issueCore t) s).modTask id (Task.issued (s.slot + 1))) := by
  rw [← State.foldl_issueCore_keep State.slot (fun _ _ _ => rfl) t s]
  show execFirstIssue id s = _
  simp only [execFirstIssue, ht, hi, if_true, if_pos (show t.phase = .starting ∧ t.startAt < s.slot from ⟨hp, hs⟩)]
  rfl

theorem exec_wdogExpire (hp : t.phase = .running) (hw : t.wdog = 0) : exec (.wdogExpire id) s = .next (s.stopTask id kWDOG) := by
  show execWdogExpire id s = _
  simp only [execWdogExpire, ht, hp, hw, and_self, if_true]

theorem exec_wdogExpire_early (hw : t.wdog ≠ 0) : exec (.wdogExpire id) s = .next s := by
  show execWdogExpire id s = _
  simp only [execWdogExpire, ht]
  rw [if_neg (fun q => hw q.2)]

/-! ## Stop (R320, R356) -/

theorem exec_taskStop {kd : BitVec 8} {n : Nat} (hp : t.phase = .stopping kd n) (hn : n < s.slot) :
    exec (.taskStop id) s = .next ((t.cores.foldl (fun s c => (s.stopCore c).dropTwins c) s).leaveXbar id) := by
  show execTaskStop id s = _
  simp only [execTaskStop, ht, hp, if_pos hn]

theorem exec_taskStop_early {kd : BitVec 8} {n : Nat} (hp : t.phase = .stopping kd n) (hn : s.slot ≤ n) : exec (.taskStop id) s = .next s := by
  show execTaskStop id s = _
  simp only [execTaskStop, ht, hp, if_neg (Nat.not_lt.mpr hn)]

end task

/-- What a stop leaves of a core that its twins' end keeps: its threads, records and ingress ports. -/
def Core.fronts (x : Core) : Vector Thread 16 × List FaultRec × Vector Ingress 128 := (x.threads, x.faults, x.ing)

theorem State.fronts_modStage (s : State) (c j : CoreId) (g : StageId) (f : Stage → Stage) :
    ((s.modCore c (fun x => x.modStage g f)).core j).fronts = (s.core j).fronts :=
  State.core_modCore_keep s j c _ Core.fronts (fun _ => rfl)

theorem State.fronts_twinBanks (s : State) (c j : CoreId) (b : BitVec 48) :
    ((s.modCore c (fun x => { x with twinBanks := x.twinBanks ||| b })).core j).fronts = (s.core j).fronts :=
  State.core_modCore_keep s j c _ Core.fronts (fun _ => rfl)

theorem State.fronts_dropTwins (s : State) (c j : CoreId) : ((s.dropTwins c).core j).fronts = (s.core j).fronts := by
  unfold State.dropTwins
  refine State.foldl_keep (fun u => (u.core j).fronts) _ (fun u g => ?_) _ _
  dsimp only
  split
  · rfl
  · rw [State.fronts_modStage, State.fronts_twinBanks]

/-- A stopped core: no record, every thread IDLE, every ingress buffer empty. -/
def Core.Stopped (x : Core) : Prop := x.faults = [] ∧ (∀ i, (x.thr i).st = .idle) ∧ ∀ p : PortId, (x.ingAt p.val).buf = []

theorem Core.Stopped.of_fronts {x y : Core} (h : x.Stopped) (hf : y.fronts = x.fronts) : y.Stopped := by
  obtain ⟨hthr, hfaults, hing⟩ : y.threads = x.threads ∧ y.faults = x.faults ∧ y.ing = x.ing := by simpa [Core.fronts] using hf
  unfold Core.Stopped Core.thr Core.ingAt at h ⊢
  rw [hthr, hfaults, hing]
  exact h

theorem State.stopped_stopCore (s : State) (c : CoreId) : ((s.stopCore c).core c).Stopped := by
  unfold State.stopCore
  dsimp only
  rw [State.core_modCore]
  refine ⟨rfl, fun i => ?_, fun p => ?_⟩
  · simp [Core.quiet, Core.mapThr, Core.thr, Thread.stop]
  · simp [Core.quiet, Core.mapThr, Core.ingAt, vget_lt]

/-! ## The end (R355, R356) -/

section ends
variable {s : State} {id : TaskId} {t : Task} (ht : s.taskById id = some t)
include ht

theorem exec_taskEnd_running (hp : t.phase = .running) (hw : ∃ k ∈ t.cores, (s.core k).workDone = false) : exec (.taskEnd id) s = .next s := by
  have hn : ¬(t.phase = .running ∧ t.cores.all (fun c => (s.core c).workDone) = true) := by
    rintro ⟨-, h⟩
    obtain ⟨k, hk, hf⟩ := hw
    rw [List.all_eq_true.mp h k hk] at hf
    cases hf
  show execTaskEnd id s = _
  simp only [execTaskEnd, ht, if_neg hn]
  rw [hp]
  rfl

theorem exec_taskEnd (hp : t.phase = .ending) (hw : ∀ k ∈ t.cores, (s.core k).writesDone = true) :
    exec (.taskEnd id) s = .next ((s.endRecord t).freeCores t) := by
  have hn : ¬(t.phase = .running ∧ t.cores.all (fun c => (s.core c).workDone) = true) := fun q => by
    rw [hp] at q
    cases q.1
  show execTaskEnd id s = _
  simp only [execTaskEnd, ht, if_neg hn]
  rw [hp]
  exact congrArg Host.Outcome.next (if_pos (List.all_eq_true.mpr hw))

end ends

theorem State.id_of_taskById {s : State} {id : TaskId} {t : Task} (h : s.taskById id = some t) : t.lrec.id = id :=
  of_decide_eq_true (List.find?_some (p := fun t : Task => decide (t.lrec.id = id)) h)

theorem State.outbox_dropTwins (s : State) (c : CoreId) : (s.dropTwins c).outbox = s.outbox := by
  unfold State.dropTwins
  refine State.foldl_keep State.outbox _ (fun u g => ?_) _ _
  dsimp only
  split <;> rfl

/-- A core that its task leaves. -/
def State.freeCore (t : Task) (s : State) (c : CoreId) : State :=
  s.modCore c (fun x => { x with task := none, lastTask := some (t.clock s.slot, t.wdog) })

/-- A task's twins and its part of the crossbars go. -/
def State.leave (s : State) (t : Task) : State := (t.cores.foldl (fun s c => s.dropTwins c) s).leaveXbar t.lrec.id

theorem State.freeCores_eq (s : State) (t : Task) : s.freeCores t =
    { t.cores.foldl (State.freeCore t) (s.leave t) with
      tasks := (t.cores.foldl (State.freeCore t) (s.leave t)).tasks.filter (fun y => y.lrec.id != t.lrec.id) } := rfl

theorem State.task_freeCores (s : State) (t : Task) : ∀ k ∈ t.cores, ((s.freeCores t).core k).task = none := by
  intro k hk
  rw [State.freeCores_eq]
  refine foldl_cores (P := fun x => x.task = none) (Q := fun _ => True) (F := State.freeCore t) (fun _ _ _ => trivial) (fun u c _ => ?_)
    (fun u c j _ hj => ?_) t.cores (s := s.leave t) trivial k (.inl hk)
  · rw [State.freeCore, State.core_modCore]
  · rw [State.freeCore, State.modCore_eq, State.core_setCore_if]
    split
    · rfl
    · exact hj

theorem State.tasks_freeCores (s : State) (t : Task) : ∀ z ∈ (s.freeCores t).tasks, z.lrec.id ≠ t.lrec.id := by
  intro z hz
  rw [State.freeCores_eq] at hz
  exact bne_iff_ne.mp (List.mem_filter.mp hz).2

theorem State.outbox_freeCores (s : State) (t : Task) : (s.freeCores t).outbox = s.outbox := by
  rw [State.freeCores_eq]
  refine (State.foldl_keep State.outbox (State.freeCore t) (fun _ _ => rfl) t.cores (s.leave t)).trans ?_
  exact State.foldl_keep State.outbox _ State.outbox_dropTwins t.cores s

theorem State.outbox_endRecord (s : State) (t : Task) : (s.endRecord t).outbox.length = s.outbox.length + 1 := by
  unfold State.endRecord
  dsimp only
  split <;> exact State.length_sendNext ..

/-! ## Posting (R104, R362) -/

theorem told_toFirmware (s : State) (r : FaultRec) : Told s (s.toFirmware r) := by
  unfold State.toFirmware
  dsimp only
  split <;> exact told_sendNext ..

theorem State.outbox_toFirmware (s : State) (r : FaultRec) : (s.toFirmware r).outbox.length = s.outbox.length + 1 := by
  unfold State.toFirmware
  dsimp only
  split <;> exact State.length_sendNext ..

theorem Told.core {s t : State} (h : Told s t) (c : CoreId) : t.core c = s.core c := by rw [State.core, h.cores]; rfl

/-- A record goes to the system path of the bank of its ring place. -/
def State.ringWrite (s : State) (c : CoreId) (r : FaultRec) (a : Nat) : State :=
  s.modCore c (fun x => { (x.modBank (poolBank a) (fun b => { b with sys := b.sys ++ [{ addr := a, bytes := s.recordBytes r, ring := true }] })) with
    ringNext := x.ringNext + 1 })

/-- What a core with a controller thread and a ring does with a record: its place, when it is free, or the firmware. -/
def State.postRing (s : State) (c : CoreId) (r : FaultRec) (a : Nat) : State := if s.ringFull c a then s.toFirmware r else s.ringWrite c r a

theorem State.post_ring {s : State} {c : CoreId} (r : FaultRec) (hc : (s.core c).controller? ≠ none) {t : Task} (ht : s.taskOf c = some t)
    {base : BitVec 22} (hf : t.lrec.fring = some base) : s.post c r = s.postRing c r (ringPlace c base (s.core c).ringNext) := by
  obtain ⟨i, hi⟩ := Option.ne_none_iff_exists'.mp hc
  unfold State.post
  extract_lets +onlyGivenNames x ring
  have hring : ring = some base := by
    show (match s.taskOf c with | some t => t.lrec.fring | none => none) = _
    rw [ht]
    exact hf
  rw [hring, hi]
  rfl

theorem State.post_cases (s : State) (c : CoreId) (r : FaultRec) : s.post c r = s.toFirmware r ∨ ∃ a, s.post c r = s.postRing c r a := by
  unfold State.post
  extract_lets +onlyGivenNames x ring
  cases x.controller? with
  | none => exact .inl rfl
  | some i =>
    cases ring with
    | none => exact .inl rfl
    | some base => exact .inr ⟨ringPlace c base x.ringNext, rfl⟩

theorem State.faults_ite {p : Prop} [Decidable p] {a b : State} {c : CoreId} {l : List FaultRec} (ha : (a.core c).faults = l)
    (hb : (b.core c).faults = l) : ((if p then a else b).core c).faults = l := by
  split
  · exact ha
  · exact hb

theorem State.faults_toFirmware (s : State) (c : CoreId) (r : FaultRec) : ((s.toFirmware r).core c).faults = (s.core c).faults := by
  rw [(told_toFirmware ..).core]

theorem State.faults_ringWrite (s : State) (c : CoreId) (r : FaultRec) (a : Nat) : ((s.ringWrite c r a).core c).faults = (s.core c).faults :=
  State.core_modCore_keep s c c _ Core.faults (fun _ => rfl)

theorem State.faults_post (s : State) (c : CoreId) (r : FaultRec) : ((s.post c r).core c).faults = (s.core c).faults := by
  rcases s.post_cases c r with h | ⟨a, h⟩ <;> rw [h]
  · exact State.faults_toFirmware ..
  · exact State.faults_ite (State.faults_toFirmware ..) (State.faults_ringWrite ..)

theorem State.faults_postBoth (s : State) (c : CoreId) (r : FaultRec) : ((s.postBoth c r).core c).faults = (s.core c).faults :=
  State.faults_ite (State.faults_ite ((State.faults_post ..).trans (State.faults_toFirmware ..)) (State.faults_toFirmware ..)) (State.faults_post ..)

/-- A core's record leaves its queue to be posted. -/
def State.unrecord (s : State) (c : CoreId) (r : FaultRec) : State := s.modCore c (fun x => { x with faults := x.faults.erase r })

section post
variable {s : State} {c : CoreId}

theorem exec_faultRecordPost_none (h : (s.core c).dueRecord? s.slot = none) : exec (.faultRecordPost c) s = .next s := by
  show execFaultRecordPost c s = _
  simp only [execFaultRecordPost, h]

variable {r : FaultRec} (h : (s.core c).dueRecord? s.slot = some r)
include h

theorem exec_faultRecordPost : ∃ u, exec (.faultRecordPost c) s = .next u ∧ (u.core c).faults = (s.core c).faults.erase r := by
  have herase : ((s.unrecord c r).core c).faults = (s.core c).faults.erase r := by rw [State.unrecord, State.core_modCore]
  show ∃ u, execFaultRecordPost c s = .next u ∧ _
  unfold execFaultRecordPost
  extract_lets +onlyGivenNames x
  rw [h]
  exact ⟨_, rfl, State.faults_ite herase ((State.faults_postBoth ..).trans herase)⟩

omit h in
theorem State.taskOf_unrecord (s : State) (c : CoreId) (r : FaultRec) : (s.unrecord c r).taskOf c = s.taskOf c :=
  State.taskOf_congr (State.core_modCore_keep s c c _ Core.task (fun _ => rfl)) rfl

theorem exec_faultRecordPost_running {t : Task} (ht : s.taskOf c = some t) (hp : t.phase = .running) (hw : r.toFw = false) :
    exec (.faultRecordPost c) s = .next ((s.unrecord c r).post c r) := by
  have htask := (State.taskOf_unrecord s c r).trans ht
  unfold State.unrecord at htask ⊢
  show execFaultRecordPost c s = _
  simp only [execFaultRecordPost, h, htask, hp, State.postBoth, hw, Bool.false_eq_true, if_false]

end post

/-! ## A record in the ring -/

section ring
variable (s : State) (c : CoreId) (r : FaultRec)

/-- What a record leaving the queue keeps of its core. -/
theorem State.core_unrecord_keep {α : Type} (g : Core → α) (hg : ∀ x l, g { x with faults := l } = g x) (k : CoreId) :
    g ((s.unrecord c r).core k) = g (s.core k) := State.core_modCore_keep s k c _ g (fun x => hg x _)

theorem State.recordBytes_unrecord : (s.unrecord c r).recordBytes r = s.recordBytes r := by
  have hnode : (s.unrecord c r).nodeNo r.unit = s.nodeNo r.unit :=
    congrArg (fun w : Word => w.toNat % 2 ^ 32) (s.core_unrecord_keep c r (fun x => x.nodeEntry _ _) (fun _ _ => rfl) _)
  rw [State.recordBytes, hnode]
  rfl

theorem State.ringFull_unrecord (a : Nat) : (s.unrecord c r).ringFull c a = s.ringFull c a := by
  rw [State.ringFull, s.core_unrecord_keep c r (fun x => x.bankAt (poolBank a)) (fun _ _ => rfl)]
  rfl

theorem State.ringNext_ringWrite (a : Nat) : ((s.ringWrite c r a).core c).ringNext = (s.core c).ringNext + 1 := by
  rw [State.ringWrite, State.core_modCore]

theorem State.sys_ringWrite {a : Nat} (ha : poolBank a < 48) : (((s.ringWrite c r a).core c).bankAt (poolBank a)).sys =
    ((s.core c).bankAt (poolBank a)).sys ++ [{ addr := a, bytes := s.recordBytes r, ring := true }] := by
  rw [State.ringWrite, State.core_modCore]
  exact congrArg Bank.sys (Core.bankAt_modBank (s.core c) _ ha)

end ring

section ring
variable {s : State} {c : CoreId} {r : FaultRec} {t : Task} {base : BitVec 22} (h : (s.core c).dueRecord? s.slot = some r) (hw : r.toFw = false)
  (ht : s.taskOf c = some t) (hp : t.phase = .running) (hf : t.lrec.fring = some base) (hc : (s.core c).controller? ≠ none)
include h hw ht hp hf hc

theorem exec_faultRecordPost_ring : exec (.faultRecordPost c) s =
    .next ((s.unrecord c r).postRing c r (ringPlace c base (s.core c).ringNext)) := by
  have hc' : ((s.unrecord c r).core c).controller? ≠ none := by
    rw [s.core_unrecord_keep c r Core.controller? (fun _ _ => rfl)]
    exact hc
  rw [exec_faultRecordPost_running h ht hp hw, State.post_ring r hc' ((State.taskOf_unrecord s c r).trans ht) hf,
    s.core_unrecord_keep c r Core.ringNext (fun _ _ => rfl)]

theorem exec_faultRecordPost_free {a : Nat} (ha : ringPlace c base (s.core c).ringNext = a) (hb : poolBank a < 48) (hfree : s.ringFull c a = false) :
    ∃ u, exec (.faultRecordPost c) s = .next u ∧ SameMem s u ∧ u.outbox = s.outbox ∧ (u.core c).ringNext = (s.core c).ringNext + 1 ∧
      ((u.core c).bankAt (poolBank a)).sys = ((s.core c).bankAt (poolBank a)).sys ++ [{ addr := a, bytes := s.recordBytes r, ring := true }] := by
  have hpost : (s.unrecord c r).postRing c r a = (s.unrecord c r).ringWrite c r a :=
    if_neg (by rw [State.ringFull_unrecord, hfree]; exact Bool.false_ne_true)
  have hex := exec_faultRecordPost_ring h hw ht hp hf hc
  rw [ha, hpost] at hex
  refine ⟨(s.unrecord c r).ringWrite c r a, hex, SameMem.of_mem rfl, rfl, ?_, ?_⟩
  · rw [State.ringNext_ringWrite, s.core_unrecord_keep c r Core.ringNext (fun _ _ => rfl)]
  · rw [State.sys_ringWrite _ _ _ hb, State.recordBytes_unrecord, s.core_unrecord_keep c r (fun x => x.bankAt (poolBank a)) (fun _ _ => rfl)]

theorem exec_faultRecordPost_full {a : Nat} (ha : ringPlace c base (s.core c).ringNext = a) (hfull : s.ringFull c a = true) :
    ∃ u, exec (.faultRecordPost c) s = .next u ∧ SameMem s u ∧ u.outbox.length = s.outbox.length + 1 ∧
      (u.core c).ringNext = (s.core c).ringNext := by
  have hpost : (s.unrecord c r).postRing c r a = (s.unrecord c r).toFirmware r := if_pos ((State.ringFull_unrecord ..).trans hfull)
  have hex := exec_faultRecordPost_ring h hw ht hp hf hc
  rw [ha, hpost] at hex
  refine ⟨(s.unrecord c r).toFirmware r, hex, SameMem.of_mem (State.mem_toFirmware ..), State.outbox_toFirmware .., ?_⟩
  rw [(told_toFirmware ..).core, s.core_unrecord_keep c r Core.ringNext (fun _ _ => rfl)]

end ring

/-! ## The clauses of a task's life -/

theorem State.dueHeads_nil {s : State} (h : ∀ q : Fin 64, (s.lq[q]).recs = []) : s.dueHeads = [] := by
  refine List.eq_nil_iff_forall_not_mem.mpr fun ⟨q, r⟩ hm => ?_
  have := (State.mem_dueHeads.mp hm).1
  rw [h q] at this
  cases this

/-- The gang that starts stands last among the tasks. -/
theorem State.tasks_startGang (s : State) (q : Nat) (r : LaunchRec) (l : List CoreId) (d : Nat) :
    (s.startGang q r l d).tasks = s.tasks ++ [s.gang r l] := congrArg (fun y => y.2.1) (s.sched_startGang q r l d)

theorem State.gang_starts {s u : State} {r : LaunchRec} {l : List CoreId} (h : u.tasks = s.tasks ++ [s.gang r l]) :
    u.tasks.length = s.tasks.length + 1 ∧ ∃ z ∈ u.tasks, z.lrec = r ∧ z.cores = l ∧ z.phase = .starting := by
  rw [h]
  exact ⟨List.length_append, s.gang r l, List.mem_append_right _ (List.mem_singleton.mpr rfl), rfl, rfl, rfl⟩

theorem State.resv_startGang {s : State} {v : Reservation} (h : s.resv = some v) (r : LaunchRec) (l : List CoreId) (d : Nat) :
    (s.startGang v.queue.toNat r l d).resv = none := by
  have hresv : (s.startGang v.queue.toNat r l d).resv = s.resv.filter (fun w => w.queue.toNat != v.queue.toNat) :=
    congrArg Prod.fst (s.sched_startGang v.queue.toNat r l d)
  rw [hresv, h]
  exact Option.filter_some_neg (by simp)

theorem State.tasks_raiseLmax (s : State) (q n : Nat) : (s.raiseLmax q n).tasks = s.tasks := by simp only [State.raiseLmax]

theorem State.resv_raiseLmax (s : State) (q n : Nat) : (s.raiseLmax q n).resv = s.resv := by simp only [State.raiseLmax]

theorem State.lqPtr_startGang (s : State) (q : Nat) (r : LaunchRec) (l : List CoreId) (d : Nat) : (s.startGang q r l d).lqPtr = s.lqPtr :=
  congrArg (fun y => y.2.2) (s.sched_startGang q r l d)

theorem State.core_leaveXbar (s : State) (id : TaskId) (c : CoreId) : (s.leaveXbar id).core c = s.core c := by
  simp only [State.leaveXbar, State.core]

theorem State.stopped_taskStop (s : State) (id : TaskId) (c : CoreId) :
    (((([c] : List CoreId).foldl (fun s c => (s.stopCore c).dropTwins c) s).leaveXbar id).core c).Stopped := by
  rw [State.core_leaveXbar, List.foldl_cons, List.foldl_nil]
  exact (s.stopped_stopCore c).of_fronts ((s.stopCore c).fronts_dropTwins c c)

theorem exec_firstIssue_effect {s : State} {id : TaskId} {t : Task} (ht : s.taskById id = some t) (hp : t.phase = .starting)
    (hs : t.startAt < s.slot) (hi : t.lrec.image = 0) : ∃ u z, exec (.firstIssue id) s = .next u ∧ SameMem s u ∧ u.taskById id = some z ∧
      z.phase = .running ∧ z.first = some (s.slot + 1) ∧ ∀ k ∈ t.cores, ∀ i : Tid, u.thr k i = t.lrec.thread i (s.slot + 1) := by
  have hex := exec_firstIssue ht hp hs hi
  have htask : (t.cores.foldl (State.issueCore t) s).taskById id = some t :=
    (State.foldl_issueCore_keep (fun u => u.taskById id) (fun _ _ _ => rfl) t s).trans ht
  have hmem : (t.cores.foldl (State.issueCore t) s).mem = s.mem := State.foldl_issueCore_keep State.mem (fun _ _ _ => rfl) t s
  have hthr : ∀ k ∈ t.cores, ∀ i : Tid, (t.cores.foldl (State.issueCore t) s).thr k i = t.lrec.thread i (s.slot + 1) :=
    fun _ hk i => State.thr_issued t s hk i
  generalize t.cores.foldl (State.issueCore t) s = u at hex htask hmem hthr
  refine ⟨u.modTask id (Task.issued (s.slot + 1)), t.issued (s.slot + 1), hex, SameMem.of_mem hmem, ?_, rfl, rfl, hthr⟩
  rw [State.taskById_modTask u id (Task.issued (s.slot + 1)) (fun _ => rfl), htask]
  rfl

theorem taskLife : TaskLife := by
  intro s id t c r
  refine ⟨?_, ?_, ?_, ?_, ?_, ?_, ?_, ?_, ?_, ?_, ?_, ?_, ?_, ?_, ?_⟩
  · intro hv hb hq
    exact exec_launchReservation hv hb (o := none) (by rw [State.dueHeads_nil hq]; rfl)
  · intro q r hv hb hr ht hw hs hlen hmax
    obtain ⟨before, l, after, hsets, hlt, hle, hl⟩ := s.reserveSet_first hs hlen
    refine ⟨before, l, after, hsets, hlt, hle, ?_⟩
    rw [exec_launchReservation hv hb (State.longest_dueHead hr ht hw hmax), Option.elim_some, State.reserveFor, hl]
    rfl
  · intro v r hb hv hh he hf
    refine ⟨_, exec_gangStart_reserved hb hv hh he hf, ?_⟩
    rw [State.resv_raiseLmax, State.tasks_raiseLmax]
    exact ⟨State.resv_startGang hv .., State.gang_starts (State.tasks_startGang ..)⟩
  · intro r l hb hv hh hm hfresh hd
    refine ⟨_, (exec_gangStart_drr hb hv).trans (congrArg Host.Outcome.next (State.drr_start hh hm hfresh hd)), ?_⟩
    rw [State.lqPtr_startGang]
    have hstart := State.gang_starts (s := s) (State.tasks_startGang (s.setDeficit s.lqPtr.val (vget s.lq s.lqPtr.val {}).def_) s.lqPtr.val r l
      ((vget s.lq s.lqPtr.val {}).def_ - r.cores))
    exact ⟨hstart.1, rfl, hstart.2⟩
  · intro r hb hv hh hm
    obtain ⟨d, hd⟩ := State.drr_next hh hm
    exact ⟨_, (exec_gangStart_drr hb hv).trans (congrArg Host.Outcome.next hd), rfl, rfl, rfl⟩
  · exact exec_firstIssue_effect
  · intro ht hp hw
    exact ⟨_, _, exec_wdogExpire ht hp hw, SameMem.of_mem (State.mem_stopTask ..), State.taskById_stopTask ht hp kWDOG, rfl⟩
  · exact exec_wdogExpire_early
  · intro ht hc kd n hp hn
    refine ⟨_, exec_taskStop ht hp hn, ?_⟩
    rw [hc]
    exact s.stopped_taskStop id c
  · intro ht kd n hp hn
    exact exec_taskStop_early ht hp hn
  · exact exec_taskEnd_running
  · intro ht hp hw
    refine ⟨_, exec_taskEnd ht hp hw, SameMem.of_mem (by rw [State.mem_freeCores, State.mem_endRecord]), State.task_freeCores _ t, ?_, ?_⟩
    · rw [← State.id_of_taskById ht]
      exact State.tasks_freeCores _ t
    · rw [State.outbox_freeCores, State.outbox_endRecord]
  · exact exec_faultRecordPost
  · exact exec_faultRecordPost_none
  · intro base h hw ht hp hf hc a hb
    exact ⟨exec_faultRecordPost_free h hw ht hp hf hc rfl hb, exec_faultRecordPost_full h hw ht hp hf hc rfl⟩

/-- Settles O58: LAUNCH at issue and at the queue, and the parts of a task's life. -/
theorem tasks : Obligations.Tasks := ⟨launchForms, launchCompletes, taskLife⟩

end Sys2Proof.Machine
end
